-- ==== Sys2Proof/Word.lean ====
section
/-! DEFINITION. Word.lean: the words the device is made of, index types, and the small data types that commands carry. -/

namespace Sys2Proof

/-- A 32-bit register word (R5). -/
abbrev Word := BitVec 32
/-- A byte of LPDDR5X, of the flash or of a transaction (R4). -/
abbrev Byte := BitVec 8
/-- A 64-bit quantity: two consecutive registers, low word first (R7). -/
abbrev Dword := BitVec 64

/-- Pin group g, 0 to 11. -/
abbrev Grp := Fin 12
/-- Pin p, 0 to 95: pin p mod 8 of group p div 8. -/
abbrev Pin := Fin 96
/-- Oction port, 0 A and 1 B. -/
abbrev Port := Fin 2
/-- LPDDR5X channel, 0 to 7. -/
abbrev Chan := Fin 8
/-- Converter A0 to A3. -/
abbrev Conv := Fin 4
/-- Result ring k, 0 to 15. -/
abbrev Ring := Fin 16
/-- Task context number n (R160). -/
abbrev CtxNo := Fin 4096

/-- The comparator's result (R45). -/
inductive Level where
  | L | H | M
  deriving DecidableEq, Repr

/-- The eight pin states in the order of their 3-bit code (R82). -/
inductive PinState where
  | D0 | D1 | DZ | DK | CL | CH | CM | CX
  deriving DecidableEq, Repr

/-- What link ECC says of a read access as its data arrives (R283). -/
inductive EccResult where
  | good | corrected | uncorrectable
  deriving DecidableEq, Repr

/-- What every command descriptor carries beside its operands (R313, R368): the port and tag of
its CMD transaction, the driver's CMD_ID, and whether a reserved or unused byte is not 0. -/
structure CmdHdr where
  port : Port
  tag : Byte
  cmdId : Dword
  dirty : Bool
  deriving DecidableEq, Repr

/-- What a received control frame carries beside its own words: the port it came on and its ACKSEQ, if that is valid (R305). -/
structure FrameHead where
  port : Port
  ack : Option Byte
  deriving DecidableEq, Repr

/-- What an INIT carries beside its credit counts: that ACKSEQ is valid, and its word of port and coding (R305). -/
structure InitTail where
  ackValid : Bool
  word : BitVec 2
  deriving DecidableEq, Repr

/-- What a lane of a port received in one symbol (R295, R297, R304): one that may be sent; a control symbol that is never
sent on a link lane; a code violation; a disparity or stuffing violation. -/
inductive LaneSym where
  | good
  | spare
  | code
  | stray
  deriving DecidableEq, Repr

/-- How a received frame is bad: its CRC does not match, and the symbols of the lanes on which it did not come clean (R295,
R297, R306). -/
structure BadFrame where
  crcMismatch : Bool
  lanes : List (Fin 4 × List LaneSym)
  deriving DecidableEq, Repr

/-- What POWER_ON_RESET says of PORST_N beside its low time: it rose before supplies and REFCLK were good (R346), or it is
still low, and a further row tells its rise. -/
structure PorstPin where
  early : Bool
  held : Bool
  deriving DecidableEq, Repr

/-- What CAL_STORE_COMMIT found: the temperatures of the sites, and the body as it was read back where that differs from what was
written (R358). -/
structure StoreEnd where
  temps : List Int
  readBack : Option (List Byte)
  deriving DecidableEq, Repr

/-- Where a parity error arose (R134, R395): nowhere (a TSET that meets an entry with VALID = 0), in program memory, or in
another internal memory of the block at base b × 2^16. -/
inductive ParityAt where
  | nowhere
  | program
  | block (b : Fin 65536)
  deriving DecidableEq, Repr

/-- A UI of the frame that a pin plays. -/
structure PinUi where
  pin : Pin
  ui : Fin 64
  deriving DecidableEq, Repr

/-- Operands of TASK_CREATE (R162). -/
structure TaskOps where
  image : Byte
  siteBase : Byte
  prio : Byte
  cflags : Byte
  delay : Word
  flags : Dword
  waitMask : Dword
  admitTimeout : Word
  linkHandle : Word
  linkMask : Dword
  userTag : Dword
  deriving DecidableEq, Repr

/-- A transaction as a DATA frame carries it (R312): 16-byte header, then data words. -/
structure Txn where
  ttype : Byte
  tag : Byte
  tlen : BitVec 16
  param : Word
  addr : Dword
  data : List Word
  deriving DecidableEq, Repr

/-- What one lane's comparator saw in a frame: the ball voltage at the strobe of each of the 64
UIs in units of 0.1 mV (a missing entry is 0 V), and the UIs in whose strobe window a comparator
change occurred (R45, R59). -/
structure LaneObs where
  volts : List Nat
  changed : BitVec 64
  deriving DecidableEq, Repr

/-- What step TDC measured of one LSB code of a pin (R378): the trials of its stage selection, each the largest code that
2^14 trial hits reached and the stages tried; the octants and the codes of the histogram's hits. -/
structure TdcHist where
  trials : List (Nat × Byte)
  octants : List Nat
  codes : List Nat
  deriving DecidableEq, Repr

/-- What a calibration unit measured (R373 to R380), in the terms its step is judged by. -/
inductive CalResult where
  /-- SOURCE: frequency in kHz, every octant visited (R373). -/
  | source (khz : Nat) (octants : Bool)
  /-- OCTANT: hits of the 8 octants (R374). -/
  | octant (hits : List Nat)
  /-- ADC: offsets (1/16 LSB) and gains (2^-24) of the 5 gain codes, bandgap in mV (R380). -/
  | adc (offsets : List Int) (gains : List Nat) (bandgapMv : Nat)
  /-- LEVELS: the 24 level-DAC trim words of the group and the comparator trims of its pins (R380). -/
  | levels (trims : List Word) (cmp : List Word)
  /-- DELAY: for each of the five lines the hits of its 8 × 68 taps, segment by segment (R377). -/
  | delay (lines : List (List Nat))
  /-- TDC: what was measured of each of the 8 LSB codes (R378). -/
  | tdc (codes : List TdcHist)
  /-- BALL: octant hits; of the 16 pairs the rms spread in fs and the mean less the injection time (TDC_ZERO); drive and
  compare path delays in fs (R379). -/
  | ball (hits spreads : List Nat) (zero : List Int) (drvFs cmpFs : Int)
  /-- LINK: LNK_TS_DELAY of both ports, signed ps (R380). -/
  | link (delays : List Int)
  deriving DecidableEq, Repr

end Sys2Proof
end

