-- ==== Sys2Proof/Syntax.lean ====
section
/-! DEFINITION. Syntax.lean: the commands of the block, one constructor per row of spec/opcode_table.json.
The table gives no operand fields; the operands are the model's (log entry 1). `q tag` are the port and tag of a
host transaction, `h` the header of a command descriptor. `now` of DELAY_REQ: the frame meets nothing before it and leaves
in this core cycle. `volts1` to `volts3` of ADC_SAMPLE: the conversions of the row in their
order, in three parts, any of which may be empty. `head` and `data` of SB_WRITE: its edges in two
parts; `flash` and `more` of CONFIG_IMAGE_APPLIED: what the board's flash holds, in two parts. -/

namespace Sys2Proof

inductive Instr where
  -- resets and start-up
  | powerOnReset (lowNs : Nat) (straps : BitVec 4) (pin : PorstPin)
  | systemReset (lowNs : Nat) (straps : BitVec 4)
  | devReset (h : CmdHdr)
  | commandResetStart
  | masterPllLock (draw : Fin 4294967295)
  | pllLockTimeout
  | pllUnlock
  | refclkLoss
  | refclkRange (ppm : Int)
  | tjHigh (site : Fin 4) (deciC : Int)
  | tjTrip (site : Fin 4) (deciC : Int)
  | flashReadyPoll (sfdpOk quad : Bool) (densityMb : Nat)
  | nvmTimeout
  | spiReadTimeout
  | configImageApplied (flash more : List (Nat × List Byte))
  -- calibration and training
  | calUnitDone (unit : Nat) (r : CalResult)
  | calUnitTimeout (unit : Nat)
  | calStepDone (temps : List Int)
  | calRun (h : CmdHdr) (steps groups : BitVec 16) (hitsLog2 : Byte)
  | calStore (h : CmdHdr)
  | calStoreCommit (store : StoreEnd)
  | calDrift (temps : List Int)
  | trainFspDone (fsp : Fin 2) (failed : Byte) (eyes : List Word)
  | memRetrain (h : CmdHdr) (mask : Byte)
  -- link: physical layer and bring-up
  | clockCheckWindow (q : Port) (clockSeen : Bool) (ppm : Int)
  | bringupStepDone (q : Port) (phases arrivals : List Nat)
  | bringupTimeout (q : Port)
  | autoCodingSwitch (q : Port)
  | initReceived (q : Port) (cc0 cc1 cc2 : BitVec 16) (tail : InitTail)
  | linkMarkerReceived (q : Port) (lane : Fin 4) (laneNum count : Byte)
  | linkMarkerTimeout (q : Port) (lane : Fin 4)
  | mfSweepDone (q : Port) (lane : Fin 4) (zeroError : BitVec 128)
  -- link: frames
  | dataFrameReceived (q : Port) (seq : Byte) (cls : BitVec 2) (ack : Option Byte) (t : Txn)
  | badFrameReceived (q : Port) (bad : BadFrame)
  | ackReceived (q : Port) (ack : Option Byte)
  | nakReceived (q : Port) (ack : Option Byte)
  | creditReceived (head : FrameHead) (cc0 cc1 cc2 : BitVec 16)
  | resumeReceived (head : FrameHead) (lastRx : Byte) (rxValid : Bool)
  | replayTimeout (q : Port)
  | nakResendTimeout (q : Port)
  | creditTimer (q : Port)
  | resumeTimeout
  | dataFrameSend (q : Port)
  | notifyHoldExpiry (q : Port)
  -- transactions
  | regWr (q : Port) (tag : Byte) (addr : Dword) (words : List Word)
  | regRd (q : Port) (tag : Byte) (addr : Dword) (n : BitVec 16)
  | blkWr (q : Port) (tag : Byte) (addr : Dword) (bytes : List Byte)
  | blkRd (q : Port) (tag : Byte) (addr : Dword) (lines : BitVec 16)
  | ringAck (q : Port) (tag : Byte) (k : Ring) (value : Dword)
  | ringAckWrite (q : Port) (tag : Byte) (k : Ring) (value : Dword)
  -- time
  | syncMessage (q : Port) (seqid : BitVec 16) (route : Byte) (clean : Bool) (sub : BitVec 16)
  | follow (q : Port) (seqid : BitVec 16) (route : Byte) (t1 : Dword) (frac : BitVec 16) (clean : Bool)
  | delayReq (q : Port) (now : Bool)
  | delayResp (q : Port) (seqid : BitVec 16) (devnum : BitVec 9) (t4 : Dword) (frac : BitVec 16) (clean : Bool)
  | exchangeMissed
  | rateFold
  | timeHoldEnd
  | timeRearm (h : CmdHdr)
  | timeAlign (h : CmdHdr)
  | syncinEdge (half : Bool) (high : Nat)
  | trigIn (j : Fin 4) (half : Bool) (high : Nat)
  | syncinLong (i : Fin 5)
  | inputRearm (i : Fin 5)
  | trigFire (i : Fin 4)
  | timTrigArm (q : Port) (tag : Byte) (i : Fin 4) (value : Word)
  | syncoutPulse (q : Port) (tag : Byte) (value : Word)
  | asymUncertainClear (q : Port) (tag : Byte) (value : Word)
  -- events, snapshots, commands
  | eventAccept
  | linkWrite
  | snapshot (h : CmdHdr)
  | snapshotFrameWritten
  | snapRelease (h : CmdHdr) (handle : BitVec 16)
  | commandStart
  | negotiateCommit (h : CmdHdr) (driverVer : Word)
  | devQuiesce (h : CmdHdr)
  | devResume (h : CmdHdr)
  | devLowpower (h : CmdHdr)
  | devWake (h : CmdHdr)
  | wakeDone
  | imageLoad (h : CmdHdr) (base : Dword)
  | imageCheckDone (uncorrectable : Option Nat)
  | imageUnload (h : CmdHdr) (handle : Byte)
  | taskCreate (h : CmdHdr) (ops : TaskOps)
  | taskCancel (h : CmdHdr) (handle : Word)
  | taskFlags (h : CmdHdr) (handle : Word) (set clr : Dword)
  | taskPrio (h : CmdHdr) (handle : Word) (prio : Byte)
  | memFsp (h : CmdHdr) (target flags : Byte)
  -- scheduler
  | tickBoundary
  | tskAgeLimitWrite (q : Port) (tag : Byte) (value : Word)
  | tskCtxSel (q : Port) (tag : Byte) (value : Word)
  | admissionPass
  | admitTimeout (n : CtxNo)
  | freezeDone (n : CtxNo)
  | thawDone (n : CtxNo) (uncorrectable : Bool)
  | preloadEnd (n : CtxNo)
  | burstStart (n : CtxNo)
  | taskDrainDone (n : CtxNo)
  | coreLoadWindow
  -- sequence words and the burst
  | seg (g : Grp)
  | frames (g : Grp)
  | loop (g : Grp)
  | endl (g : Grp)
  | jmp (g : Grp)
  | jcond (g : Grp)
  | jcondTimeout (g : Grp)
  | mode (g : Grp)
  | tset (g : Grp)
  | pslot (g : Grp)
  | armt (g : Grp)
  | adct (g : Grp)
  | setf (g : Grp)
  | waitf (g : Grp)
  | waitfResume (g : Grp)
  | waitTimeout (g : Grp)
  | capm (g : Grp)
  | sync (g : Grp)
  | syncHoldEnd (g : Grp)
  | syncTimeout (g : Grp)
  | endWord (g : Grp)
  | frameBoundary (g : Grp)
  | underrun (g : Grp)
  | stall (g : Grp)
  | stallResume (g : Grp)
  | seqFault (g : Grp) (parity : ParityAt)
  | compareResultsComplete (g : Grp) (obs : List LaneObs)
  | firnLineFilled (g : Grp)
  | fckLock (g : Grp) (phases : List Int)
  | fckUnlock (g : Grp) (phases : List Int)
  | checkerSync (p : Pin)
  | checkerSyncLost (p : Pin)
  | laneMarkerReceived (p : Pin) (laneNum : Byte) (arrivalUi : Nat)
  | markerTimeout (p : Pin)
  | pinChkClear (q : Port) (tag : Byte) (p : Pin) (value : Word)
  -- capture and results
  | recordAdmission (src : Fin 15)
  | envelopeWindow (n : CtxNo)
  | ringLineWrite (k : Ring)
  | flushTimeout (k : Ring)
  | ringLineCommit (k : Ring)
  | pushMaxage (k : Ring)
  | ringEnable (q : Port) (tag : Byte) (k : Ring) (value : Word)
  | ringDisable (q : Port) (tag : Byte) (k : Ring) (value : Word)
  -- time-interval measurement
  | tdcStart (start : PinUi)
  | tdcStop (p : Pin) (coarse fine : Nat)
  | tdcResult (p : Pin)
  | tdcWindowClose (p : Pin)
  | tdcDeadTimeEnd (p : Pin)
  | tdcSnapGo (q : Port) (tag : Byte) (value : Word)
  | tdcSnapDone
  -- parametric monitor
  | adcSample (k : Conv) (volts1 volts2 volts3 : List Int)
  | adcSampleJudged (k : Conv)
  | xcmpCrossing (x : Fin 16) (volts : Int)
  | adcTimer (k : Conv)
  | adcLaunch (q : Port) (tag : Byte) (k : Conv) (value : Word)
  | adcArm (q : Port) (tag : Byte) (k : Conv) (value : Word)
  | adcDisarm (q : Port) (tag : Byte) (k : Conv) (value : Word)
  | adcSequenceEnd (k : Conv)
  | adcSnapGo (q : Port) (tag : Byte) (value : Word)
  | adcMuxselWrite (q : Port) (tag : Byte) (value : Word)
  -- check-value units
  | crcInit (q : Port) (tag : Byte) (u : Fin 32) (value : Word)
  | crcDmaGo (q : Port) (tag : Byte) (u : Fin 32) (value : Word)
  | crcDone (u : Fin 32) (uncorrectable : Option Nat)
  | crcData32 (q : Port) (tag : Byte) (u : Fin 32) (value : Word)
  | crcData8 (q : Port) (tag : Byte) (u : Fin 32) (value : Word)
  | crcModeWrite (q : Port) (tag : Byte) (value : Word)
  | crcRestore (q : Port) (tag : Byte) (u : Fin 32) (bits : Bool) (value : Dword)
  -- sideband responders
  | sbRead (n : Fin 3) (edges : List (Bool × Bool))
  | sbWrite (n : Fin 3) (head data : List (Bool × Bool))
  | sbAbort (n : Fin 3)
  | sbFrameTimeout (n : Fin 3)
  | sbClockWindow (n : Fin 3) (khz minPhasePs : Nat)
  | sbrDisable (q : Port) (tag : Byte) (n : Fin 3) (value : Word)
  | sbrHitClear (q : Port) (tag : Byte) (n : Fin 3) (i : Fin 8) (value : Word)
  | sbrTableWrite (q : Port) (tag : Byte) (n : Fin 3) (e : Byte) (value : Word)
  -- memory controller
  | memSlot (ch : Chan) (mr4 : List (BitVec 5)) (odecc : List Byte)
  | memReadData (ch : Chan) (ecc : EccResult)
  | refresh (ch : Chan)
  | fspSwitchDone (ns : Nat)
  | autoFspTimer
  | selfRefreshEntry
  | selfRefreshExit (latencyNs : Nat)
  | memMitigWrite (q : Port) (tag : Byte) (value : Word)
  -- event counters
  | evtCntCfgWrite (q : Port) (tag : Byte) (i : Fin 64) (value : Word)
  | counterFreeze (q : Port) (tag : Byte) (value : Word)
  | clearAll (q : Port) (tag : Byte) (value : Word)
  -- test access port and late rows
  | faultread
  | extest
  | lossOfCommaAlignment (q : Port) (lane : Fin 4) (syms : List LaneSym)
  | tjHighRearm (site : Fin 4) (deciC : Int)
  | testLogicReset
  deriving DecidableEq, Repr

end Sys2Proof
end

