-- ==== Sys2Proof/WellFormed.lean ====
section
/-! DEFINITION. WellFormed.lean: operands that the hardware can meet. The machine is defined on every command; what is
ill formed here names a unit, list length or magnitude that no B1 produces. -/

namespace Sys2Proof

/-- Bytes of a block write: whole words that TLEN can count (R313). -/
def blkBytesOk (n : Nat) : Bool := decide (n < 65536) && n % 4 == 0
/-- Words of a register write that TLEN can count (R313). -/
def regWordsOk (n : Nat) : Bool := decide (n < 65536)
/-- Observations of at most nine lanes, each of at most 64 strobes (R45, R59). -/
def obsOk (obs : List LaneObs) : Bool := decide (obs.length ≤ 9) && obs.all (fun o => decide (o.volts.length ≤ 64))
/-- Phases of the last 16 frames (R67). -/
def phasesOk (ps : List Int) : Bool := ps.length == 16
/-- Per-lane values of a port (R293). -/
def lanesOk (xs : List Nat) : Bool := decide (xs.length ≤ 4)
/-- Temperatures of the four sites (R386). -/
def tempsOk (ts : List Int) : Bool := ts.length == 4
/-- Eye widths of 18 wires on eight channels (R292). -/
def eyesOk (es : List Word) : Bool := es.length == 144
/-- A unit of a calibration step: lanes 0 to 107 at most (R376). -/
def calUnitOk (u : Nat) : Bool := decide (u < 108)
/-- A measured calibration result has the listed numbers of entries (R374 to R380). -/
def CalResult.ok : CalResult → Bool
  | .source _ _ => true
  | .octant hits => hits.length == 8
  | .adc offsets gains _ => offsets.length == 5 && gains.length == 5
  | .levels trims cmp => trims.length == 24 && decide (cmp.length ≤ 9)
  | .delay lines => lines.length == 5 && lines.all (fun l => l.length == 544)
  | .tdc codes => codes.length == 8 && codes.all (fun x => x.octants.length == 8)
  | .ball hits spreads zero _ _ => hits.length == 8 && spreads.length == 16 && zero.length == 16
  | .link delays => delays.length == 2
/-- Flash contents: chunks inside 64 MiB (R350). -/
def flashOk (ps : List (Nat × List Byte)) : Bool := ps.all (fun p => decide (p.1 + p.2.length ≤ 2 ^ 26))
/-- A density that the SFDP table can state (R350). -/
def densityOk (mb : Nat) : Bool := decide (mb < 65536)

/-- A command whose operands the hardware can meet. -/
def Instr.wf : Instr → Bool
  | .flashReadyPoll _ _ mb => densityOk mb
  | .configImageApplied flash _ => flashOk flash
  | .calUnitDone u r => calUnitOk u && r.ok
  | .calUnitTimeout u => calUnitOk u
  | .calStepDone temps => tempsOk temps
  | .calStoreCommit store => tempsOk store.temps
  | .memSlot _ mr4 odecc => decide (mr4.length ≤ 8) && decide (odecc.length ≤ 8)
  | .calDrift temps => tempsOk temps
  | .trainFspDone _ _ eyes => eyesOk eyes
  | .bringupStepDone _ phases arrivals => lanesOk phases && lanesOk arrivals
  | .regWr _ _ _ words => regWordsOk words.length
  | .blkWr _ _ _ bytes => blkBytesOk bytes.length
  | .dataFrameReceived _ _ _ _ t => regWordsOk t.data.length
  | .compareResultsComplete _ obs => obsOk obs
  | .fckLock _ phases => phasesOk phases
  | .fckUnlock _ phases => phasesOk phases
  | _ => true

end Sys2Proof
end

