-- ==== Sys2Proof/Decode.lean ====
section
/-! DEFINITION. Decode.lean: words of the opcode table. The table of this block gives no row any bits: its commands are
events, time-outs and transactions, which no numbered word spells (log entry 1). -/

namespace Sys2Proof

/-- The command that a table word spells: none, since no row of the table has bits. -/
def decodeTableWord (_nbits _w : Nat) : Option Instr := none

end Sys2Proof
end

