-- ==== Sys2Proof/Config.lean ====
section
/-! DEFINITION. Config.lean: what one B1 device fixes, and the free values of what the manual leaves open. -/

namespace Sys2Proof

/-- FREE VALUE (log entry 4): what the device does where the manual allows either of several
outcomes. It is applied to State.free, which the step that uses it advances. -/
opaque Config.freeValue : Nat → BitVec 64

/-- FREE VALUE (log entry 5): the fast-ring stage selection by design of a lane and LSB code, at index 8 × lane + code,
which the manual does not give (R382). -/
opaque Config.designStage : Nat → BitVec 8

/-- DEV_ID of every BYM-9612-B1 (R1). -/
def Config.devId : Word := 0x00009612
/-- DEV_STEP of stepping B1 (R1). -/
def Config.devStep : Word := 0x00000021
/-- Features that B1 implements: bits 0 to 15 and 40 (R362). -/
def Config.implemented : BitVec 128 := 0x1000000FFFF
/-- Limits of the device's receive credits: posted 32, request 64, completion 0 (R309). -/
def Config.creditLimit : Nat → Nat
  | 0 => 32
  | 1 => 64
  | _ => 0
/-- Moraine tags (R201). -/
def Config.tags : Nat := 131072
/-- Lines of one group's Firn (R96). -/
def Config.firnLines : Nat := 32768
/-- Largest resident region in lines: 3 MiB (R96). -/
def Config.maxResident : Nat := 24576
/-- Bytes of one LPDDR5X access (R271). -/
def Config.line : Nat := 128

end Sys2Proof
end

