-- ==== Sys2Proof/Machine/RegMap.lean ====
section
/-! DEFINITION. RegMap.lean: the register map (R401 to R404): which addresses are defined, which of their bits
a write changes, which a write of 1 clears, which a read clears, and the Reset column. -/

namespace Sys2Proof.Machine

/-- One register, or array of registers, of a register table. Bit sets are over all its words, word 0 lowest. -/
structure RegRow where
  /-- address of the first word of entry 0 -/
  base : Nat
  /-- (count, stride) of each index, widest stride first (R402) -/
  dims : List (Nat × Nat) := []
  words : Nat := 1
  /-- a RW 64-bit pair (R405) -/
  pair : Bool := false
  /-- bits of type RW -/
  rw : Nat := 0
  /-- bits of type W1C or RS that a write of 1 to the bit clears -/
  clr : Nat := 0
  /-- bits of type RCL -/
  rcl : Nat := 0
  /-- SNAP class: a read returns the last epoch (R8) -/
  snap : Bool := false
  reset : Nat := 0
  deriving DecidableEq, Repr

/-- Where an address falls in a register row: the indices of the entry and the word within it. -/
def RegRow.place (r : RegRow) (a : Nat) : Option (List Nat × Nat) :=
  if a < r.base then none else go r.dims (a - r.base) []
where
  go : List (Nat × Nat) → Nat → List Nat → Option (List Nat × Nat)
    | [], d, ix => if d < 4 * r.words ∧ d % 4 = 0 then some (ix.reverse, d / 4) else none
    | (n, st) :: ds, d, ix => if d / st < n then go ds (d % st) (d / st :: ix) else none

/-- 2^n − 1 -/
def ones (n : Nat) : Nat := 2 ^ n - 1
/-- A field of bits hi to lo, all ones. -/
def fld (hi lo : Nat) : Nat := (2 ^ (hi - lo + 1) - 1) * 2 ^ lo

/-- A 32-bit RCL counter. -/
def rclRow (base : Nat) (dims : List (Nat × Nat) := []) : RegRow :=
  { base := base, dims := dims, rcl := ones 32 }
/-- A 64-bit SNAP ledger register. -/
def snapRow (base : Nat) (dims : List (Nat × Nat) := []) (reset : Nat := 0) : RegRow :=
  { base := base, dims := dims, words := 2, snap := true, reset := reset }
/-- Read-only words. -/
def roRow (base : Nat) (words : Nat := 1) (dims : List (Nat × Nat) := []) (reset : Nat := 0) : RegRow :=
  { base := base, dims := dims, words := words, reset := reset }

/-- R364, R408: identity, features. -/
def rowsId : List RegRow :=
  [ roRow 0x00000000 1 [] 0x9612, roRow 0x00000004 1 [] 0x21, roRow 0x00000008, roRow 0x0000000C,
    roRow 0x00000018 2, roRow 0x00000020 4 [] 0x1000000FFFF,
    { base := 0x00000030, words := 4, rw := fld 15 0 + fld 40 40 }, roRow 0x00000040 4 ]
/-- R364, R408: device state and commands. -/
def rowsDev : List RegRow :=
  [ roRow 0x00010000, roRow 0x00010004 1 [] 0x80000000, roRow 0x00010008, roRow 0x0001000C, roRow 0x00010010 5,
    rclRow 0x00010024, roRow 0x00010040, roRow 0x00010044, roRow 0x00010048,
    { base := 0x0001004C, rcl := ones 6 } ]
/-- R409: Cirque and snapshots. -/
def rowsEvt : List RegRow :=
  [ roRow 0x00020000 2, { base := 0x00020008, clr := fld 31 31 }, roRow 0x00020010 2, roRow 0x00020018 2,
    roRow 0x00020020 2, roRow 0x00020028, rclRow 0x0002002C, roRow 0x00020030 2 ]
def gDim : Nat × Nat := (12, 0x10000)
def pinDim : Nat × Nat := (8, 0x800)
/-- R49, R53, R65, R80, R81, R102: pin groups. -/
def rowsGrp : List RegRow :=
  [ { base := 0x00100000, dims := [gDim, (4, 8)], words := 2, pair := true, rw := ones 64, reset := 2 ^ 39 },
    { base := 0x00100020, dims := [gDim], rw := fld 27 16 + fld 11 0, reset := 0x0FA00000 },
    { base := 0x00100024, dims := [gDim], rw := fld 11 0, reset := 0x07D0 },
    roRow 0x00100028 1 [gDim],
    { base := 0x0010002C, dims := [gDim], rw := fld 31 26, reset := 0x04000000 },
    { base := 0x00100030, dims := [gDim], rw := fld 27 16 + fld 11 0, reset := 0x051403E8 },
    roRow 0x00100038 1 [gDim],
    { base := 0x0010003C, dims := [gDim], rcl := ones 32 },
    roRow 0x00100040 1 [gDim],
    roRow 0x00100100 1 [gDim] 0x80000000, roRow 0x00100104 1 [gDim], roRow 0x00100108 1 [gDim] 0xFFFFFF,
    rclRow 0x0010010C [gDim],
    snapRow 0x00100110 [gDim] 0x8000, snapRow 0x00100118 [gDim], snapRow 0x00100120 [gDim],
    snapRow 0x00100128 [gDim], snapRow 0x00100130 [gDim], snapRow 0x00100138 [gDim],
    snapRow 0x00100140 [gDim] 0x8000 ]
/-- R136: group sequencers. -/
def rowsSeq : List RegRow :=
  [ roRow 0x00100200 1 [gDim], roRow 0x00100204 1 [gDim] 0xFFFF0000, roRow 0x00100208 1 [gDim],
    roRow 0x00100210 2 [gDim], roRow 0x00100220 8 [gDim],
    rclRow 0x00100240 [gDim, (6, 4)],
    roRow 0x00100258 2 [gDim], roRow 0x00100260 2 [gDim], roRow 0x00100268 2 [gDim],
    roRow 0x00100270 1 [gDim], roRow 0x00100274 1 [gDim], roRow 0x00100278 1 [gDim], roRow 0x0010027C 1 [gDim],
    roRow 0x00100280 8 [gDim] ]
/-- R56, R57: timing sets: header, edge words A, B and C of the nine lanes, four reserved words. -/
def rowsTset : List RegRow :=
  [ { base := 0x00102000, dims := [gDim, (64, 0x80)], rw := fld 31 31 + fld 1 0 },
    { base := 0x00102004, dims := [gDim, (64, 0x80), (9, 12), (2, 4)], rw := fld 29 16 + fld 13 0 },
    { base := 0x0010200C, dims := [gDim, (64, 0x80), (9, 12)], rw := fld 13 0 },
    roRow 0x00102070 4 [gDim, (64, 0x80)] ]
/-- R50, R62, R70, R72, R73, R79, R80, R404: pin sub-blocks. -/
def rowsPin : List RegRow :=
  [ { base := 0x00108000, dims := [gDim, pinDim], rw := fld 27 16 + fld 11 0, reset := 0x051403E8 },
    { base := 0x00108004, dims := [gDim, pinDim], rw := fld 31 28 + fld 25 23, reset := 0x81000000 },
    roRow 0x00108008 1 [gDim, pinDim], roRow 0x0010800C 1 [gDim, pinDim],
    { base := 0x00108010, dims := [gDim, pinDim], rw := fld 31 28 + fld 26 0 },
    { base := 0x00108014, dims := [gDim, pinDim], rw := ones 32 },
    { base := 0x00108018, dims := [gDim, pinDim], words := 2, pair := true, rw := ones 64 },
    { base := 0x00108020, dims := [gDim, pinDim], words := 2, pair := true, rw := ones 64 },
    roRow 0x00108028 6 [gDim, pinDim],
    { base := 0x00108040, dims := [gDim, pinDim], words := 8, rw := ones 256 },
    { base := 0x00108060, dims := [gDim, pinDim], rw := fld 31 28 + fld 26 22 + fld 15 8 },
    { base := 0x00108064, dims := [gDim, pinDim] },
    roRow 0x00108068 2 [gDim, pinDim], roRow 0x00108070 2 [gDim, pinDim], roRow 0x00108078 1 [gDim, pinDim],
    roRow 0x0010807C 1 [gDim, pinDim] ]
/-- R187: task scheduler. -/
def rowsTsk : List RegRow :=
  [ { base := 0x00200000, rw := ones 32, reset := 1000 }, { base := 0x00200004, rw := ones 32, reset := 1000000 },
    { base := 0x00200008, rw := ones 4 }, roRow 0x00200010 2 [(4, 8)],
    snapRow 0x00200040 [(8, 8)], rclRow 0x00200080 [(6, 4)],
    { base := 0x00200098, rw := ones 32, reset := 0xFFFFFFFF }, roRow 0x0020009C, roRow 0x002000A0,
    roRow 0x00200100 8, { base := 0x00200120, dims := [(8, 4)], rcl := ones 13 },
    snapRow 0x00200200 [(12, 8)], roRow 0x00200280 12,
    rclRow 0x00200400 [(8, 64), (16, 4)], roRow 0x00200800 4 [(512, 16)], roRow 0x00203000 64 ]
def siteDim : Nat × Nat := (128, 0x40)
def mlaneDim : Nat × Nat := (108, 0x20)
def ringDim : Nat × Nat := (16, 0x40)
/-- R210: Moraine. -/
def rowsMor : List RegRow :=
  [ { base := 0x00210000, rw := ones 16, reset := 1000 }, snapRow 0x00210008 [] 131072, snapRow 0x00210010 [(11, 8)],
    { base := 0x00210068, rcl := ones 18 },
    snapRow 0x00211000 [siteDim, (6, 8)], roRow 0x00211030 2 [siteDim], roRow 0x00211038 1 [siteDim],
    { base := 0x0021103C, dims := [siteDim], rw := ones 4 },
    roRow 0x00214000 8 [mlaneDim],
    { base := 0x00216000, dims := [ringDim], words := 2, pair := true, rw := ones 64 },
    { base := 0x00216008, dims := [ringDim], rw := fld 31 30 + fld 21 16, reset := 0x00100000 },
    { base := 0x0021600C, dims := [ringDim], rw := ones 18, reset := 8192 },
    roRow 0x00216010 2 [ringDim],
    { base := 0x00216018, dims := [ringDim], words := 2, pair := true, rw := ones 64 },
    roRow 0x00216020 2 [ringDim],
    { base := 0x00216028, dims := [ringDim], rw := ones 32, reset := 0x0040000A },
    { base := 0x0021602C, dims := [ringDim], clr := fld 30 30 } ]
def tdcDim : Nat × Nat := (96, 0x100)
/-- R227, R228: TDC. The words of a pin's 64 (R403) that R228 does not list, at 0x24, 0x38 and 0x3C, are reserved words that
read 0 (DESIGN CHOICE, log entry 88). -/
def rowsTdc : List RegRow :=
  [ { base := 0x00220000, words := 3, rw := ones 96 }, { base := 0x0022000C }, roRow 0x00220010, roRow 0x00220018 2,
    { base := 0x00221000, dims := [tdcDim], clr := fld 27 27, reset := 0x00010000 },
    roRow 0x00221004 1 [tdcDim], roRow 0x00221008 2 [tdcDim], roRow 0x00221010 2 [tdcDim],
    roRow 0x00221018 4 [tdcDim], roRow 0x00221028 6 [tdcDim], roRow 0x00221040 13 [tdcDim],
    rclRow 0x00221074 [tdcDim, (3, 4)], snapRow 0x00221080 [tdcDim, (5, 8)],
    roRow 0x002210A8 22 [tdcDim] ]
/-- R231, R241, R244, R246, R248: parametric monitor. -/
def rowsAdc : List RegRow :=
  [ { base := 0x00230000, rw := fld 31 24 + fld 20 16 + fld 2 0 }, { base := 0x00230004 },
    { base := 0x00230008, words := 2, pair := true, rw := ones 64 }, roRow 0x00230010, roRow 0x00230018 2,
    { base := 0x00230100, dims := [(4, 0x100)], words := 16, rw := ones 512 },
    { base := 0x00230140, dims := [(4, 0x100)] }, roRow 0x00230144 1 [(4, 0x100)],
    rclRow 0x00230148 [(4, 0x100), (3, 4)], snapRow 0x00230158 [(4, 0x100), (5, 8)],
    roRow 0x00230600 1 [(16, 0x10)], rclRow 0x00230604 [(16, 0x10)],
    roRow 0x00230608 2 [(16, 0x10)],
    roRow 0x00231000 11 [(64, 0x40)], { base := 0x0023102C, dims := [(64, 0x40)], clr := fld 30 30 },
    roRow 0x00231030 4 [(64, 0x40)] ]
def crcDim : Nat × Nat := (32, 0x80)
/-- R257: check-value units. -/
def rowsCrc : List RegRow :=
  [ { base := 0x00240000, rw := 1 },
    { base := 0x00240100, dims := [crcDim], rw := fld 31 25 + fld 23 20 + fld 14 8, reset := 0x34000000 },
    { base := 0x00240108, dims := [crcDim], words := 2, pair := true, rw := ones 64, reset := 0x1EDC6F41 },
    { base := 0x00240110, dims := [crcDim, (2, 8)], words := 2, pair := true, rw := ones 64, reset := 0xFFFFFFFF },
    { base := 0x00240120, dims := [crcDim] }, { base := 0x00240124, dims := [crcDim], clr := fld 29 29 },
    { base := 0x00240128, dims := [crcDim], words := 2, pair := true, rw := ones 64 },
    { base := 0x00240130, dims := [crcDim], rw := ones 32 },
    { base := 0x00240134, dims := [crcDim] }, { base := 0x00240138, dims := [crcDim] },
    { base := 0x00240140, dims := [crcDim], words := 2, pair := true, rw := ones 64 },
    roRow 0x00240148 2 [crcDim],
    { base := 0x00240150, dims := [crcDim], words := 2, pair := true, rw := ones 64 },
    roRow 0x00242000 4 [(3, 16)] ]
def sbDim : Nat × Nat := (3, 0x1000)
/-- R267: sideband responders. -/
def rowsSbr : List RegRow :=
  [ { base := 0x00250000, dims := [sbDim], rw := fld 31 27 + fld 22 16 + fld 7 0, reset := 0x1000000A },
    { base := 0x00250004, dims := [sbDim], clr := fld 29 29 }, rclRow 0x00250008 [sbDim, (3, 4)],
    { base := 0x00250020, dims := [sbDim, (8, 4)], clr := ones 32 },
    { base := 0x00250400, dims := [sbDim, (256, 4)], rw := ones 32 } ]
def chDim : Nat × Nat := (8, 0x100)
/-- R291, R292: memory controller. -/
def rowsMem : List RegRow :=
  [ roRow 0x00300000, roRow 0x00300004 1 [] 0x10000000,
    { base := 0x00300008, rw := fld 31 31 + fld 15 0, reset := 0x80000064 },
    { base := 0x0030000C, rw := ones 5, reset := 11 }, { base := 0x00300010, rw := ones 16, reset := 1000 },
    rclRow 0x00300014 [(5, 4)], roRow 0x00300030 2 [(2, 8)],
    roRow 0x00301000 1 [chDim], snapRow 0x00301008 [chDim, (10, 8)],
    { base := 0x00301058, dims := [chDim], rcl := ones 5 }, rclRow 0x0030105C [chDim, (3, 4)],
    roRow 0x00301068 1 [chDim], roRow 0x00301080 18 [chDim] ]
def portDim : Nat × Nat := (2, 0x1000)
/-- R323, R324: link. -/
def rowsLnk : List RegRow :=
  [ { base := 0x00310000, rw := fld 31 29 + fld 15 0 }, { base := 0x00310004, rw := ones 32, reset := 0x800007D0 },
    { base := 0x00310008, rw := ones 16, reset := 4000 },
    { base := 0x0031000C, rw := fld 14 8 + fld 6 0, reset := 0x0818 }, roRow 0x00310010,
    rclRow 0x00310014 [(2, 4)],
    roRow 0x00311000 1 [portDim], roRow 0x00311004 1 [portDim], rclRow 0x00311008 [portDim, (10, 4)],
    snapRow 0x00311100 [portDim] 32, snapRow 0x00311120 [portDim] 64, snapRow 0x00311140 [portDim] 0,
    snapRow 0x00311108 [portDim, (3, 0x20), (2, 8)],
    snapRow 0x00311118 [portDim] 32, snapRow 0x00311138 [portDim] 64, snapRow 0x00311158 [portDim] 0,
    roRow 0x00311180 3 [portDim],
    roRow 0x00311200 1 [portDim, (4, 0x10)] 0x00400000, roRow 0x00311204 1 [portDim, (5, 0x10)],
    { base := 0x00311208, dims := [portDim, (4, 0x10)], rcl := ones 7, reset := 127 },
    rclRow 0x0031120C [portDim, (4, 0x10)],
    roRow 0x00311240 1 [portDim], roRow 0x00311248 2 [portDim] ]
/-- R344: time. -/
def rowsTim : List RegRow :=
  [ { base := 0x00320000, rw := fld 31 29 }, { base := 0x00320004, clr := fld 27 26 },
    { base := 0x00320008, rw := ones 32, reset := 1000 },
    roRow 0x00320010 2, roRow 0x00320018 1, roRow 0x00320020 2, roRow 0x00320028 2, roRow 0x00320030 1,
    roRow 0x00320038 2, roRow 0x00320040 7, roRow 0x0032005C 1 [] 0xFFFFFFFF, roRow 0x00320060 3,
    roRow 0x00320070 2, { base := 0x00320078, words := 2, pair := true, rw := ones 64 },
    rclRow 0x00320080 [(8, 4)], { base := 0x003200A0, rw := ones 8, reset := 32 }, rclRow 0x003200A4 [(2, 4)],
    { base := 0x00320100, dims := [(4, 16)], words := 2, pair := true, rw := ones 64 },
    { base := 0x00320108, dims := [(4, 16)], rw := fld 31 31 + fld 3 0 }, roRow 0x00320140 2 [(4, 8)] ]
/-- R388: calibration. -/
def rowsCal : List RegRow :=
  [ roRow 0x00330000 1 [] 0x78000000, { base := 0x00330004, rw := ones 16, reset := 40 },
    { base := 0x00330008, rw := ones 32, reset := 2000 }, { base := 0x0033000C, rw := ones 8, reset := 10 },
    rclRow 0x00330010 [(2, 4)], roRow 0x00330018 2 [(8, 8)], roRow 0x00330060 1 [(8, 4)] 7812,
    roRow 0x00330080, roRow 0x003300A0 4, roRow 0x003300B0 2,
    roRow 0x00331000 4 [(108, 16)] 0x80000000, roRow 0x00332000 1 [(12, 4)] 0x80000000,
    roRow 0x00332040 1 [(4, 4)] 0x80000000 ]
/-- R400: counters and errors. -/
def rowsCnt : List RegRow :=
  [ { base := 0x00340000, rw := fld 31 31 }, roRow 0x00340004, roRow 0x00340008, rclRow 0x00340010 [(4, 4)],
    roRow 0x00340020 8,
    { base := 0x00341000, dims := [(64, 0x20)], rw := fld 31 31 + fld 8 0, clr := fld 30 29 },
    { base := 0x00341008, dims := [(64, 0x20)], words := 2, pair := true, rw := ones 48 },
    roRow 0x00341010 2 [(64, 0x20)], snapRow 0x00341018 [(64, 0x20)], roRow 0x00342000 8 [(256, 32)] ]
/-- R411: NVM view. -/
def rowsNvm : List RegRow :=
  [ roRow 0x00350000, roRow 0x00350004, roRow 0x00350008 1 [] 0x80000000, roRow 0x00350040 16, roRow 0x00350080 8,
    roRow 0x00350100 8, roRow 0x00350200 4 [(62, 16)],
    roRow 0x00350600 16, roRow 0x00350680 16, roRow 0x00350700 16, roRow 0x00350740 16, roRow 0x00350780 16,
    roRow 0x003507C0 16,
    roRow 0x00351000 2 [(108, 8)], roRow 0x00351400 1 [(108, 4)] 0x80000000 ]

/-- The rows of the block that bits 31:16 of an address decode (R401). -/
def blockRows (a : Nat) : List RegRow :=
  let b := a / 0x10000
  if 0x10 ≤ b ∧ b ≤ 0x1B then
    let o := a % 0x10000
    if 0x8000 ≤ o then rowsPin else if 0x2000 ≤ o then rowsTset else if 0x200 ≤ o then rowsSeq else rowsGrp
  else match b with
    | 0x00 => rowsId | 0x01 => rowsDev | 0x02 => rowsEvt
    | 0x20 => rowsTsk | 0x21 => rowsMor | 0x22 => rowsTdc | 0x23 => rowsAdc | 0x24 => rowsCrc | 0x25 => rowsSbr
    | 0x30 => rowsMem | 0x31 => rowsLnk | 0x32 => rowsTim | 0x33 => rowsCal | 0x34 => rowsCnt | 0x35 => rowsNvm
    | _ => []

/-- The register at an address: its row, the indices of the entry and the word within it; none where no table
lists the address (R404). -/
def findReg (a : Nat) : Option (RegRow × List Nat × Nat) :=
  go (blockRows a)
where
  go : List RegRow → Option (RegRow × List Nat × Nat)
    | [] => none
    | r :: rs =>
      match r.place a with
      | some (ix, w) => some (r, ix, w)
      | none => go rs

/-- Word w of a bit set over several words. -/
def wordOf (n w : Nat) : Word := BitVec.ofNat 32 (n / 2 ^ (32 * w))

/-- The Reset column of the word at address a; 0 where the column gives a word in place of a number (R407,
log entry 3). Every word of a CAL lane entry but the first resets to 0, and NVM_PIN_MAP[l] resets to l with FITTED 1. -/
def resetWord (a : Nat) : Word :=
  match findReg a with
  | none => 0
  | some (r, ix, w) =>
    if r.base = 0x00351400 then BitVec.ofNat 32 (0x80000000 + ix.headD 0)
    else wordOf r.reset w

end Sys2Proof.Machine
end

