-- ==== Sys2Proof/Machine/State.lean ====
section
/-! DEFINITION. State.lean: everything the manual gives the device, as plain data, and the device right after a
power-on reset. The default of each field is its reset value. Registers whose bits no mechanism below holds live in
`regs`, keyed by byte address, an unlisted word being at its Reset column. -/

namespace Sys2Proof.Machine

/-- A sparse array: (index, value) pairs, indices strictly rising; an unlisted index holds a default. -/
abbrev Table (α : Type) := List (Nat × α)
/-- Bytes of the LPDDR5X or of the flash: (address, byte) pairs, addresses strictly rising, no listed byte equal to
what an unlisted address reads as (log entry 2). -/
abbrev Memory := List Host.Cell

/-- Device states (R365). -/
inductive DevMode where
  | boot | calibrate | train | linking | negotiate | ready | running | quiesce | lowpower | fault
  deriving DecidableEq, Repr

/-- Fuse shadow (R345, R407): die identity, ROM version, temperature coefficients, patch key. The manual gives no fuse values: log
entry 3. -/
structure Fuses where
  dieId : Dword := 0
  romVer : Word := 0
  tempCoef : List Word := []
  patchKey : BitVec 256 := 0
  deriving DecidableEq, Repr

/-- A DATA frame of the device: its class (0 posted, 2 completion) and transaction. -/
structure Frame where
  cls : Nat
  txn : Txn
  deriving DecidableEq, Repr

/-- A completion whose leaving the device waits for (R347, R363): port and tag of its command, and its frame once it is
issued. -/
structure CplWait where
  port : Nat
  tag : Nat
  frame : Option Frame := none
  deriving DecidableEq, Repr

/-- Device state (R345 to R366). -/
structure Dev where
  mode : DevMode := .boot
  committed : Bool := false
  calNone : Bool := false
  calFlagged : Bool := false
  fuses : Fuses := {}
  /-- the master PLL is locked -/
  pllLocked : Bool := false
  /-- PORST_N rose before supplies and REFCLK were good (R346) -/
  early : Bool := false
  /-- PORST_N is held low -/
  porst : Bool := false
  /-- the flash answered its ready poll and the SFDP and quad reads (R350) -/
  flashReady : Bool := false
  /-- the flash's density in Mb -/
  flashMb : Nat := 0
  /-- PLL_UNLOCK or REFCLK_LOSS stopped the link and the time base (R397) -/
  clocksLost : Bool := false
  /-- TJ_TRIP turned every driver off (R397) -/
  tripped : Bool := false
  /-- the BOARD_LINK record was read or defaulted (R365) -/
  boardRead : Bool := false
  /-- DRIVER_VER of NEGOTIATE_COMMIT (R370) -/
  driverVer : Nat := 0
  /-- the memory controller failed: no training passed (R31) -/
  memFailed : Bool := false
  /-- the reset of a DEV_RESET waits for its completion to leave (R347) -/
  resetWait : Option CplWait := none
  /-- a commit without bit 40: ports in compatibility coding go down once its completion has been sent (R322, R363) -/
  dropCompat : Option CplWait := none
  deriving DecidableEq, Repr

/-- What an error record carries beside its code (R394). -/
structure ErrInfo where
  cls : Nat
  unit : Nat
  task : Nat
  detail : Nat
  deriving DecidableEq, Repr

/-- What Cirque's acceptance of an event changes (R29). -/
inductive Act where
  /-- context n, of generation gen, enters state code st (R165) -/
  | task (n gen st : Nat)
  /-- cancel of context n of generation gen (R178) -/
  | cancel (n gen : Nat)
  /-- flag write on context n of generation gen (R167): kind 0 by SETF, 1 by TASK_FLAGS, 2 by link -/
  | flags (n gen kind : Nat) (set clr : Dword)
  /-- a push of ring k with this WR (R206) -/
  | push (k wr : Nat)
  /-- a command completes: its port, tag, status, STATE and result; it executes (`own`), or it waited at the head of the
  queue while a retrain executed (R286, R314) -/
  | cplt (port : Nat) (tag : Byte) (status state : Nat) (data : List Word) (own : Bool)
  /-- the plan of pin p's TDC has used its shots (R220) -/
  | tdcDone (p : Nat)
  /-- the results of the TDC snapshot in progress are computed (R225) -/
  | tdcResults
  /-- a sequence of converter k has ended (R235) -/
  | adcDone (k : Nat)
  /-- the copies of the ADC snapshot in progress become its results (R244) -/
  | adcResults
  deriving DecidableEq, Repr

/-- A raised event before acceptance (R21, R24): SOURCE, TYPE, coalescing count, record, effects in raised order. -/
structure Event where
  src : Nat
  typ : Nat
  /-- a value the event carries, such as the number of a counter (R392) -/
  info : Nat := 0
  count : Nat := 0
  err : Option ErrInfo := none
  acts : List Act := []
  deriving DecidableEq, Repr

/-- Cirque (R20 to R24). -/
structure Cirque where
  /-- EVT_SEQ_NEXT -/
  next : Nat := 0
  /-- port served last -/
  last : Nat := 15
  /-- events waiting in the 16 port queues, oldest first; at most 32 each -/
  queues : Table (List Event) := []
  /-- staging entries still occupied, in the order they were filled -/
  staged : List Event := []
  /-- link writes accepted before any port (R22, R169), oldest first -/
  linkWrite : List Event := []
  satur : Bool := false
  deriving DecidableEq, Repr

/-- One event of a notify queue (R317). -/
structure Note where
  seq : Nat
  frc : Nat
  src : Nat
  typ : Nat
  count : Nat
  deriving DecidableEq, Repr

/-- Link control frames the device sends (R305); `init` carries the word of the port and the coding, `resume` LAST_RX and
RX_VALID. -/
inductive Ctrl where
  | ack (seq : Nat)
  | nak (seq : Nat)
  | credit (cc : List Nat)
  | init (cc : List Nat) (ackValid : Bool) (word : Nat)
  | resume (lastRx : Nat) (valid : Bool)
  deriving DecidableEq, Repr

/-- One Oction port (R293 to R321). -/
structure PortLink where
  /-- board coding: 0 NATIVE, 1 COMPAT, 2 AUTO (R355); a commit without bit 40 makes it 0 (R322) -/
  coding : Nat := 2
  /-- bring-up runs (R303) -/
  running : Bool := false
  /-- bring-up step 0 to 6 -/
  step : Nat := 0
  up : Bool := false
  compat : Bool := false
  clkLock : Bool := false
  deskewOk : Bool := false
  /-- count of the last marker of each lane, and its TM period (R299) -/
  markers : Table (Nat × Nat) := []
  /-- which of the last 16 symbols of each lane were code violations, newest first (R304) -/
  viols : Table (List Bool) := []
  /-- lanes whose last sweep gave an MF below DOWN (R301) -/
  mfLow : List Nat := []
  /-- next SEQ to send, next SEQ expected (R307) -/
  txSeq : Nat := 0
  rxSeq : Nat := 0
  /-- a DATA frame was accepted since INIT (ACK_VALID) -/
  rxAny : Bool := false
  /-- unacknowledged frames with their SEQ, oldest first, at most 64 (R307) -/
  replay : List (Nat × Frame) := []
  /-- replays started from the oldest frame (R308) -/
  replays : Nat := 0
  ackOwed : Bool := false
  nakOut : Bool := false
  /-- control frames that leave before the next DATA frame (R315) -/
  ctrl : List Ctrl := []
  /-- time messages ready to leave (R315) -/
  timeReady : List Frame := []
  /-- DATA frames in the order they became ready (R315) -/
  ready : List Frame := []
  /-- host requests accepted while completions hold every request buffer, oldest first, and whether the opcode of a CMD is
  unknown (R311) -/
  unjudged : List (Txn × Bool) := []
  /-- host requests accepted and not started, oldest first -/
  rxq : List Txn := []
  /-- time messages accepted and not taken, oldest first: T of the arrival's stamp, and its FRC (R318) -/
  rxTime : List (Txn × Int × Nat) := []
  /-- tags of outstanding requests (R314) -/
  tags : List Nat := []
  /-- CC granted by the host and frames sent since INIT, by class (R310) -/
  hostCc : Table Nat := []
  sent : Table Nat := []
  /-- CC granted to the host since INIT -/
  devCc : Table Nat := []
  /-- CRED_RANGE was raised in this bring-up (R310) -/
  credBad : Bool := false
  /-- completions owed leave on the other port after a failover (R320) -/
  redirect : Bool := false
  /-- the DATA frame that left last -/
  lastSent : Option Frame := none
  /-- the control frames that left last; ACKSEQ and ACK_VALID of what left last (R305, R307) -/
  lastCtrl : List Ctrl := []
  lastAck : Nat × Bool := (0, false)
  deriving DecidableEq, Repr

/-- Failover (R320): the port that failed, and what of its replay buffer waits for the host's RESUME. -/
structure Failover where
  failed : Nat
  held : List (Nat × Frame)
  deriving DecidableEq, Repr

/-- The command a descriptor asks for, with its operands (R370). -/
inductive Cmd where
  | negotiateCommit (driverVer : Nat) | devReset | devQuiesce | devResume | devLowpower | devWake
  | snapshot | snapRelease (h : Nat)
  | imageLoad (base : Nat) | imageUnload (h : Nat)
  | taskCreate (ops : TaskOps) | taskCancel (handle : Nat) | taskFlags (handle : Nat) (set clr : Dword)
  | taskPrio (handle prio : Nat)
  | memRetrain (mask : Nat) | memFsp (target flags : Nat)
  | timeRearm | timeAlign
  | calRun (steps groups hitsLog2 : Nat) | calStore
  deriving DecidableEq, Repr

/-- The command processor (R369): waiting descriptors, and the one executing. -/
structure CmdProc where
  queue : List (CmdHdr × Cmd) := []
  exec : Option (CmdHdr × Cmd) := none
  /-- the executing command has raised COMMAND_DONE, whose acceptance issues its completion (R29) -/
  done : Bool := false
  /-- so has the command at the head of the queue, which ran while its queue waited for a retrain (R286) -/
  headDone : Bool := false
  deriving DecidableEq, Repr

/-- Event counter i (R389 to R392); an unlisted counter is all 0. -/
structure Counter where
  en : Bool := false
  src : Nat := 0
  wrap : Bool := false
  thrHit : Bool := false
  count : Nat := 0
  thresh : Nat := 0
  deriving DecidableEq, Repr

/-- Snapshots (R30 to R34). -/
structure Snap where
  /-- held handles 0 to 63 -/
  held : List Nat := []
  /-- the frame being written: handle, s, FRC and its words -/
  busy : Option (Nat × Nat × Nat × List Word) := none
  /-- s of the last epoch -/
  epochSeq : Nat := 0
  deriving DecidableEq, Repr

/-- Monitors (R399): windows in range since a REFCLK_RANGE record, sites that raised TJ_HIGH. -/
structure Mon where
  rangeBlocked : Nat := 0
  tjHigh : List Nat := []
  deriving DecidableEq, Repr

/-- Instructions of the test access port (R422). -/
inductive TapIr where
  | bypass | faultread | extest
  deriving DecidableEq, Repr
/-- States of the test access port, as IEEE 1149.1 has them (R422; PRESUMED, log entry 82). -/
inductive TapState where
  | reset | idle
  | selectDr | captureDr | shiftDr | exit1Dr | pauseDr | exit2Dr | updateDr
  | selectIr | captureIr | shiftIr | exit1Ir | pauseIr | exit2Ir | updateIr
  deriving DecidableEq, Repr

/-- The test access port (R422): state, instruction, what its data register captured, the bits last shifted out on TDO in their
order, and what the boundary cells drive while EXTEST is executed (none: every ball is as its chapter sets it). -/
structure Tap where
  state : TapState := .reset
  ir : TapIr := .bypass
  dr : Dword := 0
  out : List Bool := []
  cells : List Dword := []
  deriving DecidableEq, Repr

/-- How a ball that the device drives stands (R420): low, high, not driven, or driven by the protocol of its chapter. -/
inductive BallLevel where
  | low | high | hiZ | active
  deriving DecidableEq, Repr
/-- Balls that no other field holds (R420): SPI_CLK, SPI_CS_N and SPI_IO between transfers; TDO between scans; DQ, DMI and RDQS
of the LPDDR5X channels, CK_T, CK_C, CA, CS0, CS1 and WCK; MRESET0_N and MRESET1_N. -/
structure Balls where
  spiClk : BallLevel := .low
  spiCsN : BallLevel := .high
  spiIo : BallLevel := .hiZ
  tdo : BallLevel := .hiZ
  memDq : BallLevel := .hiZ
  memCkT : BallLevel := .low
  memCkC : BallLevel := .high
  memCa : BallLevel := .low
  memCs0 : BallLevel := .low
  memCs1 : BallLevel := .low
  memWck : BallLevel := .low
  mresetN : BallLevel := .low
  deriving DecidableEq, Repr

/-- Who asked for an LPDDR5X access (R274): Firn fill of line number i of group g for context n; the header of segment i;
resident line number i of a preload; line i of a ring drain; a host block write or read; a snapshot frame; freeze and thaw
of a context; check-value DMA; a result push; the running image check. -/
inductive Who where
  | fill (g n i : Nat)
  | header (g n i : Nat)
  | res (g n i : Nat)
  | ring (k i : Nat)
  | blkWr (id : Nat)
  | blkRd (id i : Nat)
  | snap (i : Nat)
  | freeze (n i : Nat)
  | thaw (n i : Nat)
  | dma (u i : Nat)
  | push (id i : Nat)
  | check
  /-- nobody: a read whose task has gone, discarded when it arrives (R177) -/
  | gone
  deriving DecidableEq, Repr

/-- One 128-byte access: a write carries its bytes. -/
structure Req where
  addr : Nat
  data : Option (List Byte) := none
  who : Who
  retry : Bool := false
  /-- it was held back once by its task's stream guard (R157) -/
  late : Bool := false
  deriving DecidableEq, Repr

/-- One LPDDR5X channel (R270 to R280). -/
structure MemCh where
  lfsr : BitVec 32 := 0
  /-- next slot of the 4,096 -/
  pos : Nat := 0
  stream : List Req := []
  capture : List Req := []
  host : List Req := []
  /-- mitigation queue: (bank, row) of each draw, oldest first -/
  mitq : List (Nat × Nat) := []
  /-- draws that wait as steals -/
  steals : List (Nat × Nat) := []
  /-- reads whose data has not arrived, oldest first, with the bytes read -/
  reads : List (Req × List Byte) := []
  /-- bank pair that REFpb takes next, and REFpb commands that are due and wait for the pair's slots (R276) -/
  refNext : Nat := 0
  refDue : Nat := 0
  /-- TM period at which the last refresh interval ended (R276) -/
  refAt : Nat := 0
  /-- FRC of the last ZQ latch and of the last MRR poll (R278) -/
  zqLast : Nat := 0
  mrrLast : Nat := 0
  deriving DecidableEq, Repr

/-- A host block write: its port and tag, and its accesses not yet done. -/
structure BlkWr where
  q : Nat
  tag : Byte
  left : Nat
  deriving DecidableEq, Repr

/-- A host block read: its lines, those that arrived, and the completions already sent. -/
structure BlkRd where
  q : Nat
  tag : Byte
  lines : Nat
  got : Table (List Byte) := []
  sent : Nat := 0
  deriving DecidableEq, Repr

/-- The memory controller (R268 to R290); MEM_STATUS holds FSP, SR, SWITCHING, TRAINING, VALID0, VALID1 and RUN. -/
structure MemCtl where
  ch : Table MemCh := []
  /-- target and start of the switch in progress (R287) -/
  switch : Option (Nat × Nat) := none
  /-- FSPs still to train, the FSP to end at, and the FSPs that failed (R284, R285) -/
  trainLeft : List Nat := []
  trainEnd : Nat := 0
  trainBad : List Nat := []
  /-- eye widths of each FSP's last good training -/
  eyes : Table (List Word) := []
  /-- ZQ interval in ms (R353) -/
  zqMs : Nat := 16
  /-- FRC at which the idle timer started (R286) -/
  idleFrom : Option Nat := none
  /-- FRC of the last request (R290) -/
  lastReq : Nat := 0
  /-- block transfers by number -/
  nextId : Nat := 0
  wrs : Table BlkWr := []
  rds : Table BlkRd := []
  /-- accesses of a task on a channel allowed and made in the current window, by 8 × context + channel (R157) -/
  streamCap : Table Nat := []
  streamUsed : Table Nat := []
  /-- the shadow timing register set of each FSP, and the FSP whose set is active (R287, R288) -/
  timing : Table Dword := []
  timingOf : Nat := 0
  /-- the switch in progress is that of a deferred MEM_FSP at the head of the command queue (R286) -/
  deferred : Bool := false
  deriving DecidableEq, Repr

/-! ### Images (R137 to R154) -/

/-- The envelope of an image (R144). -/
structure Env where
  groups : Nat := 0
  siteCount : Nat := 1
  crcCtx : Bool := false
  sbPorts : Nat := 0
  adcConv : Nat := 0
  xcmp : Nat := 0
  refPeriod : Nat := 2 ^ 39
  tdcPins : Nat := 0
  crcUnits : Nat := 0
  adcAcc : Nat := 0
  streamSlots : List Nat := []
  resBytes : List Nat := []
  ringLead : List Nat := []
  fillLines : List Nat := []
  siteRate : List Nat := []
  siteQuota : List Nat := []
  deriving DecidableEq, Repr

/-- A loaded image: its range, mode and envelope summary (R138, R173). -/
structure Image where
  base : Nat := 0
  len : Nat := 0
  /-- IMAGE_ID of the header (R141) -/
  id : Nat := 0
  elastic : Bool := false
  env : Env := {}
  deriving DecidableEq, Repr

/-- Loaded images by handle, and the range that the running check keeps closed (R137). -/
structure Images where
  loaded : Table Image := []
  check : Option (Nat × Nat) := none
  /-- the header has passed, and the closed range has grown (R137); what the check then reads: address and length -/
  grown : Bool := false
  plan : List (Nat × Nat) := []
  /-- lines that the check has asked for, lines that it has received, and the addresses of those that could not be
  corrected (R139) -/
  asked : Nat := 0
  got : Nat := 0
  bad : List Nat := []
  deriving DecidableEq, Repr

/-! ### Tasks (R160 to R188) -/

/-- A task context (R161) and what the scheduler and the burst keep beside it. -/
structure Ctx where
  gen : Nat := 0
  /-- state code (R165) -/
  st : Nat := 0
  prio : Nat := 0
  all : Bool := false
  dlist : Nat := 0
  image : Nat := 0
  siteBase : Nat := 0
  delay : Nat := 0
  flags : Dword := 0
  waitMask : Dword := 0
  expiry : Nat := 0
  admitTimeout : Nat := 0
  link : Nat := 0xFFFFFFFF
  linkMask : Dword := 0
  userTag : Dword := 0
  /-- IMAGE_ID of its image, which its status returns in no word that the manual names (R141; DESIGN CHOICE, log entry 70) -/
  imageId : Nat := 0
  createSeq : Nat := 0
  readyFrc : Nat := 0
  admitFrc : Nat := 0
  startCount : Nat := 0
  /-- the TM period of frame 0 -/
  startTm : Nat := 0
  breach : Nat := 0
  status : Nat := 0
  resident : Bool := true
  /-- a cancel has been raised and not yet accepted (R178, R180) -/
  cancelDue : Bool := false
  /-- its frozen copy could not be read: a later admission fails (R186) -/
  thawBad : Bool := false
  /-- STATUS that the terminal state it has raised gives it (R29, R165) -/
  due : Nat := 0
  /-- the pending cancel has consumed a readying (R180) -/
  spent : Bool := false
  /-- a state code raised and not yet accepted by Cirque (R29); a context whose creation is not yet accepted has state 0 -/
  pend : Option Nat := none
  /-- it was created while a freeze made room for it, and waits for that slot (R164) -/
  arriving : Bool := false
  /-- a freeze (false) or thaw (true) is in progress, and the FRC at which it was asked for -/
  move : Option (Bool × Nat) := none
  /-- it waits for a slot, for its thaw or since its creation (R164, R182), since this FRC -/
  wantSlot : Option Nat := none
  /-- it holds its resources (R174 to R177) -/
  held : Bool := false
  /-- preload accesses have been queued -/
  preloading : Bool := false
  /-- number of its last flag change, for the order of R181 -/
  flagAt : Nat := 0
  /-- the groups' view of the flags, and changes that some group may not have seen: (TM from which seen, TM of the change,
  set, clear), oldest first (R123) -/
  view : Dword := 0
  viewPend : List (Nat × Nat × Dword × Dword) := []
  /-- current window of R144, guards that fired in this burst (R157), units of each relative site in the window -/
  window : Nat := 0
  fired : List Nat := []
  siteWin : Table Nat := []
  /-- site map and plan entries of its image (R146, R149) -/
  siteMap : List Nat := []
  tdcPlan : List (List Byte) := []
  adcPlan : List (List Byte) := []
  deriving DecidableEq, Repr

/-- A TSK_CTX_SEL write that waits for the thaw of context n: its port and tag, the index of its word, and status and
index of the first other word of the transaction that was refused (R186, R314). -/
structure SelWait where
  q : Nat
  tag : Byte
  word : Nat
  n : Nat
  gen : Nat
  /-- s of the cycle in which its words were applied (R314) -/
  s : Nat := 0
  bad : Option (Nat × Nat) := none
  deriving DecidableEq, Repr

/-- The task scheduler (R160 to R188). -/
structure Sched where
  ctxs : Table Ctx := []
  /-- generation last issued for each context number -/
  gens : Table Nat := []
  passDue : Bool := false
  /-- FRC of the next tick boundary (R170) -/
  tickNext : Nat := 1000
  /-- context shown in TSK_CTX, and its final words once it ended (R186) -/
  sel : Option (Nat × Nat) := none
  selFinal : List Word := []
  /-- TSK_CTX_SEL writes that wait for a thaw (R186) -/
  selWait : List SelWait := []
  /-- flag changes so far (R181) -/
  flagNo : Nat := 0
  /-- busy ns of each core in the current window (R183) -/
  busyNow : Table Nat := []
  deriving DecidableEq, Repr

/-! ### Group sequencers, Firn and lanes (R51 to R136) -/

/-- A sequence word (R110). -/
structure SeqWord where
  op : Nat
  flags : Nat
  b2 : Nat
  b3 : Nat
  w1 : Nat
  w2 : Nat
  w3 : Nat
  deriving DecidableEq, Repr

/-- A segment: descriptor and header fields (R91, R92). -/
structure Seg where
  enc : Nat := 0
  resident : Bool := true
  landing : Bool := false
  frames : Nat := 1
  lead : Nat := 0
  addr : Nat := 0
  firnOff : Nat := 0
  rep : Nat := 0
  dmode : Nat := 0
  modeInit : Nat := 0
  modeLoad : Bool := false
  ninthSrc : Nat := 0
  ninthInv : Bool := false
  /-- its header arrived poisoned (R283) -/
  bad : Bool := false
  deriving DecidableEq, Repr

/-- Where a walk of the program stands; the sequencer and the fill engine each keep one (R98, R105 to R119). -/
structure Walk where
  /-- word that owns the current frame, next word, frames the word still owns -/
  pc : Nat := 0
  npc : Nat := 0
  left : Nat := 0
  seg : Option Nat := none
  /-- position of the next frame; FRAMES × r when the segment wraps next -/
  pos : Nat := 0
  /-- the next frame enters a play of its segment (R94) -/
  enter : Bool := false
  /-- plays of streamed segments entered -/
  play : Nat := 0
  /-- open loop levels, innermost first: index of the first body word, remaining count (R113) -/
  loops : List (Nat × Nat) := []
  deriving DecidableEq, Repr

/-- The fill engine's walk: the next line of the play, and the end of the program's streamed part (R98). -/
structure Fill where
  walk : Walk := {}
  line : Nat := 0
  active : Bool := false
  nextId : Nat := 0
  deriving DecidableEq, Repr

/-- A ring line that is not FREE, in play order (R98): segment, play, line of the segment, 0 read queued, 1 IN_FILL,
2 READY; first stored frame that is played from it and stored frames that it completes. -/
structure RingLine where
  id : Nat
  seg : Nat
  play : Nat
  idx : Nat
  st : Nat := 0
  first : Nat := 0
  count : Nat := 0
  bad : Bool := false
  data : List Byte := []
  used : Bool := false
  deriving DecidableEq, Repr

/-- What a placed edge does to a driver (R58): DE, DA to a level, DR. -/
inductive DriveEdge where
  | enable
  | level (high : Bool)
  | release
  deriving DecidableEq, Repr

/-- A lane's driver and its last edges, fine units after the epoch (R58, R61). -/
structure LaneDrv where
  on : Bool := false
  high : Bool := false
  /-- a forwarded clock that SAFE_Z leaves toggling goes on outside a burst (R65) -/
  toggles : Bool := false
  /-- last DE, DA, DR, ST, SE of the burst -/
  edges : List (Option Int) := [none, none, none, none, none]
  /-- drive edges placed and not yet past, by time, those of one time in the order of their placing: time, start of the UI
  that placed it, effect (R58, R61) -/
  pend : List (Int × Nat × DriveEdge) := []
  /-- last drive transition -/
  moved : Option Int := none
  deriving DecidableEq, Repr

/-- A lane-mode source (R70 to R72): register or scrambler history, next bit or ring entry, bits ready to send, running
disparity, symbols since the last marker began, markers sent, identical line bits so far; the source is mute (R72). -/
structure SrcSt where
  reg : Nat := 0
  pos : Nat := 0
  bits : List Bool := []
  rdPos : Bool := false
  sinceMark : Nat := 4096
  marks : Nat := 0
  run : Nat := 0
  last : Bool := false
  mute : Bool := false
  deriving DecidableEq, Repr

/-- A lane checker (R74, R75): register of received bits and how many it has loaded, matching bits or commas so far,
bits of the running symbol, 8b/10b alignment found, symbols of a marker still to come, running disparity, code violations of
the last 16 symbols, identical bits so far, destuffed bits, marker sightings and marker phase; loss of sync is due. -/
structure ChkSt where
  reg : Nat := 0
  loaded : Nat := 0
  good : Nat := 0
  bits : List Bool := []
  aligned : Bool := false
  marker : Nat := 0
  rdPos : Bool := false
  viol : List Bool := []
  run : Nat := 0
  last : Bool := false
  total : Nat := 0
  cand : List Nat := []
  phase : Option Nat := none
  lossDue : Bool := false
  /-- in sync; SYNC of PIN_CHK_STATUS follows by CHECKER_SYNC or CHECKER_SYNC_LOST -/
  synced : Bool := false
  /-- last destuffed bits, for marker detection -/
  win : Nat := 0
  /-- first-marker arrival of this burst (R77), in UI of the group -/
  arrival : Option Nat := none
  /-- what the deskew delay holds back (R77): voltage and change of each UI, oldest first -/
  line : List (Nat × Bool) := []
  deriving DecidableEq, Repr

/-- A played frame whose compare results are not complete (R189): its number, start in fine units, master count and
device time, the data and settings that say what each lane was to do, and the bits that lane-mode sources drove. -/
structure FrameRec where
  num : Nat
  start : Nat
  mcount : Nat
  tns : Nat := 0
  tfrac : Nat := 0
  enc : Nat
  data : List Byte := []
  modes : Nat := 0
  dmode : Nat := 0
  ninthSrc : Nat := 0
  ninthInv : Bool := false
  cmode : Nat := 1
  cparam : Nat := 0
  afterStall : Bool := false
  /-- UIs that were played (R63): 64, fewer where the burst ended within the frame -/
  uis : Nat := 64
  /-- period of the accumulator that it was played on (R52) -/
  per : Nat := 2 ^ 39
  /-- compare levels and configuration of each lane at its strobes: PIN_LEVEL and PIN_CFG, GRP_FCK_LEVEL and GRP_FCK_CTRL -/
  judge : List (Word × Word) := []
  deriving DecidableEq, Repr

/-- One pin group (R44 to R136). -/
structure Group where
  /-- the context that owns the group (R44) -/
  owner : Option Nat := none
  elastic : Bool := false
  prog : List SeqWord := []
  segs : Table Seg := []
  /-- resident region: 64-byte units, and those that arrived poisoned -/
  res : Table (List Byte) := []
  resBad : List Nat := []
  /-- preload accesses still to come for the resident region: number, address, first unit, bytes -/
  resNeed : List (Nat × Nat × Nat × Nat) := []
  /-- segment headers still to come -/
  hdrNeed : List Nat := []
  ring : List RingLine := []
  /-- abandoned lines that are IN_FILL (R119) -/
  orphans : List Nat := []
  /-- lines whose data reached the fill port: id, poisoned, bytes -/
  arrived : List (Nat × Bool × List Byte) := []
  fill : Fill := {}
  walk : Walk := {}
  /-- SEQ_STATUS.STATE and END_CAUSE (R136) -/
  st : Nat := 0
  cause : Nat := 0
  /-- number of the next frame -/
  frame : Nat := 0
  /-- position, segment and open counts as shown in SEQ_POS, SEQ_SEG -/
  shownPos : Nat := 0
  /-- a JCOND, WAITF or END frame has been played and its end not judged; tests made of a JCOND -/
  judged : Bool := true
  tests : Nat := 0
  /-- a fault ends the burst at the next boundary (R134) -/
  faultDue : Bool := false
  /-- another group's underrun or fault ends this group (R130, R134): cause, and fine units after the epoch -/
  endDue : Option (Nat × Nat) := none
  /-- modes of R86: bit j = 1 compare -/
  modes : Nat := 0xFF
  tset : Nat := 0
  pa : Nat := 0
  cmode : Nat := 1
  cparam : Nat := 0
  /-- UI index of the next frame's first UI on the active accumulator; frames from the epoch (R52) -/
  ui : Nat := 0
  epoch : Nat := 0
  /-- start of the pause, fine units after the epoch -/
  pauseFrom : Nat := 0
  /-- the frame owned by the current SYNC, its start in fine units and its first UI; the frame at which it ends -/
  syncFrame : Nat := 0
  syncFrom : Nat := 0
  syncUi : Nat := 0
  syncEnd : Option Nat := none
  /-- sample time of the edge that ends it, fine units of the TM count (R125) -/
  syncTe : Nat := 0
  /-- first frame that began after the burst's first pause (R133) -/
  stallFrom : Option Nat := none
  pipe : List FrameRec := []
  /-- last judged frames, newest first: frame, lanes that failed, lanes judged (R116) -/
  results : List (Nat × Nat × Nat) := []
  drv : List LaneDrv := []
  srcs : List SrcSt := []
  chks : List ChkSt := []
  /-- receive reference (R67): lock, frames averaged beyond 0.5 UI, phases of the last frames, movement -/
  fckLock : Bool := false
  fckPhases : List Int := []
  fckMove : Int := 0
  fckFrozen : Bool := false
  deskewOk : Bool := false
  deskewDone : Bool := false
  laneMode : Bool := false
  deriving DecidableEq, Repr

/-! ### Capture and Moraine (R189 to R210) -/

/-- A record (R196): device site, group or port field, its two or four 64-bit words, and the context that made it. -/
structure Rec where
  site : Nat
  wide : Bool
  words : List Nat
  ctx : Option Nat := none
  deriving DecidableEq, Repr

/-- A line that the drain issued and that has not committed: its offset WR, the sites of its records, written. -/
structure DrainLine where
  off : Nat
  sites : List Nat
  written : Bool := false
  /-- FRC at which its write completed (R206) -/
  writtenAt : Nat := 0
  deriving DecidableEq, Repr

/-- A result ring (R203 to R208). -/
structure RingSt where
  /-- admitted records not yet in an issued line, oldest first, and the FRC at which the oldest came -/
  held : List (Rec × Nat) := []
  lines : List DrainLine := []
  /-- WR of the latest push raised (R206), and committed lines since it: FRC at which each was written -/
  mark : Nat := 0
  ages : List Nat := []
  /-- its partial line is to be padded out (R205) -/
  flushDue : Bool := false
  deriving DecidableEq, Repr

/-- A push in DATA mode (R206, R316) whose lines are read through host slots. -/
structure PushRd where
  ring : Nat
  wr : Nat
  start : Nat
  lines : Nat
  seq : Nat
  frc : Nat
  got : Table (Bool × List Byte) := []
  deriving DecidableEq, Repr

/-- Moraine: the 15 crossing queues, rings, the ring the drain served last, pushes being read. -/
structure Mor where
  queues : Table (List Rec) := []
  rings : Table RingSt := []
  lastRing : Nat := 15
  pushes : Table PushRd := []
  nextPush : Nat := 0
  /-- master count at the start of the frame that MOR_SITE_FIRST of each site shows (R191) -/
  firsts : Table Nat := []
  deriving DecidableEq, Repr

/-! ### TDC (R211 to R228) -/

/-- Statistics accumulators of one pin (R223). -/
structure TdcAcc where
  count : Nat := 0
  sum : Int := 0
  sumsq : Nat := 0
  min : Int := 0
  max : Int := 0
  atRes : Bool := false
  full : Bool := false
  /-- LSB codes of the results in the set, newest first, without repeats -/
  lsbs : List Nat := []
  /-- a plan with another LSB code was armed on the set (R221) -/
  mixed : Bool := false
  deriving DecidableEq, Repr

/-- The TDC of one pin. -/
structure Tdc where
  armed : Bool := false
  ctx : Nat := 0
  plan : Nat := 0
  entry : List Byte := []
  left : Nat := 0
  unlimited : Bool := false
  opened : Bool := false
  started : Bool := false
  dead : Bool := false
  /-- frame and device time of the start -/
  startFrame : Nat := 0
  startNs : Nat := 0
  startFrac : Nat := 0
  /-- accepted conversion: raw fs, below one LSB -/
  conv : Option (Int × Bool) := none
  shots : Nat := 0
  /-- EARLY_STOP attempts since the pin's last shot record (R226) -/
  early : Nat := 0
  /-- TM period from which a stop edge is measured: that of the start, before one that of the attempt's opening -/
  refAt : Nat := 0
  /-- instant of the last stop edge of the window that was counted early, in fs of the TM count (R220) -/
  earlyAt : Option Nat := none
  /-- disarmed by its budget, shown as armed until TDC_DONE is accepted (R29, R220) -/
  ending : Bool := false
  acc : TdcAcc := {}
  lsb : Nat := 1
  deriving DecidableEq, Repr

/-- A TDC snapshot being computed (R225): s, GO or AUTO_SNAP, copies by pin. -/
structure TdcSnap where
  seq : Nat
  byGo : Bool
  copies : Table TdcAcc
  /-- computed; TDC_SNAP_DONE is raised -/
  done : Bool := false
  deriving DecidableEq, Repr

/-- The TDC blocks and the snapshot in progress. -/
structure TdcBlk where
  pins : Table Tdc := []
  busy : Option TdcSnap := none
  /-- pins whose AUTO_SNAP waits (R225) -/
  waiting : List Nat := []
  deriving DecidableEq, Repr

/-! ### Parametric monitor (R229 to R248) -/

/-- A sequence running on a converter: plan bytes and index, launch source (0 ADCT, 1 crossing, 2 timer, 3 register),
the task, entry, samples discarded and taken in the entry. -/
structure AdcRun where
  plan : List Byte
  index : Nat
  src : Nat
  task : Option Nat
  entry : Nat := 0
  /-- settling samples still to discard, and samples taken, in the entry -/
  disc : Nat := 0
  taken : Nat := 0
  /-- conversions made for the next sample, and FRC at which the last conversion ended -/
  made : Nat := 0
  clock : Nat := 0
  /-- it stops at the end of the conversion under way (R240) -/
  stopping : Bool := false
  deriving DecidableEq, Repr

/-- A sample in Q-SAMP: unit, kind (0 valid, 1 discard, 2 suspect), value, signed, ALIGN, over-range. -/
structure Samp where
  unit : Nat
  kind : Nat
  value : Int
  signed : Bool
  align : Bool
  ovr : Bool
  deriving DecidableEq, Repr

structure Adc where
  run : Option AdcRun := none
  /-- armed timer: plan, index, task, FRC of its next launch -/
  timer : Option (List Byte × Nat × Option Nat × Nat) := none
  samples : List Samp := []
  /-- the decimator's conversions since it restarted, newest first: code, direction of an over-range one (R229, R242) -/
  hist : List (Int × Option Bool) := []
  /-- FRC at which the latest over-range conversion started (R242) -/
  orAt : Option Nat := none
  /-- sequences ended whose ADC_DONE is not accepted (R29, R235) -/
  ending : Bool := false
  deriving DecidableEq, Repr

/-- A crossing comparator: plan, index, task while armed. -/
structure Xcmp where
  armed : Option (List Byte × Nat × Option Nat) := none
  left : Nat := 0
  above : Bool := false
  /-- the input has been below threshold − HYST since it last rose, above threshold + HYST since it last fell (R238) -/
  low : Bool := false
  high : Bool := false
  conv : Nat := 0
  /-- the plan it was last armed with, whose input it goes on watching -/
  watch : List Byte := []
  deriving DecidableEq, Repr

/-- An accumulator unit (R243). -/
structure Acc where
  sum : Int := 0
  count : Nat := 0
  min : Int := 0
  max : Int := 0
  discard : Nat := 0
  exclude : Nat := 0
  orcnt : Nat := 0
  full : Bool := false
  mixed : Bool := false
  signed : Bool := false
  align : Bool := false
  settled : Bool := false
  ovr : Bool := false
  deriving DecidableEq, Repr

structure AdcBlk where
  conv : Table Adc := []
  xcmp : Table Xcmp := []
  acc : Table Acc := []
  /-- the snapshot in progress: s and copies by unit; unit sets whose AUTO_SNAP waits (R235, R244) -/
  snap : Option (Nat × Table Acc) := none
  snapWait : List (List Nat) := []
  deriving DecidableEq, Repr

/-! ### Calibration (R373 to R388) -/

/-- Calibration values of a lane: drive and compare parts of PIN_SKEW, comparator trims, dropped taps, stages (R387). -/
structure LaneCal where
  drv : Int := 0
  cmp : Int := 0
  trims : Word := 0
  dropped : List Byte := []
  stages : List Byte := []
  deriving DecidableEq, Repr

/-- Calibration values: FINE tables and TDC_ZERO of each pin, lanes, level trims of each group, offsets and gains of
each converter, LNK_TS_DELAY; unlisted is nominal (R382). -/
structure CalVals where
  fine : Table (List (List Nat)) := []
  zero : Table (List Int) := []
  lanes : Table LaneCal := []
  levels : Table (List Word) := []
  adc : Table (List (Int × Nat)) := []
  link : List Int := []
  deriving DecidableEq, Repr

/-- A calibration under way (R376, R381, R384): by CAL_RUN, selected groups, HITS_LOG2, step, steps that follow, units of
the step not yet ended with their retries, units passed and flagged, code of the first flagged, FRC at its start. -/
structure CalRun where
  byCmd : Bool
  groups : Nat
  hits : Nat
  step : Nat
  steps : List Nat
  units : List (Nat × Nat)
  passed : Nat := 0
  flagged : Nat := 0
  first : Nat := 0
  start : Nat
  /-- SOURCE or OCTANT failed -/
  failed : Bool := false
  deriving DecidableEq, Repr

/-- Calibration (R373 to R388): the FINE tables and TDC_ZERO in use for each pin; an unlisted pin is nominal. -/
structure CalBlk where
  /-- values in use, and the values of the slot in use (R387) -/
  vals : CalVals := {}
  stored : CalVals := {}
  run : Option CalRun := none
  /-- board part of the skews of each lane (R354) -/
  board : Table (Int × Int) := []
  /-- temperatures of the sites at the last DELAY calibration of each group (R386) -/
  tempAt : Table (List Int) := []
  /-- flagged units: step, unit, cause, latest first (R381) -/
  flags : List (Nat × Nat × Nat) := []
  /-- slot that a CAL_STORE is writing and its SEQ (R358) -/
  storing : Option (Nat × Nat) := none
  deriving DecidableEq, Repr

/-! ### Check values, sideband -/

/-- DMA of a check-value unit (R254): next byte, bytes left. -/
structure CrcDma where
  addr : Nat
  left : Nat
  /-- the last line has arrived and is not yet fed: poisoned, and the bytes of it that are fed -/
  fin : Option (Bool × List Byte) := none
  deriving DecidableEq, Repr

/-- An open sideband frame (R259, R260): device time and bits after the start bit, oldest first; the entries fetched for the
eighth address bit 0 and 1; TM period of its last sampling edge; entries that a table write changed since its start bit, as
they stood before it (R264). -/
structure SbFrame where
  time : Int
  bits : List Bool := []
  fetched : Word × Word := (0, 0)
  lastAt : Nat
  before : Table Word := []
  deriving DecidableEq, Repr

/-- A sideband port (R259 to R266): good windows since a fault. -/
structure SbPort where
  frame : Option SbFrame := none
  /-- the bit driven on SBDO; none: released (R260) -/
  out : Option Bool := none
  /-- the last read and the last table write by the DUT: entry, TM period (R10, R261, R262) -/
  readAt : Option (Nat × Nat) := none
  wroteAt : Option (Nat × Nat) := none
  faulted : Bool := false
  good : Nat := 0
  /-- TM period at which a read last set each entry's latch from 0 (R116) -/
  setAt : Table Nat := []
  deriving DecidableEq, Repr

/-- A time exchange under way (R329): SEQID, ROUTE, stamps in 2^-16 ns, FRC of SYNC and of t3. -/
structure Exch where
  seqid : Nat
  route : Nat
  t1 : Option Int := none
  t2 : Int
  t3 : Option Int := none
  at2 : Nat
  at3 : Nat := 0
  deriving DecidableEq, Repr

/-- The time base and its servo (R325 to R343); registers that show single values stay in `regs`. -/
structure TimeB where
  /-- OFFSET, in 2^-16 ns -/
  offset : Int := 0
  rate : Int := 0
  freq : Int := 0
  anchor : Nat := 0
  /-- T held after a backward step, in 2^-16 ns (R333) -/
  hold : Option Int := none
  /-- servo state (R332) -/
  st : Nat := 0
  port : Nat := 0
  /-- last SYNC of each port, with what followed -/
  exch : Table Exch := []
  /-- a DELAY_REQ is owed on this port (R329) -/
  reqOwed : Option Nat := none
  /-- rtts of the last 16 valid exchanges of the route, newest first -/
  rtts : List Int := []
  route : Nat := 0
  /-- a valid exchange has been made -/
  any : Bool := false
  /-- θ of the first exchange of ACQUIRE -/
  theta1 : Int := 0
  /-- valid exchanges in the current state, and those that the state has collected since its start or the last route change
  (R333, R335) -/
  inState : Nat := 0
  collected : Nat := 0
  outliers : Nat := 0
  missed : Nat := 0
  /-- |θ| ≤ TIM_DISC in this many exchanges of DISCONTINUITY -/
  calm : Nat := 0
  /-- ROUTE_HOLD came from DISCONTINUITY; MPD before it, doubled -/
  fromDisc : Bool := false
  mpd2 : Int := 0
  lastValid : Nat := 0
  /-- U was known when HOLDOVER began -/
  known : Bool := false
  alignArmed : Bool := false
  /-- inputs blocked by a level fault: 0 SYNCIN, 1 to 4 TRIG0 to TRIG3 -/
  blocked : List Nat := []
  /-- end of the pulses on SYNCOUT, TRIGOUT0 and TRIGOUT1, in TM (R341, R431) -/
  pulses : Table Nat := []
  deriving DecidableEq, Repr

/-- The die and the flash on its board: everything but the LPDDR5X contents and the waiting commands. -/
structure Chip where
  dev : Dev := {}
  regs : Table Word := []
  /-- live values of the SNAP-class ledger registers, keyed by low-word address -/
  led : Table Dword := []
  /-- their values at the last snapshot epoch -/
  epoch : Table Dword := []
  /-- held halves of register pairs, keyed by word address (R405) -/
  staging : Table Word := []
  cirque : Cirque := {}
  counters : Table Counter := []
  frozen : Bool := false
  cmd : CmdProc := {}
  ports : Table PortLink := []
  failover : Option Failover := none
  /-- notify queue, oldest first (R317), and the events dropped since the last NOTIFY -/
  notes : List Note := []
  /-- how many of them are due, by HOLD_NS (R317) -/
  notesDue : Nat := 0
  gap : Nat := 0
  snap : Snap := {}
  mon : Mon := {}
  tap : Tap := {}
  balls : Balls := {}
  flash : Memory := []
  /-- TM periods of 62.5 ps since the master PLL locked: FRC counts every 16th (R325) -/
  tm : Nat := 0
  /-- what TIME_ALIGN added to that count to make the master timing count (R13, R340) -/
  align : Nat := 0
  time : TimeB := {}
  /-- MODEL'S OWN: index of the next free value (log entry 4) -/
  free : Nat := 0
  mem : MemCtl := {}
  images : Images := {}
  sched : Sched := {}
  groups : Table Group := []
  mor : Mor := {}
  tdc : TdcBlk := {}
  adc : AdcBlk := {}
  cal : CalBlk := {}
  crcDma : Table CrcDma := []
  sb : Table SbPort := []
  deriving DecidableEq, Repr

/-- The device, the LPDDR5X contents, and the queue of waiting commands, first in, first out. -/
structure State where
  chip : Chip := {}
  dram : Memory := []
  pending : List Instr := []
  deriving DecidableEq, Repr

/-- The device right after a power-on reset: every field at its default above. -/
def State.reset : State := {}

/-- Why the machine stops. -/
inductive Fault where
  /-- Raised by MASTER_PLL_LOCK on a device whose PORST_N rose early: the manual does not cover what follows (R346).
  Safe: the model stops where the hardware goes on. -/
  | outsideManual
  deriving DecidableEq, Repr

/-- Why a command has no meaning. -/
inductive Refusal where
  /-- Raised only by an arm of exec whose command has no meaning yet. Safe: the model stops. -/
  | notModelled (mnemonic : String)
  deriving DecidableEq, Repr

end Sys2Proof.Machine
end

