-- ==== Sys2Proof/Machine/Ops.lean ====
section
/-! DEFINITION. Ops.lean: the named operations over sparse tables, LPDDR5X bytes, registers, ledgers, event
counters and Cirque's staging that the meanings are built from. -/

namespace Sys2Proof.Machine

/-! ### Sparse tables -/

/-- Lexicographic comparison. -/
def lexLt : List Nat → List Nat → Bool
  | [], [] => false
  | [], _ :: _ => true
  | _ :: _, [] => false
  | a :: as, b :: bs => decide (a < b) || (a == b && lexLt as bs)

/-- Entry i of a sparse table, d where unlisted. -/
def tabGet {α : Type} (d : α) (t : Table α) (i : Nat) : α :=
  match t with
  | [] => d
  | (j, v) :: t => if i = j then v else tabGet d t i

/-- The table with entry i set to v. -/
def tabSet {α : Type} (t : Table α) (i : Nat) (v : α) : Table α :=
  match t with
  | [] => [(i, v)]
  | (j, w) :: t =>
    if i = j then (i, v) :: t
    else if i < j then (i, v) :: (j, w) :: t
    else (j, w) :: tabSet t i v

/-- The table with entry i unlisted. -/
def tabDel {α : Type} (t : Table α) (i : Nat) : Table α := t.filter (fun e => e.1 ≠ i)

/-- The table with f applied to entry i. -/
def tabUpd {α : Type} (d : α) (t : Table α) (i : Nat) (f : α → α) : Table α := tabSet t i (f (tabGet d t i))

/-! ### Bytes -/

/-- The byte at an LPDDR5X address; a byte nothing has written reads 0 (log entry 2). -/
def memRead (m : Memory) (a : Nat) : Byte := tabGet 0 m a
/-- Writes one byte; writing 0 unlists the address, so that equal contents are equal data. -/
def memWrite (m : Memory) (a : Nat) (b : Byte) : Memory := if b = 0 then tabDel m a else tabSet m a b
/-- Writes bytes at rising addresses. -/
def memWriteBytes (m : Memory) (a : Nat) : List Byte → Memory
  | [] => m
  | b :: bs => memWriteBytes (memWrite m a b) (a + 1) bs
/-- Reads n bytes at rising addresses. -/
def memReadBytes (m : Memory) (a : Nat) : Nat → List Byte
  | 0 => []
  | n + 1 => memRead m a :: memReadBytes m (a + 1) n
/-- The canonical form: addresses strictly rising, no byte 0 listed. -/
abbrev Memory.wf (m : Memory) : Prop :=
  m.Pairwise (fun x y => x.1 < y.1) ∧ ∀ x ∈ m, x.2 ≠ 0

/-- Little-endian value of bytes (R4). -/
def leNat : List Byte → Nat
  | [] => 0
  | b :: bs => b.toNat + 256 * leNat bs
/-- n little-endian bytes of a value (R4). -/
def toLe : Nat → Nat → List Byte
  | 0, _ => []
  | n + 1, v => BitVec.ofNat 8 v :: toLe n (v / 256)
/-- Words as bytes. -/
def wordsToBytes (ws : List Word) : List Byte := ws.flatMap (fun w => toLe 4 w.toNat)
/-- Bytes as words; a tail short of four bytes is dropped. -/
def bytesToWords : List Byte → List Word
  | a :: b :: c :: d :: t => BitVec.ofNat 32 (leNat [a, b, c, d]) :: bytesToWords t
  | _ => []
/-- Low and high word of a 64-bit value (R7). -/
def twoWords (v : Nat) : List Word := [BitVec.ofNat 32 v, BitVec.ofNat 32 (v / 2 ^ 32)]
/-- n little-endian words of a value. -/
def nWords : Nat → Nat → List Word
  | 0, _ => []
  | n + 1, v => BitVec.ofNat 32 v :: nWords n (v / 2 ^ 32)

/-- Bits hi to lo of a value. -/
def bitsOf (v hi lo : Nat) : Nat := v / 2 ^ lo % 2 ^ (hi - lo + 1)
/-- Bit i of a value. -/
def bitOf (v i : Nat) : Bool := v.testBit i
/-- A Bool as a bit. -/
def b2n (b : Bool) : Nat := if b then 1 else 0
/-- The value with bits hi to lo replaced. -/
def putBits (v hi lo x : Nat) : Nat :=
  v - bitsOf v hi lo * 2 ^ lo + x % 2 ^ (hi - lo + 1) * 2 ^ lo
/-- An n-bit two's-complement code as an integer. -/
def signedOf (n v : Nat) : Int := if v % 2 ^ n < 2 ^ (n - 1) then (v % 2 ^ n : Nat) else (v % 2 ^ n : Nat) - (2 ^ n : Nat)
/-- The n-bit two's-complement code of an integer. -/
def codeOf (n : Nat) (x : Int) : Nat := (x % (2 ^ n : Nat)).toNat
/-- An integer clamped to n signed bits. -/
def clampS (n : Nat) (x : Int) : Int :=
  if x < -(2 ^ (n - 1) : Nat) then -(2 ^ (n - 1) : Nat)
  else if x > (2 ^ (n - 1) : Nat) - 1 then (2 ^ (n - 1) : Nat) - 1 else x

/-! ### Registers -/

/-- The word the register store holds at an address. -/
def Chip.reg (c : Chip) (a : Nat) : Word := tabGet (resetWord a) c.regs a
/-- The store with the word at an address replaced. -/
def Chip.setReg (c : Chip) (a : Nat) (w : Word) : Chip := { c with regs := tabSet c.regs a w }
/-- A field of a register. -/
def Chip.field (c : Chip) (a hi lo : Nat) : Nat := bitsOf (c.reg a).toNat hi lo
/-- Sets a field of a register. -/
def Chip.setField (c : Chip) (a hi lo v : Nat) : Chip :=
  c.setReg a (BitVec.ofNat 32 (putBits (c.reg a).toNat hi lo v))
/-- A 64-bit pair (R7). -/
def Chip.reg64 (c : Chip) (a : Nat) : Nat := (c.reg a).toNat + 2 ^ 32 * (c.reg (a + 4)).toNat
/-- Sets a 64-bit pair. -/
def Chip.setReg64 (c : Chip) (a v : Nat) : Chip :=
  (c.setReg a (BitVec.ofNat 32 v)).setReg (a + 4) (BitVec.ofNat 32 (v / 2 ^ 32))
/-- Sets consecutive words. -/
def Chip.setRegs (c : Chip) (a : Nat) : List Word → Chip
  | [] => c
  | w :: ws => (c.setReg a w).setRegs (a + 4) ws
/-- Adds n to a 32-bit counter that saturates. -/
def Chip.cntUp (c : Chip) (a : Nat) (n : Nat := 1) : Chip :=
  c.setReg a (BitVec.ofNat 32 (min ((c.reg a).toNat + n) 0xFFFFFFFF))
/-- Adds n to a 32-bit counter that wraps. -/
def Chip.cntWrap (c : Chip) (a : Nat) (n : Nat := 1) : Chip := c.setReg a (c.reg a + BitVec.ofNat 32 n)
/-- Adds n to a field of hi to lo that saturates at its largest value. -/
def Chip.fieldUp (c : Chip) (a hi lo : Nat) (n : Nat := 1) : Chip :=
  c.setField a hi lo (min (c.field a hi lo + n) (ones (hi - lo + 1)))
/-- Keeps the larger of a field and v. -/
def Chip.fieldMax (c : Chip) (a hi lo v : Nat) : Chip := c.setField a hi lo (max (c.field a hi lo) v)

/-! ### Ledgers -/

/-- The live value of a ledger register (R38). -/
def Chip.ledger (c : Chip) (a : Nat) : Dword :=
  tabGet ((resetWord (a + 4)) ++ (resetWord a) : Dword) c.led a
/-- Adds to a ledger modulo 2^64 (R38). -/
def Chip.ledAdd (c : Chip) (a : Nat) (n : Nat := 1) : Chip :=
  { c with led := tabSet c.led a (c.ledger a + BitVec.ofNat 64 n) }
/-- Takes from a ledger modulo 2^64. -/
def Chip.ledSub (c : Chip) (a : Nat) (n : Nat := 1) : Chip :=
  { c with led := tabSet c.led a (c.ledger a - BitVec.ofNat 64 n) }
/-- Moves n from gauge a to gauge b. -/
def Chip.ledMove (c : Chip) (a b : Nat) (n : Nat := 1) : Chip := (c.ledSub a n).ledAdd b n

/-! ### Cirque's staging (R20, R21) -/

/-- The Cirque port of a SOURCE (R438). -/
def srcPort (src : Nat) : Nat := if src / 0x8000 = 1 then 15 else src / 2 ^ 11 % 16
/-- SOURCE of unit u of port p. -/
def srcOf (p u : Nat) : Nat := p * 2 ^ 11 + u
/-- SOURCE of task context n. -/
def srcTask (n : Nat) : Nat := 0x8000 + n
/-- Depth of a Q-EVT (R18). -/
def evtDepth : Nat := 32

/-- Merges a raise into a staged entry (R21): the count saturates, the first record's values stay, effects follow
in order, and the WR of a push is that of the latest raise (R206). -/
def Event.merge (e : Event) (acts : List Act) : Event :=
  { e with
    count := min (e.count + 1) 0xFFFFFFFF
    acts := if e.typ = 0x8070 then acts else e.acts ++ acts }

/-- Stages an event (R21): into its port queue where that has room and nothing of the port is staged, else merged
into the staged entry of its source and type, else a new staged entry. The Bool says that it merged. -/
def stage (q : Cirque) (e : Event) : Cirque × Bool :=
  let p := srcPort e.src
  let ws := tabGet [] q.queues p
  if ws.length < evtDepth ∧ ¬ q.staged.any (fun x => srcPort x.src = p) then
    ({ q with queues := tabSet q.queues p (ws ++ [e]) }, false)
  else if q.staged.any (fun x => x.src = e.src ∧ x.typ = e.typ) then
    ({ q with
        staged := q.staged.map (fun x => if x.src = e.src ∧ x.typ = e.typ then x.merge e.acts else x)
        satur := q.satur || q.staged.any (fun x => x.src = e.src ∧ x.typ = e.typ ∧ x.count = 0xFFFFFFFE) }, true)
  else ({ q with staged := q.staged ++ [e] }, false)

/-- Moves staged entries of port p into its queue while that has room, in the order they were filled (R21). The spec orders
the entries of one source; that those of different sources follow one order of filling is the model's (DESIGN CHOICE, log
entry 73). -/
def unstage (q : Cirque) (p : Nat) : Cirque :=
  go q.staged.length q
where
  go : Nat → Cirque → Cirque
    | 0, q => q
    | n + 1, q =>
      let ws := tabGet [] q.queues p
      if ws.length < evtDepth then
        match q.staged.find? (fun x => srcPort x.src = p) with
        | some e => go n { q with queues := tabSet q.queues p (ws ++ [e]), staged := q.staged.erase e }
        | none => q
      else q

/-! ### Event counters (R389 to R392) -/

/-- Adds n happenings of a source to one counter (R389); the Bool says that it passed THRESH (R392). -/
def Counter.add (k : Counter) (n : Nat) : Counter × Bool :=
  let v := k.count + n
  let w := v % 2 ^ 48
  let hit := k.thresh ≠ 0 ∧ ((k.count < k.thresh ∧ k.thresh ≤ v) ∨ (2 ^ 48 ≤ v ∧ k.thresh ≤ w))
  ({ k with count := w, wrap := k.wrap || decide (2 ^ 48 ≤ v), thrHit := k.thrHit || decide hit }, decide hit)

/-- The counters after n happenings of source code, and which of them passed their threshold. -/
def countTab (t : Table Counter) (code n : Nat) : Table Counter × List Nat :=
  match t with
  | [] => ([], [])
  | (i, k) :: t =>
    let r := countTab t code n
    if k.en && k.src == code then
      let a := k.add n
      ((i, a.1) :: r.1, if a.2 then i :: r.2 else r.2)
    else ((i, k) :: r.1, r.2)

/-- Counts n happenings of an event-counter source (R390) and raises CNT_THRESH for each threshold passed (R392).
A raise that merges is itself a happening of source 289; no counter passes its threshold twice without a wrap or a
clear, so 64 rounds are enough. -/
def Chip.count (c : Chip) (code : Nat) (n : Nat := 1) : Chip :=
  if c.frozen ∨ c.counters = [] then c else go 65 c code n
where
  go : Nat → Chip → Nat → Nat → Chip
    | 0, c, _, _ => c
    | f + 1, c, code, n =>
      let r := countTab c.counters code n
      let m := thr r.2 c.cirque
      let c := { c with counters := r.1, cirque := m.1 }
      if m.2 = 0 then c else go f c 289 m.2
  /-- stages CNT_THRESH for each counter i; how many merged -/
  thr : List Nat → Cirque → Cirque × Nat
    | [], q => (q, 0)
    | i :: is, q =>
      let a := stage q { src := srcOf 15 55, typ := 0x80B0, info := i }
      let b := thr is a.1
      (b.1, b2n a.2 + b.2)

/-- Raises an event (R21). -/
def Chip.raise (c : Chip) (src typ : Nat) (acts : List Act := []) (err : Option ErrInfo := none)
    (info : Nat := 0) : Chip :=
  let a := stage c.cirque { src := src, typ := typ, info := info, acts := acts, err := err }
  let c := { c with cirque := a.1 }
  if a.2 then c.count 289 else c

/-- The class of an error-record code (R395). -/
def errClass (code : Nat) : Nat :=
  if code ∈ [0x0305, 0x0311, 0x0312, 0x0314, 0x0315] then 3
  else if code ∈ [0x0012, 0x0101] then 2 else 1

/-- No task (R394). -/
def noTask : Nat := 0xFFFFFFFF

/-- Raises an error record of R395 from a source. -/
def Chip.raiseErr (c : Chip) (src code unit detail : Nat) (task : Nat := noTask) : Chip :=
  (c.raise src code [] (some { cls := errClass code, unit := unit, task := task, detail := detail })).count 309

/-- An input-guard rejection (R398, device source 25). -/
def Chip.guardReject (c : Chip) : Chip := c.count 313

/-- Privileged unit u compared n CRCs, of which `bad` failed: CRC_PRIV_CHECKS, CRC_PRIV_FAILS (R258). -/
def Chip.privCheck (c : Chip) (u n bad : Nat) : Chip :=
  let a := 0x00242000 + 16 * u
  (c.setReg64 a ((c.reg64 a + n) % 2 ^ 64)).setReg64 (a + 8) ((c.reg64 (a + 8) + bad) % 2 ^ 64)

/-! ### Rows over the parts of the state -/

/-- A row that touches nothing but the die. -/
def State.onChip (s : State) (f : Chip → Chip) : Host.Outcome State Fault Refusal := .next { s with chip := f s.chip }
/-- A row that reads the LPDDR5X and changes the die. -/
def State.onMem (s : State) (f : Memory → Chip → Chip) : Host.Outcome State Fault Refusal :=
  .next { s with chip := f s.dram s.chip }
/-- A row that changes the LPDDR5X and the die. -/
def State.onBoth (s : State) (f : Memory → Chip → Memory × Chip) : Host.Outcome State Fault Refusal :=
  let r := f s.dram s.chip
  .next { s with dram := r.1, chip := r.2 }

/-! ### Numbers that several blocks use -/

/-- FRC in ns (R325). -/
def Chip.frc (c : Chip) : Nat := c.tm / 16
/-- The master timing count (R13, R340). -/
def Chip.mtc (c : Chip) (tm : Nat) : Nat := (tm + c.align) % 2 ^ 64

/-- s: the sequence number Cirque gave last (R30, R314). Before it has numbered any event the spec names none: 2^64 - 1
stands for it (DESIGN CHOICE, log entry 71). -/
def Chip.lastSeq (c : Chip) : Nat := (c.cirque.next + 2 ^ 64 - 1) % 2 ^ 64
/-- The state code of a device state (R365). -/
def DevMode.code : DevMode → Nat
  | .boot => 0 | .calibrate => 1 | .train => 2 | .linking => 3 | .negotiate => 4
  | .ready => 5 | .running => 6 | .quiesce => 7 | .lowpower => 8 | .fault => 9
/-- The device enters a state (R365). -/
def Chip.setMode (c : Chip) (m : DevMode) : Chip := { c with dev := { c.dev with mode := m } }
/-- A feature bit of the agreed set (R362). -/
def Chip.agreed (c : Chip) (bit : Nat) : Bool := bitOf (c.reg (0x40 + 4 * (bit / 32))).toNat (bit % 32)
/-- LPDDR5X bytes fitted: 16, 32 or 64 GiB (R268, MEM_CFG.GIB). -/
def Chip.memBytes (c : Chip) : Nat := c.field 0x00300000 7 0 * 2 ^ 30
/-- The snapshot area (R31) and the freeze area below it (R181). -/
def Chip.snapBase (c : Chip) : Nat := c.memBytes - 2 ^ 20
def Chip.freezeBase (c : Chip) : Nat := c.memBytes - 2 ^ 21
/-- The next free value (log entry 4) and the device after using it. -/
def Chip.freeVal (c : Chip) : Dword × Chip := (Config.freeValue c.free, { c with free := c.free + 1 })

/-! ### CRC-32C -/

/-- One bit of the reflected CRC-32C (polynomial 0x1EDC6F41, R258). -/
def crc32cBit (r : BitVec 32) : BitVec 32 := if r.getLsbD 0 then (r >>> 1) ^^^ 0x82F63B78#32 else r >>> 1
def crc32cByte (r : BitVec 32) (b : Byte) : BitVec 32 :=
  (fun x => crc32cBit (crc32cBit (crc32cBit (crc32cBit (crc32cBit (crc32cBit (crc32cBit (crc32cBit x))))))))
    (r ^^^ b.setWidth 32)
/-- CRC-32C of bytes: start all ones, complemented at the end. -/
def crc32c (bs : List Byte) : Nat := ((bs.foldl crc32cByte 0xFFFFFFFF#32) ^^^ 0xFFFFFFFF#32).toNat

end Sys2Proof.Machine
end

