-- ==== Sys2Proof/Machine/Ed25519.lean ====
section
/-! DEFINITION. Ed25519.lean: the signature check of patches (R360). The spec names Ed25519 alone; the algorithm is that of RFC
8032 with SHA-512, its group equation multiplied by 8 (PRESUMED, log entry 84). -/

namespace Sys2Proof.Machine

/-! ### SHA-512 -/

/-- Round constants of SHA-512. -/
def shaK : List Nat :=
  [0x428A2F98D728AE22, 0x7137449123EF65CD, 0xB5C0FBCFEC4D3B2F, 0xE9B5DBA58189DBBC] ++
  [0x3956C25BF348B538, 0x59F111F1B605D019, 0x923F82A4AF194F9B, 0xAB1C5ED5DA6D8118] ++
  [0xD807AA98A3030242, 0x12835B0145706FBE, 0x243185BE4EE4B28C, 0x550C7DC3D5FFB4E2] ++
  [0x72BE5D74F27B896F, 0x80DEB1FE3B1696B1, 0x9BDC06A725C71235, 0xC19BF174CF692694] ++
  [0xE49B69C19EF14AD2, 0xEFBE4786384F25E3, 0x0FC19DC68B8CD5B5, 0x240CA1CC77AC9C65] ++
  [0x2DE92C6F592B0275, 0x4A7484AA6EA6E483, 0x5CB0A9DCBD41FBD4, 0x76F988DA831153B5] ++
  [0x983E5152EE66DFAB, 0xA831C66D2DB43210, 0xB00327C898FB213F, 0xBF597FC7BEEF0EE4] ++
  [0xC6E00BF33DA88FC2, 0xD5A79147930AA725, 0x06CA6351E003826F, 0x142929670A0E6E70] ++
  [0x27B70A8546D22FFC, 0x2E1B21385C26C926, 0x4D2C6DFC5AC42AED, 0x53380D139D95B3DF] ++
  [0x650A73548BAF63DE, 0x766A0ABB3C77B2A8, 0x81C2C92E47EDAEE6, 0x92722C851482353B] ++
  [0xA2BFE8A14CF10364, 0xA81A664BBC423001, 0xC24B8B70D0F89791, 0xC76C51A30654BE30] ++
  [0xD192E819D6EF5218, 0xD69906245565A910, 0xF40E35855771202A, 0x106AA07032BBD1B8] ++
  [0x19A4C116B8D2D0C8, 0x1E376C085141AB53, 0x2748774CDF8EEB99, 0x34B0BCB5E19B48A8] ++
  [0x391C0CB3C5C95A63, 0x4ED8AA4AE3418ACB, 0x5B9CCA4F7763E373, 0x682E6FF3D6B2B8A3] ++
  [0x748F82EE5DEFB2FC, 0x78A5636F43172F60, 0x84C87814A1F0AB72, 0x8CC702081A6439EC] ++
  [0x90BEFFFA23631E28, 0xA4506CEBDE82BDE9, 0xBEF9A3F7B2C67915, 0xC67178F2E372532B] ++
  [0xCA273ECEEA26619C, 0xD186B8C721C0C207, 0xEADA7DD6CDE0EB1E, 0xF57D4F7FEE6ED178] ++
  [0x06F067AA72176FBA, 0x0A637DC5A2C898A6, 0x113F9804BEF90DAE, 0x1B710B35131C471B] ++
  [0x28DB77F523047D84, 0x32CAAB7B40C72493, 0x3C9EBE0A15C9BEBC, 0x431D67C49C100D4C] ++
  [0x4CC5D4BECB3E42B6, 0x597F299CFC657E2A, 0x5FCB6FAB3AD6FAEC, 0x6C44198C4A475817]
/-- Initial state of SHA-512. -/
def shaInit : List Nat :=
  [0x6A09E667F3BCC908, 0xBB67AE8584CAA73B, 0x3C6EF372FE94F82B, 0xA54FF53A5F1D36F1] ++
  [0x510E527FADE682D1, 0x9B05688C2B3E6C1F, 0x1F83D9ABFB41BD6B, 0x5BE0CD19137E2179]
/-- A 64-bit word rotated right. -/
def ror64 (x n : Nat) : Nat := x / 2 ^ n + x % 2 ^ n * 2 ^ (64 - n)
/-- Big-endian value of bytes. -/
def beNat (bs : List Byte) : Nat := bs.foldl (fun a b => 256 * a + b.toNat) 0
/-- n big-endian bytes of a value. -/
def toBe (n v : Nat) : List Byte := (toLe n v).reverse
/-- The message schedule, latest word first. -/
def shaSchedule (ws : List Nat) : Nat → List Nat
  | 0 => ws.reverse
  | n + 1 =>
    let t := shaSchedule ws n
    let a := t.getD 14 0
    let b := t.getD 1 0
    let s0 := ror64 a 1 ^^^ ror64 a 8 ^^^ a / 2 ^ 7
    let s1 := ror64 b 19 ^^^ ror64 b 61 ^^^ b / 2 ^ 6
    (s1 + t.getD 6 0 + s0 + t.getD 15 0) % 2 ^ 64 :: t
/-- One round on the state a to h. -/
def shaRound (v : List Nat) (kw : Nat × Nat) : List Nat :=
  match v with
  | [a, b, c, d, e, f, g, h] =>
    let t1 := h + (ror64 e 14 ^^^ ror64 e 18 ^^^ ror64 e 41) + ((e &&& f) ^^^ ((2 ^ 64 - 1 - e) &&& g)) + kw.1 + kw.2
    let t2 := (ror64 a 28 ^^^ ror64 a 34 ^^^ ror64 a 39) + ((a &&& b) ^^^ (a &&& c) ^^^ (b &&& c))
    [(t1 + t2) % 2 ^ 64, a, b, c, (d + t1) % 2 ^ 64, e, f, g]
  | _ => v
/-- One block of 128 bytes. -/
def shaBlock (v : List Nat) (block : List Byte) : List Nat :=
  let ws := (List.range 16).map (fun i => beNat ((block.drop (8 * i)).take 8))
  let r := (shaK.zip (shaSchedule ws 64).reverse).foldl shaRound v
  (v.zip r).map (fun e => (e.1 + e.2) % 2 ^ 64)
/-- n blocks of a message. -/
def shaBlocks (v : List Nat) (m : List Byte) : Nat → List Nat
  | 0 => v
  | n + 1 => shaBlocks (shaBlock v (m.take 128)) (m.drop 128) n
/-- SHA-512 of a message, 64 bytes. -/
def sha512 (m : List Byte) : List Byte :=
  let pad := m ++ [0x80] ++ List.replicate ((239 - m.length % 128) % 128) 0 ++ toBe 16 (8 * m.length)
  (shaBlocks shaInit pad (pad.length / 128)).flatMap (toBe 8)

/-! ### The curve -/

/-- The field prime, and the order of the base point. -/
def edP : Nat := 2 ^ 255 - 19
def edL : Nat := 2 ^ 252 + 27742317777372353535851937790883648493
/-- b^e mod edP, by the low n bits of e. -/
def edPow (b e : Nat) : Nat → Nat
  | 0 => 1
  | n + 1 =>
    let r := edPow b (e / 2) n
    if e % 2 = 1 then r * r % edP * b % edP else r * r % edP
def edInv (x : Nat) : Nat := edPow x (edP - 2) 255
/-- d of the curve −x² + y² = 1 + d x² y². -/
def edD : Nat := (edP - 121665) * edInv 121666 % edP
/-- A point in extended coordinates X, Y, Z, T. -/
structure EdPoint where
  x : Nat
  y : Nat
  z : Nat
  t : Nat
  deriving DecidableEq, Repr
def edAdd (a b : EdPoint) : EdPoint :=
  let p := (a.y + edP - a.x) * (b.y + edP - b.x) % edP
  let q := (a.y + a.x) * (b.y + b.x) % edP
  let c := 2 * a.t * b.t % edP * edD % edP
  let d := 2 * a.z * b.z % edP
  let e := q + edP - p
  let f := d + edP - c
  let g := d + c
  let h := q + p
  { x := e * f % edP, y := g * h % edP, z := f * g % edP, t := e * h % edP }
/-- n times a point, by the low k bits of n. -/
def edMul (p : EdPoint) (n : Nat) : Nat → EdPoint
  | 0 => { x := 0, y := 1, z := 1, t := 0 }
  | k + 1 =>
    let r := edMul p (n / 2) k
    if n % 2 = 1 then edAdd (edAdd r r) p else edAdd r r
/-- Two points are one. -/
def edEq (a b : EdPoint) : Bool :=
  a.x * b.z % edP == b.x * a.z % edP && a.y * b.z % edP == b.y * a.z % edP
/-- The point that 32 bytes, as a little-endian value, stand for. -/
def edDecode (v : Nat) : Option EdPoint :=
  let y := v % 2 ^ 255
  let sign := v / 2 ^ 255 % 2
  let u := (y * y + edP - 1) % edP
  let w := (edD * (y * y % edP) + 1) % edP
  let x := u * edPow w 3 255 % edP * edPow (u * edPow w 7 255 % edP) ((edP - 5) / 8) 255 % edP
  let x := if w * x % edP * x % edP = u then x else x * edPow 2 ((edP - 1) / 4) 255 % edP
  if edP ≤ y ∨ w * x % edP * x % edP ≠ u ∨ (x = 0 ∧ sign = 1) then none
  else
    let x := if x % 2 = sign then x else edP - x
    some { x := x, y := y, z := 1, t := x * y % edP }
/-- The base point: y = 4/5, x even. -/
def edBase : Option EdPoint := edDecode (4 * edInv 5 % edP)
/-- A signature of 64 bytes over a message verifies against a public key. -/
def edVerify (key : Nat) (m sig : List Byte) : Bool :=
  let r := sig.take 32
  let s := leNat ((sig.drop 32).take 32)
  if edL ≤ s then false
  else
    match edDecode key, edDecode (leNat r), edBase with
    | some a, some q, some b =>
      let k := leNat (sha512 (r ++ toLe 32 key ++ m)) % edL
      edEq (edMul b (8 * s) 256) (edAdd (edMul q 8 4) (edMul a (8 * k) 256))
    | _, _, _ => false

end Sys2Proof.Machine
end

