-- ==== Sys2Proof/Machine/TimeOps.lean ====
section
/-! DEFINITION. TimeOps.lean: time passing, device time T, and the servo's changes of state (R183, R325 to R337). -/

namespace Sys2Proof.Machine

/-! ### Time passing -/

/-- The clocks of the master PLL run (R397). -/
def Chip.clocked (c : Chip) : Bool := c.dev.pllLocked && !c.dev.clocksLost

/-- Ends of 2^20 ns windows from FRC a up to b (R183). -/
def windowsIn (a b : Nat) : Nat := b / 2 ^ 20 - a / 2 ^ 20

/-- Group g is owned: from admission until the burst of its task has ended (R44, R166). -/
def Chip.grpOwned (c : Chip) (g : Nat) : Bool :=
  match (tabGet {} c.groups g).owner with
  | some n => (tabGet {} c.sched.ctxs n).st != 7
  | none => false

/-- Core g was busy from FRC a to b: TSK_CORE_BUSY grows, and TSK_CORE_LOAD takes the share of the last window that
ended (R183). -/
def Chip.coreBusy (c : Chip) (a b g : Nat) : Chip :=
  let busy := c.grpOwned g
  let c := if busy then c.ledAdd (0x00200200 + 8 * g) (b - a) else c
  let now := tabGet 0 c.sched.busyNow g
  if windowsIn a b = 0 then
    if busy then { c with sched := { c.sched with busyNow := tabSet c.sched.busyNow g (now + (b - a)) } } else c
  else
    let first := now + (if busy then 2 ^ 20 - a % 2 ^ 20 else 0)
    let share := if windowsIn a b = 1 then first else if busy then 2 ^ 20 else 0
    let c := c.setReg (0x00200280 + 4 * g) (BitVec.ofNat 32 (share / 16))
    { c with sched := { c.sched with busyNow := tabSet c.sched.busyNow g (if busy then b % 2 ^ 20 else 0) } }

/-- n TM periods pass: FRC, core cycles (1.25 per ns) and FRC nanoseconds as counter sources 27 and 28 (R390), busy
cores. -/
def Chip.advance (c : Chip) (n : Nat) : Chip :=
  if !c.clocked ∨ n = 0 then c
  else
    let a := c.frc
    let c := { c with tm := c.tm + n }
    let b := c.frc
    if a = b then c
    else
      let c := (List.range 12).foldl (fun c g => c.coreBusy a b g) c
      (c.count 316 (b - a)).count 315 (5 * b / 4 - 5 * a / 4)
/-- Time goes on to a given TM period, when that has not passed. -/
def Chip.advanceTo (c : Chip) (t : Nat) : Chip := c.advance (t - c.tm)

/-! ### Device time -/

/-- The formula of R325 at an instant given in 2^-16 ns of FRC. -/
def Chip.formula (c : Chip) (x : Int) : Int :=
  x + c.time.offset + (c.time.rate * (x - c.time.anchor * 65536)).fdiv (2 ^ 40)
/-- T at an instant, in 2^-16 ns: the formula, or the held value until the formula passes it (R333). -/
def Chip.timeAt (c : Chip) (x : Int) : Int :=
  match c.time.hold with
  | some h => max h (c.formula x)
  | none => c.formula x
/-- T at the current FRC. -/
def Chip.timeNow (c : Chip) : Int := c.timeAt (c.frc * 65536)
/-- T at a TM period. -/
def Chip.timeAtTm (c : Chip) (t : Nat) : Int := c.timeAt (t * 4096)
/-- T at an instant in fine units of the TM count, TM/512 each (R327). -/
def Chip.timeAtFine (c : Chip) (f : Nat) : Int := c.timeAt (f * 8)
/-- The ns part of a time as 64 bits. -/
def nsOf (t : Int) : Nat := codeOf 64 (t.fdiv 65536)
/-- TIME_NS and TIME_FRAC of an exported timestamp (R327). -/
def stampNs (t : Int) : Nat := nsOf t % 2 ^ 32
def stampFrac (t : Int) : Nat := codeOf 16 t / 256

/-- A fold: the rate term goes into OFFSET, and ANCHOR becomes FRC (R326). -/
def Chip.fold (c : Chip) : Chip :=
  let x : Int := c.frc * 65536
  { c with time := { c.time with
      offset := c.time.offset + (c.time.rate * (x - c.time.anchor * 65536)).fdiv (2 ^ 40), anchor := c.frc } }

/-- Rounds a quotient to the nearest integer, ties away from zero. -/
def roundDiv (a : Int) (b : Nat) : Int :=
  if 0 ≤ a then (2 * a + b) / (2 * b) else -((2 * (-a) + b) / (2 * b))
/-- The clamp of R325. -/
def clampTo (m : Nat) (x : Int) : Int := if x < -(m : Int) then -(m : Int) else if x > (m : Int) then (m : Int) else x
/-- 2^-16 ns to ps, rounded. -/
def toPs (q : Int) : Int := roundDiv (q * 1000) 65536
/-- ps to 2^-16 ns, rounded. -/
def ofPs (p : Int) : Int := roundDiv (p * 65536) 1000

/-- Sets RATE, FREQ and PHASE after a fold (R326). -/
def Chip.setRate (c : Chip) (freq phase : Int) : Chip :=
  let c := c.fold
  let rate := clampTo 549755813 (freq + phase)
  let c := { c with time := { c.time with rate := rate, freq := freq } }
  ((c.setReg 0x00320040 (BitVec.ofInt 32 rate)).setReg 0x00320044 (BitVec.ofInt 32 freq)).setReg 0x00320048
    (BitVec.ofInt 32 phase)

/-- TIM_UNCERT (R337); known says that U is known in the servo's condition, extra what HOLDOVER adds. -/
def Chip.setUncert (c : Chip) (known : Bool) (extra : Nat) : Chip :=
  c.setReg 0x0032005C (if known
    then BitVec.ofNat 32 (min (1500 + (c.reg 0x00320058).toNat + extra) 0xFFFFFFFF) else 0xFFFFFFFF)

/-- The servo enters a state (R332). -/
def Chip.servo (c : Chip) (st : Nat) : Chip :=
  let c := { c with time := { c.time with st := st, inState := 0, collected := 0, calm := 0 } }
  ((c.setField 0x00320004 31 29 st).setField 0x00320004 7 0 0).setUncert false 0

/-- A route change (R335). In ACQUIRE the collection restarts (R333). -/
def Chip.routeChange (c : Chip) : Chip :=
  let t := c.time
  if t.st = 1 then { c with time := { t with rtts := [], collected := 0 } }
  else if t.st = 4 then
    ({ c with time := { t with rtts := [], collected := 0, outliers := 0 } }).cntUp 0x00320090
  else if t.st = 0 then c
  else
    let n := t.rtts.length
    let mpd2 := if n = 0 then 0 else t.rtts.sum.fdiv n
    let c := { c with time := { t with rtts := [], outliers := 0, fromDisc := t.st == 5, mpd2 := mpd2 } }
    ((c.servo 4).setRate t.freq 0).cntUp 0x00320090

/-- SOURCE of the time base, of trigger input i and of timed trigger i (R438). -/
def srcTime : Nat := srcOf 13 4
def srcTrigIn (i : Nat) : Nat := srcOf 13 (5 + i)
def srcTrig (i : Nat) : Nat := srcOf 13 (10 + i)

end Sys2Proof.Machine
end

