-- ==== Sys2Proof/Machine/Link.lean ====
section
/-! DEFINITION. Link.lean: the Oction link: ports, credits, replay, completions, and the commands of its physical
and link layers (R293 to R322). -/

namespace Sys2Proof.Machine

/-! ### Shared operations -/

/-- Register base of port q (R402). -/
def portB (q : Nat) : Nat := 0x00311000 + 0x1000 * q
/-- Ledger registers of port q, class k (R324): LIMIT, ADVERTISED_UNUSED, OCCUPIED, FREED_UNADVERTISED. -/
def credLimit (q k : Nat) : Nat := portB q + 0x100 + 0x20 * k
def credAdv (q k : Nat) : Nat := portB q + 0x108 + 0x20 * k
def credOcc (q k : Nat) : Nat := portB q + 0x110 + 0x20 * k
def credFreed (q k : Nat) : Nat := portB q + 0x118 + 0x20 * k
/-- SOURCE of the receive unit of port q (R438). -/
def srcRx (q : Nat) : Nat := srcOf 13 (2 * q)

def Chip.port (c : Chip) (q : Nat) : PortLink := tabGet {} c.ports q
def Chip.setPort (c : Chip) (q : Nat) (p : PortLink) : Chip := { c with ports := tabSet c.ports q p }
def Chip.updPort (c : Chip) (q : Nat) (f : PortLink → PortLink) : Chip := c.setPort q (f (c.port q))

/-- Both-active mode (R319). -/
def Chip.bothActive (c : Chip) : Bool := bitOf (c.reg 0x00310000).toNat 31
/-- The active port of redundant mode: PRIMARY while it is up, otherwise the other port (R319); PRIMARY until bring-up
starts, as LNK_STATUS resets (R323; DEDUCED, log entry 8). -/
def Chip.activePort (c : Chip) : Nat :=
  let pr := c.field 0x00310000 30 30
  if (c.port pr).running && !(c.port pr).up then 1 - pr else pr
/-- The port that carries what is set to port q: the other one while q is down and that is up (R320). -/
def Chip.livePort (c : Chip) (q : Nat) : Nat := if !(c.port q).up && (c.port (1 - q)).up then 1 - q else q
/-- The time port (R330) is judged again: a change of it is a route change (R335). -/
def Chip.timePort (c : Chip) : Chip :=
  if c.activePort = c.time.port then c
  else
    let c := { c with time := { c.time with port := c.activePort } }
    (c.setField 0x00320004 25 25 c.time.port).routeChange
/-- The port that carries notifications (R319). -/
def Chip.notifyPort (c : Chip) : Nat := if c.bothActive then c.livePort (c.field 0x00310000 29 29) else c.activePort
/-- The port that carries the pushes of ring k (R316). -/
def Chip.pushPort (c : Chip) (k : Nat) : Nat :=
  if c.bothActive then c.livePort (c.field 0x00310000 k k) else c.activePort

/-- LNK_TXCRED: credits available to the device for class k, 0 until the host's INIT (R310). -/
def PortLink.txCred (p : PortLink) (k : Nat) : Nat :=
  if k == 1 then 0 else (tabGet 0 p.hostCc k + 65536 - tabGet 0 p.sent k) % 65536

/-- Sends what FREED_UNADVERTISED holds of each class as credit (R309). -/
def Chip.grantAll (c : Chip) (q : Nat) : Chip :=
  [0, 1, 2].foldl (fun c k =>
    let n := (c.ledger (credFreed q k)).toNat
    (c.ledMove (credFreed q k) (credAdv q k) n).updPort q
      (fun p => { p with devCc := tabUpd 0 p.devCc k (fun x => (x + n) % 65536) })) c
def PortLink.devCcs (p : PortLink) : List Nat := [tabGet 0 p.devCc 0, tabGet 0 p.devCc 1, tabGet 0 p.devCc 2]
/-- Sends a CREDIT frame (R309). -/
def Chip.sendCredit (c : Chip) (q : Nat) : Chip :=
  ((c.grantAll q).updPort q (fun p => { p with ctrl := p.ctrl ++ [.credit p.devCcs] })).count (265 + 16 * q)
/-- Frees a receive buffer of class k: CREDIT is sent when 8 are freed (R309). -/
def Chip.freeBuf (c : Chip) (q k : Nat) : Chip :=
  let c := c.ledMove (credOcc q k) (credFreed q k)
  if (c.port q).up ∧ c.ledger (credFreed q k) = 8 then c.sendCredit q else c
/-- Sends a NAK unless one for this gap is outstanding (R307). -/
def Chip.sendNak (c : Chip) (q : Nat) : Chip :=
  let p := c.port q
  if p.nakOut then c
  else (((c.setPort q { p with nakOut := true, ctrl := p.ctrl ++ [.nak ((p.rxSeq + 255) % 256)] }).cntUp
    (portB q + 0x00C)).count (259 + 16 * q))

/-- A DATA frame made ready: posted or completion (R315). -/
def Chip.enqueue (c : Chip) (q : Nat) (f : Frame) : Chip :=
  c.updPort q (fun p => { p with ready := p.ready ++ [f] })

/-- The DATA frame of a completion (R314). -/
def cplFrame (tag : Byte) (last : Bool) (word state status s : Nat) (data : List Word) : Frame :=
  { cls := 2
    txn := { ttype := 0x10, tag := tag, tlen := BitVec.ofNat 16 (4 * data.length)
             param := BitVec.ofNat 32 (b2n last * 2 ^ 31 + word % 64 * 2 ^ 24 + state % 256 * 2 ^ 16 + status)
             addr := BitVec.ofNat 64 s, data := data } }

/-- Issues a completion on the port that carried the request (R314, R319), or on the surviving port after a failover
(R320). A STATE_CONFLICT is counted. -/
def Chip.answerAt (c : Chip) (s q : Nat) (tag : Byte) (status : Nat) (last : Bool := true) (word state : Nat := 0)
    (data : List Word := []) : Chip :=
  let f := cplFrame tag last word state status s data
  let c := if (c.port q).redirect then c.enqueue (1 - q) f else c.enqueue q f
  if status = 1 then (c.cntUp 0x00010024).count 292 else c
/-- A completion whose s is the number given last before it is issued (R314). -/
def Chip.answer (c : Chip) (q : Nat) (tag : Byte) (status : Nat) (last : Bool := true) (word state : Nat := 0)
    (data : List Word := []) : Chip := c.answerAt c.lastSeq q tag status last word state data
/-- The final completion of a request: its tag is free again. -/
def Chip.replyAt (c : Chip) (s q : Nat) (tag : Byte) (status : Nat) (word state : Nat := 0)
    (data : List Word := []) : Chip :=
  (c.answerAt s q tag status true word state data).updPort q
    (fun p => { p with tags := p.tags.erase tag.toNat })
/-- The final completion of a request, with the s of its issue. -/
def Chip.reply (c : Chip) (q : Nat) (tag : Byte) (status : Nat) (word state : Nat := 0)
    (data : List Word := []) : Chip :=
  c.replyAt c.lastSeq q tag status word state data

/-- What R313 refuses of a request before anything else: LENGTH_ERROR, then BAD_OPERAND, ADDR_ERROR beyond LPDDR5X
(R314). -/
def Chip.txnFault (c : Chip) (t : Txn) : Option Nat :=
  let n := t.tlen.toNat
  let words := t.data.length
  match t.ttype.toNat with
  | 0x01 => if n = 0 ∨ 64 < n then some 5 else if t.param ≠ 0 ∨ words ≠ n then some 2 else none
  | 0x02 => if n = 0 ∨ 64 < n then some 5 else if t.param ≠ 0 ∨ words ≠ 0 then some 2 else none
  | 0x03 =>
    if n ∉ [128, 256, 384, 512] then some 5
    else if t.param ≠ 0 ∨ t.addr.toNat % 128 ≠ 0 ∨ 4 * words ≠ n then some 2
    else if t.addr.toNat + n > c.memBytes then some 4 else none
  | 0x04 =>
    if n = 0 ∨ 8192 < n then some 5
    else if t.param ≠ 0 ∨ t.addr.toNat % 128 ≠ 0 ∨ words ≠ 0 then some 2
    else if t.addr.toNat + 128 * n > c.memBytes then some 4 else none
  | 0x05 => if n ≠ 64 then some 5 else if t.param ≠ 0 ∨ t.addr ≠ 0 ∨ words ≠ 16 then some 2 else none
  | 0x06 => if n ≠ 0 then some 5 else if 15 < t.param.toNat ∨ words ≠ 0 then some 2 else none
  | _ => some 2

/-- TAG_IN_USE (R314): the request is not executed; the tag stays with its owner. -/
def Chip.tagInUse (c : Chip) (q : Nat) (tag : Byte) (data : List Word := []) : Chip :=
  ((c.answer q tag 8 true 0 0 data).cntUp (portB q + 0x02C)).guardReject

/-- A request with a fault of R313 completes with its status; LENGTH_ERROR and BAD_OPERAND are input-guard rejections
(R398). -/
def Chip.badTxn (c : Chip) (q : Nat) (tag : Byte) (st : Nat) (data : List Word := []) : Chip :=
  let c := c.reply q tag st 0 0 data
  if st = 4 then c else c.guardReject
/-- Result values of a CMD that is refused: the CMD_ID of its descriptor, and zeros; nothing for other requests (R314, R368). -/
def refusedData (t : Txn) : List Word :=
  if t.ttype = 5 then ((t.data.drop 2).take 2 ++ List.replicate 2 0).take 2 ++ List.replicate 6 0 else []

/-- Completions that wait to leave hold every request buffer of the port (R309, R311; DEDUCED, log entry 7). -/
def PortLink.heldUp (p : PortLink) : Bool := decide (64 ≤ p.ready.countP (fun f => f.cls = 2))

/-- A request of port q takes effect by run. The oldest accepted request of the port is the one that starts (R315),
and its buffer is freed once it has (R309). With none accepted, the row stands for the arrival and the start of the request at
once on an up port (DESIGN CHOICE, log entry 7). In any other case nothing happens, and none starts while completions hold
every request buffer (R311). -/
def Chip.request (c : Chip) (q : Nat) (t : Txn) (run : Chip → Chip) : Chip :=
  let p := c.port q
  if p.heldUp then c else
  match p.rxq with
  | r :: rs => if r = t then (run (c.setPort q { p with rxq := rs })).freeBuf q 1 else c
  | [] =>
    if !p.up then c
    else if t.tag.toNat ∈ p.tags then c.tagInUse q t.tag
    else
      let c := c.setPort q { p with tags := p.tags ++ [t.tag.toNat] }
      match c.txnFault t with
      | some st => c.badTxn q t.tag st
      | none => run c

/-! ### Notifications (R317) -/

/-- Words of one NOTIFY event. -/
def Note.words (n : Note) : List Word :=
  twoWords n.seq ++ twoWords n.frc ++ [BitVec.ofNat 32 (n.src + n.typ * 2 ^ 16), BitVec.ofNat 32 n.count]
/-- The place of a NOTIFY frame in the order of the frames that became ready (R315): its events stay in the notify queue until
the frame leaves. -/
def noteSlot : Frame := { cls := 0, txn := { ttype := 0x12, tag := 0, tlen := 0, param := 0, addr := 0, data := [] } }
/-- NOTIFY frames that are ready and have not left. -/
def Chip.noteSlots (c : Chip) : Nat := (c.port 0).ready.count noteSlot + (c.port 1).ready.count noteSlot
/-- A further NOTIFY frame is ready: 22 events wait for it, or one that is due (R317). -/
def Chip.noteReady (c : Chip) : Bool :=
  decide (22 * (c.noteSlots + 1) ≤ c.notes.length) || decide (22 * c.noteSlots < c.notesDue)
/-- Every NOTIFY frame that is ready takes its place on the port that carries it, n at most. -/
def Chip.notifyFrames (c : Chip) : Nat → Chip
  | 0 => c
  | n + 1 => if c.noteReady then (c.enqueue c.notifyPort noteSlot).notifyFrames n else c
/-- Every NOTIFY frame that is ready: the queue of 4,096 fills 187. -/
def Chip.makeNotify (c : Chip) : Chip := c.notifyFrames 187
/-- The NOTIFY frame that leaves now: up to 22 waiting events, and the gap (R317). -/
def Chip.noteFrame (c : Chip) : Frame :=
  let es := c.notes.take 22
  let data := es.flatMap Note.words
  { cls := 0
    txn := { ttype := 0x12, tag := 0, tlen := BitVec.ofNat 16 (4 * data.length)
             param := BitVec.ofNat 32 (b2n (c.gap ≠ 0) * 2 ^ 31 + es.length)
             addr := BitVec.ofNat 64 c.gap, data := data } }
/-- The events of a NOTIFY frame leave the queue. -/
def Chip.noteTaken (c : Chip) : Chip :=
  { c with notes := c.notes.drop 22, notesDue := c.notesDue - 22, gap := 0 }
/-- Drops n notifications: the gap of the next NOTIFY and LNK_NOTIFY_GAP (R317). -/
def Chip.dropNotes (c : Chip) (n : Nat) : Chip := { c.cntUp 0x00310018 n with gap := c.gap + n }
/-- An event enters the notify queue of 4,096. -/
def Chip.notify (c : Chip) (n : Note) : Chip :=
  if 4096 ≤ c.notes.length then c.dropNotes 1
  else
    let c := { c with notes := c.notes ++ [n] }
    (if c.field 0x00310004 15 0 = 0 then { c with notesDue := c.notes.length } else c).makeNotify

/-! ### Bring-up and port down -/

/-- Lanes in use (R293). -/
def PortLink.laneCount (p : PortLink) : Nat := if p.compat then 2 else 4
/-- LNK_LANE_STATUS of lane l. -/
def laneReg (q l : Nat) : Nat := portB q + 0x200 + 0x10 * l
/-- Bring-up starts at step 0 (R303) in the coding the board table sets (native first for AUTO), or as it runs. -/
def Chip.bringup (c : Chip) (q : Nat) (compat : Bool) : Chip :=
  let c := [0, 1, 2, 3].foldl (fun c l =>
    c.setReg (laneReg q l) (c.reg (laneReg q l) &&& 0x007F0000)) c
  c.updPort q (fun p => { p with
    running := true, step := 0, up := false, clkLock := false, deskewOk := false, compat := compat
    markers := [], viols := [], mfLow := [], nakOut := false, ackOwed := false, ctrl := [], credBad := false
    hostCc := [], sent := [] })
/-- The coding a port starts in (R303). -/
def PortLink.startCompat (p : PortLink) : Bool := p.coding == 1
/-- Whether any port can come up: the link clocks derive from the master PLL (R365, R397). -/
def Chip.linkClock (c : Chip) : Bool := c.clocked
/-- Bring-up of both ports, on entering LINKING or an early FAULT (R303, R365). -/
def Chip.bringupAll (c : Chip) : Chip :=
  if c.linkClock then
    [0, 1].foldl (fun c q => if (c.port q).running then c else c.bringup q (c.port q).startCompat) c
  else c

/-- The port a posted frame belongs on (R316, R319). -/
def Chip.homeOf (c : Chip) (f : Frame) (q : Nat) : Nat :=
  if f.txn.ttype = 0x11 then c.pushPort (f.txn.param.toNat % 16)
  else if f.txn.ttype = 0x12 then c.notifyPort else q
/-- Moves posted traffic of port q that belongs on the other port to it (R319). -/
def Chip.rehome (c : Chip) (q : Nat) : Chip :=
  let p := c.port q
  let stay := p.ready.filter (fun f => c.homeOf f q = q)
  let go := p.ready.filter (fun f => c.homeOf f q ≠ q)
  if go = [] then c
  else (c.setPort q { p with ready := stay }).updPort (1 - q) (fun p => { p with ready := p.ready ++ go })
def Chip.rehomeAll (c : Chip) : Chip := ((c.rehome 0).rehome 1).timePort

/-- Whether the port carries device-originated posted traffic (R319). -/
def Chip.carries (c : Chip) (q : Nat) : Bool :=
  if c.bothActive then c.notifyPort == q || (List.range 16).any (fun k => c.pushPort k == q) else c.activePort == q

/-- Credits that the device granted and the host has not used are withdrawn (R309, R324). -/
def Chip.withdraw (c : Chip) (q : Nat) : Chip :=
  [0, 1, 2].foldl (fun c k => c.ledMove (credAdv q k) (credFreed q k) (c.ledger (credAdv q k)).toNat) c
/-- Bring-up of a port that is not up starts again; the credits of its INIT are withdrawn (R303, R309). -/
def Chip.rebring (c : Chip) (q : Nat) (compat : Bool) : Chip :=
  (if (c.port q).step = 6 then c.withdraw q else c).bringup q compat
/-- The port of an up link is counted and recorded as down, and bring-up starts again, an AUTO port's in native coding
(R303, R304). -/
def Chip.portOff (c : Chip) (q cause : Nat) : Chip :=
  let p := c.port q
  let c := c.withdraw q
  let c := c.setPort q { p with up := false, hostCc := [], sent := [] }
  let c := ((c.cntUp (portB q + 0x028)).count (264 + 16 * q)).raiseErr (srcRx q) 0x0306 q cause
  (c.bringup q p.startCompat).timePort
/-- What waits in the replay buffer of port q, whose state was p, is held for the host's RESUME, and the device sends its
own on the other port (R320). -/
def Chip.failOver (c : Chip) (q : Nat) (p : PortLink) : Chip :=
  let c := { c with failover := some { failed := q, held := p.replay } }
  let c := (c.updPort q (fun p => { p with replay := [], replays := 0 })).rehome q
  c.updPort (1 - q) (fun o => { o with ctrl := o.ctrl ++ [.resume ((p.rxSeq + 255) % 256) p.rxAny] })
/-- A port that is up goes down with a LINK_DOWN cause (R304, R395), and the device fails over when the other port is
up (R320). -/
def Chip.portDown (c : Chip) (q cause : Nat) : Chip :=
  let p := c.port q
  if !p.up then c
  else if c.carries q && (c.port (1 - q)).up && c.failover.isNone then (c.portOff q cause).failOver q p
  else c.portOff q cause

/-- The INIT exchange ends: UP, LINK_UP, sequence numbers from 0; frames a failover did not take are sent again as new
frames (log entry 8); the first port up ends LINKING (R303, R305, R307, R320, R349). -/
def Chip.linkUp (c : Chip) (q : Nat) : Chip :=
  let c := c.updPort q (fun p => { p with
    up := true, txSeq := 0, rxSeq := 0, rxAny := false, replays := 0, replay := [], redirect := false
    ready := p.replay.map (·.2) ++ p.ready })
  let c := (c.raise (srcRx q) 0x8080).rehomeAll
  if c.dev.mode = .linking then
    (c.setReg 0x0001001C (BitVec.ofNat 32 (c.frc / 1000))).setMode .negotiate
  else c

/-- The host's CC of an INIT or CREDIT is in range for posted and completion (R310). -/
def PortLink.ccOk (p : PortLink) (cc : List Nat) : Bool :=
  [0, 2].all (fun k =>
    let new := cc.getD k 0
    decide ((new + 65536 - tabGet 0 p.hostCc k) % 65536 ≤ 1024) &&
    decide ((new + 65536 - tabGet 0 p.sent k) % 65536 ≤ 4096))
/-- The class that a range check fails for first. -/
def PortLink.ccBadClass (p : PortLink) (cc : List Nat) : Nat :=
  if (cc.getD 0 0 + 65536 - tabGet 0 p.hostCc 0) % 65536 ≤ 1024 ∧
     (cc.getD 0 0 + 65536 - tabGet 0 p.sent 0) % 65536 ≤ 4096 then 2 else 0
/-- A frame with credits out of range is ignored (R310). -/
def Chip.badCredit (c : Chip) (q k : Nat) : Chip :=
  let p := c.port q
  let c := (c.cntUp (portB q + 0x024)).guardReject
  if p.credBad then c
  else (c.updPort q (fun p => { p with credBad := true })).raiseErr (srcRx q) 0x0308 q k
/-- The credits of an INIT or CREDIT. -/
def PortLink.takeCc (p : PortLink) (cc : List Nat) : PortLink :=
  { p with hostCc := tabSet (tabSet p.hostCc 0 (cc.getD 0 0)) 2 (cc.getD 2 0) }

/-- An acknowledgement of SEQ n frees frames up to and including n (R307). -/
def PortLink.acked (p : PortLink) (n : Nat) : PortLink :=
  if p.replay.any (fun e => e.1 = n) then
    { p with replay := (p.replay.dropWhile (fun e => e.1 ≠ n)).drop 1, replays := 0 }
  else p

/-- A replay resends every unacknowledged frame; the fourth from the same oldest frame takes the port down (R308). -/
def Chip.replayAll (c : Chip) (q : Nat) : Chip :=
  let p := c.port q
  if p.replay = [] then c
  else if 3 ≤ p.replays then c.portDown q 5
  else
    let n := p.replay.length
    ((c.setPort q { p with replays := p.replays + 1, lastSent := p.replay.getLast?.map (·.2) }).cntUp
      (portB q + 0x014) n).count (261 + 16 * q) n

/-- A frame discarded as bad: LINK_REPLAY, and a NAK of an up port (R306, R307). -/
def Chip.badFrame (c : Chip) (q : Nat) (crc : Bool) : Chip :=
  let c := c.privCheck 0 1 (b2n crc)
  let c := ((c.cntUp (portB q + 0x008)).count (258 + 16 * q)).guardReject.raise (srcRx q) 0x0307
  if (c.port q).up then c.sendNak q else c
/-- Violations and never-sent symbols of lane l count in LNK_LANE_CODE (R295, R297, R324). -/
def Chip.laneCode (c : Chip) (q l n : Nat) : Chip :=
  if n = 0 then c else (c.cntUp (laneReg q l + 0xC) n).count (271 + 16 * q) n

/-! ### Stamps of time messages (R318) -/

/-- LNK_TS_DELAY[q] in 2^-16 ns (R318). -/
def Chip.tsDelay (c : Chip) (q : Nat) : Int := ofPs (c.reg (portB q + 4)).toInt
/-- T at a stamp of port q: `sub` counts 2^-16 ns after the FRC tick; a received stamp is corrected back to the ball, a
sent one forward (DEDUCED, log entry 9). -/
def Chip.linkStamp (c : Chip) (q sub : Nat) (sent : Bool) : Int :=
  let d := c.tsDelay q
  c.timeAt (c.frc * 65536 + sub + (if sent then d else -d))
/-- The exchange of port q, if a SYNC began one. -/
def Chip.exch (c : Chip) (q : Nat) : Option Exch := (c.time.exch.find? (fun e => e.1 = q)).map (·.2)
/-- t3: a DELAY_REQ of the port's exchange crosses the ball (R318, R329). -/
def Chip.stampReq (c : Chip) (q : Nat) (t : Txn) : Chip :=
  match c.exch q with
  | some e =>
    if t.ttype = 0x22 ∧ t.param.toNat % 2 ^ 16 = e.seqid ∧ e.t3.isNone then
      { c with time := { c.time with
          exch := tabSet c.time.exch q { e with t3 := some (c.linkStamp q 0 true), at3 := c.frc } } }
    else c
  | none => c

/-! ### Physical layer and bring-up rows -/

/-- CLOCK_CHECK_WINDOW (R294): a 20 µs window in which the clock is absent or more than 300 ppm off. -/
def clockCheckWindow (q : Nat) (seen : Bool) (ppm : Int) (c : Chip) : Chip :=
  let p := c.port q
  let good := seen && decide (ppm.natAbs ≤ 300)
  if p.up then (if good then c else (c.guardReject).portDown q 1)
  else if 2 ≤ p.step then c.setPort q { p with clkLock := good } else c

/-- Delays that align the lanes of a port to the latest (R299); none when the spread is 49 UI or more. -/
def deskewDelays (ts : List Nat) : Option (List Nat) :=
  let hi := ts.foldl max 0
  let lo := ts.foldl min hi
  if hi - lo ≤ 48 then some (ts.map (fun t => hi - t)) else none

/-- The word of INIT with the port and the coding (R305). -/
def initWord (q : Nat) (p : PortLink) : Nat := q + 2 * b2n p.compat
/-- BRINGUP_STEP_DONE (R303). -/
def bringupStepDone (q : Nat) (phases arrivals : List Nat) (c : Chip) : Chip :=
  let p := c.port q
  let lanes := List.range p.laneCount
  let next (c : Chip) := c.updPort q (fun p => { p with step := p.step + 1 })
  if !p.running || p.up || !c.linkClock then c
  else match p.step with
  | 0 => next c
  | 1 => next (c.setPort q { p with clkLock := true })
  | 2 => next (lanes.foldl (fun c l => c.setField (laneReg q l) 22 16 (phases.getD l 64)) c)
  | 3 => next (lanes.foldl (fun c l => c.setField (laneReg q l) 31 31 1) c)
  | 4 =>
    match deskewDelays ((lanes.map (fun l => arrivals.getD l 0))) with
    | none => c
    | some ds =>
      next ((lanes.foldl (fun c l => (c.setField (laneReg q l) 30 30 1).setField (laneReg q l) 9 4 (ds.getD l 0)) c
        ).updPort q (fun p => { p with deskewOk := true }))
  | 5 =>
    let c := (next c).updPort q (fun p => { p with devCc := [], hostCc := [], sent := [] })
    (c.grantAll q).updPort q (fun p => { p with ctrl := p.ctrl ++ [.init p.devCcs false (initWord q p)] })
  | _ => c

/-- BRINGUP_TIMEOUT (R303): 20 ms in a fixed coding. -/
def bringupTimeout (q : Nat) (c : Chip) : Chip :=
  let p := c.port q
  if p.running && !p.up && p.coding != 2 then c.rebring q p.compat else c

/-- AUTO_CODING_SWITCH (R303): 20 ms in AUTO coding. -/
def autoCodingSwitch (q : Nat) (c : Chip) : Chip :=
  let p := c.port q
  if p.running && !p.up && p.coding == 2 then c.rebring q (!p.compat) else c

/-- INIT_RECEIVED (R304, R305, R310): the answer carries ACK_VALID; with the host's ACK_VALID it leaves and the port is up. -/
def initReceived (q : Nat) (cc : List Nat) (ackValid : Bool) (c : Chip) : Chip :=
  let p := c.port q
  if p.up then c.portDown q 7
  else if !p.running || p.step ≠ 6 then c
  else if !p.ccOk cc then c.badCredit q (p.ccBadClass cc)
  else
    let out := p.ctrl ++ [.init p.devCcs true (initWord q p)]
    if ackValid then (c.setPort q { p.takeCc cc with ctrl := [], lastCtrl := out }).linkUp q
    else c.setPort q { p.takeCc cc with ctrl := out }

/-- Half a marker interval in TM: the markers of one column lie closer (R298). -/
def PortLink.column (p : PortLink) : Nat := if p.compat then 41943 else 26214
/-- LINK_MARKER_RECEIVED (R299): a wrong lane number, or a count that differs from the other lanes of its column. -/
def linkMarkerReceived (q l laneNum count : Nat) (c : Chip) : Chip :=
  let p := c.port q
  if !p.running || p.laneCount ≤ l then c
  else
    let column := p.markers.filter (fun e => e.1 ≠ l ∧ c.tm ≤ e.2.2 + p.column)
    if laneNum ≠ l ∨ column.any (fun e => e.2.1 ≠ count) then (if p.up then c.guardReject.portDown q 3 else c)
    else c.setPort q { p with markers := tabSet p.markers l (count, c.tm) }

/-- LINK_MARKER_TIMEOUT (R299): three intervals without a marker. -/
def linkMarkerTimeout (q l : Nat) (c : Chip) : Chip :=
  if (c.port q).up ∧ l < (c.port q).laneCount then ((c.setField (laneReg q l) 30 30 0).guardReject).portDown q 3 else c

/-- The contiguous run of zero-error offsets around offset 0 (bit 64): how many lie below, and above, offset 0. -/
def runBelow (z : BitVec 128) : Nat → Nat
  | 0 => 0
  | n + 1 => if z.getLsbD n then runBelow z n + 1 else 0
def runAbove (z : BitVec 128) (i : Nat) : Nat → Nat
  | 0 => 0
  | n + 1 => if z.getLsbD i then runAbove z (i + 1) n + 1 else 0
/-- MF (R300): 128 is reported as 127. -/
def marginOf (z : BitVec 128) : Nat :=
  if z.getLsbD 64 then min (runBelow z 64 + 1 + runAbove z 65 63) 127 else 0
/-- One step toward the centre of the run when that is 2 or more steps away (R300). -/
def phaseStep (z : BitVec 128) : Int :=
  if !z.getLsbD 64 then 0
  else
    let d : Int := (runAbove z 65 63 : Int) - runBelow z 64
    if 4 ≤ d then 1 else if d ≤ -4 then -1 else 0

/-- MF_SWEEP_DONE (R300, R301). -/
def mfSweepDone (q l : Nat) (z : BitVec 128) (c : Chip) : Chip :=
  let p := c.port q
  if !p.up || p.laneCount ≤ l then c
  else
    let mf := marginOf z
    let ph : Int := c.field (laneReg q l) 22 16 + phaseStep z
    let c := (c.setField (laneReg q l) 29 23 mf).setField (laneReg q l) 22 16 (min 127 (max 0 ph).toNat)
    let c := c.setField (laneReg q l + 8) 6 0 (min mf (c.field (laneReg q l + 8) 6 0))
    let c := if mf < c.field 0x0031000C 6 0 then (c.raise (srcRx q) 0x8081).guardReject else c
    if mf < c.field 0x0031000C 14 8 then
      if l ∈ p.mfLow then c.portDown q 4
      else c.updPort q (fun p => { p with mfLow := l :: p.mfLow })
    else c.updPort q (fun p => { p with mfLow := p.mfLow.erase l })

/-- Symbols of lane l, one after another: violations and never-sent symbols count, and the fourth code violation within 16
symbols takes an up port down (R295, R304). -/
def Chip.laneSyms (c : Chip) (q l : Nat) : List LaneSym → Chip
  | [] => c
  | x :: xs =>
    let c := c.laneCode q l (b2n (x != .good))
    let h := ((x == .code) :: tabGet [] (c.port q).viols l).take 16
    if 4 ≤ h.countP id then
      let c := c.updPort q (fun p => { p with viols := tabDel p.viols l })
      if (c.port q).up then ((c.setField (laneReg q l) 31 31 0).guardReject).portDown q 2 else c.laneSyms q l xs
    else (c.updPort q (fun p => { p with viols := tabSet p.viols l h })).laneSyms q l xs
/-- LOSS_OF_COMMA_ALIGNMENT (R304): lane l receives symbols between frames. -/
def lossOfCommaAlignment (q l : Nat) (syms : List LaneSym) (c : Chip) : Chip :=
  let p := c.port q
  if p.running && decide (l < p.laneCount) then c.laneSyms q l syms else c

/-! ### Frame rows -/

/-- A time message of the host in the form that R329 lists: TLEN and the data it counts, TAG 0 (R312, R313). -/
def timeForm (t : Txn) : Bool :=
  [0x20, 0x21, 0x23].contains t.ttype.toNat && t.tag == 0 && t.tlen.toNat == (if t.ttype = 0x20 then 0 else 8) &&
  4 * t.data.length == t.tlen.toNat
/-- A request that the port takes from its buffer: it waits to start, or completes at once with what R313, R314 and stage 1 of
R369 refuse of it. -/
def Chip.judgeTxn (c : Chip) (q : Nat) (t : Txn) (unknownOp : Bool) : Chip :=
  if t.tag.toNat ∈ (c.port q).tags then (c.tagInUse q t.tag (refusedData t)).freeBuf q 1
  else
    let c := c.updPort q (fun p => { p with tags := p.tags ++ [t.tag.toNat] })
    match c.txnFault t with
    | some st => (c.badTxn q t.tag st (refusedData t)).freeBuf q 1
    | none =>
      if unknownOp then (c.reply q t.tag 2 0 0 (refusedData t)).freeBuf q 1
      else c.updPort q (fun p => { p with rxq := p.rxq ++ [t] })
/-- Requests that waited in their buffers while completions held every request buffer are taken in order, n at most (R311). -/
def Chip.judgeWaiting (c : Chip) (q : Nat) : Nat → Chip
  | 0 => c
  | n + 1 =>
    let p := c.port q
    match p.unjudged with
    | [] => c
    | (t, u) :: ts => if p.heldUp then c else ((c.setPort q { p with unjudged := ts }).judgeTxn q t u).judgeWaiting q n
/-- The request or time message of an accepted frame (R313, R314); a time message is stamped as it arrives (R318). A request
waits in its buffer while completions hold every request buffer (R311). -/
def Chip.acceptTxn (c : Chip) (q cls : Nat) (t : Txn) (unknownOp : Bool) : Chip :=
  if cls = 1 then
    (c.updPort q (fun p => { p with unjudged := p.unjudged ++ [(t, unknownOp)] })).judgeWaiting q 64
  else if cls = 0 ∧ timeForm t then
    c.updPort q (fun p => { p with rxTime := p.rxTime ++ [(t, c.linkStamp q 0 false, c.frc)] })
  else ((c.cntUp (portB q + 0x008)).guardReject).freeBuf q cls

/-- DATA_FRAME_RECEIVED (R307, R309, R311): a frame whose CRC passed; LEN, of up to 544 bytes, and CLASS are checked here
(R306). -/
def dataFrameReceived (q seq cls : Nat) (ack : Option Nat) (t : Txn) (unknownOp : Bool) (c : Chip) : Chip :=
  let p := c.port q
  if !p.up then c
  else if cls = 3 ∨ 132 < t.data.length then c.badFrame q false
  else
    let c := c.privCheck 0 1 0
    let p := match ack with
      | some n => p.acked n
      | none => p
    let c := c.setPort q p
    if seq = p.rxSeq then
      if c.ledger (credAdv q cls) = 0 then
        ((c.cntUp (portB q + 0x020)).guardReject.raiseErr (srcRx q) 0x0309 q cls).portDown q 6
      else
        let c := c.setPort q { p with rxSeq := (p.rxSeq + 1) % 256, rxAny := true, nakOut := false, ackOwed := true }
        let c := ((c.ledMove (credAdv q cls) (credOcc q cls)).count (257 + 16 * q)).count (266 + 16 * q)
          (4 + t.data.length)
        c.acceptTxn q cls t unknownOp
    else if (p.rxSeq + 255 - seq) % 256 < 64 then
      (((c.cntUp (portB q + 0x01C)).count (263 + 16 * q)).guardReject).updPort q
        (fun p => { p with ctrl := p.ctrl ++ [.ack ((p.rxSeq + 255) % 256)] })
    else (((c.cntUp (portB q + 0x018)).count (262 + 16 * q)).guardReject).sendNak q

/-- The port takes frames: it is up, or in the INIT exchange (R303). -/
def PortLink.framed (p : PortLink) : Bool := p.up || (p.running && p.step == 6)
/-- BAD_FRAME_RECEIVED (R306): with the symbols of each lane inside it, whose violations count and can take the port down,
which discards the frame (R295, R297, R304; log entry 81). -/
def badFrameReceived (q : Nat) (crc : Bool) (lanes : List (Nat × List LaneSym)) (c : Chip) : Chip :=
  let p := c.port q
  if !p.framed then c
  else
    let c := lanes.foldl (fun c e =>
      if e.1 < p.laneCount then c.laneSyms q e.1 (e.2.map (fun x => if x = .spare then .good else x)) else c) c
    if (c.port q).framed then c.badFrame q crc else c
/-- An ACKSEQ that a frame carries, where ACK_VALID is 1, frees what it acknowledges (R305, R307). -/
def PortLink.ackedBy (p : PortLink) (ack : Option Nat) : PortLink :=
  match ack with
  | some n => p.acked n
  | none => p
/-- ACK_RECEIVED (R307). -/
def ackReceived (q : Nat) (ack : Option Nat) (c : Chip) : Chip :=
  if (c.port q).up then c.updPort q (fun p => p.ackedBy ack) else c
/-- NAK_RECEIVED (R307, R308): the acknowledgement is applied, and what remains is replayed. -/
def nakReceived (q : Nat) (ack : Option Nat) (c : Chip) : Chip :=
  if (c.port q).up then
    ((((c.updPort q (fun p => p.ackedBy ack)).cntUp (portB q + 0x010)).count (260 + 16 * q))).replayAll q
  else c
/-- CREDIT_RECEIVED (R310). -/
def creditReceived (q : Nat) (cc : List Nat) (ack : Option Nat) (c : Chip) : Chip :=
  let p := c.port q
  if !p.up then c
  else if p.ccOk cc then c.setPort q ((p.ackedBy ack).takeCc cc)
  else c.badCredit q (p.ccBadClass cc)
/-- REPLAY_TIMEOUT (R308). -/
def replayTimeout (q : Nat) (c : Chip) : Chip := if (c.port q).up then c.replayAll q else c
/-- NAK_RESEND_TIMEOUT (R307). -/
def nakResendTimeout (q : Nat) (c : Chip) : Chip :=
  let p := c.port q
  if p.up && p.nakOut then (c.setPort q { p with nakOut := false }).sendNak q else c
/-- CREDIT_TIMER (R309): 1 µs after FREED_UNADVERTISED became non-zero. -/
def creditTimer (q : Nat) (c : Chip) : Chip :=
  if (c.port q).up && [0, 1, 2].any (fun k => c.ledger (credFreed q k) ≠ 0) then c.sendCredit q else c

/-- RESUME_RECEIVED (R320): on the surviving port. -/
def resumeReceived (q : Nat) (lastRx : Nat) (valid : Bool) (ack : Option Nat) (c : Chip) : Chip :=
  let c := if (c.port q).up then c.updPort q (fun p => p.ackedBy ack) else c
  match c.failover with
  | none => c
  | some f =>
    if q = f.failed ∨ !(c.port q).up then c
    else
      let held := if valid && f.held.any (fun e => e.1 = lastRx)
        then (f.held.dropWhile (fun e => e.1 ≠ lastRx)).drop 1 else f.held
      let owed := (c.port f.failed).ready.filter (fun x => x.cls = 2)
      let c := c.updPort f.failed (fun p => { p with
        ready := p.ready.filter (fun x => x.cls ≠ 2), redirect := !p.up })
      let c := c.updPort q (fun p => { p with ready := p.ready ++ held.map (·.2) ++ owed })
      ({ c.cntUp 0x00310014 with failover := none }).judgeWaiting f.failed 64

/-- Events in a discarded NOTIFY frame. -/
def Frame.noteCount (f : Frame) : Nat := if f.txn.ttype = 0x12 then f.txn.param.toNat % 32 else 0

/-- RESUME_TIMEOUT (R320): 100 µs without the host's RESUME. -/
def resumeTimeout (c : Chip) : Chip :=
  match c.failover with
  | none => c
  | some f =>
    let n := (f.held.map (fun e => e.2.noteCount)).sum
    (({ c with failover := none }).dropNotes n).raiseErr (srcRx f.failed) 0x030A f.failed f.held.length

/-- The next DATA frame with credit and its turn: time messages first, then ready order; a frame without credit does
not block other classes (R310, R315). -/
def PortLink.next (p : PortLink) : Option Frame :=
  match p.timeReady.find? (fun f => p.txCred f.cls ≠ 0) with
  | some f => some f
  | none => p.ready.find? (fun f => p.txCred f.cls ≠ 0)

/-- The frame that the port sends, if it has one and room in its replay buffer (R307). -/
def PortLink.sends (p : PortLink) : Option Frame := if 64 ≤ p.replay.length then none else p.next
/-- What leaves carries the acknowledgement of the last SEQ accepted; with nothing else to leave and one owed, an ACK frame does
(R305, R307). -/
def PortLink.sendCtrl (p : PortLink) : PortLink :=
  let n := (p.rxSeq + 255) % 256
  { p with ctrl := [], ackOwed := false, lastAck := (n, p.rxAny)
           lastCtrl := p.ctrl ++ (if p.ackOwed && p.ctrl == [] && p.sends.isNone then [.ack n] else []) }
/-- DATA_FRAME_SEND (R307, R310, R315): control frames leave first, and alone in the INIT exchange (R303); a 65th
unacknowledged frame waits; a NOTIFY takes its events; a DELAY_REQ is stamped (R318). -/
def dataFrameSend (q : Nat) (c : Chip) : Chip :=
  let p := c.port q
  if !p.up then (if p.framed then c.setPort q { p with ctrl := [], lastCtrl := p.ctrl } else c)
  else match p.sends with
  | none => c.setPort q p.sendCtrl
  | some f =>
    let p := p.sendCtrl
    let x := if f = noteSlot then c.noteFrame else f
    let c := if f = noteSlot then c.noteTaken else c
    let p := if f ∈ p.timeReady then { p with timeReady := p.timeReady.erase f }
      else { p with ready := p.ready.erase f }
    let p := { p with
      replay := p.replay ++ [(p.txSeq, x)], txSeq := (p.txSeq + 1) % 256, lastSent := some x
      sent := tabUpd 0 p.sent f.cls (fun n => (n + 1) % 65536) }
    let c := ((c.setPort q p).stampReq q f.txn).count (256 + 16 * q)
    match f.txn.ttype.toNat with
    | 0x10 => (c.count (267 + 16 * q)).judgeWaiting q 64
    | 0x11 => c.count (268 + 16 * q)
    | 0x12 => c.count (269 + 16 * q)
    | _ => c

/-- NOTIFY_HOLD_EXPIRY (R317): on the port that carries notifications. -/
def notifyHoldExpiry (q : Nat) (c : Chip) : Chip :=
  if c.notifyPort = q then ({ c with notesDue := c.notes.length }).makeNotify else c

end Sys2Proof.Machine
end

