-- ==== Sys2Proof/Machine/CmdOps.lean ====
section
/-! DEFINITION. CmdOps.lean: command descriptors (R368, R370), legality by device state (R371), and completion of the
executing command (R314, R369, R408). -/

namespace Sys2Proof.Machine

/-- The opcode of a command (R370). -/
def Cmd.opcode : Cmd → Nat
  | .negotiateCommit _ => 0x0001 | .devReset => 0x0002 | .devQuiesce => 0x0003 | .devResume => 0x0004
  | .devLowpower => 0x0005 | .devWake => 0x0006
  | .snapshot => 0x0010 | .snapRelease _ => 0x0011
  | .imageLoad _ => 0x0020 | .imageUnload _ => 0x0021
  | .taskCreate _ => 0x0030 | .taskCancel _ => 0x0031 | .taskFlags _ _ _ => 0x0032 | .taskPrio _ _ => 0x0033
  | .memRetrain _ => 0x0040 | .memFsp _ _ => 0x0041
  | .timeRearm => 0x0050 | .timeAlign => 0x0051
  | .calRun _ _ _ => 0x0060 | .calStore => 0x0061

/-- Cornice commands (R12, R370). -/
def Cmd.cornice : Cmd → Bool
  | .devLowpower | .devWake | .memRetrain _ | .calRun _ _ _ | .calStore => true
  | _ => false

/-- A command descriptor of 16 words read: CMD_ID, the command, and whether a reserved or unused byte is not 0
(R368, R370); none for an opcode that R370 does not list. -/
def decodeDesc (ws : List Word) : Option (Dword × Cmd × Bool) :=
  let b := wordsToBytes ws
  let get (o n : Nat) : Nat := leNat ((b.drop o).take n)
  let op (o n : Nat) : Nat := get (0x10 + o) n
  let id : Dword := BitVec.ofNat 64 (get 8 8)
  let rest (used : Nat) : Bool := get 2 6 ≠ 0 || get (0x10 + used) (48 - used) ≠ 0
  match get 0 2 with
  | 0x0001 => some (id, .negotiateCommit (op 0 4), rest 4)
  | 0x0002 => some (id, .devReset, rest 0)
  | 0x0003 => some (id, .devQuiesce, rest 0)
  | 0x0004 => some (id, .devResume, rest 0)
  | 0x0005 => some (id, .devLowpower, rest 0)
  | 0x0006 => some (id, .devWake, rest 0)
  | 0x0010 => some (id, .snapshot, rest 0)
  | 0x0011 => some (id, .snapRelease (op 0 2), rest 2)
  | 0x0020 => some (id, .imageLoad (op 0 8), rest 8)
  | 0x0021 => some (id, .imageUnload (op 0 1), rest 1)
  | 0x0030 => some (id, .taskCreate
      { image := BitVec.ofNat 8 (op 0 1), siteBase := BitVec.ofNat 8 (op 1 1), prio := BitVec.ofNat 8 (op 2 1)
        cflags := BitVec.ofNat 8 (op 3 1), delay := BitVec.ofNat 32 (op 4 4), flags := BitVec.ofNat 64 (op 8 8)
        waitMask := BitVec.ofNat 64 (op 0x10 8), admitTimeout := BitVec.ofNat 32 (op 0x18 4)
        linkHandle := BitVec.ofNat 32 (op 0x1C 4), linkMask := BitVec.ofNat 64 (op 0x20 8)
        userTag := BitVec.ofNat 64 (op 0x28 8) }, rest 48)
  | 0x0031 => some (id, .taskCancel (op 0 4), rest 4)
  | 0x0032 => some (id, .taskFlags (op 0 4) (BitVec.ofNat 64 (op 8 8)) (BitVec.ofNat 64 (op 0x10 8)),
      rest 0x18 || op 4 4 ≠ 0)
  | 0x0033 => some (id, .taskPrio (op 0 4) (op 4 1), rest 5)
  | 0x0040 => some (id, .memRetrain (op 0 1), rest 1)
  | 0x0041 => some (id, .memFsp (op 0 1) (op 1 1), rest 2)
  | 0x0050 => some (id, .timeRearm, rest 0)
  | 0x0051 => some (id, .timeAlign, rest 0)
  | 0x0060 => some (id, .calRun (op 0 2) (op 2 2) (op 4 1), rest 5)
  | 0x0061 => some (id, .calStore, rest 0)
  | _ => none

/-- Legality of a command in a device state (R371); quant is TIM_CTRL.QUANT. -/
def cmdLegal (x : Cmd) (m : DevMode) (quant : Bool) : Bool :=
  match x with
  | .negotiateCommit _ => m == .negotiate
  | .devReset => m == .negotiate || m == .ready || m == .running || m == .quiesce || m == .lowpower || m == .fault
  | .devQuiesce => m == .ready || m == .running
  | .devResume => m == .quiesce
  | .devLowpower => m == .ready
  | .devWake => m == .lowpower
  | .snapshot | .snapRelease _ => m == .ready || m == .running || m == .quiesce || m == .lowpower || m == .fault
  | .imageLoad _ => m == .ready || m == .running
  | .imageUnload _ => m == .ready || m == .running || m == .quiesce || m == .lowpower
  | .taskCreate _ | .taskCancel _ | .taskFlags _ _ _ | .taskPrio _ _ =>
    m == .ready || m == .running || m == .quiesce || m == .lowpower
  | .memRetrain _ => m == .ready
  | .memFsp _ _ => m == .ready || m == .lowpower
  | .timeRearm => m == .ready
  | .timeAlign => m == .ready && quant
  | .calRun _ _ _ => m == .ready
  | .calStore => m == .ready || m == .running || m == .quiesce

/-- The command is legal now (R371). -/
def Chip.cmdOk (c : Chip) (x : Cmd) : Bool := cmdLegal x c.dev.mode (bitOf (c.reg 0x00320000).toNat 29)

/-- An operand outside the range of R370 (stage 3 of R369). -/
def Cmd.badOperand : Cmd → Bool
  | .memRetrain mask => mask == 0 || decide (3 < mask)
  | .memFsp target flags => decide (1 < target) || decide (1 < flags)
  | .calRun steps groups hits =>
    steps % 4 != 0 || decide (128 ≤ steps) || groups == 0 || decide (4096 ≤ groups) ||
    !(hits == 0 || (decide (20 ≤ hits) && decide (hits ≤ 24)))
  | .taskCreate o =>
    let cf := o.cflags.toNat
    decide (7 < o.prio.toNat) || cf / 16 != 0 || bitsOf cf 1 1 != 0 || (o.linkHandle.toNat == noTask && o.linkMask != 0)
  | .taskPrio _ prio => decide (7 < prio)
  | _ => false

/-- The 32 result bytes of a CMD completion: CMD_ID, then the values from 0x08 (R314, R368). -/
def cmdResult (h : CmdHdr) (r : List Word) : List Word :=
  twoWords h.cmdId.toNat ++ (r ++ List.replicate 6 0).take 6

/-- A command refused before it entered the queue (R369, R408). -/
def Chip.cmdRefuse (c : Chip) (h : CmdHdr) (status state : Nat) : Chip :=
  c.reply h.port h.tag status 0 state (cmdResult h [])

/-- The command that executes and has not ended. -/
def Chip.active (c : Chip) : Option (CmdHdr × Cmd) := if c.cmd.done then none else c.cmd.exec
/-- The executing command ends: COMMAND_DONE is raised, and its acceptance issues the completion (R29, R314). -/
def Chip.cmdFinish (c : Chip) (status : Nat) (r : List Word := []) (state : Nat := 0) : Chip :=
  match c.active with
  | none => c
  | some (h, _) =>
    ({ c with cmd := { c.cmd with done := true } }).raise (srcOf 15 51) 0x80D1
      [.cplt h.port h.tag status state (cmdResult h r) true]
/-- The completion that is waited for has been issued as this frame. -/
def CplWait.issued (w : CplWait) (port : Nat) (tag : Byte) (f : Frame) : CplWait :=
  if w.port = port ∧ w.tag = tag.toNat ∧ w.frame.isNone then { w with frame := some f } else w
/-- The completion waits to be issued, or to leave the port that sends it (R319, R320, R347, R363). -/
def Chip.cplWaits (c : Chip) (w : CplWait) : Bool :=
  match w.frame with
  | none => true
  | some f => (c.port 0).ready.contains f || (c.port 1).ready.contains f
/-- Cirque accepted a COMMAND_DONE: the command has left the processor, and its completion is issued (R29, R314, R408); the
range that the check of a refused image closed reopens (R137). -/
def Chip.cmdIssue (c : Chip) (port : Nat) (tag : Byte) (status state : Nat) (data : List Word) (own : Bool) : Chip :=
  let c := if own then
      { c with cmd := { c.cmd with exec := none, done := false }, images := { c.images with check := none } }
    else { c with cmd := { c.cmd with queue := c.cmd.queue.drop 1, headDone := false } }
  let f := cplFrame tag true 0 state status c.lastSeq data
  let c := { c with dev := { c.dev with resetWait := c.dev.resetWait.map (fun (w : CplWait) => w.issued port tag f)
                                        dropCompat := c.dev.dropCompat.map (fun (w : CplWait) => w.issued port tag f) } }
  (c.cntWrap 0x00010048).reply port tag status 0 state data

/-- The executing command, if it is the one f recognises. -/
def Chip.executing (c : Chip) (f : Cmd → Bool) : Bool :=
  match c.active with
  | some (_, x) => f x
  | none => false

/-- DEV_CMD_STATUS (R408). -/
def Chip.cmdStatus (c : Chip) : Nat :=
  match c.cmd.exec with
  | some (_, x) => b2n x.cornice * 2 ^ 31 + 2 ^ 30 + c.cmd.queue.length % 64 * 2 ^ 16 + x.opcode
  | none => c.cmd.queue.length % 64 * 2 ^ 16

end Sys2Proof.Machine
end

