-- ==== Sys2Proof/Machine/MemOps.lean ====
section
/-! DEFINITION. MemOps.lean: the LPDDR5X controller's addresses, slot table, request queues, mitigation draws and
status (R268 to R290). -/

namespace Sys2Proof.Machine

/-- Channel of an address (R270). -/
def chanOf (a : Nat) : Nat := a / 2 ^ 7 % 8
/-- Bank of an address. -/
def bankOf (a : Nat) : Nat := a / 2 ^ 10 % 16
/-- Row, with the rank above it, of an address. -/
def rowOf (a : Nat) : Nat := a / 2 ^ 18

/-- Two byte ranges meet. -/
def meets (a n b m : Nat) : Bool := decide (a < b + m) && decide (b < a + n)

/-- Classes of rounds (R273). -/
inductive SlotClass where
  | maint | host | capture | stream
  deriving DecidableEq, Repr

/-- The class of round r (R273). -/
def roundClass (r : Nat) : SlotClass :=
  if r = 0 then .maint
  else if r % 17 = 8 ∧ 8 ≤ r ∧ r ≤ 246 then .host
  else if r % 9 = 0 then .capture
  else .stream

def Chip.memCh (c : Chip) (ch : Nat) : MemCh := tabGet {} c.mem.ch ch
def Chip.setMemCh (c : Chip) (ch : Nat) (m : MemCh) : Chip :=
  { c with mem := { c.mem with ch := tabSet c.mem.ch ch m } }

/-- MEM_STATUS bits (R291). -/
def memStatus : Nat := 0x00300004
def Chip.memBit (c : Chip) (i : Nat) : Bool := bitOf (c.reg memStatus).toNat i
def Chip.fsp (c : Chip) : Nat := c.field memStatus 31 31
def Chip.inSelfRefresh (c : Chip) : Bool := c.memBit 30
def Chip.switching (c : Chip) : Bool := c.memBit 29
def Chip.training (c : Chip) : Bool := c.memBit 28
def Chip.fspValid (c : Chip) (f : Nat) : Bool := c.memBit (27 - f)
/-- MEM_STATUS as it reads: during a switch SR shows the self-refresh that the switch takes, from 0.25 µs to 2.30 µs, and FSP
shows the target from 2.30 µs on (R287). -/
def Chip.memStatusWord (c : Chip) : Word :=
  match c.mem.switch with
  | none => c.reg memStatus
  | some (target, t0) =>
    let t := c.frc - t0
    let v := putBits (c.reg memStatus).toNat 30 30 (b2n (decide (250 ≤ t) && decide (t < 2300)))
    BitVec.ofNat 32 (if 2300 ≤ t then putBits v 31 31 target else v)
/-- The slot table runs (R277). -/
def Chip.tableRuns (c : Chip) : Bool := c.memBit 25
/-- RUN follows the other bits (R277). -/
def Chip.setRun (c : Chip) : Chip :=
  c.setField memStatus 25 25 (b2n (!c.inSelfRefresh && !c.switching && !c.training && c.fspValid c.fsp))
/-- Every channel's table restarts at round 0, slot 0 (R287, R290). -/
def Chip.restartTable (c : Chip) : Chip :=
  { c with mem := { c.mem with ch := c.mem.ch.map (fun e => (e.1, { e.2 with pos := 0 })) } }

/-- The command is MEM_RETRAIN. -/
def Cmd.retrains : Cmd → Bool
  | .memRetrain _ => true
  | _ => false
/-- A retrain runs: host accesses and the commands of R285 complete with BUSY_TRAINING. -/
def Chip.retraining (c : Chip) : Bool := c.training && c.executing Cmd.retrains

/-- An access joins its class's queue on its channel (R274). -/
def Chip.memPut (c : Chip) (cls : SlotClass) (r : Req) : Chip :=
  let ch := chanOf r.addr
  let m := c.memCh ch
  c.setMemCh ch (match cls with
    | .stream => { m with stream := m.stream ++ [r] }
    | .capture => { m with capture := m.capture ++ [r] }
    | _ => { m with host := m.host ++ [r] })
/-- A request comes. In LOWPOWER one that comes after the idle time and before SRE abandons the entry, and one that comes at
or after SRE is late (R290). -/
def Chip.memTouch (c : Chip) : Chip :=
  let c := if c.inSelfRefresh ∧ !c.switching then c.cntUp 0x00300020
    else if c.dev.mode = .lowpower ∧ !c.inSelfRefresh ∧
      c.mem.lastReq + 1000 * c.field 0x00300008 15 0 ≤ c.frc then c.cntUp 0x0030001C
    else c
  { c with mem := { c.mem with lastReq := c.frc } }
/-- A request of one access. -/
def Chip.memReq (c : Chip) (cls : SlotClass) (r : Req) : Chip := c.memTouch.memPut cls r

/-- 128-byte lines of bytes. -/
def linesOf (bs : List Byte) : List (List Byte) :=
  go ((bs.length + 127) / 128) bs
where
  go : Nat → List Byte → List (List Byte)
    | 0, _ => []
    | n + 1, bs => bs.take 128 :: go n (bs.drop 128)

/-- One request to write bytes at an address, line by line; the requester of line i is f i. -/
def Chip.memWriteReqs (c : Chip) (cls : SlotClass) (a : Nat) (bs : List Byte) (f : Nat → Who) : Chip :=
  (linesOf bs).zipIdx.foldl (fun c e =>
    c.memPut cls { addr := a + 128 * e.2, data := some e.1, who := f e.2 }) c.memTouch
/-- One request to read n lines at an address. -/
def Chip.memReadReqs (c : Chip) (cls : SlotClass) (a n : Nat) (f : Nat → Who) : Chip :=
  (List.range n).foldl (fun c i => c.memPut cls { addr := a + 128 * i, who := f i }) c.memTouch

/-- Ledger registers of channel ch (R292). -/
def slotReg (ch i : Nat) : Nat := 0x00301008 + 0x100 * ch + 8 * i
/-- SOURCE of the PHY of channel ch (R438). -/
def srcPhy (ch : Nat) : Nat := srcOf 12 (1 + ch)

/-- The LFSR of R279 advanced once. -/
def lfsrNext (s : BitVec 32) : BitVec 32 :=
  let fb := (s.getLsbD 31 ^^ s.getLsbD 30) ^^ (s.getLsbD 29 ^^ s.getLsbD 9)
  (s <<< 1) ||| (if fb then 1#32 else 0#32)

/-- MEM_CH_STATUS and MEM_MIT_QMAX follow the mitigation queue. -/
def Chip.mitGauge (c : Chip) (ch : Nat) : Chip :=
  let n := (c.memCh ch).mitq.length
  let a := 0x00301000 + 0x100 * ch
  ((c.setField a 20 16 n).setField a 31 31 (b2n (n = 16))).fieldMax (a + 0x58) 4 0 n

/-- An activate of a row makes one draw (R279); a success queues a draw, or becomes a steal when 16 are queued
(R280). -/
def Chip.draw (c : Chip) (ch addr : Nat) : Chip :=
  let m := c.memCh ch
  let l := lfsrNext m.lfsr
  let c := c.setMemCh ch { m with lfsr := l }
  if l.toNat % 2 ^ (c.field 0x0030000C 4 0) = 0 then
    let d := (bankOf addr, rowOf addr)
    let m := c.memCh ch
    let m := if m.mitq.length < 16 then { m with mitq := m.mitq ++ [d] } else { m with steals := m.steals ++ [d] }
    ((((c.setMemCh ch m).ledAdd (slotReg ch 7)).ledAdd (slotReg ch 9)).count (197 + 8 * ch)).mitGauge ch
  else c

/-- The first request of a list for a bank that passes a test, and the rest. -/
def takeReq (p : Req → Bool) (b : Nat) : List Req → Option (Req × List Req)
  | [] => none
  | r :: rs =>
    if bankOf r.addr = b ∧ p r then some (r, rs)
    else match takeReq p b rs with
      | some (x, xs) => some (x, r :: xs)
      | none => none

/-- The context a STREAM request works for. -/
def Who.context : Who → Option Nat
  | .fill _ n _ => some n
  | .header _ n _ => some n
  | .res _ n _ => some n
  | _ => none

/-- A commanded or automatic switch begins (R287). -/
def Chip.startSwitch (c : Chip) (target : Nat) : Chip :=
  let c := (c.setField memStatus 29 29 1).setRun
  { c with mem := { c.mem with switch := some (target, c.frc) } }

/-- A deferred MEM_FSP stands at the head of the command queue: its target (R286). -/
def Chip.deferredFsp (c : Chip) : Option Nat :=
  match c.cmd.queue with
  | (_, .memFsp target flags) :: _ => if flags % 2 = 1 ∧ !c.cmd.headDone then some target else none
  | _ => none
/-- The command at the head of the queue ends there: a MEM_FSP that ran while its queue waited for a retrain. -/
def Chip.cmdFinishHead (c : Chip) (status state : Nat) : Chip :=
  match c.cmd.queue with
  | [] => c
  | (h, _) :: _ =>
    ({ c with cmd := { c.cmd with headDone := true } }).raise (srcOf 15 51) 0x80D1
      [.cplt h.port h.tag status state (cmdResult h []) false]
/-- A MEM_FSP at the head of the queue while a retrain executes: no action where its target is current, else a retrain
refuses it unless it is deferred (R286). -/
def Chip.headFsp (c : Chip) : Chip :=
  match c.cmd.queue with
  | (_, .memFsp target flags) :: _ =>
    if !c.retraining || c.cmd.headDone || c.switching then c
    else if c.fsp = target then c.cmdFinishHead 0 0
    else if flags % 2 = 0 then c.cmdFinishHead 9 0
    else c
  | _ => c
/-- Between two steps of a retrain a deferred MEM_FSP is judged and executes (R286); the retrain then ends at its target
(log entry 50). -/
def Chip.runDeferred (c : Chip) (taskHeld : Bool) : Chip :=
  match c.deferredFsp with
  | none => c
  | some target =>
    if c.switching then c
    else if c.fsp = target then c.cmdFinishHead 0 0
    else if !c.fspValid target then c.cmdFinishHead 0xA 0
    else if target = 1 ∧ taskHeld ∨ ¬ (c.dev.mode = .ready ∨ c.dev.mode = .lowpower) then
      c.cmdFinishHead 1 c.dev.mode.code
    else
      let c := c.startSwitch target
      { c with mem := { c.mem with trainEnd := target, deferred := true } }

/-- The own rules of MEM_FSP (R286); taskHeld says that a task is admitted. It waits for a switch in progress. -/
def Chip.judgeFsp (c : Chip) (target : Nat) (taskHeld : Bool) : Chip :=
  if c.switching then c
  else if c.fsp = target then c.cmdFinish 0
  else if !c.fspValid target then c.cmdFinish 0xA
  else if target = 1 ∧ taskHeld ∨ ¬ (c.dev.mode = .ready ∨ c.dev.mode = .lowpower) then
    c.cmdFinish 1 [] c.dev.mode.code
  else c.startSwitch target

/-- An access that p selects waits or is on its way. -/
def Chip.memHas (c : Chip) (p : Who → Bool) : Bool :=
  c.mem.ch.any (fun e =>
    (e.2.stream ++ e.2.capture ++ e.2.host).any (fun r => p r.who) || e.2.reads.any (fun r => p r.1.who))

/-- Who a row of a completion waits for. -/
def Who.isSnap : Who → Bool
  | .snap _ => true
  | _ => false
def Who.isFreeze (n : Nat) : Who → Bool
  | .freeze m _ => m == n
  | _ => false
def Who.isThaw (n : Nat) : Who → Bool
  | .thaw m _ => m == n
  | _ => false
def Who.isFill (g : Nat) : Who → Bool
  | .fill h _ _ => h == g
  | _ => false
def Who.isDma (u : Nat) : Who → Bool
  | .dma v _ => v == u
  | _ => false

/-- Takes every queued or arriving read that p selects off the queues. -/
def Chip.dropReads (c : Chip) (p : Who → Bool) : Chip :=
  { c with mem := { c.mem with ch := c.mem.ch.map (fun e => (e.1, { e.2 with
      stream := e.2.stream.filter (fun r => !p r.who)
      host := e.2.host.filter (fun r => !(p r.who && r.data.isNone))
      reads := e.2.reads.filter (fun r => !p r.1.who) })) } }

/-- Who receives the data of an access under way that context n wants no more: nobody, but a ring line's data comes to the
ring (R100, R119, R177). -/
def Who.without (n : Nat) (w : Who) : Who :=
  match w with
  | .header _ m _ | .res _ m _ => if m = n then .gone else w
  | _ => w
/-- Context n wants none of its pattern accesses any more: those that wait leave their queues, and resident and header reads
under way, their retries among them, are discarded as they arrive (R100, R119, R177). -/
def Chip.dropPattern (c : Chip) (n : Nat) : Chip :=
  { c with mem := { c.mem with ch := c.mem.ch.map (fun e => (e.1, { e.2 with
      stream := (e.2.stream.filter (fun r => r.retry || r.who.context != some n)).map
        (fun r => { r with who := r.who.without n })
      reads := e.2.reads.map (fun r => ({ r.1 with who := r.1.who.without n }, r.2)) })) } }

end Sys2Proof.Machine
end

