-- ==== Sys2Proof/Machine/TimeSync.lean ====
section
/-! DEFINITION. TimeSync.lean: time messages, the servo, SYNCIN, SYNCOUT and timed triggers (R325 to R342). -/

namespace Sys2Proof.Machine

/-! ### Time messages -/

/-- A time message of port q that the row names, with the T and FRC of its arrival's stamp: the oldest accepted one, whose
buffer frees, or with none accepted the arrival itself, `sub` after the FRC tick, on an up port (log entry 7). None: the
row does not apply. -/
def Chip.takeTime (c : Chip) (q ttype sub : Nat) (ok : Txn → Bool) : Option (Chip × Int × Nat) :=
  let p := c.port q
  match p.rxTime with
  | t :: ts =>
    if t.1.ttype.toNat = ttype ∧ ok t.1 then some ((c.setPort q { p with rxTime := ts }).freeBuf q 0, t.2) else none
  | [] => if p.up then some (c, c.linkStamp q sub false, c.frc) else none

/-- Reserved fields of a time message (R329): PARAM 31:24, TLEN, and the data bits not listed. -/
def timeClean (t : Txn) (len dataBits : Nat) : Bool :=
  t.param.toNat / 2 ^ 24 == 0 && t.tlen.toNat == len && (len == 8 || t.addr == 0) &&
  (t.data.getD 0 0).toNat / 2 ^ dataBits == 0 && (t.data.getD 1 0) == 0 && t.data.length * 4 == len

/-- A bad time message: it is ignored, and the exchange that it belongs to, which has its SEQID, is not valid (R331). -/
def Chip.timeBad (c : Chip) (q seqid : Nat) : Chip :=
  let c := (c.cntUp 0x00320084).guardReject
  match c.exch q with
  | some e => if e.seqid = seqid then { c with time := { c.time with exch := tabDel c.time.exch q } } else c
  | none => c

/-- SYNC_MESSAGE (R329 to R331). -/
def syncMessage (q seqid route : Nat) (clean : Bool) (sub : Nat) (c : Chip) : Chip :=
  match c.takeTime q 0x20 sub (fun t => t.param.toNat % 2 ^ 16 == seqid && t.param.toNat / 2 ^ 16 % 256 == route &&
      clean == timeClean t 0 32) with
  | none => c
  | some (c, t2, at2) =>
    if !clean then c.timeBad q seqid
    else
      let e : Exch := { seqid := seqid, route := route, t2 := t2, at2 := at2 }
      { c with time := { c.time with exch := tabSet c.time.exch q e } }

/-- 10 ms in ns (R331). -/
def tenMs : Nat := 10000000

/-- FOLLOW (R330, R331): on the time port a DELAY_REQ is owed. -/
def followMessage (q seqid route t1 frac : Nat) (clean : Bool) (c : Chip) : Chip :=
  match c.takeTime q 0x21 0 (fun t => t.param.toNat % 2 ^ 16 == seqid && t.param.toNat / 2 ^ 16 % 256 == route &&
      t.addr.toNat == t1 && (t.data.getD 0 0).toNat % 2 ^ 16 == frac && clean == timeClean t 8 16) with
  | none => c
  | some (c, _, at0) =>
    match c.exch q with
    | none => c.timeBad q seqid
    | some e =>
      if !clean || e.seqid != seqid || e.route != route || decide (e.at2 + tenMs < at0) then c.timeBad q seqid
      else
        let e := { e with t1 := some ((t1 * 65536 + frac : Nat) : Int) }
        { c with time := { c.time with
            exch := tabSet c.time.exch q e, reqOwed := if q = c.time.port then some q else c.time.reqOwed } }

/-- The device number (R364). -/
def Chip.devNum (c : Chip) : Nat := c.field 0x00010008 8 0

/-- DELAY_REQ (R329, R330): queued on the time port. With nothing before it it leaves now; else DATA_FRAME_SEND sends it.
Its stamp t3 is taken as it leaves (R318). -/
def delayReq (q : Nat) (now : Bool) (c : Chip) : Chip :=
  match c.time.reqOwed, c.exch q with
  | some p, some e =>
    if p ≠ q ∨ q ≠ c.time.port ∨ !(c.port q).up then c
    else
      let w1 := c.time.st + b2n (bitOf (c.reg 0x00320004).toNat 27) * 8 + b2n (bitOf (c.reg 0x00320004).toNat 26) * 16
      let f : Frame :=
        { cls := 0
          txn := { ttype := 0x22, tag := 0, tlen := 8, param := BitVec.ofNat 32 (e.seqid + e.route * 2 ^ 16)
                   addr := BitVec.ofNat 64 (nsOf c.timeNow)
                   data := [BitVec.ofNat 32 (c.devNum * 2 ^ 16), BitVec.ofNat 32 w1] } }
      let c := c.updPort q (fun p => { p with timeReady := p.timeReady ++ [f] })
      let c := { c with time := { c.time with reqOwed := none } }
      if now ∧ (c.port q).sends = some f then dataFrameSend q c else c
  | _, _ => c

/-! ### The servo -/

/-- Twice the mean path delay of the route: the mean rtt, 2^-16 ns (R332). -/
def TimeB.mpd2Now (t : TimeB) : Int := if t.rtts = [] then 0 else t.rtts.sum.fdiv t.rtts.length

/-- DISCONTINUITY (R333, R336). -/
def Chip.discontinuity (c : Chip) (theta : Int) : Chip :=
  let c := (c.servo 5).setRate c.time.freq 0
  let ns := roundDiv theta 65536
  (c.setField 0x00320004 26 26 1).raiseErr srcTime 0x030B c.time.port (codeOf 32 (clampS 32 ns))

/-- The single step S (R333). -/
def Chip.timeStep (c : Chip) (s theta : Int) : Chip :=
  if s < -(65536 * 1000000000 : Int) then c.discontinuity theta
  else
    let held := c.timeNow
    let c := { c with time := { c.time with
        offset := c.time.offset + s, hold := if s < 0 then some held else c.time.hold } }
    let c := if s < 0 then c.setField 0x00320004 23 23 1 else c
    ((c.servo 2).setField 0x00320004 28 28 1).raise srcTime 0x80A0 [] none (codeOf 64 s)

/-- The steering of R334. -/
def Chip.steer (c : Chip) (theta : Int) : Chip :=
  let disc : Int := (c.reg 0x00320008).toNat * 65536
  if (theta.natAbs : Int) > disc then c.discontinuity theta
  else
    let freq := clampTo 549755813 (c.time.freq - roundDiv (theta * 2 ^ 40) (65536 * 1000000000))
    let phase := clampTo 219902325 (-(roundDiv (theta * 2 ^ 40) (65536 * 250000000)))
    c.setRate freq phase

/-- One more valid exchange in the current state, which EXCH shows (R344). -/
def Chip.exchUp (c : Chip) : Chip :=
  let n := c.time.inState + 1
  { c with time := { c.time with inState := n } }.setField 0x00320004 7 0 (min n 255)
/-- What the servo does at a valid exchange whose rtt is already counted (R332 to R337). -/
def Chip.servoAct (c : Chip) (theta : Int) : Chip :=
  let t := c.time
  let n := t.collected + 1
  let up (c : Chip) : Chip :=
    let known := decide (64 ≤ t.inState)
    ({ c with time := { c.time with collected := n } }.exchUp).setUncert (c.time.st == 2 && known) 0
  match t.st with
  | 0 =>
    let c := c.servo 1
    { c with time := { c.time with theta1 := theta, collected := 1 } }.exchUp
  | 1 =>
    let c := if n = 1 then { c with time := { c.time with theta1 := theta } } else c
    if n < 16 then up c
    else
      let freq := clampTo 549755813 (-(roundDiv ((theta - c.time.theta1) * 2 ^ 40) (65536 * 937500000)))
      (c.setRate freq 0).timeStep (-theta) theta
  | 2 => up (c.steer theta) |> fun d => if d.time.st = 2 then d else c.steer theta
  | 3 => c.servo 2
  | 4 =>
    if n < 16 then up c
    else
      let bound := (t.rtts.sum.fdiv t.rtts.length - t.mpd2).natAbs / 2
      let ps := min (toPs bound).toNat 0xFFFFFFFF
      let c := c.setReg 0x00320058 (BitVec.ofNat 32 (max ps (c.reg 0x00320058).toNat))
      let c := (c.setField 0x00320004 27 27 1).raiseErr srcTime 0x030C t.port ps
      c.servo (if t.fromDisc then 5 else 2)
  | _ =>
    let disc : Int := (c.reg 0x00320008).toNat * 65536
    let calm := if (theta.natAbs : Int) ≤ disc then t.calm + 1 else 0
    if calm = 16 then c.servo 2 else up { c with time := { c.time with calm := calm } }

/-- TIM_MPD and TIM_THETA of an exchange whose rtt is twice the mean path delay mpd2; theta (R332). -/
def Chip.showTheta (c : Chip) (q : Nat) (tms mpd2 : Int) : Int × Chip :=
  let mpd := mpd2.fdiv 2
  let theta := tms - mpd - ofPs (c.reg (0x00320060 + 4 * q)).toInt
  (theta, (c.setReg 0x00320050 (BitVec.ofInt 32 (toPs mpd))).setReg 0x0032004C
    (BitVec.ofInt 32 (clampS 32 (toPs theta))))
/-- A valid exchange with its round trip and forward delay (R331, R332). One that changes the route is alone on the new route,
and the 16 that ROUTE_HOLD collects come after it (R335). -/
def Chip.validExchange (c : Chip) (q : Nat) (e : Exch) (tms rtt : Int) : Chip :=
  let changed := c.time.any && e.route != c.time.route
  let held := c.time.st == 4
  let c := { c with time := { c.time with
      any := true, route := e.route, outliers := 0, missed := 0, lastValid := c.frc } }
  let c := ((c.cntUp 0x00320080).count (270 + 16 * q)).setField 0x00320004 15 8 e.route
  let c := c.setReg 0x00320054 (BitVec.ofInt 32 (toPs rtt))
  let c := if changed then c.routeChange else c
  if changed && c.time.st == 4 then (if held then c.exchUp else c).showTheta q tms rtt |>.2
  else
    let c := { c with time := { c.time with rtts := (rtt :: c.time.rtts).take 16 } }
    let r := c.showTheta q tms c.time.mpd2Now
    r.2.servoAct r.1

/-- An exchange rejected as an outlier; the 16th in a row is a route change (R331, R335). -/
def Chip.outlier (c : Chip) : Chip :=
  let c := (c.cntUp 0x00320088).guardReject
  let c := { c with time := { c.time with outliers := c.time.outliers + 1 } }
  if c.time.outliers = 16 then c.routeChange else c

/-- DELAY_RESP (R330 to R336); one that names another device's number is no answer to this one (log entry 77), and one of an
exchange begun on a port that is no longer the time port is not used. -/
def delayResp (q seqid devnum t4 frac : Nat) (clean : Bool) (c : Chip) : Chip :=
  match c.takeTime q 0x23 0 (fun t => t.param.toNat % 2 ^ 16 == seqid && t.addr.toNat == t4 &&
      (t.data.getD 0 0).toNat % 2 ^ 16 == frac && (t.data.getD 0 0).toNat / 2 ^ 16 % 512 == devnum &&
      clean == timeClean t 8 25) with
  | none => c
  | some (c, _, at0) =>
    if devnum ≠ c.devNum then (c.cntUp 0x00320084).guardReject else
    match c.exch q with
    | some { seqid := sq, route := rt, t1 := some t1, t2 := t2, t3 := some t3, at2 := a2, at3 := a3 } =>
      let e : Exch := { seqid := sq, route := rt, t1 := some t1, t2 := t2, t3 := some t3, at2 := a2, at3 := a3 }
      let tms := t2 - t1
      let rtt := tms + ((t4 * 65536 + frac : Nat) - t3)
      if !clean || seqid != sq || decide (a3 + tenMs < at0) || decide (rtt < 0) ||
          decide (rtt > 100000 * 65536) then c.timeBad q seqid
      else
        let c := { c with time := { c.time with exch := tabDel c.time.exch q } }
        let test := (c.time.st == 2 || c.time.st == 3) && e.route == c.time.route
        if q ≠ c.time.port then c
        else if test && decide ((rtt - c.time.mpd2Now).natAbs > 1000 * 65536) then c.outlier
        else c.validExchange q e tms rtt
    | _ => c.timeBad q seqid

/-- EXCHANGE_MISSED (R331, R332, R337). -/
def exchangeMissed (c : Chip) : Chip :=
  let c := c.cntUp 0x0032008C
  let n := c.time.missed + 1
  let c := { c with time := { c.time with missed := n } }
  if c.time.st = 2 then
    if n = 4 then
      let known := (c.reg 0x0032005C) != 0xFFFFFFFF
      let c := (c.servo 3).setRate c.time.freq 0
      let c := { c with time := { c.time with known := known } }
      c.setUncert known (25 * ((c.frc - c.time.lastValid) / 1000000))
    else c
  else if c.time.st = 3 then c.setUncert c.time.known (25 * ((c.frc - c.time.lastValid) / 1000000))
  else c

/-- RATE_FOLD (R326): at the next multiple of 2^32 ns of FRC. -/
def rateFold (c : Chip) : Chip :=
  if c.clocked then (c.advanceTo (16 * (2 ^ 32 * (c.frc / 2 ^ 32 + 1)))).fold else c

/-- The least number from lo on, below lo + 2^k, at which a test that stays true holds; else lo + 2^k. -/
def leastFrom (f : Nat → Bool) : Nat → Nat → Nat
  | 0, lo => if f lo then lo else lo + 1
  | k + 1, lo => if f (lo + 2 ^ k - 1) then leastFrom f k lo else leastFrom f k (lo + 2 ^ k)

/-- TIME_HOLD_END (R333): the formula passes the held value. -/
def timeHoldEnd (c : Chip) : Chip :=
  match c.time.hold with
  | none => c
  | some h =>
    let c := c.advanceTo (16 * leastFrom (fun n => decide (h < c.formula (n * 65536))) 32 c.frc)
    if h < c.formula (c.frc * 65536) then
      { c.setField 0x00320004 23 23 0 with time := { c.time with hold := none } }
    else c

/-! ### SYNCIN, triggers, SYNCOUT -/

/-- Base of group g's registers (R402). -/
def grpB (g : Nat) : Nat := 0x00100000 + 0x10000 * g
def Chip.group (c : Chip) (g : Nat) : Group := tabGet {} c.groups g
def Chip.setGroup (c : Chip) (g : Nat) (x : Group) : Chip := { c with groups := tabSet c.groups g x }
/-- Period P of accumulator a of group g (R53). -/
def Chip.period (c : Chip) (g a : Nat) : Nat := c.reg64 (grpB g + 8 * a)
/-- Start of UI n under period p, fine units after the epoch (R52). -/
def uiStart (p n : Nat) : Nat := n * p / 2 ^ 31
/-- The first UI of period p that starts at or after x fine units. -/
def uiFrom (p x : Nat) : Nat := (x * 2 ^ 31 + p - 1) / p
/-- The UI of period p that holds instant x. -/
def uiAt (p x : Nat) : Nat := ((x + 1) * 2 ^ 31 - 1) / p

/-- The word that owns the current frame. -/
def Group.owns (g : Group) : Option SeqWord := g.prog[g.walk.pc]?
/-- The group is in a SYNC word: its own frame or hold frames (R125). -/
def Group.inSync (g : Group) : Bool :=
  (g.st == 1 || g.st == 2) && !g.judged && (match g.owns with | some w => w.op == 0x0F | none => false)

/-- An accepted edge at te (fine units of 1/512 TM on the device's TM count): the first one from the start of the SYNC frame k
to the end of frame k + TIMEOUT places the next word at frame m + DELAY (R125, R126). One sampled before another that was
known sooner takes its place. -/
def Chip.syncEdge (c : Chip) (te : Nat) : Chip :=
  (List.range 12).foldl (fun c n =>
    let g := c.group n
    let p := c.period n g.pa
    let w := g.owns.getD ⟨0, 0, 4, 0, 0, 0, 0⟩
    if g.inSync ∧ (g.syncEnd = none ∨ te < g.syncTe) ∧ 512 * g.epoch + g.syncFrom ≤ te ∧
        te ≤ 512 * g.epoch + uiStart p (g.syncUi + 64 * (w.w3 + 1)) then
      let x := te + 192 * 512 - 512 * g.epoch
      let m := g.syncFrame + (uiAt p x - g.syncUi) / 64
      let delay := w.b2
      -- an edge within 0.5 ns of a frame boundary may fall to either frame (R125)
      let b := uiStart p (g.syncUi + 64 * ((uiAt p x - g.syncUi) / 64))
      let e := uiStart p (g.syncUi + 64 * ((uiAt p x - g.syncUi) / 64 + 1))
      let near := x < b + 8 * 512 || e < x + 8 * 512
      let (v, c) := if near then c.freeVal else (0, c)
      let m := if near && v.getLsbD 0 then (if x < b + 8 * 512 then m - 1 else m + 1) else m
      c.setGroup n { g with syncEnd := some (m + delay), syncTe := te }
    else c) c

/-- The sample of an edge accepted now, 8 ns after it, in 2^-16 ns of FRC (R338). -/
def Chip.edgeAt (c : Chip) (half : Bool) : Nat := (c.frc - 8) * 65536 + (if half then 32768 else 0)
/-- Rounded down to the REFCLK edge that precedes it (R339). -/
def Chip.quantEdge (c : Chip) (te : Nat) : Nat :=
  let d := (ofPs (c.reg 0x00320068).toInt)
  ((te - d) / (10 * 65536) * (10 * 65536)).toNat

/-- SYNC_SRC takes the edges of this kind: SYNCIN 0, timed triggers 1 (R339). -/
def Chip.syncTakes (c : Chip) (kind : Nat) : Bool :=
  c.field 0x00320000 31 30 == kind || c.field 0x00320000 31 30 == 2

/-- A level of fewer than 16 samples of 0.5 ns: under 2 ns a glitch, else a pulse that is too short (R338). -/
def Chip.tooShort (c : Chip) (high : Nat) : Chip :=
  (c.cntUp (if high < 4 then 0x00320094 else 0x00320098)).guardReject
/-- SYNCIN_EDGE (R338 to R340): an edge with the number of 0.5 ns samples for which its level lasted, as seen 8 ns after
the edge. -/
def syncinEdge (half : Bool) (high : Nat) (c : Chip) : Chip :=
  if !c.clocked || c.time.blocked.contains 0 then c
  else if high < 16 then c.tooShort high
  else
    let te := c.edgeAt half
    let te := if bitOf (c.reg 0x00320000).toNat 29 then c.quantEdge te else te
    let c := (c.setReg64 0x00320070 (nsOf (c.timeAt te))).count 312
    let c := if c.syncTakes 0 then c.syncEdge (te / 8) else c
    if c.time.alignArmed then
      let at20 : Int := (te + 20 * 65536) / 4096
      let c := { c with time := { c.time with alignArmed := false }
                        align := codeOf 64 ((c.reg64 0x00320078 : Int) - at20) }
      (c.setField 0x00320004 24 24 1).raise (srcTrigIn 0) 0x80A3
    else c

/-- TRIG_IN (R338). -/
def trigIn (j : Nat) (half : Bool) (high : Nat) (c : Chip) : Chip :=
  if !c.clocked || c.time.blocked.contains (j + 1) then c
  else if high < 16 then c.tooShort high
  else
    let t := c.timeAt (c.edgeAt half)
    (c.setReg64 (0x00320140 + 8 * j) (nsOf t)).raise (srcTrigIn (j + 1)) 0x80A1 [] none (codeOf 64 t)

/-- SYNCIN_LONG (R338): input 0 SYNCIN, 1 to 4 TRIG0 to TRIG3. -/
def syncinLong (i : Nat) (c : Chip) : Chip :=
  if !c.clocked || c.time.blocked.contains i then c
  else
    let c := { c with time := { c.time with blocked := i :: c.time.blocked } }
    ((c.cntUp 0x0032009C).guardReject).raiseErr (srcTrigIn i) 0x030D i 0
/-- INPUT_REARM (R338). -/
def inputRearm (i : Nat) (c : Chip) : Chip :=
  { c with time := { c.time with blocked := c.time.blocked.erase i } }

/-- The next REFCLK rising edge after a TM period; REFCLK and the TM count run in a fixed phase (R339; DEDUCED). -/
def nextRef (tm : Nat) : Nat := (tm / 160 + 1) * 160
/-- A pulse of WIDTH ns on output o: 0 SYNCOUT, 1 TRIGOUT0, 2 TRIGOUT1. SYNCOUT begins 5 ns after the next REFCLK edge,
and a request during a pulse is counted as busy (R341). A TRIGOUT begins 3.0 to 4.0 ns after its t_e (R431): where in that
range is a free value (log entry 4). -/
def Chip.pulse (c : Chip) (o : Nat) : Chip :=
  if c.tm < tabGet 0 c.time.pulses o then (if o = 0 then c.cntUp 0x003200A4 else c)
  else
    let (v, c) := if o = 0 then (0, c) else c.freeVal
    let from_ := if o = 0 then nextRef c.tm + 80 else c.tm + 48 + v.toNat % 17
    { c with time := { c.time with pulses := tabSet c.time.pulses o (from_ + 16 * c.field 0x003200A0 7 0) } }

/-- Control word of timed trigger i. -/
def trigCtrl (i : Nat) : Nat := 0x00320108 + 16 * i
def trigTime (i : Nat) : Nat := 0x00320100 + 16 * i
/-- Timed trigger i fires at the current instant (R342). -/
def Chip.fireTrig (c : Chip) (i : Nat) : Chip :=
  let dest := c.field (trigCtrl i) 3 0
  let c := (c.setField (trigCtrl i) 31 31 0).count 314
  let c := c.raise (srcTrig i) 0x80A2 [] none (nsOf (c.timeAtTm c.tm))
  let c := if bitOf dest 0 && c.syncTakes 1 then c.syncEdge (512 * c.tm) else c
  let c := if bitOf dest 1 then c.pulse 0 else c
  let c := if bitOf dest 2 then c.pulse 1 else c
  if bitOf dest 3 then c.pulse 2 else c

/-- The first 0.5 ns tick of the trigger domain at which T reaches a time in ns (R17, R342), as a TM period. -/
def Chip.tickAt (c : Chip) (ns : Nat) : Nat :=
  8 * leastFrom (fun n => decide ((ns * 65536 : Nat) ≤ c.timeAtTm (8 * n))) 64 ((c.tm + 7) / 8)
/-- TRIG_FIRE (R342). -/
def trigFire (i : Nat) (c : Chip) : Chip :=
  if c.clocked && bitOf (c.reg (trigCtrl i)).toNat 31 then (c.advanceTo (c.tickAt (c.reg64 (trigTime i)))).fireTrig i else c

/-! ### Rows -/

def execSyncMessage (q : Port) (seqid : BitVec 16) (route : Byte) (clean : Bool) (sub : BitVec 16) (s : State) :
    Host.Outcome State Fault Refusal := s.onChip (syncMessage q seqid.toNat route.toNat clean sub.toNat)
def execFollow (q : Port) (seqid : BitVec 16) (route : Byte) (t1 : Dword) (frac : BitVec 16) (clean : Bool)
    (s : State) : Host.Outcome State Fault Refusal :=
  s.onChip (followMessage q seqid.toNat route.toNat t1.toNat frac.toNat clean)
def execDelayReq (q : Port) (now : Bool) (s : State) : Host.Outcome State Fault Refusal := s.onChip (delayReq q now)
def execDelayResp (q : Port) (seqid : BitVec 16) (devnum : BitVec 9) (t4 : Dword) (frac : BitVec 16) (clean : Bool)
    (s : State) : Host.Outcome State Fault Refusal :=
  s.onChip (delayResp q seqid.toNat devnum.toNat t4.toNat frac.toNat clean)
def execExchangeMissed (s : State) : Host.Outcome State Fault Refusal := s.onChip exchangeMissed
def execRateFold (s : State) : Host.Outcome State Fault Refusal := s.onChip rateFold
def execTimeHoldEnd (s : State) : Host.Outcome State Fault Refusal := s.onChip timeHoldEnd
def execSyncinEdge (half : Bool) (high : Nat) (s : State) : Host.Outcome State Fault Refusal :=
  s.onChip (syncinEdge half high)
def execTrigIn (j : Fin 4) (half : Bool) (high : Nat) (s : State) : Host.Outcome State Fault Refusal :=
  s.onChip (trigIn j half high)
def execSyncinLong (i : Fin 5) (s : State) : Host.Outcome State Fault Refusal := s.onChip (syncinLong i)
def execInputRearm (i : Fin 5) (s : State) : Host.Outcome State Fault Refusal := s.onChip (inputRearm i)
def execTrigFire (i : Fin 4) (s : State) : Host.Outcome State Fault Refusal := s.onChip (trigFire i)

end Sys2Proof.Machine
end

