-- ==== Sys2Proof/Machine/TaskOps.lean ====
section
/-! DEFINITION. TaskOps.lean: contexts, handles, what admitted tasks hold, the arithmetic of admission, and guards
(R155 to R161, R184). -/

namespace Sys2Proof.Machine

/-! ### Contexts -/

def Chip.ctx (c : Chip) (n : Nat) : Ctx := tabGet {} c.sched.ctxs n
def Chip.setCtx (c : Chip) (n : Nat) (x : Ctx) : Chip :=
  { c with sched := { c.sched with ctxs := tabSet c.sched.ctxs n x } }
def Chip.updCtx (c : Chip) (n : Nat) (f : Ctx → Ctx) : Chip := c.setCtx n (f (c.ctx n))
/-- A context in states 1 to 7 (R165), or one whose creation waits for acceptance (R29). -/
def Ctx.live (x : Ctx) : Bool := x.gen != 0 && decide (x.st ≤ 7)
/-- It is in its slot for good: no thaw of it is under way (R182). -/
def Ctx.onChip (x : Ctx) : Bool := x.resident && (match x.move with
  | some m => !m.1
  | none => true)
/-- A freeze of it is under way (R181). -/
def Ctx.freezing (x : Ctx) : Bool := match x.move with
  | some m => !m.1
  | none => false
/-- The handle of context n (R160). -/
def Ctx.handle (x : Ctx) (n : Nat) : Nat := x.gen * 4096 + n
/-- The live context that a handle names (R160). -/
def Chip.findTask (c : Chip) (h : Nat) : Option Nat :=
  let n := h % 4096
  if (c.ctx n).live ∧ (c.ctx n).gen = h / 4096 then some n else none
/-- Live contexts. -/
def Chip.liveCtxs (c : Chip) : List (Nat × Ctx) := c.sched.ctxs.filter (fun e => e.2.live)
/-- The status of context n: its code, and the IMAGE_ID of its image (R141, R161; log entry 70). -/
def Chip.taskStatus (c : Chip) (n : Nat) : Nat × Nat := ((c.ctx n).status, (c.ctx n).imageId)
/-- The handle for an error record that concerns a context. -/
def Chip.taskOf (c : Chip) (n : Option Nat) : Nat :=
  match n with
  | some n => (c.ctx n).handle n
  | none => noTask

def Chip.image (c : Chip) (h : Nat) : Image := tabGet {} c.images.loaded h
def Chip.imageLoaded (c : Chip) (h : Nat) : Bool := c.images.loaded.any (fun e => e.1 = h)
/-- The envelope of the image of context n. -/
def Chip.env (c : Chip) (n : Nat) : Env := (c.image (c.ctx n).image).env

/-- Contexts that hold resources (R174 to R177). -/
def Chip.holders (c : Chip) : List Nat := (c.sched.ctxs.filter (fun e => e.2.held)).map (·.1)
/-- A task is admitted. -/
def Chip.anyAdmitted (c : Chip) : Bool := c.holders != []
/-- Bits that f gives, over every admitted task. -/
def Chip.heldBits (c : Chip) (f : Env → Nat) : Nat := c.holders.foldl (fun m n => m ||| f (c.env n)) 0
/-- A unit of the kind f is owned by an admitted task (R44, R222, R239, R255, R263). -/
def Chip.unitOwned (c : Chip) (f : Env → Nat) (i : Nat) : Bool := bitOf (c.heldBits f) i
/-- The context that holds device site s (R156). -/
def Chip.siteOwner (c : Chip) (s : Nat) : Option Nat :=
  c.holders.find? (fun n => (c.ctx n).siteBase ≤ s && decide (s < (c.ctx n).siteBase + (c.env n).siteCount))

/-! ### Queue depths (R184) -/

/-- Contexts in READY or ADMIT-WAIT with priority q. -/
def Chip.qdepth (c : Chip) (q : Nat) : Nat :=
  c.sched.ctxs.countP (fun e => (e.2.st == 3 || e.2.st == 4) && e.2.prio == q)
/-- TSK_QMAX keeps the largest depth (R184). -/
def Chip.qmax (c : Chip) : Chip :=
  (List.range 8).foldl (fun c q =>
    let d := c.qdepth q
    if (c.reg (0x00200120 + 4 * q)).toNat < d then c.setReg (0x00200120 + 4 * q) (BitVec.ofNat 32 d) else c) c

/-! ### Admission arithmetic (R155) -/

/-- MB/s of bytes in one window, rounded up; the window length in ps is 4096 × 64 × P × 62.5 / 2^40, that is P × 125 / 2^23. -/
def mbps (e : Env) (bytes : Nat) : Nat :=
  let d := e.refPeriod * 125
  (bytes * 1000000 * 2 ^ 23 + d - 1) / d
/-- Capture demand in MB/s. -/
def Env.cap (e : Env) : Nat := mbps e (16 * e.siteRate.sum)
/-- Groups of a mask. -/
def bitsIn (m n : Nat) : List Nat := (List.range n).filter (fun i => bitOf m i)
/-- The envelope fits no device (R155). -/
def Env.neverFits (e : Env) : Bool :=
  (bitsIn e.groups 12).any (fun g =>
    decide (e.resBytes.getD g 0 > 3 * 2 ^ 20) || decide (mbps e (128 * e.fillLines.getD g 0) > 32000)) ||
  (List.range 8).any (fun ch => decide (mbps e (128 * e.streamSlots.getD ch 0) > 16000)) ||
  decide (e.cap > 16000)

/-- Free resources of an admission pass (R155). -/
structure FreeRes where
  groups : Nat
  tdc : Nat
  crc : Nat
  sb : Nat
  conv : Nat
  xcmp : Nat
  acc : Nat
  sites : List (Nat × Nat)
  stream : List Nat
  capture : Nat
  deriving DecidableEq, Repr

/-- What a task's envelope takes from the free resources. -/
def FreeRes.take (f : FreeRes) (e : Env) (base : Nat) : FreeRes :=
  { groups := f.groups ||| e.groups, tdc := f.tdc ||| e.tdcPins, crc := f.crc ||| e.crcUnits, sb := f.sb ||| e.sbPorts
    conv := f.conv ||| e.adcConv, xcmp := f.xcmp ||| e.xcmp, acc := f.acc ||| e.adcAcc
    sites := (base, e.siteCount) :: f.sites
    stream := (List.range 8).map (fun ch => f.stream.getD ch 0 - mbps e (128 * e.streamSlots.getD ch 0))
    capture := f.capture - e.cap }
/-- What admitted tasks hold, and the rates they leave. -/
def Chip.freeRes (c : Chip) : FreeRes :=
  c.holders.foldl (fun f n => f.take (c.env n) (c.ctx n).siteBase)
    { groups := 0, tdc := 0, crc := 0, sb := 0, conv := 0, xcmp := 0, acc := 0, sites := []
      stream := List.replicate 8 16000, capture := 16000 }
/-- fits_now of R155. -/
def FreeRes.fits (f : FreeRes) (e : Env) (base : Nat) : Bool :=
  e.groups &&& f.groups == 0 && e.tdcPins &&& f.tdc == 0 && e.crcUnits &&& f.crc == 0 && e.sbPorts &&& f.sb == 0 &&
  e.adcConv &&& f.conv == 0 && e.xcmp &&& f.xcmp == 0 && e.adcAcc &&& f.acc == 0 &&
  f.sites.all (fun s => decide (base + e.siteCount ≤ s.1) || decide (s.1 + s.2 ≤ base)) &&
  (List.range 8).all (fun ch => decide (mbps e (128 * e.streamSlots.getD ch 0) ≤ f.stream.getD ch 0)) &&
  decide (e.cap ≤ f.capture)

/-! ### Guards (R157) -/

/-- One excess of guard `unit` of context n: the first in the burst raises ENVELOPE_BREACH with the window number, and
every one after the first adds to BREACH (R16, R157). The first counts too: BREACH is the task's breach count. -/
def Chip.breach (c : Chip) (src n unit : Nat) : Chip :=
  let x := c.ctx n
  let c := c.setCtx n { x with breach := min (x.breach + 1) 0xFFFFFFFF
                               fired := if unit ∈ x.fired then x.fired else unit :: x.fired }
  if unit ∈ x.fired then c else c.raiseErr src 0x0300 unit x.window (x.handle n)

/-- The window of R144 that holds the current instant, for a burst that started at TM period t. -/
def Chip.windowNow (c : Chip) (e : Env) (t : Nat) : Nat :=
  (c.tm - t) * 2 ^ 40 / (4096 * 64 * e.refPeriod)
/-- The window counts of context n restart when a later window has begun (R144, R157). -/
def Chip.rollWindow (c : Chip) (n : Nat) : Chip :=
  let x := c.ctx n
  if x.st ≠ 6 ∧ x.st ≠ 7 ∧ x.pend ≠ some 6 then c
  else
    let w := c.windowNow (c.env n) x.startTm
    if x.window < w then
      let c := c.setCtx n { x with window := w, siteWin := [] }
      { c with mem := { c.mem with
          streamUsed := c.mem.streamUsed.filter (fun e => e.1 / 8 ≠ n) } }
    else c

end Sys2Proof.Machine
end

