-- ==== Sys2Proof/Machine/Moraine.lean ====
section
/-! DEFINITION. Moraine.lean: records from their queues to the result rings, pushes and acknowledgement (R196 to R208). -/

namespace Sys2Proof.Machine

/-! ### Registers and ledgers (R210) -/

/-- Device ledger i of R210: 0 TAG_FREE, 1 HELD, 2 TAKEN, 3 RELEASED, 4 CREATED, 5 COMMITTED, 6 DROP_QUOTA, 7 DROP_FULL,
8 IN_CROSSING, 9 RATE, 10 QUEUE, 11 RING. -/
def morLed (i : Nat) : Nat := 0x00210008 + 8 * i
/-- Ledger i of site s: 0 CREATED, 1 COMMITTED, 2 DQ, 3 DF, 4 INFLIGHT, 5 DR. -/
def siteLed (s i : Nat) : Nat := 0x00211000 + 64 * s + 8 * i
/-- Registers of ring k. -/
def ringB (k : Nat) : Nat := 0x00216000 + 64 * k
def ringCfg (k : Nat) : Nat := ringB k + 8
def ringWr (k : Nat) : Nat := ringB k + 0x10
def ringAck (k : Nat) : Nat := ringB k + 0x18
def ringPushed (k : Nat) : Nat := ringB k + 0x20
def ringStatus (k : Nat) : Nat := ringB k + 0x2C
def siteUsed (s : Nat) : Nat := 0x00211038 + 64 * s
def siteRingReg (s : Nat) : Nat := 0x0021103C + 64 * s

def Chip.ring (c : Chip) (k : Nat) : RingSt := tabGet {} c.mor.rings k
def Chip.setRing (c : Chip) (k : Nat) (r : RingSt) : Chip :=
  { c with mor := { c.mor with rings := tabSet c.mor.rings k r } }
def Chip.ringOn (c : Chip) (k : Nat) : Bool := bitOf (c.reg (ringCfg k)).toNat 31
/-- Size in bytes of ring k (R204). -/
def Chip.ringSize (c : Chip) (k : Nat) : Nat := 2 ^ c.field (ringCfg k) 21 16
/-- Tags that ring k holds. -/
def RingSt.tags (r : RingSt) : Nat := r.held.length + (r.lines.map (fun l => l.sites.length)).sum
/-- SOURCE of Moraine and of ring k (R438). -/
def srcMor : Nat := srcOf 15 1
def srcRing (k : Nat) : Nat := srcOf 15 (2 + k)

/-! ### Creation and crossing (R199) -/

/-- Depth of queue i: Q-REC 0 to 11, Q-SBLOG 12 to 14 (R18). -/
def recDepth (i : Nat) : Nat := if i < 12 then 64 else 16
/-- Units of a record (R144). -/
def Rec.units (r : Rec) : Nat := if r.wide then 2 else 1

/-- A record dropped as DROPPED_FULL, and a queue of a group counts it (R390 kind 4). -/
def Chip.dropFull (c : Chip) (i site : Nat) (reason : Option Nat) : Chip :=
  let c := (c.ledAdd (morLed 7)).ledAdd (siteLed site 3)
  let c := match reason with
    | some l => c.ledAdd (morLed l)
    | none => c
  if i < 12 then c.count (16 * i + 4) else c
/-- A record dropped as DROPPED_QUOTA. -/
def Chip.dropQuota (c : Chip) (i site : Nat) (rate : Bool) : Chip :=
  let c := (c.ledAdd (morLed 6)).ledAdd (siteLed site 2)
  let c := if rate then (c.ledAdd (morLed 9)).ledAdd (siteLed site 5) else c
  if i < 12 then c.count (16 * i + 4) else c

/-- A record is created and enters its queue, or finds it full (R39, R199). -/
def Chip.makeRec (c : Chip) (i : Nat) (r : Rec) : Chip :=
  let c := (c.ledAdd (morLed 4)).ledAdd (siteLed r.site 0)
  let q := tabGet [] c.mor.queues i
  if recDepth i ≤ q.length then c.dropFull i r.site (some 10)
  else
    let c := (c.ledAdd (morLed 8)).ledAdd (siteLed r.site 4)
    { c with mor := { c.mor with queues := tabSet c.mor.queues i (q ++ [r]) } }

/-! ### Admission (R200, R201) -/

/-- The record takes a tag of ring k. -/
def Chip.admitRec (c : Chip) (k : Nat) (r : Rec) : Chip :=
  let c := ((c.ledMove (morLed 0) (morLed 1)).ledAdd (morLed 2)).count 299
  let peak := (c.ledger (morLed 1)).toNat
  let c := c.fieldMax 0x00210068 17 0 peak
  let g := c.ring k
  c.setRing k { g with held := g.held ++ [(r, c.frc)] }

/-- RECORD_ADMISSION: the tests of R200 on the oldest record of queue i. The UNIT of a breach names the site as the task
counts its sites (R157; DESIGN CHOICE, log entry 97). -/
def recordAdmission (i : Nat) (c : Chip) : Chip :=
  match tabGet [] c.mor.queues i with
  | [] => c
  | r :: rs =>
    let s := r.site
    let c := { c with mor := { c.mor with queues := tabSet c.mor.queues i rs } }
    let c := c.ledSub (morLed 8)
    let own := c.siteOwner s
    let c := match own with
      | some n => c.rollWindow n
      | none => c
    let rel := match own with
      | some n => s - (c.ctx n).siteBase
      | none => 0
    let used := (c.reg (siteUsed s)).toNat
    let quota := match own with
      | some n => (c.env n).siteQuota.getD rel 0
      | none => 0xFFFFFFFF
    let win := match own with
      | some n => tabGet 0 (c.ctx n).siteWin rel
      | none => 0
    let rate := match own with
      | some n => (c.env n).siteRate.getD rel 0
      | none => 0xFFFFFFFF
    let k := c.field (siteRingReg s) 3 0
    let gone (c : Chip) : Chip := c.ledSub (siteLed s 4)
    if quota ≠ 0xFFFFFFFF ∧ quota < used + r.units then (gone c).dropQuota i s false
    else if own.isSome ∧ rate < win + r.units then
      let c := (gone c).dropQuota i s true
      match own with
      | some n => c.breach srcMor n (0x0100 + rel)
      | none => c
    else if !c.ringOn k || decide (c.field (ringB k + 0xC) 17 0 ≤ (c.ring k).tags) then
      (gone c).dropFull i s (some 11)
    else if c.ledger (morLed 0) = 0 then (gone c).dropFull i s none
    else
      let c := c.setReg (siteUsed s) (BitVec.ofNat 32 (used + r.units))
      let c := match own with
        | some n => c.updCtx n (fun x => { x with siteWin := tabSet x.siteWin rel (win + r.units) })
        | none => c
      c.admitRec k r

/-- ENVELOPE_WINDOW (R144): the next window of context n begins. -/
def envelopeWindow (n : Nat) (c : Chip) : Chip :=
  let x := c.ctx n
  if x.st ≠ 6 ∧ x.st ≠ 7 ∧ x.pend ≠ some 6 then c
  else
    let p := (c.env n).refPeriod
    let t := x.startTm + ((x.window + 1) * (4096 * 64 * p) + 2 ^ 40 - 1) / 2 ^ 40
    (c.advanceTo t).rollWindow n

/-! ### Lines (R205) -/

/-- Slots of the next line: a 32-byte record starts at an even slot, and a slot no record fills is a PAD. The records
taken, and whether they fill the line. -/
def packLine : List (Rec × Nat) → Nat → List (Option Rec) → List (Option Rec) × Nat × Bool
  | [], u, acc => (acc.reverse, u, decide (8 ≤ u))
  | (r, _) :: rs, u, acc =>
    if r.wide then
      let pad := u % 2
      if 8 < u + pad + 2 then (acc.reverse, u, true)
      else packLine rs (u + pad + 2) (some r :: (if pad = 1 then none :: acc else acc))
    else if 8 < u + 1 then (acc.reverse, u, true)
    else packLine rs (u + 1) (some r :: acc)

/-- Bytes of a line. -/
def lineBytes (l : List (Option Rec)) : List Byte :=
  let b := l.flatMap (fun x => match x with
    | some r => r.words.flatMap (toLe 8)
    | none => List.replicate 16 0)
  (b ++ List.replicate 128 0).take 128

/-- Ring k has room for one more line (R205). -/
def Chip.ringRoom (c : Chip) (k : Nat) : Bool :=
  decide (c.reg64 (ringWr k) + 128 * (c.ring k).lines.length - c.reg64 (ringAck k) + 128 ≤ c.ringSize k)
/-- Ring k has a line to write. -/
def Chip.ringReady (c : Chip) (k : Nat) : Bool :=
  let g := c.ring k
  g.held != [] && ((packLine g.held 0 []).2.2 || g.flushDue) && c.ringRoom k
/-- The ring that the round robin serves next. -/
def Chip.ringTurn (c : Chip) : Option Nat :=
  ((List.range 16).map (fun i => (c.mor.lastRing + 1 + i) % 16)).find? (fun k => c.ringReady k)

/-- RING_LINE_WRITE (R205). -/
def ringLineWrite (k : Nat) (c : Chip) : Chip :=
  if c.ringTurn ≠ some k then c
  else
    let g := c.ring k
    let p := packLine g.held 0 []
    let recs := p.1.filterMap id
    let off := c.reg64 (ringWr k) + 128 * g.lines.length
    let rest := g.held.drop recs.length
    let c := c.setRing k { g with
      held := rest, lines := g.lines ++ [{ off := off, sites := recs.map (·.site) }], flushDue := false }
    let c := { c with mor := { c.mor with lastRing := k } }
    c.memReq .capture
      { addr := c.reg64 (ringB k) + off % c.ringSize k, data := some (lineBytes p.1), who := .ring k (off / 128) }

/-- FLUSH_TIMEOUT (R205). -/
def flushTimeout (k : Nat) (c : Chip) : Chip :=
  match (c.ring k).held with
  | [] => c
  | (_, at0) :: _ =>
    let c := c.advanceTo (16 * (at0 + c.field 0x00210000 15 0))
    let g := c.ring k
    if (packLine g.held 0 []).2.2 then c else c.setRing k { g with flushDue := true }

/-- A push of ring k is raised: the mark follows WR (R206). -/
def Chip.pushRing (c : Chip) (k : Nat) : Chip :=
  let wr := c.reg64 (ringWr k)
  let g := c.ring k
  (c.setRing k { g with mark := wr, ages := [] }).raise (srcRing k) 0x8070 [.push k wr]

/-- A line write of ring k has completed. -/
def Chip.lineWritten (c : Chip) (k i : Nat) : Chip :=
  let g := c.ring k
  c.setRing k { g with lines := g.lines.map (fun l =>
    if l.off = 128 * i ∧ !l.written then { l with written := true, writtenAt := c.frc } else l) }
/-- The first push condition of R206 is tested: WR − mark has reached THRESH lines. -/
def Chip.pushIfDue (c : Chip) (k : Nat) : Chip :=
  if c.field (ringB k + 0x28) 31 16 * 128 ≤ c.reg64 (ringWr k) - (c.ring k).mark then c.pushRing k else c

/-- The oldest line of ring k commits (R205, R206). -/
def Chip.commitLine (c : Chip) (k : Nat) : Chip :=
  match (c.ring k).lines with
  | [] => c
  | l :: ls =>
    if !l.written then c
    else
      let n := l.sites.length
      let c := c.setRing k { c.ring k with lines := ls, ages := (c.ring k).ages ++ [l.writtenAt] }
      let c := c.setReg64 (ringWr k) (c.reg64 (ringWr k) + 128)
      let c := (((c.ledAdd (morLed 5) n).ledMove (morLed 1) (morLed 0) n).ledAdd (morLed 3) n).count 300 n
      let c := l.sites.foldl (fun c s => (c.ledAdd (siteLed s 1)).ledSub (siteLed s 4)) c
      c.pushIfDue k

/-- PUSH_MAXAGE (R206). -/
def pushMaxage (k : Nat) (c : Chip) : Chip :=
  match (c.ring k).ages with
  | [] => c
  | a :: _ => (c.advanceTo (16 * (a + 1000 * c.field (ringB k + 0x28) 15 0))).pushRing k

/-! ### Push transactions (R206, R316) -/

/-- One PUSH frame. -/
def pushFrame (last : Bool) (poison lines : Nat) (dataMode : Bool) (k addr seq frc : Nat) (data : List Byte) : Frame :=
  { cls := 0
    txn := { ttype := 0x11, tag := 0, tlen := BitVec.ofNat 16 (16 + data.length)
             param := BitVec.ofNat 32 (b2n last * 2 ^ 31 + poison * 256 + lines * 32 + b2n dataMode * 16 + k)
             addr := BitVec.ofNat 64 addr, data := twoWords seq ++ twoWords frc ++ bytesToWords data } }

/-- Cirque accepted a push: PUSHED follows, and the transaction is made ready, in DATA mode once its lines are read. -/
def Chip.pushAccepted (c : Chip) (k wr seq : Nat) : Chip :=
  let start := c.reg64 (ringPushed k)
  let c := c.setReg64 (ringPushed k) wr
  if bitOf (c.reg (ringCfg k)).toNat 30 then
    let id := c.mor.nextPush
    let n := (wr - start) / 128
    let c := { c with mor := { c.mor with
        nextPush := id + 1
        pushes := tabSet c.mor.pushes id
          { ring := k, wr := wr, start := start, lines := n, seq := seq, frc := c.frc } } }
    (List.range n).foldl (fun c i => c.memPut .host
      { addr := c.reg64 (ringB k) + (start + 128 * i) % c.ringSize k, who := .push id i }) c.memTouch
  else c.enqueue (c.pushPort k) (pushFrame true 0 0 false k wr seq c.frc [])

/-- A line of a DATA-mode push arrived; the frames leave when all have. -/
def Chip.pushLine (c : Chip) (id i : Nat) (bad : Bool) (data : List Byte) : Chip :=
  match c.mor.pushes.find? (fun e => e.1 = id) with
  | none => c
  | some (_, p) =>
    let p := { p with got := tabSet p.got i (bad, data) }
    if p.got.length < p.lines then { c with mor := { c.mor with pushes := tabSet c.mor.pushes id p } }
    else
      let c := { c with mor := { c.mor with pushes := tabDel c.mor.pushes id } }
      (List.range ((p.lines + 3) / 4)).foldl (fun c j =>
        let ls := (p.got.drop (4 * j)).take 4
        let poison := (ls.zipIdx.map (fun e => b2n e.1.2.1 * 2 ^ e.2)).sum
        c.enqueue (c.pushPort p.ring)
          (pushFrame (decide (p.lines ≤ 4 * j + 4)) poison ls.length true p.ring (p.start + 512 * j) p.seq p.frc
            (ls.flatMap (fun e => e.2.2)))) c

/-! ### Acknowledgement (R207) -/

/-- The status of an acknowledgement of ring k to a value, and the device after it. -/
def Chip.ackRing (c : Chip) (k v : Nat) : Nat × Chip :=
  if !c.ringOn k then (1, c)
  else if v % 128 ≠ 0 ∨ v < c.reg64 (ringAck k) ∨ c.reg64 (ringWr k) < v then (6, c.setField (ringStatus k) 30 30 1)
  else (0, c.setReg64 (ringAck k) v)

/-- RING_ACK (R207, R313). -/
def ringAckTxn (q : Nat) (tag : Byte) (k v : Nat) (c : Chip) : Chip :=
  c.request q { ttype := 6, tag := tag, tlen := 0, param := BitVec.ofNat 32 k, addr := BitVec.ofNat 64 v, data := [] }
    (fun c =>
      let r := c.ackRing k v
      r.2.reply q tag r.1)

/-! ### Rows -/

def execRecordAdmission (src : Fin 15) (s : State) : Host.Outcome State Fault Refusal := s.onChip (recordAdmission src)
def execEnvelopeWindow (n : CtxNo) (s : State) : Host.Outcome State Fault Refusal := s.onChip (envelopeWindow n)
def execRingLineWrite (k : Ring) (s : State) : Host.Outcome State Fault Refusal := s.onChip (ringLineWrite k)
def execFlushTimeout (k : Ring) (s : State) : Host.Outcome State Fault Refusal := s.onChip (flushTimeout k)
def execPushMaxage (k : Ring) (s : State) : Host.Outcome State Fault Refusal := s.onChip (pushMaxage k)
def execRingAck (q : Port) (tag : Byte) (k : Ring) (value : Dword) (s : State) : Host.Outcome State Fault Refusal :=
  s.onChip (ringAckTxn q tag k value.toNat)

end Sys2Proof.Machine
end

