-- ==== Sys2Proof/Machine/Tdc.lean ====
section
/-! DEFINITION. Tdc.lean: time-interval measurement (R211 to R228). -/

namespace Sys2Proof.Machine

def Chip.tdcPin (c : Chip) (p : Nat) : Tdc := tabGet {} c.tdc.pins p
def Chip.setTdc (c : Chip) (p : Nat) (t : Tdc) : Chip := { c with tdc := { c.tdc with pins := tabSet c.tdc.pins p t } }
/-- Registers of pin p's TDC (R228), ledger i: 0 ARMED, 1 ACCEPTED, 2 NO_STOP, 3 EARLY_STOP, 4 PENDING. -/
def tdcB (p : Nat) : Nat := 0x00221000 + 0x100 * p
def tdcLed (p i : Nat) : Nat := tdcB p + 0x80 + 8 * i
/-- SOURCE of pin p's TDC (R438). -/
def srcTdc (p : Nat) : Nat := srcOf (p / 8) (2 + p % 8)

/-! ### What feeds a TDC (R62, R215, R216) -/

/-- Registers of pin p (R50, R402). -/
def pinB (p : Nat) : Nat := 0x00108000 + 0x10000 * (p / 8) + 0x800 * (p % 8)
/-- PIN_CFG.CMP_EN (R62). -/
def Chip.cmpEn (c : Chip) (p : Nat) : Bool := bitOf (c.reg (pinB p + 4)).toNat 28
/-- GRP_FCK_CTRL.MODE (R65). -/
def Chip.fckMode (c : Chip) (g : Nat) : Nat := c.field (grpB g + 0x2C) 31 30

/-! ### Plan entries (R218) -/

def planByte (e : List Byte) (i : Nat) : Nat := (e.getD i 0).toNat
def planNat (e : List Byte) (i n : Nat) : Nat := leNat ((e.drop i).take n)
def Tdc.startSrc (t : Tdc) : Nat := planByte t.entry 0 % 8
def Tdc.stopSrc (t : Tdc) : Nat := planByte t.entry 2 % 8
/-- OPEN and CLOSE in fs (R217). -/
def Tdc.openFs (t : Tdc) : Nat := planNat t.entry 4 4 * 62500
def Tdc.closeFs (t : Tdc) : Nat := planNat t.entry 8 4 * 62500
def Tdc.flag (t : Tdc) (i : Nat) : Bool := bitOf (planByte t.entry 0x11) i

/-- Pins of group g that a plan names (R215, R216, R222). -/
def tdcPlanPins (g : Nat) (e : List Byte) : List Nat :=
  [0, 2].filterMap (fun i => if planByte e i % 8 = 3 then some (8 * g + planByte e (i + 1) % 8) else none)
/-- An event in UI u is one of the start source of pin p's plan (R215): STROBE in the UI of a played frame that START_ARG
names, FRAME in UI 0 of a played or hold frame (log entry 74), FCK in any FCK mode but off, PIN while CMP_EN of that pin
is 1. -/
def Chip.tdcStartLive (c : Chip) (p u : Nat) : Bool :=
  let t := c.tdcPin p
  let st := (c.group (p / 8)).st
  match t.startSrc with
  | 0 => st == 1 && u == planByte t.entry 1
  | 1 => (st == 1 || st == 2) && u == 0
  | 2 => c.fckMode (p / 8) != 0
  | 3 => c.cmpEn (8 * (p / 8) + planByte t.entry 1 % 8)
  | _ => false
/-- The stop source of pin p's plan gives events: a comparator's edges while its CMP_EN is 1, FCK as for a start. -/
def Chip.tdcStopLive (c : Chip) (p : Nat) : Bool :=
  let t := c.tdcPin p
  match t.stopSrc with
  | 2 => c.fckMode (p / 8) != 0
  | 3 => c.cmpEn (8 * (p / 8) + planByte t.entry 3 % 8)
  | _ => c.cmpEn p

/-- FINE[k] of pin p at an LSB code: the calibrated table, nominally k × L (R211, R212). -/
def Chip.fine (c : Chip) (p code k : Nat) : Nat :=
  match (tabGet [] c.cal.vals.fine p)[code]? with
  | some t => t.getD k (k * 500 * (code + 1))
  | none => k * 500 * (code + 1)
/-- TDC_ZERO[p][start source][stop source] in fs (R213). -/
def Chip.tdcZero (c : Chip) (p a b : Nat) : Int := (tabGet [] c.cal.vals.zero p).getD (4 * a + b) 0

/-! ### Lanes and records -/

/-- The device site of a lane under the site map of the task that owns its group (R146). -/
def Chip.laneSite (c : Chip) (n lane : Nat) : Nat := ((c.ctx n).siteBase + (c.ctx n).siteMap.getD lane 0) % 128
/-- The lane's first-fail frame (R191). -/
def laneReg8 (l : Nat) : Nat := 0x00214000 + 32 * l
def Chip.laneFirst (c : Chip) (l : Nat) : Option Nat :=
  let v := c.reg64 (laneReg8 l + 0x10)
  if v.testBit 63 then some (v % 2 ^ 40) else none
/-- INFO of a record of lane l (R196). -/
def Chip.laneInfo (c : Chip) (l typ site frame : Nat) (wide lane stall : Bool) : Nat :=
  let ninth := decide (96 ≤ l)
  let first := c.laneFirst l == some (frame % 2 ^ 40)
  b2n ninth * 2 ^ 62 + b2n first * 2 ^ 61 + b2n wide * 2 ^ 60 + b2n lane * 2 ^ 59 + b2n stall * 2 ^ 58 +
  typ * 2 ^ 54 + site * 2 ^ 47 + (if ninth then 0 else l % 8) * 2 ^ 44 + (if ninth then l - 96 else l / 8) * 2 ^ 40 +
  frame % 2 ^ 40
/-- The frame record frame began after the burst's first pause (R133). -/
def Group.afterStall (g : Group) (frame : Nat) : Bool :=
  match g.stallFrom with
  | some f => decide (f ≤ frame)
  | none => false

/-- The shot record of a completed attempt (R226). -/
def Chip.shotRec (c : Chip) (p : Nat) (t : Tdc) (noStop atRes : Bool) (res : Int) : Chip :=
  if !t.flag 2 then c
  else
    let g := c.group (p / 8)
    let now := c.timeAtTm c.tm
    let frame := if t.started then t.startFrame else g.frame - 1
    let ns := if t.started then t.startNs else stampNs now
    let fr := if t.started then t.startFrac else stampFrac now
    let w0 := b2n noStop * 2 ^ 62 + b2n atRes * 2 ^ 61 + codeOf 48 res
    let site := c.laneSite t.ctx p
    c.makeRec (p / 8)
      { site := site, wide := true, ctx := some t.ctx
        words := [w0, c.laneInfo p 4 site frame true false (g.afterStall frame), t.shots,
                  ns + fr * 2 ^ 32 + min t.early 255 * 2 ^ 40] }

/-! ### Snapshots (R224, R225) -/

/-- Integer square root. -/
def isqrt (n : Nat) : Nat := go 128 0
where
  go : Nat → Nat → Nat
    | 0, r => r
    | i + 1, r => if (r + 2 ^ i) * (r + 2 ^ i) ≤ n then go i (r + 2 ^ i) else go i r

/-- mean of R224. -/
def TdcAcc.mean (a : TdcAcc) : Int := if a.count = 0 then 0 else roundDiv a.sum a.count
/-- sd of R224. -/
def TdcAcc.sd (a : TdcAcc) : Nat :=
  if a.count = 0 then 0
  else
    let d := (a.count * a.sumsq : Int) - a.sum * a.sum
    (isqrt (4 * d.toNat / (a.count * a.count)) + 1) / 2

/-- Starts a snapshot of pins: one copy of every accumulator, cleared on request (R225). -/
def Chip.tdcSnapStart (c : Chip) (pins : List Nat) (clear byGo : Bool) : Chip :=
  let snap : TdcSnap := { seq := c.lastSeq, byGo := byGo, copies := pins.map (fun p => (p, (c.tdcPin p).acc)) }
  let c := { c with tdc := { c.tdc with busy := some snap } }
  if clear then pins.foldl (fun c p => c.setTdc p { c.tdcPin p with acc := {} }) c else c

/-- AUTO_SNAP of one pin: it waits while a snapshot runs (R225). -/
def Chip.tdcAutoSnap (c : Chip) (p : Nat) : Chip :=
  if c.tdc.busy.isSome then { c with tdc := { c.tdc with waiting := c.tdc.waiting ++ [p] } }
  else c.tdcSnapStart [p] false false

/-- The result registers of one pin from its copy (R224, R228). -/
def Chip.tdcResults (c : Chip) (p seq : Nat) (a : TdcAcc) : Chip :=
  let b := tdcB p
  let none0 (x : Int) : Nat := if a.count = 0 then 0 else codeOf 64 x
  let c := (c.setReg64 (b + 0x40) a.count).setReg64 (b + 0x48) (codeOf 64 a.mean)
  let c := (c.setReg64 (b + 0x50) (a.sd % 2 ^ 40)).setReg64 (b + 0x58) (none0 a.min)
  let c := (c.setReg64 (b + 0x60) (none0 a.max)).setReg64 (b + 0x68) seq
  c.setReg (b + 0x70) (BitVec.ofNat 32 (b2n (a.count ≠ 0) * 2 ^ 31 + b2n a.atRes * 2 ^ 30 + b2n a.full * 2 ^ 29 +
    b2n (a.mixed || decide (1 < a.lsbs.length)) * 2 ^ 28 + a.lsbs.headD 0))

/-- TDC_SNAP_DONE is accepted: the results stand in TDC_RES, BUSY ends, and an AUTO_SNAP that waits starts (R29, R225). -/
def Chip.tdcResultsOut (c : Chip) : Chip :=
  match c.tdc.busy with
  | none => c
  | some s =>
    if !s.done then c
    else
      let c := s.copies.foldl (fun c e => c.tdcResults e.1 s.seq e.2) c
      let c := if s.byGo then c.setReg64 0x00220018 s.seq else c
      let c := { c with tdc := { c.tdc with busy := none } }
      match c.tdc.waiting with
      | [] => c
      | p :: ps => ({ c with tdc := { c.tdc with waiting := ps } }).tdcSnapStart [p] false false
/-- TDC_SNAP_DONE (R225): the results are computed; they stand from the event's acceptance on (R29). -/
def tdcSnapDone (c : Chip) : Chip :=
  match c.tdc.busy with
  | none => c
  | some s =>
    if s.done then c
    else ({ c with tdc := { c.tdc with busy := some { s with done := true } } }).raise (srcOf 15 56) 0x8031
      [.tdcResults] none s.seq

/-! ### Attempts (R214, R220) -/

/-- A new attempt opens; `keep` keeps its start (R40). -/
def Chip.tdcOpen (c : Chip) (p : Nat) (keep : Bool) : Chip :=
  let t := c.tdcPin p
  let t := if keep then { t with opened := true }
    else { t with opened := true, started := false, dead := false, refAt := c.tm, earlyAt := none }
  ((c.setTdc p t).ledAdd (tdcLed p 0)).ledAdd (tdcLed p 4)

/-- One shot of the budget is used; at 0 the pin is disarmed, with AUTO_SNAP and TDC_DONE, whose acceptance shows it (R29,
R220). -/
def Chip.tdcShot (c : Chip) (p : Nat) : Chip :=
  let t := c.tdcPin p
  if !t.armed || t.unlimited then c
  else if 1 < t.left then c.setTdc p { t with left := t.left - 1 }
  else
    let c := c.setTdc p { t with left := 0, armed := false, ending := true }
    let c := if t.flag 1 then c.tdcAutoSnap p else c
    c.raise (srcTdc p) 0x8030 [.tdcDone p] none (p + t.plan * 2 ^ 8 + t.acc.count * 2 ^ 32)

/-- The open attempt ends NO_STOP; a shot is used unless the burst or a re-arming ends it (R220, R221). -/
def Chip.tdcNoStop (c : Chip) (p : Nat) (shot : Bool) : Chip :=
  let t := c.tdcPin p
  let c := (c.ledSub (tdcLed p 4)).ledAdd (tdcLed p 2)
  let t' := { t with shots := t.shots + 1, opened := false, dead := t.started || shot }
  let c := (c.setTdc p t').setReg64 (tdcB p + 8) (2 ^ 62)
  let c := c.shotRec p t' true false 0
  let c := c.setTdc p { c.tdcPin p with early := if t.flag 2 then 0 else (c.tdcPin p).early, started := false }
  if shot then c.tdcShot p else c

/-- TDC_RESULT (R213, R223, R226). -/
def tdcResult (p : Nat) (c : Chip) : Chip :=
  let t := c.tdcPin p
  match t.conv with
  | none => c
  | some (raw, atRes) =>
    let x : Int := if atRes then 0 else raw - c.tdcZero p t.startSrc t.stopSrc
    let a := t.acc
    let full := decide (2 ^ 32 ≤ a.count)
    let a' : TdcAcc :=
      if full then { a with full := true }
      else
        { a with count := a.count + 1, sum := a.sum + x, sumsq := a.sumsq + (x * x).toNat
                 min := if a.count = 0 then x else min a.min x, max := if a.count = 0 then x else max a.max x
                 atRes := a.atRes || atRes, lsbs := t.lsb :: a.lsbs.filter (fun l => l ≠ t.lsb) }
    let t' := { t with conv := none, acc := a', shots := t.shots + 1 }
    let c := c.setTdc p t'
    let c := if full then c.cntUp (tdcB p + 0x7C) else c
    let c := if atRes then c.setField (tdcB p) 27 27 1 else c
    let c := c.setReg64 (tdcB p + 8) (b2n atRes * 2 ^ 61 + codeOf 48 x)
    let c := (c.shotRec p { t' with started := true } false atRes x).setTdc p
      { t' with early := if t.flag 2 then 0 else t'.early, started := false }
    c.tdcShot p

/-- TDC_START (R214, R215): an event of pin p's start source, in UI u of its group's frame. -/
def tdcStart (p u : Nat) (c : Chip) : Chip :=
  let t := c.tdcPin p
  if !c.tdcStartLive p u then c
  else if t.dead then c.cntUp (tdcB p + 0x74)
  else if t.opened && !t.started then
    let now := c.timeAtTm c.tm
    c.setTdc p { t with started := true, startFrame := (c.group (p / 8)).frame - 1, startNs := stampNs now,
                        startFrac := stampFrac now, refAt := c.tm }
  else c

/-- An early stop at an instant, in fs of the TM count: EARLY_STOP, and a new attempt in the same window (R40). One less than
0.5 ns from the last counted is one with it (R220). -/
def Chip.tdcEarly (c : Chip) (p fs : Nat) : Chip :=
  let t := c.tdcPin p
  let same := match t.earlyAt with
    | some m => decide (fs < m + 500000) && decide (m < fs + 500000)
    | none => false
  if same then c else
  let c := c.setTdc p { t with early := t.early + 1, earlyAt := some fs }
  let c := ((c.ledSub (tdcLed p 4)).ledAdd (tdcLed p 3)).count (16 * (p / 8) + 13)
  (c.ledAdd (tdcLed p 0)).ledAdd (tdcLed p 4)

/-- TDC_STOP (R211, R216, R217, R220): a stop edge, coarse TM periods and ring code k after the start, or before one after the
attempt's opening. -/
def tdcStop (p coarse k : Nat) (c : Chip) : Chip :=
  let t := c.tdcPin p
  let raw := coarse * 62500 + c.fine p t.lsb k
  if t.dead || !t.opened || !c.tdcStopLive p then c
  else if !t.started then c.tdcEarly p (t.refAt * 62500 + raw)
  else
    if raw < t.openFs then c.tdcEarly p (t.refAt * 62500 + raw)
    else if raw ≤ t.closeFs then
      let c := ((c.ledSub (tdcLed p 4)).ledAdd (tdcLed p 1)).count (16 * (p / 8) + 12)
      c.setTdc p { t with opened := false, dead := true, conv := some (raw, decide (raw < 500 * (t.lsb + 1))) }
    else c.tdcNoStop p true

/-- TDC_WINDOW_CLOSE (R217). -/
def tdcWindowClose (p : Nat) (c : Chip) : Chip :=
  let t := c.tdcPin p
  if t.opened && t.started then c.tdcNoStop p true else c

/-- TDC_DEAD_TIME_END (R214, R220): a conversion still on its way arrives first. -/
def tdcDeadTimeEnd (p : Nat) (c : Chip) : Chip :=
  if !(c.tdcPin p).dead then c
  else
    let c := tdcResult p c
    let c := c.setTdc p { c.tdcPin p with dead := false }
    if (c.tdcPin p).armed then c.tdcOpen p false else c

/-! ### Arming and disarming (R220, R221) -/

/-- ARMT on one pin. -/
def Chip.tdcArm (c : Chip) (p n plan : Nat) (e : List Byte) : Chip :=
  let t := c.tdcPin p
  let c := if t.armed ∨ t.ending then
      let c := tdcResult p c
      let c := if (c.tdcPin p).opened then c.tdcNoStop p false else c
      c.cntUp (tdcB p + 0x78)
    else tdcResult p c
  let t := c.tdcPin p
  let shots := planNat e 0x0C 4
  let lsb := planByte e 0x10 % 8
  let other := t.acc.count != 0 && t.acc.lsbs.headD lsb != lsb
  let c := c.setTdc p { t with
    armed := true, ctx := n, plan := plan, entry := e, left := shots, unlimited := shots == 0, opened := false
    started := false, dead := false, shots := 0, ending := false, earlyAt := none, lsb := lsb
    acc := if bitOf (planByte e 0x11) 0 then {} else { t.acc with mixed := t.acc.mixed || other } }
  c.tdcOpen p false

/-- Burst end, abort or quiesce of context n: every open attempt ends NO_STOP and its pin is disarmed; a conversion
already stopped completes, and a dead time goes on (R214, R220). -/
def Chip.tdcBurstEnd (c : Chip) (n : Nat) : Chip :=
  (List.range 96).foldl (fun c p =>
    let t := c.tdcPin p
    if t.armed ∧ t.ctx = n then
      let c := if t.opened then c.tdcNoStop p false else c
      c.setTdc p { c.tdcPin p with armed := false }
    else c) c

/-- TDC_DONE of pin p is accepted. -/
def Chip.tdcEnded (c : Chip) (p : Nat) : Chip := c.setTdc p { c.tdcPin p with ending := false }

/-! ### Rows -/

def execTdcStart (start : PinUi) (s : State) : Host.Outcome State Fault Refusal :=
  s.onChip (tdcStart start.pin start.ui)
def execTdcStop (p : Pin) (coarse fine : Nat) (s : State) : Host.Outcome State Fault Refusal :=
  s.onChip (tdcStop p coarse fine)
def execTdcResult (p : Pin) (s : State) : Host.Outcome State Fault Refusal := s.onChip (tdcResult p)
def execTdcWindowClose (p : Pin) (s : State) : Host.Outcome State Fault Refusal := s.onChip (tdcWindowClose p)
def execTdcDeadTimeEnd (p : Pin) (s : State) : Host.Outcome State Fault Refusal := s.onChip (tdcDeadTimeEnd p)
def execTdcSnapDone (s : State) : Host.Outcome State Fault Refusal := s.onChip tdcSnapDone

end Sys2Proof.Machine
end

