-- ==== Sys2Proof/Machine/Adc.lean ====
section
/-! DEFINITION. Adc.lean: the parametric monitor (R229 to R248). Register writes answer a status and the device. -/

namespace Sys2Proof.Machine

def Chip.conv (c : Chip) (k : Nat) : Adc := tabGet {} c.adc.conv k
def Chip.setConv (c : Chip) (k : Nat) (a : Adc) : Chip := { c with adc := { c.adc with conv := tabSet c.adc.conv k a } }
def Chip.xcmp (c : Chip) (x : Nat) : Xcmp := tabGet {} c.adc.xcmp x
def Chip.setXcmp (c : Chip) (x : Nat) (a : Xcmp) : Chip := { c with adc := { c.adc with xcmp := tabSet c.adc.xcmp x a } }
def Chip.acc (c : Chip) (u : Nat) : Acc := tabGet {} c.adc.acc u
def Chip.setAcc (c : Chip) (u : Nat) (a : Acc) : Chip := { c with adc := { c.adc with acc := tabSet c.adc.acc u a } }

/-- Registers of converter k; ledger i: 0 CONVERTED, 1 ACCUMULATED, 2 DISCARDED, 3 EXCLUDED, 4 IN_CROSSING (R246). -/
def convB (k : Nat) : Nat := 0x00230100 + 0x100 * k
def convLed (k i : Nat) : Nat := convB k + 0x58 + 8 * i
/-- SOURCE of converter k (R438). -/
def srcConv (k : Nat) : Nat := srcOf 14 (4 + k)

/-! ### Plans (R236, R237) -/

def adcConvOf (p : List Byte) : Nat := planByte p 0 % 4
def adcKind (p : List Byte) : Nat := planByte p 0 / 4 % 4
def adcCmp (p : List Byte) : Nat := planByte p 0 / 16
def adcLen (p : List Byte) : Nat := planByte p 1
def adcFlag (p : List Byte) (i : Nat) : Bool := bitOf (planByte p 2) i
def adcEdge (p : List Byte) : Nat := planByte p 2 / 4 % 4
def adcNsBase (p : List Byte) : Nat := planNat p 4 4
def adcLimit (p : List Byte) : Nat := planNat p 0x0C 4
/-- ENTRY[i], and its fields: input, DIFF, gain code, OSR m, unit, EXP. -/
def adcEntry (p : List Byte) (i : Nat) : Nat := planNat p (0x10 + 3 * i) 3
def entInput (e : Nat) : Nat := e % 128
def entDiff (e : Nat) : Bool := bitOf e 7
def entGain (e : Nat) : Nat := bitsOf e 10 8
def entOsr (e : Nat) : Nat := bitsOf e 14 11
def entUnit (e : Nat) : Nat := bitsOf e 20 15
def entExp (e : Nat) : Nat := bitsOf e 23 21
/-- Accumulator units that a plan names. -/
def adcUnits (p : List Byte) : List Nat := ((List.range (adcLen p)).map (fun i => entUnit (adcEntry p i))).dedup

/-- DIFF is allowed on an input (R230). -/
def diffOk (input : Nat) (diff : Bool) : Bool := !diff || (input % 2 == 0 && decide (96 ≤ input) && decide (input ≤ 110))
/-- A plan entry breaks no rule of R237. -/
def adcPlanOk (p : List Byte) : Bool :=
  let k := adcKind p
  let n := adcLen p
  let x := k == 1
  k != 3 && decide (1 ≤ n) && decide (n ≤ 16) && decide (1 ≤ adcNsBase p) && decide (adcNsBase p ≤ 2 ^ 24) &&
  planByte p 2 / 64 == 0 && planByte p 3 == 0 && (x || adcCmp p == 0) && (x == (adcEdge p != 0)) &&
  (if x then decide (planNat p 8 2 < 4096) && decide (planByte p 0x0A < 64) &&
      diffOk (planByte p 0x0B % 128) (decide (128 ≤ planByte p 0x0B))
    else planNat p 8 2 == 0 && planByte p 0x0A == 0 && planByte p 0x0B == 0) &&
  (k != 2 || decide (10 ≤ adcLimit p)) && (k != 0 || adcLimit p == 0) &&
  (List.range n).all (fun i =>
    let e := adcEntry p i
    decide (entGain e ≤ 4) && decide (entOsr e ≤ 10) && diffOk (entInput e) (entDiff e) &&
    decide (adcNsBase p * 2 ^ entExp e ≤ 2 ^ 28)) &&
  ((p.drop (0x10 + 3 * n)).take (0x30 - 3 * n)).all (fun b => b == 0)

/-- Settling samples of an OSR code (R241). -/
def settle (m : Nat) : Nat := if m = 0 then 1 else 3
/-- d_i of R233. -/
def adcDisc (p : List Byte) (i : Nat) : Nat :=
  if 0 < i ∧ adcEntry p i % 2 ^ 15 = adcEntry p (i - 1) % 2 ^ 15 then 0 else settle (entOsr (adcEntry p i))

/-! ### Accumulators and snapshots (R243, R244) -/

/-- What CLEAR sets to 0 (R244). -/
def Acc.clear (a : Acc) : Acc :=
  { a with sum := 0, count := 0, min := 0, max := 0, discard := 0, exclude := 0, orcnt := 0, full := false, mixed := false }
def Chip.clearAccs (c : Chip) (us : List Nat) : Chip := us.foldl (fun c u => c.setAcc u (c.acc u).clear) c

/-- ADC_ACC_FLAGS (R248). -/
def Acc.flags (a : Acc) : Nat :=
  b2n (a.count ≠ 0) * 2 ^ 31 + b2n a.settled * 2 ^ 30 + b2n a.ovr * 2 ^ 29 + b2n a.full * 2 ^ 28 +
  b2n a.mixed * 2 ^ 27 + b2n a.signed * 2 ^ 26 + b2n a.align * 2 ^ 25
/-- The result registers of one unit, from its copy. -/
def Chip.accResult (c : Chip) (u seq : Nat) (a : Acc) : Chip :=
  let b := 0x00231000 + 0x40 * u
  let none0 (x : Int) : Nat := if a.count = 0 then 0 else codeOf 64 x
  let c := ((c.setReg64 b (codeOf 64 a.sum)).setReg (b + 8) (BitVec.ofNat 32 a.count)).setReg (b + 0xC)
    (BitVec.ofNat 32 a.flags)
  let c := (c.setReg64 (b + 0x10) (none0 a.min)).setReg64 (b + 0x18) (none0 a.max)
  let c := ((c.setReg (b + 0x20) (BitVec.ofNat 32 a.discard)).setReg (b + 0x24) (BitVec.ofNat 32 a.exclude)).setReg
    (b + 0x28) (BitVec.ofNat 32 a.orcnt)
  c.setReg64 (b + 0x30) seq
/-- A snapshot of units starts: one copy of each, cleared on request. The result registers take the copies one cycle later,
before any later row reads them (R244; DEDUCED, log entry 11). -/
def Chip.adcSnapStart (c : Chip) (us : List Nat) (clear : Bool) : Chip :=
  let s := c.lastSeq
  let copies := us.map (fun u => (u, c.acc u))
  let c := { c with adc := { c.adc with snap := some (s, copies) } }
  let c := if clear then c.clearAccs us else c
  let c := (copies.foldl (fun c e => c.accResult e.1 s e.2) c).setReg64 0x00230018 s
  c.raise (srcOf 14 8) 0x8043 [.adcResults] none s
/-- AUTO_SNAP of units: it waits while a snapshot runs (R235). -/
def Chip.adcAutoSnap (c : Chip) (us : List Nat) : Chip :=
  if c.adc.snap.isSome then { c with adc := { c.adc with snapWait := c.adc.snapWait ++ [us] } }
  else c.adcSnapStart us false
/-- ADC_SNAP_DONE is accepted: BUSY ends, and an AUTO_SNAP that waits starts (R29, R235). -/
def Chip.adcResultsOut (c : Chip) : Chip :=
  match c.adc.snap with
  | none => c
  | some _ =>
    match c.adc.snapWait with
    | [] => { c with adc := { c.adc with snap := none } }
    | us :: rest => ({ c with adc := { c.adc with snap := none, snapWait := rest } }).adcSnapStart us false

/-! ### Launching and arming (R234, R235, R238) -/

/-- The sequence holds its converter: one that stops does so to the end of its conversion (R240). -/
def AdcRun.holds (r : AdcRun) (frc : Nat) : Bool := !(r.stopping && decide (r.clock + 100 ≤ frc))
/-- Converter k is BUSY: a sequence holds it, or has ended with an ADC_DONE that is not accepted (R29, R234). -/
def Chip.adcBusy (c : Chip) (k : Nat) : Bool := (c.conv k).run.any (fun r => r.holds c.frc) || (c.conv k).ending
/-- A launch of a plan on its converter: src 0 ADCT, 1 crossing, 2 timer, 3 register. -/
def Chip.adcStart (c : Chip) (p : List Byte) (index src : Nat) (task : Option Nat) : Chip :=
  let k := adcConvOf p
  let a := c.conv k
  if c.adcBusy k then
    ((c.cntUp (convB k + 0x48)).count 308).raise (srcConv k) 0x8041
  else
    let r : AdcRun := { plan := p, index := index, src := src, task := task, disc := adcDisc p 0, clock := c.frc }
    let c := c.setConv k { a with run := some r, hist := [] }
    if adcKind p = 0 && adcFlag p 4 then c.clearAccs (adcUnits p) else c

/-- Arming a KIND 1 or KIND 2 plan; a timer launches at once. -/
def Chip.adcArmPlan (c : Chip) (p : List Byte) (index : Nat) (task : Option Nat) : Chip :=
  let c := if adcFlag p 4 then c.clearAccs (adcUnits p) else c
  if adcKind p = 1 then
    c.setXcmp (adcCmp p) { c.xcmp (adcCmp p) with
      armed := some (p, index, task), left := adcLimit p, conv := adcConvOf p, watch := p, low := false, high := false }
  else
    let k := adcConvOf p
    (c.setConv k { c.conv k with timer := some (p, index, task, c.frc + 100 * adcLimit p) }).adcStart p index 2 task

/-- What a plan uses lies inside masks of converters, comparators and units. -/
def adcInside (p : List Byte) (e : Env) : Bool :=
  bitOf e.adcConv (adcConvOf p) && (adcKind p != 1 || bitOf e.xcmp (adcCmp p)) &&
  (adcUnits p).all (fun u => bitOf e.adcAcc u)
/-- ADCT of context n, plan entry `index` (R121, R239). -/
def Chip.adcWord (c : Chip) (src n index : Nat) : Chip :=
  let p := (c.ctx n).adcPlan.getD index []
  if !adcInside p (c.env n) then c.breach src n 0x0200
  else if adcKind p = 0 then c.adcStart p index 0 (some n)
  else c.adcArmPlan p index (some n)

/-- A sequence under way is to stop at the end of its conversion; one whose conversions are all made is ending already. -/
def AdcRun.stop (r : AdcRun) : AdcRun := { r with stopping := r.stopping || decide (r.entry < adcLen r.plan) }
/-- Admission takes the units of an envelope from the driver (R240). -/
def Chip.adcTake (c : Chip) (e : Env) : Chip :=
  let c := (bitsIn e.adcConv 4).foldl (fun c k =>
    let a := c.conv k
    let c := c.setConv k { a with run := a.run.map AdcRun.stop, timer := none }
    if a.run.any (fun r => !r.stopping && r.stop.stopping) then c.cntUp (convB k + 0x50) else c) c
  (bitsIn e.xcmp 16).foldl (fun c x => c.setXcmp x { c.xcmp x with armed := none }) c
/-- Burst end, abort or quiesce of context n (R240): nothing is counted. -/
def Chip.adcBurstEnd (c : Chip) (n : Nat) : Chip :=
  let c := (List.range 4).foldl (fun c k =>
    let a := c.conv k
    let run := a.run.map (fun r => if r.task = some n then r.stop else r)
    let timer := match a.timer with
      | some t => if t.2.2.1 = some n then none else some t
      | none => none
    c.setConv k { a with run := run, timer := timer }) c
  (List.range 16).foldl (fun c x =>
    match (c.xcmp x).armed with
    | some (_, _, some m) => if m = n then c.setXcmp x { c.xcmp x with armed := none } else c
    | _ => c) c

/-! ### Samples (R229 to R233, R241, R242, R245) -/

/-- A conversion of an input at a voltage in nV under an entry's DIFF and gain: its 16-bit code, to the nearest, and the
direction of an input outside the range (R229, R232). -/
def adcConvert (e : Nat) (v : Int) : Int × Option Bool :=
  let full : Int := 1250000000
  let x := v * 2 ^ entGain e
  let lo : Int := if entDiff e then -32768 else 0
  let hi : Int := if entDiff e then 32767 else 65535
  if full < x then (hi, some true)
  else if x < (if entDiff e then -full else 0) then (lo, some false)
  else (max lo (min hi (roundDiv (x * (if entDiff e then 32768 else 65536)) full.toNat)), none)
/-- Weight of the conversion i before the last in a sinc3 average of ratio r: the i-th coefficient of (1 + z + … +
z^(r − 1))^3 (R229). -/
def sincWeight (r i : Nat) : Int :=
  let tri (n : Nat) : Int := if i < n then 0 else (i - n + 1) * (i - n + 2) / 2
  tri 0 - 3 * tri r + 3 * tri (2 * r) - tri (3 * r)
/-- The decimator's sum over its span: r^3 times the average. -/
def sincSum (r : Nat) (hist : List (Int × Option Bool)) : Int :=
  ((hist.take (3 * r)).zipIdx.map (fun e => e.1.1 * sincWeight r e.2)).sum
/-- The sample of R232 from conversions, newest first, at OSR 2^m; the last is the direction of the first over-range
conversion of the span. Bits of the average below the 16 fraction bits are dropped (DESIGN CHOICE, log entry 25). -/
def adcCode (diff align : Bool) (m : Nat) (hist : List (Int × Option Bool)) : Int × Option Bool :=
  let lo : Int := if diff then -32768 else 0
  let hi : Int := if diff then 32767 else 65535
  let one : Int := if align then 65536 else 1
  let span := hist.take (if m = 0 then 1 else 3 * 2 ^ m)
  match (span.filterMap (·.2)).getLast? with
  | some true => (hi * one, some true)
  | some false => (lo * one, some false)
  | none =>
    if m = 0 then ((hist.headD (0, none)).1 * one, none)
    else
      let sum := sincSum (2 ^ m) hist
      (max (lo * one) (min (hi * one) (if align then (sum * 65536).fdiv (2 ^ (3 * m)) else roundDiv sum (2 ^ (3 * m)))), none)

/-- One conversion of converter k, 100 ns after the one before it; it may complete a sample (R229, R233, R242). A sequence that
stops does so after it (R240). -/
def Chip.adcConversion (c : Chip) (k : Nat) (v : Int) : Chip :=
  match (c.conv k).run with
  | none => c
  | some r =>
    if adcLen r.plan ≤ r.entry then c
    else
      let e := adcEntry r.plan r.entry
      let m := entOsr e
      let due := r.clock + 100
      let c := c.advanceTo (16 * due)
      let a := c.conv k
      let x := adcConvert e v
      let hist := (x :: a.hist).take 3072
      let orAt := if x.2.isSome then some (due - 100) else a.orAt
      let r := { r with clock := due, made := r.made + 1 }
      let left (r : AdcRun) : Option AdcRun := if r.stopping then none else some r
      if r.made < 2 ^ m then c.setConv k { a with run := left r, hist := hist, orAt := orAt }
      else
        let y := adcCode (entDiff e) (adcFlag r.plan 0) m hist
        let start := due - (if m = 0 then 100 else 300 * 2 ^ m)
        let suspect := y.2.isNone && (match orAt with
          | some t => decide (start ≤ t + 1500)
          | none => false)
        let disc := r.disc ≠ 0
        let z : Samp :=
          { unit := entUnit e, kind := if disc then 1 else if suspect then 2 else 0, value := y.1
            signed := entDiff e, align := adcFlag r.plan 0, ovr := y.2.isSome }
        let ns := adcNsBase r.plan * 2 ^ entExp e
        let r := { r with made := 0 }
        let r := if disc then { r with disc := r.disc - 1 }
          else if r.taken + 1 < ns then { r with taken := r.taken + 1 }
          else { r with entry := r.entry + 1, taken := 0, disc := adcDisc r.plan (r.entry + 1) }
        let c := c.setConv k { a with run := left r, orAt := orAt, hist := hist, samples := a.samples ++ [z] }
        ((c.ledAdd (convLed k 0)).ledAdd (convLed k 4)).count 304
/-- Conversions still to be made for the next sample of converter k. -/
def Chip.adcLeft (c : Chip) (k : Nat) : Nat :=
  match (c.conv k).run with
  | some r => 2 ^ entOsr (adcEntry r.plan r.entry) - r.made
  | none => 0
/-- ADC_SAMPLE: converter k converts its input at the given voltages in nV, up to its next sample (R229). Fewer than the
sample needs are conversions of a sample not finished yet (R240, R242). -/
def adcSample (k : Nat) (volts : List Int) (c : Chip) : Chip :=
  (volts.take (c.adcLeft k)).foldl (fun c v => c.adcConversion k v) c

/-- ADC_SAMPLE_JUDGED: the oldest sample leaves Q-SAMP. -/
def adcSampleJudged (k : Nat) (c : Chip) : Chip :=
  match (c.conv k).samples with
  | [] => c
  | x :: xs =>
    let c := (c.setConv k { c.conv k with samples := xs }).ledSub (convLed k 4)
    let a := c.acc x.unit
    if x.kind = 1 then
      ((c.setAcc x.unit { a with discard := min (a.discard + 1) 0xFFFFFFFF, settled := false }).ledAdd
        (convLed k 2)).count 305
    else if x.kind = 2 then
      ((((c.setAcc x.unit { a with exclude := min (a.exclude + 1) 0xFFFFFFFF }).cntUp (convB k + 0x4C)).ledAdd
        (convLed k 3)).count 306).guardReject
    else if 2 ^ 31 ≤ a.count then
      ((c.setAcc x.unit { a with exclude := min (a.exclude + 1) 0xFFFFFFFF, full := true }).ledAdd (convLed k 3)).count 306
    else
      let mixed := a.mixed || (a.count != 0 && (a.signed != x.signed || a.align != x.align))
      let a := { a with
        sum := a.sum + x.value, count := a.count + 1, settled := true, mixed := mixed
        min := if a.count = 0 then x.value else min a.min x.value
        max := if a.count = 0 then x.value else max a.max x.value
        signed := x.signed, align := x.align, ovr := a.ovr || x.ovr
        orcnt := if x.ovr then min (a.orcnt + 1) 0xFFFFFFFF else a.orcnt }
      let c := (c.setAcc x.unit a).ledAdd (convLed k 1)
      if x.ovr then c.guardReject.raise (srcConv k) 0x8042 else c

/-- ADC_SEQUENCE_END (R235). With DONE_EVT the converter shows BUSY until ADC_DONE is accepted (R29). -/
def adcSequenceEnd (k : Nat) (c : Chip) : Chip :=
  match (c.conv k).run with
  | none => c
  | some r =>
    if r.entry < adcLen r.plan then c
    else
      let c := c.setConv k { c.conv k with run := none, ending := adcFlag r.plan 1 }
      let c := if adcFlag r.plan 5 then c.adcAutoSnap (adcUnits r.plan) else c
      if adcFlag r.plan 1 then c.raise (srcConv k) 0x8040 [.adcDone k] none (k + r.index * 2 ^ 8 + r.src * 2 ^ 16) else c
/-- ADC_DONE of converter k is accepted. -/
def Chip.adcEnded (c : Chip) (k : Nat) : Chip := c.setConv k { c.conv k with ending := false }

/-- A voltage in nV against a threshold in codes of a comparator's plan: below 0, equal 0, above 0 (R238). -/
def xcmpAgainst (p : List Byte) (v : Int) (code : Int) : Int :=
  v * 4096 - code * (if 128 ≤ planByte p 0x0B then 2500000000 else 1250000000)
/-- THRESH in codes: signed for a differential input (R238). -/
def xcmpThresh (p : List Byte) : Int :=
  let t := planNat p 8 2 % 4096
  if 128 ≤ planByte p 0x0B then signedOf 12 t else t
/-- XCMP_CROSSING (R238): comparator x judges its input at a voltage in nV. A crossing of a selected edge counts, and
launches while the comparator is armed; it goes on watching the input of the plan that it was last armed with. -/
def xcmpCrossing (x : Nat) (v : Int) (c : Chip) : Chip :=
  let a := c.xcmp x
  let p := a.watch
  if p = [] then c
  else
    let t := xcmpThresh p
    let hyst : Int := planByte p 0x0A % 64
    let rises := decide (0 < xcmpAgainst p v t) && a.low
    let falls := decide (xcmpAgainst p v t < 0) && a.high
    let a := { a with
      above := decide (0 < xcmpAgainst p v t)
      low := (a.low && !rises) || decide (xcmpAgainst p v (t - hyst) < 0)
      high := (a.high && !falls) || decide (0 < xcmpAgainst p v (t + hyst)) }
    let c := c.setXcmp x a
    if !((rises && bitOf (adcEdge p) 0) || (falls && bitOf (adcEdge p) 1)) then c
    else
      let c := (c.cntUp (0x00230604 + 16 * x)).count 307
      match a.armed with
      | none => c
      | some (p, i, task) =>
        let c := if adcLimit p = 0 then c
          else if a.left ≤ 1 then c.setXcmp x { a with left := 0, armed := none }
          else c.setXcmp x { a with left := a.left - 1 }
        c.adcStart p i 1 task

/-- ADC_TIMER (R234). -/
def adcTimer (k : Nat) (c : Chip) : Chip :=
  match (c.conv k).timer with
  | none => c
  | some (p, i, task, due) =>
    let c := c.advanceTo (16 * due)
    (c.setConv k { c.conv k with timer := some (p, i, task, due + 100 * adcLimit p) }).adcStart p i 2 task

/-! ### Register writes -/

def Chip.convOwned (c : Chip) (k : Nat) : Bool := c.unitOwned (·.adcConv) k
/-- The 64 bytes of ADC_RPLAN[k]. -/
def Chip.rplan (c : Chip) (k : Nat) : List Byte :=
  wordsToBytes ((List.range 16).map (fun i => c.reg (convB k + 4 * i)))
/-- A unit that a plan names is owned (R239). -/
def Chip.planOwned (c : Chip) (p : List Byte) : Bool :=
  c.convOwned (adcConvOf p) || (adcKind p == 1 && c.unitOwned (·.xcmp) (adcCmp p)) ||
  (adcUnits p).any (fun u => c.unitOwned (·.adcAcc) u)

/-- ADC_CTRL[k] (R246): DISARM, then LAUNCH or ARM. -/
def Chip.adcCtrl (c : Chip) (k v : Nat) : Nat × Chip :=
  let p := c.rplan k
  let launch := bitOf v 0
  let arm := bitOf v 1
  if c.convOwned k || ((launch || arm) && c.planOwned p) then (1, c)
  else if (launch || arm) && !adcPlanOk p then (6, c)
  else if (launch && adcKind p != 0) || (arm && adcKind p == 0) then (6, c)
  else if (launch || arm) && !c.agreed 10 then (7, c)
  else
    let c := if bitOf v 2 then
        let c := c.setConv k { c.conv k with timer := none }
        (List.range 16).foldl (fun c x =>
          match (c.xcmp x).armed with
          | some (q, _, none) => if adcConvOf q = k then c.setXcmp x { c.xcmp x with armed := none } else c
          | _ => c) c
      else c
    let c := if launch then c.adcStart p 0 3 none else c
    (0, if arm then c.adcArmPlan p 0 none else c)

/-- ADC_SNAP_CMD (R244). -/
def Chip.adcSnapCmd (c : Chip) (v : Nat) : Nat × Chip :=
  let us := bitsIn (c.reg64 0x00230008) 64
  if !bitOf v 0 then (0, c)
  else if c.adc.snap.isSome || (bitOf v 1 && us.any (fun u => c.unitOwned (·.adcAcc) u)) then (1, c)
  else (0, c.adcSnapStart us (bitOf v 1))

/-- ADC_MUXSEL (R231, R246). -/
def Chip.adcMuxsel (c : Chip) (v : Nat) : Nat × Chip :=
  let dac := bitsOf v 20 16
  if (List.range 4).any (fun k => c.convOwned k) then (1, c)
  else if 12 ≤ bitsOf v 27 24 ∨ (5 ≤ dac ∧ dac ≤ 7) ∨ 24 ≤ dac ∨ 6 ≤ bitsOf v 2 0 then (6, c)
  else
    let old := (c.reg 0x00230000).toNat
    let moved (i : Nat) : Bool :=
      (i == 122 && bitsOf old 2 0 != bitsOf v 2 0) || (i == 126 && bitsOf old 31 28 != bitsOf v 31 28) ||
      (i == 123 && (bitsOf old 27 24 != bitsOf v 27 24 || bitsOf old 20 16 != dac))
    let c := c.setReg 0x00230000 (BitVec.ofNat 32 v &&& BitVec.ofNat 32 (fld 31 24 + fld 20 16 + fld 2 0))
    (0, (List.range 4).foldl (fun c k =>
      match (c.conv k).run with
      | some r =>
        let e := adcEntry r.plan r.entry
        if moved (entInput e) then
          c.setConv k { c.conv k with run := some { r with disc := max r.disc (settle (entOsr e)) } }
        else c
      | none => c) c)

/-! ### Live registers -/

/-- ADC_STATUS[k]. -/
def Chip.adcStatus (c : Chip) (k : Nat) : Nat :=
  let a := c.conv k
  b2n (c.convOwned k) * 2 ^ 31 + b2n (c.adcBusy k) * 2 ^ 30 + b2n a.timer.isSome * 2 ^ 29 +
  b2n (match a.orAt with | some t => decide (c.frc ≤ t + 1500) | none => false) * 2 ^ 28 +
  (match a.run with | some r => min r.entry (adcLen r.plan - 1) | none => 0)
/-- ADC_XCMP_STATUS[x]. -/
def Chip.xcmpStatus (c : Chip) (x : Nat) : Nat :=
  let a := c.xcmp x
  b2n a.armed.isSome * 2 ^ 31 + b2n (c.unitOwned (·.xcmp) x) * 2 ^ 30 + b2n a.above * 2 ^ 29 + a.conv * 2 ^ 16 +
  (match a.armed with | some (p, _, _) => if adcLimit p = 0 then 0 else min a.left 0xFFFF | none => 0)
/-- ADC_ACC_LIVE[u]. -/
def Chip.accLive (c : Chip) (u : Nat) : Nat := b2n (c.acc u).settled * 2 ^ 31 + b2n (c.acc u).ovr * 2 ^ 30

/-! ### Rows -/

def execAdcSample (k : Conv) (volts1 volts2 volts3 : List Int) (s : State) : Host.Outcome State Fault Refusal :=
  s.onChip (adcSample k (volts1 ++ volts2 ++ volts3))
def execAdcSampleJudged (k : Conv) (s : State) : Host.Outcome State Fault Refusal := s.onChip (adcSampleJudged k)
def execXcmpCrossing (x : Fin 16) (volts : Int) (s : State) : Host.Outcome State Fault Refusal :=
  s.onChip (xcmpCrossing x volts)
def execAdcTimer (k : Conv) (s : State) : Host.Outcome State Fault Refusal := s.onChip (adcTimer k)
def execAdcSequenceEnd (k : Conv) (s : State) : Host.Outcome State Fault Refusal := s.onChip (adcSequenceEnd k)

end Sys2Proof.Machine
end

