-- ==== Sys2Proof/Machine/Crc.lean ====
section
/-! DEFINITION. Crc.lean: the general check-value units (R249 to R257). Register writes answer a status and the device. -/

namespace Sys2Proof.Machine

/-- Registers of unit u (R257). -/
def crcB (u : Nat) : Nat := 0x00240100 + 0x80 * u
/-- Context mode (R249). -/
def Chip.crcCtx (c : Chip) : Bool := bitOf (c.reg 0x00240000).toNat 0
/-- The unit has registers: units 16 to 31 do not in context mode (R249). -/
def Chip.crcExists (c : Chip) (u : Nat) : Bool := decide (u < 32) && (!c.crcCtx || decide (u < 16))
def Chip.crcPreset (c : Chip) (u : Nat) : Nat := c.field (crcB u) 31 28
def Chip.crcSrc (c : Chip) (u : Nat) : Nat := c.field (crcB u) 23 20
def Chip.crcOwned (c : Chip) (u : Nat) : Bool := c.unitOwned (·.crcUnits) u
def Chip.crcBusy (c : Chip) (u : Nat) : Bool := c.crcDma.any (fun e => e.1 = u)
/-- Idle (R255). -/
def Chip.crcIdle (c : Chip) (u : Nat) : Bool :=
  !c.crcOwned u && !c.crcBusy u && (c.crcSrc u == 0 || c.crcSrc u == 5)

/-- Width of a preset or of a custom CRC (R250). -/
def Chip.crcWidth (c : Chip) (u : Nat) : Nat :=
  match c.crcPreset u with
  | 0 => 16 * 2 ^ min (c.field (crcB u) 27 26) 2
  | 1 => 16
  | 4 => 64
  | _ => 32
/-- Reflection of a preset or of a custom CRC. -/
def Chip.crcReflect (c : Chip) (u : Nat) : Bool :=
  match c.crcPreset u with
  | 0 => bitOf (c.reg (crcB u)).toNat 25
  | 1 => false
  | 4 => false
  | _ => true
/-- Polynomial, initial value and output mask of a preset (R250). -/
def crcPresetRegs : Nat → Option (Nat × Nat × Nat)
  | 1 => some (0x1021, 0xFFFF, 0)
  | 2 => some (0x04C11DB7, 0xFFFFFFFF, 0xFFFFFFFF)
  | 3 => some (0x1EDC6F41, 0xFFFFFFFF, 0xFFFFFFFF)
  | 4 => some (0x42F0E1EBA9EA3693, 0, 0)
  | _ => none

/-- The w low bits in reverse order. -/
def revBits (w v : Nat) : Nat := ((List.range w).map (fun i => if v.testBit i then 2 ^ (w - 1 - i) else 0)).sum
/-- One bit enters a CRC of width w (R250, R251). -/
def crcStep (w poly : Nat) (reflect : Bool) (r : Nat) (b : Bool) : Nat :=
  if reflect then
    let x := r / 2
    if r.testBit 0 != b then x ^^^ revBits w poly else x
  else
    let x := 2 * r % 2 ^ w
    if r.testBit (w - 1) != b then x ^^^ (poly % 2 ^ w) else x
/-- The bits of a byte in the order in which they enter. -/
def byteBits (reflect : Bool) (b : Byte) : List Bool :=
  let up := (List.range 8).map (fun i => b.getLsbD i)
  if reflect then up else up.reverse

/-- Bits enter unit u. -/
def Chip.crcFeed (c : Chip) (u : Nat) (bs : List Bool) : Chip :=
  if bs = [] then c
  else
    let b := crcB u
    let w := c.crcWidth u
    let poly := c.reg64 (b + 8)
    let run := bs.foldl (crcStep w poly (c.crcReflect u)) (c.reg64 (b + 0x40) % 2 ^ w)
    let n := c.reg64 (b + 0x50)
    let c := (c.setReg64 (b + 0x40) run).setReg64 (b + 0x50) (n + bs.length)
    let k := (n + bs.length) / 8 - n / 8
    if k = 0 then c else c.count 317 k
def Chip.crcFeedBytes (c : Chip) (u : Nat) (bs : List Byte) : Chip :=
  c.crcFeed u (bs.flatMap (byteBits (c.crcReflect u)))

/-- RUN = INIT, reflected when REFLECT; BITS = 0 (R257). -/
def Chip.crcInit (c : Chip) (u : Nat) : Chip :=
  let b := crcB u
  let w := c.crcWidth u
  let i := c.reg64 (b + 0x10) % 2 ^ w
  (c.setReg64 (b + 0x40) (if c.crcReflect u then revBits w i else i)).setReg64 (b + 0x50) 0
/-- The unit has been configured, set or fed since reset: one of CRC_CFG, CRC_XOROUT, CRC_RUN and CRC_BITS was written. -/
def Chip.crcTouched (c : Chip) (u : Nat) : Bool :=
  c.regs.any (fun e => e.1 == crcB u || (decide (crcB u + 0x18 ≤ e.1) && decide (e.1 < crcB u + 0x20)) ||
    (decide (crcB u + 0x40 ≤ e.1) && decide (e.1 < crcB u + 0x58) && decide (e.1 / 8 ≠ (crcB u + 0x48) / 8)))
/-- CRC_RESULT: RUN XOR XOROUT, and 0, its Reset column, until the unit is first touched (R250, R257; log entry 29). -/
def Chip.crcResult (c : Chip) (u : Nat) : Nat :=
  if c.crcTouched u then c.reg64 (crcB u + 0x40) ^^^ c.reg64 (crcB u + 0x18) else 0
/-- POLY, INIT and XOROUT have no bit above a custom width w (R250). -/
def Chip.crcFitsWidth (c : Chip) (u w : Nat) : Bool :=
  [8, 0x10, 0x18].all (fun o => decide (c.reg64 (crcB u + o) < 2 ^ w))

/-- Units that context n feeds from a lane through source code src (R252). -/
def Chip.crcOnLane (c : Chip) (n src lane : Nat) : List Nat :=
  (bitsIn (c.env n).crcUnits 32).filter (fun u => c.crcSrc u == src && c.field (crcB u) 14 8 == lane)

/-! ### DMA (R254) -/

/-- Asks for the line that holds the next byte of unit u's DMA. -/
def Chip.crcDmaNext (c : Chip) (u : Nat) : Chip :=
  match c.crcDma.find? (fun e => e.1 = u) with
  | none => c
  | some (_, x) =>
    if x.left = 0 ∨ x.fin.isSome then c
    else c.memReq .host { addr := x.addr / 128 * 128, who := .dma u (x.addr / 128) }
/-- A line of unit u's DMA arrived: its bytes are fed and the next line is asked for; the last line, or one that could not be
corrected, is held for the feed's end. -/
def Chip.crcDmaData (c : Chip) (u : Nat) (bad : Bool) (line : List Byte) : Chip :=
  match c.crcDma.find? (fun e => e.1 = u) with
  | none => c
  | some (_, x) =>
    let n := min x.left (128 - x.addr % 128)
    let bs := (line.drop (x.addr % 128)).take n
    if bad then { c with crcDma := tabSet c.crcDma u { x with fin := some (true, []) } }
    else if x.left ≤ n then { c with crcDma := tabSet c.crcDma u { x with fin := some (false, bs) } }
    else
      let c := c.crcFeedBytes u bs
      ({ c with crcDma := tabSet c.crcDma u { x with addr := x.addr + n, left := x.left - n } }).crcDmaNext u
/-- The last line of unit u's DMA has arrived. -/
def Chip.crcDmaEnds (c : Chip) (u : Nat) : Bool := c.crcDma.any (fun e => e.1 == u && e.2.fin.isSome)
/-- The feed ends: the last bytes are fed, BUSY falls, and CRC_DONE is raised with u and a status (R254). -/
def Chip.crcFinish (c : Chip) (u : Nat) : Chip :=
  match c.crcDma.find? (fun e => e.1 = u) with
  | none => c
  | some (_, x) =>
    match x.fin with
    | none => c
    | some (bad, bs) =>
      let c := c.crcFeedBytes u bs
      let c := if bad then c.setField (crcB u + 0x24) 29 29 1 else c
      ({ c with crcDma := tabDel c.crcDma u }).raise (srcOf 15 (18 + u)) 0x8050 [] none
        (u + (if bad then 0x12 else 0) * 2 ^ 8)

/-! ### Register writes (R249 to R257) -/

/-- CRC_MODE. -/
def Chip.crcModeWrite (c : Chip) (v : Nat) : Nat × Chip :=
  if c.dev.committed then (1, c) else (0, c.setReg 0x00240000 (BitVec.ofNat 32 (v % 2)))

/-- CRC_CFG[u]; selecting a preset loads its three registers, and a custom width that they do not fit is refused (R250). -/
def Chip.crcCfgWrite (c : Chip) (u v : Nat) : Nat × Chip :=
  let src := bitsOf v 23 20
  if !(c.crcIdle u || (src == 0 && !c.crcOwned u && !c.crcBusy u)) then (1, c)
  else if 4 < bitsOf v 31 28 ∨ bitsOf v 27 26 = 3 ∨ 5 < src ∨ (1 ≤ src ∧ src ≤ 3 ∧ 108 ≤ bitsOf v 14 8) ∨
      (bitsOf v 31 28 = 0 ∧ !c.crcFitsWidth u (16 * 2 ^ bitsOf v 27 26)) then (6, c)
  else
    let c := c.setReg (crcB u) (BitVec.ofNat 32 v &&& BitVec.ofNat 32 (fld 31 25 + fld 23 20 + fld 14 8))
    match crcPresetRegs (bitsOf v 31 28) with
    | some (p, i, x) => (0, ((c.setReg64 (crcB u + 8) p).setReg64 (crcB u + 0x10) i).setReg64 (crcB u + 0x18) x)
    | none => (0, c)

/-- CRC_POLY, CRC_INIT or CRC_XOROUT (i = 0, 1, 2). -/
def Chip.crcParamWrite (c : Chip) (u i v : Nat) : Nat × Chip :=
  if !c.crcIdle u then (1, c)
  else if c.crcPreset u ≠ 0 ∨ 2 ^ c.crcWidth u ≤ v ∨ (i = 0 ∧ v % 2 = 0) then (6, c)
  else (0, c.setReg64 (crcB u + 8 + 8 * i) v)

/-- CRC_CTRL[u]: INIT, DMA_GO; a retrain refuses DMA_GO (R285). -/
def Chip.crcCtrlWrite (c : Chip) (u v : Nat) : Nat × Chip :=
  let init := bitOf v 0
  let go := bitOf v 1
  let a := c.reg64 (crcB u + 0x28)
  let n := (c.reg (crcB u + 0x30)).toNat
  if c.crcOwned u || (init && !c.crcIdle u) || (go && (c.crcBusy u || c.crcSrc u != 4)) then (1, c)
  else if go && (n == 0 || decide (c.memBytes < a + n)) then (6, c)
  else if go && c.retraining then (9, c)
  else
    let c := if init then c.crcInit u else c
    (0, if go then ({ c with crcDma := tabSet c.crcDma u { addr := a, left := n } }).crcDmaNext u else c)

/-- CRC_DATA32 or CRC_DATA8 (R253). -/
def Chip.crcDataWrite (c : Chip) (u n v : Nat) : Nat × Chip :=
  if c.crcOwned u || c.crcSrc u != 5 then (1, c) else (0, c.crcFeedBytes u (toLe n v))

/-- CRC_RUN, or with `bits` CRC_BITS (R256). -/
def Chip.crcRestore (c : Chip) (u : Nat) (bits : Bool) (v : Nat) : Nat × Chip :=
  if !c.crcCtx || !c.crcIdle u then (1, c) else (0, c.setReg64 (crcB u + (if bits then 0x50 else 0x40)) v)

end Sys2Proof.Machine
end

