-- ==== Sys2Proof/Machine/Sideband.lean ====
section
/-! DEFINITION. Sideband.lean: the sideband responders (R259 to R267). A frame row carries the SBCK edges at which SBEN is 1;
it may leave its frame open (DESIGN CHOICE, log entry 12). -/

namespace Sys2Proof.Machine

/-- Registers of port n (R267): CFG, STATUS, counters, hit latches, table. -/
def sbB (n : Nat) : Nat := 0x00250000 + 0x1000 * n
def sbHit (n e : Nat) : Nat := sbB n + 0x20 + 4 * (e / 32)
def sbTable (n e : Nat) : Nat := sbB n + 0x400 + 4 * e
/-- SOURCE of port n (R438). -/
def srcSb (n : Nat) : Nat := srcOf 15 (52 + n)
def Chip.sbOwned (c : Chip) (n : Nat) : Bool := c.unitOwned (·.sbPorts) n
/-- The task that holds port n. -/
def Chip.sbOwner (c : Chip) (n : Nat) : Option Nat := c.holders.find? (fun m => bitOf (c.env m).sbPorts n)
/-- The port answers frames: EN is 1 and no clock fault holds it off (R265). -/
def Chip.sbListens (c : Chip) (n : Nat) : Bool :=
  bitOf (c.reg (sbB n)).toNat 31 && !(tabGet {} c.sb n).faulted

def Chip.sbPort (c : Chip) (n : Nat) : SbPort := tabGet {} c.sb n
def Chip.setSb (c : Chip) (n : Nat) (p : SbPort) : Chip := { c with sb := tabSet c.sb n p }
/-- The core cycle of a TM period: 0.8 ns, or 12.8 TM (R17, R437). -/
def cycleOf (tm : Nat) : Nat := tm * 5 / 64
/-- A happening at an entry falls in this core cycle. -/
def Chip.thisCycle (c : Chip) (x : Option (Nat × Nat)) (e : Nat) : Bool :=
  match x with
  | some (f, tm) => f == e && cycleOf tm == cycleOf c.tm
  | none => false
/-- A hit latch clears, unless a read sets it in the same core cycle (R10, R262). -/
def Chip.sbClear (c : Chip) (n e : Nat) : Chip :=
  if c.thisCycle (c.sbPort n).readAt e then c else c.setField (sbHit n e) (e % 32) (e % 32) 0

/-- The SBLOG record of a frame that began at a device time (R264): FRAME is the frame number of the holder's lowest group. -/
def Chip.sbLog (c : Chip) (n : Nat) (now : Int) (read updated : Bool) (addr : Nat) (data old : Word) : Chip :=
  let site := c.field (sbB n) 22 16
  let frame := match c.sbOwner n with
    | some m => match bitsIn (c.env m).groups 12 with
      | g :: _ => (c.group g).frame - 1
      | [] => 0
    | none => 0
  let w0 := b2n read * 2 ^ 41 + b2n updated * 2 ^ 40 + addr * 2 ^ 32 + data.toNat
  let info := 2 ^ 60 + 3 * 2 ^ 54 + site * 2 ^ 47 + (12 + n) * 2 ^ 40 + frame % 2 ^ 40
  c.makeRec (12 + n)
    { site := site, wide := true, ctx := c.sbOwner n
      words := [w0, info, old.toNat, stampNs now + stampFrac now * 2 ^ 32] }

/-- Bits of a field in the port's order: MSB first, or LSB first with ORDER = 1 (R259). -/
def Chip.sbNat (c : Chip) (n : Nat) (bs : List Bool) : Nat :=
  let low := if bitOf (c.reg (sbB n)).toNat 30 then bs else bs.reverse
  (low.zipIdx.map (fun b => if b.1 then 2 ^ b.2 else 0)).sum
/-- Bit k of a read's data in the port's order. -/
def Chip.sbOutBit (c : Chip) (n : Nat) (v : Word) (k : Nat) : Bool :=
  if bitOf (c.reg (sbB n)).toNat 30 then v.getLsbD k else v.getLsbD (31 - k)
/-- The address of a frame, from the bits after its start bit. -/
def Chip.sbAddr (c : Chip) (n : Nat) (bits : List Bool) : Nat := c.sbNat n ((bits.drop 1).take 8)
/-- The word that a read frame returns: of the entries fetched, the one that the eighth address bit selects (R260). -/
def SbFrame.word (f : SbFrame) : Word := if f.bits.getD 8 false then f.fetched.2 else f.fetched.1

/-- The entry at an address as it stood before a frame (R264). -/
def Chip.sbBefore (c : Chip) (n : Nat) (f : SbFrame) (addr : Nat) : Word := tabGet (c.reg (sbTable n addr)) f.before addr
/-- A read frame is complete (R260 to R262). -/
def Chip.sbReadDone (c : Chip) (n : Nat) (f : SbFrame) : Chip :=
  let addr := c.sbAddr n f.bits
  let p := c.sbPort n
  let old := c.sbBefore n f addr
  let c := c.setSb n { p with
    readAt := some (addr, c.tm)
    setAt := if bitOf (c.reg (sbHit n addr)).toNat (addr % 32) then p.setAt else tabSet p.setAt addr c.tm }
  let c := ((c.cntUp (sbB n + 8)).count 301).setField (sbHit n addr) (addr % 32) (addr % 32) 1
  if bitOf (c.reg (sbB n)).toNat 27 then c.sbLog n f.time true false addr f.word old else c
/-- A write frame is complete (R261). -/
def Chip.sbWriteDone (c : Chip) (n : Nat) (f : SbFrame) : Chip :=
  let addr := c.sbAddr n f.bits
  let data := BitVec.ofNat 32 (c.sbNat n (f.bits.drop 9))
  let old := c.sbBefore n f addr
  let upd := bitOf (c.reg (sbB n)).toNat 28
  let c := (c.cntUp (sbB n + 0xC)).count 302
  let c := if upd then
      (c.setReg (sbTable n addr) data).setSb n { c.sbPort n with wroteAt := some (addr, c.tm) }
    else c
  c.sbLog n f.time false upd addr data old

/-- An open frame is aborted and SBDO is released (R266). -/
def Chip.sbAbort (c : Chip) (n : Nat) : Chip :=
  let c := c.setSb n { c.sbPort n with frame := none, out := none }
  ((c.cntUp (sbB n + 0x10)).count 303).raise (srcSb n) 0x8060
/-- An open frame whose sampling edges are more than TIMEOUT × 100 ns apart is aborted (R266, R398). -/
def Chip.sbTimeout (c : Chip) (n : Nat) : Chip :=
  match (c.sbPort n).frame with
  | some f => if f.lastAt + 1600 * c.field (sbB n) 7 0 < c.tm then c.guardReject.sbAbort n else c
  | none => c
/-- A bit of SBDI is sampled (R259, R260). -/
def Chip.sbBit (c : Chip) (n : Nat) (b : Bool) : Chip :=
  let c := c.sbTimeout n
  let p := c.sbPort n
  match p.frame with
  | none => if b then c.setSb n { p with frame := some { time := c.timeAtTm c.tm, lastAt := c.tm } } else c
  | some f =>
    let bits := f.bits ++ [b]
    let k := bits.length
    let read := bits.headD false
    let at8 (v : Bool) : Word := c.reg (sbTable n (c.sbAddr n (bits ++ [v])))
    let f := { f with bits := bits, lastAt := c.tm, fetched := if k = 8 ∧ read then (at8 false, at8 true) else f.fetched }
    let out := if read ∧ 9 ≤ k then some (c.sbOutBit n f.word (k - 9)) else p.out
    if k < 41 then c.setSb n { p with frame := some f, out := out }
    else
      let c := c.setSb n { p with frame := none, out := none }
      if read then c.sbReadDone n f else c.sbWriteDone n f
/-- The bits that port n samples of SBCK edges (rising, level of SBDI): those of its EDGE (R259). -/
def Chip.sbSampled (c : Chip) (n : Nat) (edges : List (Bool × Bool)) : List Bool :=
  (edges.filter (fun e => e.1 != bitOf (c.reg (sbB n)).toNat 29)).map (·.2)
/-- SBCK edges with SBEN 1 reach port n, whose frame is a read or a write: a bit that makes it the other is no such row's and
ends it. -/
def Chip.sbEdges (c : Chip) (n : Nat) (read : Bool) : List Bool → Chip
  | [] => c
  | b :: bs =>
    let d := c.sbBit n b
    match (d.sbPort n).frame with
    | some f => if f.bits.headD read = read then d.sbEdges n read bs else c
    | none => d.sbEdges n read bs
/-- SB_READ: edges of a read frame (R260 to R262). -/
def sbRead (n : Nat) (edges : List (Bool × Bool)) (c : Chip) : Chip :=
  if c.sbListens n then c.sbEdges n true (c.sbSampled n edges) else c
/-- SB_WRITE: edges of a write frame (R261). -/
def sbWrite (n : Nat) (edges : List (Bool × Bool)) (c : Chip) : Chip :=
  if c.sbListens n then c.sbEdges n false (c.sbSampled n edges) else c

/-- SB_ABORT: SBEN falls (R266). -/
def sbAbort (n : Nat) (c : Chip) : Chip := if (c.sbPort n).frame.isSome then c.guardReject.sbAbort n else c
/-- SB_FRAME_TIMEOUT: no sampling edge comes for TIMEOUT × 100 ns (R266). -/
def sbFrameTimeout (n : Nat) (c : Chip) : Chip :=
  match (c.sbPort n).frame with
  | some f => (c.advanceTo (f.lastAt + 1600 * c.field (sbB n) 7 0 + 1)).sbTimeout n
  | none => c

/-- SB_CLOCK_WINDOW (R265): frequency in kHz and shortest phase of a window in which SBENn is 1. -/
def sbClockWindow (n khz minPhasePs : Nat) (c : Chip) : Chip :=
  let p := tabGet {} c.sb n
  let c := c.setField (sbB n + 4) 9 0 (min (khz / 1000) 1023)
  let good := decide (9800 ≤ khz) && decide (khz ≤ 816000) && decide (500 ≤ minPhasePs)
  if good then
    if p.faulted then
      if 4 ≤ p.good + 1 then
        { c.setField (sbB n + 4) 31 31 1 with sb := tabSet c.sb n { p with faulted := false, good := 0 } }
      else { c with sb := tabSet c.sb n { p with good := p.good + 1 } }
    else c.setField (sbB n + 4) 31 31 1
  else
    let c := c.setSb n { p with faulted := true, good := 0, frame := none, out := none }
    let c := (c.setField (sbB n + 4) 31 31 0).setField (sbB n + 4) 29 29 1
    let c := ((c.cntUp (sbB n + 0x10)).count 303).guardReject
    c.raiseErr (srcSb n) 0x030E n (c.field (sbB n + 4) 9 0)

/-! ### Register writes (R261 to R263, R267) -/

/-- SBR_CFG[n]. Writing EN = 0 aborts an open frame (R266). -/
def Chip.sbrCfgWrite (c : Chip) (n v : Nat) : Nat × Chip :=
  let mask := fld 30 27 + fld 22 16 + fld 7 0
  let old := (c.reg (sbB n)).toNat
  let w := BitVec.ofNat 32 v &&& BitVec.ofNat 32 (mask + 2 ^ 31)
  if c.sbOwned n then (1, c)
  else if bitOf old 31 && !(!bitOf v 31 && w.toNat == old - 2 ^ 31) then (1, c)
  else if v % 256 < 2 then (6, c)
  else if bitOf v 31 && !c.agreed 12 then (7, c)
  else
    let c := c.setReg (sbB n) w
    (0, if !bitOf v 31 && (c.sbPort n).frame.isSome then c.sbAbort n else c)

/-- SBR_HIT[n][i]. -/
def Chip.sbrHitWrite (c : Chip) (n i : Nat) (v : Word) : Nat × Chip :=
  if c.sbOwned n then (1, c)
  else (0, (bitsIn v.toNat 32).foldl (fun c b => c.sbClear n (32 * i + b)) c)

/-- SBR_TABLE[n][e]: a DUT write of the entry in the same core cycle comes last (R261). An open frame keeps what stood there
before it. -/
def Chip.sbrTableWrite (c : Chip) (n e : Nat) (v : Word) : Nat × Chip :=
  if c.sbOwned n then (1, c)
  else if c.thisCycle (c.sbPort n).wroteAt e then (0, c)
  else
    let p := c.sbPort n
    let keep (f : SbFrame) : SbFrame :=
      if f.before.any (fun x => x.1 == e) then f else { f with before := tabSet f.before e (c.reg (sbTable n e)) }
    (0, (c.setSb n { p with frame := p.frame.map keep }).setReg (sbTable n e) v)

/-- Every latch of the ports of a mask clears (R262). -/
def Chip.sbClearHits (c : Chip) (mask : Nat) : Chip :=
  (bitsIn mask 3).foldl (fun c n => (List.range 256).foldl (fun c e => c.sbClear n e) c) c

/-! ### Rows -/

def execSbRead (n : Fin 3) (edges : List (Bool × Bool)) (s : State) : Host.Outcome State Fault Refusal :=
  s.onChip (sbRead n edges)
def execSbWrite (n : Fin 3) (head data : List (Bool × Bool)) (s : State) : Host.Outcome State Fault Refusal :=
  s.onChip (sbWrite n (head ++ data))
def execSbAbort (n : Fin 3) (s : State) : Host.Outcome State Fault Refusal := s.onChip (sbAbort n)
def execSbFrameTimeout (n : Fin 3) (s : State) : Host.Outcome State Fault Refusal := s.onChip (sbFrameTimeout n)
def execSbClockWindow (n : Fin 3) (khz minPhasePs : Nat) (s : State) : Host.Outcome State Fault Refusal :=
  s.onChip (sbClockWindow n khz minPhasePs)

end Sys2Proof.Machine
end

