-- ==== Sys2Proof/Machine/Lane.lean ====
section
/-! DEFINITION. Lane.lean: lane mode: the 8b/10b code, sources, checkers, markers and the receive reference (R67 to R79,
R295 to R298). -/

namespace Sys2Proof.Machine

/-- PIN_CFG.DIR (R62). -/
def Chip.pinDir (c : Chip) (p : Nat) : Nat := c.field (pinB p + 4) 31 30
/-- PIN_CHK_CTRL TYPE and the DESKEW bit (R73). -/
def Chip.chkType (c : Chip) (p : Nat) : Nat := c.field (pinB p + 0x60) 31 28
def Chip.chkDeskew (c : Chip) (p : Nat) : Bool :=
  bitOf (c.reg (pinB p + 0x60)).toNat 22 && (c.chkType p == 2 || c.chkType p == 3)
def chkStatus (p : Nat) : Nat := pinB p + 0x64
/-- SOURCE of the lane checker of pin p and of FCK lane g (R438). -/
def srcChk (p : Nat) : Nat := srcOf (p / 8) (10 + p % 8)
def srcFck (g : Nat) : Nat := srcOf g 18

/-! ### 8b/10b (R295; the code tables are those of IEEE 802.3 clause 36: PRESUMED, log entry 13) -/

/-- Six-bit groups abcdei of D0 to D31 at negative running disparity, bit a highest. -/
def code6Neg : List Nat :=
  [0b100111, 0b011101, 0b101101, 0b110001, 0b110101, 0b101001, 0b011001, 0b111000,
   0b111001, 0b100101, 0b010101, 0b110100, 0b001101, 0b101100, 0b011100, 0b010111,
   0b011011, 0b100011, 0b010011, 0b110010, 0b001011, 0b101010, 0b011010, 0b111010,
   0b110011, 0b100110, 0b010110, 0b110110, 0b001110, 0b101110, 0b011110, 0b101011]
/-- Four-bit groups fghj of Dx.0 to Dx.7 at negative running disparity. -/
def code4Neg : List Nat := [0b1011, 0b1001, 0b0101, 0b1100, 0b1101, 0b1010, 0b0110, 0b1110]
/-- Four-bit groups of control symbols at positive running disparity. -/
def code4Ctl : List Nat := [0b0100, 0b1001, 0b0101, 0b0011, 0b0010, 0b1010, 0b0110, 0b1000]
/-- Ones among the n low bits. -/
def onesIn (n v : Nat) : Nat := ((List.range n).map (fun i => b2n (v.testBit i))).sum
/-- The six-bit group of x. -/
def code6 (k : Bool) (x : Nat) (pos : Bool) : Nat :=
  if k && x == 28 then (if pos then 0b110000 else 0b001111)
  else
    let v := code6Neg.getD x 0
    if pos && (onesIn 6 v != 3 || x == 7) then 63 - v else v
/-- The four-bit group of y after a six-bit group that left disparity pos. -/
def code4 (k : Bool) (x y : Nat) (pos : Bool) : Nat :=
  if k then (if pos then code4Ctl.getD y 0 else 15 - code4Ctl.getD y 0)
  else if y = 7 then
    let alt := (!pos && [17, 18, 20].contains x) || (pos && [11, 13, 14].contains x)
    let v := if alt then 0b0111 else 0b1110
    if pos then 15 - v else v
  else
    let v := code4Neg.getD y 0
    if pos && (onesIn 4 v != 2 || y == 3) then 15 - v else v
/-- The code group of a byte, bit a highest, and the running disparity after it. -/
def encSym (k : Bool) (b : Nat) (pos : Bool) : Nat × Bool :=
  let six := code6 k (b % 32) pos
  let p6 := if onesIn 6 six = 3 then pos else !pos
  let four := code4 k (b % 32) (b / 32) p6
  (16 * six + four, if onesIn 4 four = 2 then p6 else !p6)
/-- The twelve control symbols. -/
def ctlSyms : List Nat := [0x1C, 0x3C, 0x5C, 0x7C, 0x9C, 0xBC, 0xDC, 0xFC, 0xF7, 0xFB, 0xFD, 0xFE]
/-- Bits of a code group in the order in which they are sent. -/
def symBits (w : Nat) : List Bool := (List.range 10).map (fun i => w.testBit (9 - i))
/-- The symbol that a code group stands for at a running disparity. -/
def symOf (w : Nat) (pos : Bool) : Option (Nat × Bool) :=
  ((List.range 256).map (fun b => (b, false)) ++ ctlSyms.map (fun b => (b, true))).find?
    (fun e => (encSym e.2 e.1 pos).1 == w)
/-- A received code group: its symbol, a disparity error, the running disparity after it. -/
def decSym (w : Nat) (pos : Bool) : Option (Nat × Bool) × Bool × Bool :=
  match symOf w pos with
  | some (b, k) => (some (b, k), false, (encSym k b pos).2)
  | none =>
    match symOf w (!pos) with
    | some (b, k) => (some (b, k), true, (encSym k b (!pos)).2)
    | none => (none, false, if 5 < onesIn 10 w then true else if onesIn 10 w < 5 then false else pos)

/-! ### Sources (R70 to R72) -/

/-- Length and second tap of a PRBS (R71). -/
def prbsTaps : Nat → Nat × Nat
  | 0 => (7, 6) | 1 => (9, 5) | 2 => (15, 14) | 3 => (23, 18) | _ => (31, 28)
/-- O.150 inverts the output of PRBS15, PRBS23 and PRBS31 (PRESUMED, log entry 13). -/
def prbsInv (order : Nat) : Bool := decide (2 ≤ order)

/-- A source's registers (R70, R72). -/
structure SrcCfg where
  typ : Nat
  order : Nat
  inv : Bool
  mark : Bool
  lfsrLen : Nat
  wordLen : Nat
  lane : Nat
  poly : Nat
  word : Nat
  ringLen : Nat
  ringBase : Nat
  deriving DecidableEq, Repr

def Chip.srcCfg (c : Chip) (p : Nat) : SrcCfg :=
  let a := pinB p + 0x10
  { typ := c.field a 31 28, order := c.field a 26 24, inv := c.field a 23 23 == 1, mark := c.field a 22 22 == 1
    lfsrLen := c.field a 21 16 + 1, wordLen := c.field a 15 8 + 1, lane := c.field a 7 0
    poly := c.reg64 (pinB p + 0x18)
    word := leNat (wordsToBytes ((List.range 8).map (fun i => c.reg (pinB p + 0x40 + 4 * i))))
    ringLen := c.field (a + 4) 31 16 + 1, ringBase := 64 * c.field (a + 4) 15 0 }

/-- A source at the first UI of a burst (R70, R71, R296). -/
def SrcCfg.start (k : SrcCfg) (seed : Nat) (mute : Bool) : SrcSt :=
  { reg := match k.typ with
      | 1 => ones (prbsTaps k.order).1
      | 2 => seed % 2 ^ k.lfsrLen
      | _ => ones 23
    mute := mute }

/-- Entry i of a payload ring in the resident region (R72). -/
def Group.ringEntry (g : Group) (k : SrcCfg) (i : Nat) : Nat :=
  let a := k.ringBase + 2 * i
  planNat (tabGet [] g.res (a / 64)) (a % 64) 2

/-- Payload bits scrambled (R296). -/
def scramble (r : Nat) : List Bool → List Bool × Nat
  | [] => ([], r)
  | x :: xs =>
    let y := x ^^ (r.testBit 17 ^^ r.testBit 22)
    let t := scramble ((2 * r + b2n y) % 2 ^ 23) xs
    (y :: t.1, t.2)
/-- Symbols encoded one after another. -/
def encSyms (pos : Bool) : List (Nat × Bool) → List Bool × Bool
  | [] => ([], pos)
  | (b, k) :: t =>
    let e := encSym k b pos
    let r := encSyms e.2 t
    (symBits e.1 ++ r.1, r.2)
/-- Bits i of a value, lowest first. -/
def lowBits (n v : Nat) : List Bool := (List.range n).map (fun i => v.testBit i)

/-- The next symbol of a ring source: a marker every 4,096 symbols (R298), else a ring entry. The Nat counts invalid K
entries. The first marker comes first of all, as `sinceMark` starts at the interval: the spec gives the interval alone
(DESIGN CHOICE, log entry 13). -/
def srcRefill (g : Group) (k : SrcCfg) (s : SrcSt) : SrcSt × Nat :=
  if k.mark && decide (4096 ≤ s.sinceMark) then
    let s' := { s with sinceMark := 4, marks := (s.marks + 1) % 256 }
    if k.typ = 4 then
      let e := encSyms s.rdPos [(0xBC, true), (0x3C, true), (k.lane, false), (s.marks, false)]
      ({ s' with bits := e.1, rdPos := e.2 }, 0)
    else ({ s' with bits := lowBits 32 (0xE4B1 + k.lane * 2 ^ 16 + s.marks * 2 ^ 24) }, 0)
  else
    let e := g.ringEntry k s.pos
    let s' := { s with pos := (s.pos + 1) % k.ringLen, sinceMark := s.sinceMark + 1 }
    if k.typ = 4 then
      let ctl := e.testBit 8
      let bad := ctl && !ctlSyms.contains (e % 256)
      let x := encSyms s.rdPos [(if bad then 0xBC else e % 256, ctl)]
      ({ s' with bits := x.1, rdPos := x.2 }, b2n bad)
    else
      let x := scramble s.reg (lowBits 8 e)
      ({ s' with bits := x.1, reg := x.2 }, 0)

/-- One line bit of a source before INV, and invalid K entries met. The user LFSR sends its highest used bit and shifts the
feedback into bit 0: the spec names the taps alone (DESIGN CHOICE, log entry 13). -/
def srcBit (g : Group) (k : SrcCfg) (s : SrcSt) : Bool × SrcSt × Nat :=
  match k.typ with
  | 1 =>
    let t := prbsTaps k.order
    let fb := s.reg.testBit (t.1 - 1) ^^ s.reg.testBit (t.2 - 1)
    (s.reg.testBit (t.1 - 1) ^^ prbsInv k.order, { s with reg := (2 * s.reg + b2n fb) % 2 ^ t.1 }, 0)
  | 2 =>
    let fb := (onesIn k.lfsrLen (s.reg &&& k.poly)) % 2
    (s.reg.testBit (k.lfsrLen - 1), { s with reg := (2 * s.reg + fb) % 2 ^ k.lfsrLen }, 0)
  | 3 => (k.word.testBit s.pos, { s with pos := (s.pos + 1) % k.wordLen }, 0)
  | _ =>
    if k.typ = 5 ∧ s.run = 31 then (!s.last, { s with run := 1, last := !s.last }, 0)
    else
      let r := if s.bits = [] then srcRefill g k s else (s, 0)
      match r.1.bits with
      | [] => (false, r.1, r.2)
      | b :: bs =>
        (b, { r.1 with bits := bs, last := b, run := if b = s.last then min (s.run + 1) 31 else 1 }, r.2)
/-- n line bits of a source. -/
def srcTake (g : Group) (k : SrcCfg) : Nat → SrcSt → List Bool × SrcSt × Nat
  | 0, s => ([], s, 0)
  | n + 1, s =>
    let r := srcBit g k s
    let t := srcTake g k n r.2.1
    ((r.1 ^^ k.inv) :: t.1, t.2.1, r.2.2 + t.2.2)

/-! ### Checkers (R74 to R76) -/

/-- What a checker counts over some received bits: bits or symbols, those in error, DISP, VIOL; which UI fails; decoded
bytes and serial bits for check-value units (R251). -/
structure ChkSum where
  bits : Nat := 0
  err : Nat := 0
  disp : Nat := 0
  viol : Nat := 0
  fails : List Bool := []
  bytes : List Byte := []
  serial : List Bool := []
  deriving DecidableEq, Repr

/-- PRBS (R74): after SYNC the register runs on its own prediction. -/
def chkPrbs (order : Nat) (s : ChkSt) (b : Bool) : ChkSt × ChkSum :=
  let t := prbsTaps order
  let b := b ^^ prbsInv order
  let pred := s.reg.testBit (t.1 - 1) ^^ s.reg.testBit (t.2 - 1)
  if s.synced then
    let bad := b != pred
    ({ s with reg := (2 * s.reg + b2n pred) % 2 ^ t.1 }, { bits := 1, err := b2n bad, fails := [bad] })
  else
    let good := if t.1 ≤ s.loaded ∧ b = pred then s.good + 1 else 0
    ({ s with reg := (2 * s.reg + b2n b) % 2 ^ t.1, loaded := min (s.loaded + 1) t.1, good := good
              synced := good == 64 }, { fails := [true] })

/-- 8b/10b (R75). -/
def chk8b10b (s : ChkSt) (b : Bool) : ChkSt × ChkSum :=
  let w := (2 * s.reg + b2n b) % 1024
  let s := { s with reg := w, loaded := s.loaded + 1 }
  if !s.synced then
    if w = 0b0011111010 ∨ w = 0b1100000101 then
      let good := if s.aligned && s.loaded % 10 == 0 then s.good + 1 else 1
      ({ s with aligned := true, loaded := 0, good := good, synced := good == 3, rdPos := w == 0b0011111010
                viol := [], marker := 4 }, { fails := [true] })
    else (s, { fails := [true] })
  else if s.loaded < 10 then (s, { fails := [false] })
  else
    let d := decSym w s.rdPos
    let bad := d.1.isNone
    let marker := match d.1 with
      | some (0xBC, true) => 4
      | some (0x3C, true) => if s.marker = 4 then 2 else 0
      | _ => if s.marker = 2 then 1 else 0
    let feed := match d.1 with
      | some (x, false) => if d.2.1 || s.marker == 2 || s.marker == 1 then [] else [BitVec.ofNat 8 x]
      | _ => []
    let viol := (bad :: s.viol).take 16
    let lost := decide (4 ≤ viol.countP id)
    let s := { s with loaded := 0, rdPos := d.2.2, marker := marker, viol := viol }
    let s := if lost then { s with synced := false, aligned := false, good := 0, lossDue := true } else s
    (s, { bits := 1, err := b2n (bad || d.2.1), disp := b2n d.2.1, viol := b2n bad, fails := [bad || d.2.1]
          bytes := feed })

/-- A destuffed bit of the scrambled checker: marker lock (R298), descrambling (R296), whole symbols. A marker's bits make no
symbol, and a symbol is 8 payload bits, counted from the end of the 23 that fill the descrambler (DESIGN CHOICE, log entry
89). -/
def chkPayload (s : ChkSt) (b : Bool) : ChkSt × ChkSum :=
  let win := (s.win / 2 + b2n b * 2 ^ 15) % 2 ^ 16
  let at0 := s.total
  let s := { s with win := win, total := s.total + 1 }
  let s := if win = 0xE4B1 ∧ s.phase.isNone then
      if s.cand.any (fun x => x + 32768 = at0 + 1) then
        { s with phase := some ((at0 + 1 - 16) % 32768), cand := [] }
      else { s with cand := (at0 + 1) :: s.cand.filter (fun x => decide (at0 < x + 32768)) }
    else s
  let inMarker := match s.phase with
    | some ph => decide ((at0 + 32768 - ph) % 32768 < 32)
    | none => false
  if inMarker then (s, {})
  else
    let x := b ^^ (s.reg.testBit 17 ^^ s.reg.testBit 22)
    let s := { s with reg := (2 * s.reg + b2n b) % 2 ^ 23, loaded := min (s.loaded + 1) 23 }
    if s.synced then
      let bits := s.bits ++ [x]
      if bits.length = 8 then ({ s with bits := [], aligned := false }, { bits := 1, serial := [x] })
      else ({ s with bits := bits }, { serial := [x] })
    else ({ s with synced := s.loaded == 23, bits := [] }, {})

/-- Scrambled with stuffing (R75, R297). `aligned` says that the symbol now received has been counted in error. A bit after
31 identical ones is removed if it has the opposite value, however long the run, and else counted: the reading of R297's
"any" is DEDUCED (log entry 13). -/
def chkScrambled (s : ChkSt) (b : Bool) : ChkSt × ChkSum :=
  let was := s.synced
  if 31 ≤ s.run ∧ b ≠ s.last then ({ s with run := 1, last := b }, { fails := [!was] })
  else
    let viol := decide (31 ≤ s.run) && b == s.last
    let s := { s with run := if b = s.last then s.run + 1 else 1, last := b }
    let r := chkPayload s b
    let symbol := was && r.2.serial != []
    let fresh := viol && symbol && !s.aligned
    let s' := if viol && symbol && r.2.bits == 0 then { r.1 with aligned := true } else r.1
    (s', { r.2 with err := b2n fresh, viol := b2n viol, fails := [!was || viol] })

/-- A checker over received bits. -/
def chkBits (typ order : Nat) : ChkSt → List Bool → ChkSum → ChkSt × ChkSum
  | s, [], a => (s, a)
  | s, b :: bs, a =>
    let r := match typ with
      | 1 => chkPrbs order s b
      | 2 => chk8b10b s b
      | _ => chkScrambled s b
    chkBits typ order r.1 bs
      { bits := a.bits + r.2.bits, err := a.err + r.2.err, disp := a.disp + r.2.disp, viol := a.viol + r.2.viol
        fails := a.fails ++ r.2.fails, bytes := a.bytes ++ r.2.bytes, serial := a.serial ++ r.2.serial }
/-- A checker over the bits of one frame, which is the 64-bit word of R74 (log entry 13). -/
def chkFrame (typ order : Nat) (s : ChkSt) (bs : List Bool) : ChkSt × ChkSum :=
  let r := chkBits typ order s bs {}
  if typ = 1 ∧ r.1.synced ∧ 16 ≤ r.2.err then
    ({ r.1 with synced := false, loaded := 0, good := 0, lossDue := true }, r.2)
  else r

def Group.chk (g : Group) (j : Nat) : ChkSt := g.chks.getD j {}
def Chip.setChk (c : Chip) (p : Nat) (s : ChkSt) : Chip :=
  let g := c.group (p / 8)
  c.setGroup (p / 8) { g with chks := ((g.chks ++ List.replicate 8 ({} : ChkSt)).take 8).set (p % 8) s }

/-- Loss of sync shows in PIN_CHK_STATUS (R74). -/
def Chip.chkLost (c : Chip) (p : Nat) : Chip :=
  let s := (c.group (p / 8)).chk (p % 8)
  if s.lossDue then
    (((c.setChk p { s with lossDue := false }).setField (chkStatus p) 31 31 0).setField (chkStatus p) 29 29 1).fieldUp
      (chkStatus p) 7 0
  else c
/-- SYNC shows in PIN_CHK_STATUS while the group is in lane mode. -/
def Chip.chkSynced (c : Chip) (p : Nat) : Chip :=
  let s := (c.group (p / 8)).chk (p % 8)
  if s.synced && !s.lossDue && (c.group (p / 8)).laneMode then c.setField (chkStatus p) 31 31 1 else c

/-- A frame's received bits reach the checker of pin p (R74, R75); changes of SYNC that still wait show first. -/
def Chip.chkFeed (c : Chip) (p : Nat) (bs : List Bool) : ChkSum × Chip :=
  let c := (c.chkLost p).chkSynced p
  let inv := c.field (pinB p + 0x60) 23 23 == 1
  let r := chkFrame (c.chkType p) (c.field (pinB p + 0x60) 26 24) ((c.group (p / 8)).chk (p % 8))
    (bs.map (fun b => b ^^ inv))
  let c := c.setChk p r.1
  let a := pinB p
  let c := (c.setReg64 (a + 0x68) (c.reg64 (a + 0x68) + r.2.bits)).setReg64 (a + 0x70) (c.reg64 (a + 0x70) + r.2.err)
  let c := (c.fieldUp (a + 0x78) 31 16 r.2.disp).fieldUp (a + 0x78) 15 0 r.2.viol
  (r.2, if r.2.err = 0 then c else c.count (16 * (p / 8) + 14) r.2.err)

/-- The checkers of group g stop: a segment in another encoding starts, or the burst ends (R69); SYNC and MARKER_OK end
(R79). Bits of frames played before still reach them with those frames' results. -/
def Chip.chkStop (c : Chip) (g : Nat) : Chip :=
  let c := (List.range 8).foldl (fun c j =>
    let p := 8 * g + j
    (c.chkLost p).setField (chkStatus p) 31 30 0) c
  c.setGroup g { c.group g with laneMode := false }
/-- The checkers of group g start anew at their next SOURCE frame. -/
def Chip.chkReset (c : Chip) (g : Nat) : Chip :=
  if (c.group g).chks = [] then c
  else
    let c := (List.range 8).foldl (fun c j => c.chkLost (8 * g + j)) c
    c.setGroup g { c.group g with chks := [] }

/-! ### Rows -/

/-- CHECKER_SYNC and CHECKER_SYNC_LOST (R74, R75). -/
def checkerSync (p : Nat) (c : Chip) : Chip := c.chkSynced p
def checkerSyncLost (p : Nat) (c : Chip) : Chip := c.chkLost p

/-- Group deskew once every pin that takes part has had a marker (R77). -/
def Chip.deskew (c : Chip) (g p : Nat) : Chip :=
  let x := c.group g
  let pins := (List.range 8).filter (fun j => c.chkDeskew (8 * g + j))
  let ts := pins.filterMap (fun j => (x.chk j).arrival)
  if x.deskewDone ∨ pins = [] ∨ ts.length ≠ pins.length then c
  else
    let c := c.setGroup g { x with deskewDone := true }
    match deskewDelays ts with
    | some ds =>
      let c := (pins.zip ds).foldl (fun c e =>
        (c.setField (pinB (8 * g + e.1) + 0x7C) 31 31 1).setField (pinB (8 * g + e.1) + 0x7C) 21 16 e.2) c
      c.setGroup g { c.group g with deskewOk := true }
    | none =>
      let hi := ts.foldl max 0
      (c.guardReject).raiseErr (srcChk p) 0x0302 g (hi - ts.foldl min hi) (c.taskOf x.owner)

/-- LANE_MARKER_RECEIVED (R77). -/
def laneMarkerReceived (p laneNum arrival : Nat) (c : Chip) : Chip :=
  let g := c.group (p / 8)
  if !g.laneMode || c.pinDir p != 1 || !c.cmpEn p || !(c.chkType p == 2 || c.chkType p == 3) then c
  else
    let c := c.setField (pinB p + 0x7C) 15 0 (c.field (pinB p + 0x7C) 15 0 + 1)
    if laneNum ≠ c.field (pinB p + 0x60) 15 8 then c.fieldUp (chkStatus p) 15 8
    else
      let c := c.setField (chkStatus p) 30 30 1
      let s := g.chk (p % 8)
      if c.chkDeskew p && s.arrival.isNone then
        (c.setChk p { s with arrival := some arrival }).deskew (p / 8) p
      else c

/-- MARKER_TIMEOUT: the pin has seen no marker for three intervals, so none arrives on time (R79); of a deskewed pin it is an
error (R78), and again after three more (DEDUCED, log entry 99). -/
def markerTimeout (p : Nat) (c : Chip) : Chip :=
  let g := c.group (p / 8)
  if !g.laneMode then c
  else if bitOf (c.reg (pinB p + 0x7C)).toNat 31 then
    let c := c.setGroup (p / 8) { g with deskewOk := false }
    ((c.setField (chkStatus p) 30 30 0).guardReject).raiseErr (srcChk p) 0x0303 p 0 (c.taskOf g.owner)
  else if bitOf (c.reg (chkStatus p)).toNat 30 then c.setField (chkStatus p) 30 30 0
  else c

/-- The mean of phases, rounded down. -/
def meanPhase (ps : List Int) : Int := if ps = [] then 0 else ps.sum.fdiv ps.length
/-- A phase lies beyond 1/k of a UI of period P. -/
def beyondUi (p k : Nat) (x : Int) : Bool := decide (p < x.natAbs * 2 ^ 31 * k)
/-- Receive reference in a playing burst (R67). -/
def Chip.fckRef (c : Chip) (g : Nat) : Bool := c.fckMode g == 2 && (c.group g).st == 1

/-- The phases of the last 16 frames bear on the reference of group g (R67). -/
def Chip.fckMeasured (c : Chip) (g : Nat) (phases : List Int) : Bool :=
  c.fckRef g && phases.length == 16 && !(c.group g).fckFrozen
/-- FCK_LOCK (R67): the phases measured in the last 16 frames, in fine units, are averaged, and the movement follows; within
a quarter UI they lock. -/
def fckLock (g : Nat) (phases : List Int) (c : Chip) : Chip :=
  let x := c.group g
  let per := c.period g x.pa
  if c.fckMeasured g phases && !phases.all (beyondUi per 2) then
    c.setGroup g { x with fckPhases := phases, fckLock := x.fckLock || !beyondUi per 4 (meanPhase phases) }
  else c
/-- FCK_UNLOCK (R67): all 16 beyond half a UI. -/
def fckUnlock (g : Nat) (phases : List Int) (c : Chip) : Chip :=
  let x := c.group g
  if c.fckMeasured g phases && phases.all (beyondUi (c.period g x.pa) 2) then
    let c := c.setGroup g { x with fckLock := false, fckFrozen := true }
    (c.guardReject).raiseErr (srcFck g) 0x0301 g (codeOf 32 (meanPhase phases)) (c.taskOf x.owner)
  else c
/-- The movement at a frame boundary: at most one fine unit for every 2 ns of the frame (R67). -/
def Group.fckStep (g : Group) (fine : Nat) : Group :=
  if g.fckFrozen ∨ g.fckPhases = [] then g
  else
    let lim : Int := ((fine + 16383) / 16384 : Nat)
    let d := meanPhase g.fckPhases - g.fckMove
    { g with fckMove := g.fckMove + (if lim < d then lim else if d < -lim then -lim else d) }

def execCheckerSync (p : Pin) (s : State) : Host.Outcome State Fault Refusal := s.onChip (checkerSync p)
def execCheckerSyncLost (p : Pin) (s : State) : Host.Outcome State Fault Refusal := s.onChip (checkerSyncLost p)
def execLaneMarkerReceived (p : Pin) (laneNum : Byte) (arrivalUi : Nat) (s : State) :
    Host.Outcome State Fault Refusal := s.onChip (laneMarkerReceived p laneNum.toNat arrivalUi)
def execMarkerTimeout (p : Pin) (s : State) : Host.Outcome State Fault Refusal := s.onChip (markerTimeout p)
def execFckLock (g : Grp) (phases : List Int) (s : State) : Host.Outcome State Fault Refusal :=
  s.onChip (fckLock g phases)
def execFckUnlock (g : Grp) (phases : List Int) (s : State) : Host.Outcome State Fault Refusal :=
  s.onChip (fckUnlock g phases)

end Sys2Proof.Machine
end

