-- ==== Sys2Proof/Machine/Firn.lean ====
section
/-! DEFINITION. Firn.lean: the walk of a group's program, stored frames, the stream ring and its fill engine
(R84, R90 to R102, R105 to R119). -/

namespace Sys2Proof.Machine

/-! ### Program words and the walk -/

/-- Registers of group g's Firn and sequencer (R102, R136). -/
def firnB (g : Nat) : Nat := grpB g + 0x100
def seqB (g : Nat) : Nat := grpB g + 0x200
/-- Ring ledger i of group g: 0 FREE, 1 IN_FILL, 2 READY, 3 FILLED, 4 PLAYED, 5 DISCARDED, 6 LINES. -/
def ringLed (g i : Nat) : Nat := grpB g + 0x110 + 8 * i
/-- SOURCE of the sequencer of group g (R438). -/
def srcSeq (g : Nat) : Nat := srcOf g 0

/-- Sequence words from their 16 bytes (R110). -/
def seqWordOf (b : List Byte) : SeqWord :=
  { op := planByte b 0, flags := planByte b 1, b2 := planByte b 2, b3 := planByte b 3
    w1 := planNat b 4 4, w2 := planNat b 8 4, w3 := planNat b 12 4 }
/-- SEG_ID and PLAN: bytes 2 and 3. -/
def SeqWord.id (w : SeqWord) : Nat := w.b2 + 256 * w.b3
/-- MASK of SETF and WAITF. -/
def SeqWord.mask (w : SeqWord) : Dword := BitVec.ofNat 64 (w.w1 + 2 ^ 32 * w.w2)
/-- Word i of a program; past the end, END. -/
def Group.word (g : Group) (i : Nat) : SeqWord :=
  g.prog.getD i { op := 0x10, flags := 0, b2 := 0, b3 := 0, w1 := 0, w2 := 0, w3 := 0 }
def Group.seg (g : Group) (i : Nat) : Seg := tabGet {} g.segs i

/-- Played frames of a segment (R90, R109). -/
def Seg.total (s : Seg) : Nat := s.frames * 2 ^ s.rep
/-- Bytes of a stored frame (R83). -/
def frameSize : Nat → Nat
  | 0 => 256 | 1 => 128 | 2 => 64 | _ => 0
/-- The last line that holds stored frame k (R84, R96): STATE4 frames take two lines, DATA1 frames half a line. -/
def Seg.lineOf (s : Seg) (k : Nat) : Nat := match s.enc with
  | 0 => 2 * k + 1 | 1 => k | _ => k / 2

/-- The index of the ENDL that closes the loop whose body begins at word b (R113). -/
def bodyEnd (prog : List SeqWord) (b : Nat) : Nat := go (prog.drop b) b 0
where
  go : List SeqWord → Nat → Nat → Nat
    | [], i, _ => i
    | w :: ws, i, d =>
      if w.op = 3 then go ws (i + 1) (d + 1)
      else if w.op = 4 then (if d = 0 then i else go ws (i + 1) (d - 1))
      else go ws (i + 1) d

/-- A taken jump (R115): it closes every level that contains the jump but not the target. -/
def Walk.jump (w : Walk) (prog : List SeqWord) (t : Nat) : Walk :=
  { w with npc := t, left := 0, loops := w.loops.filter (fun e => e.1 ≤ t && decide (t ≤ bodyEnd prog e.1)) }

/-- The next word begins (R106 to R113): `left` counts the frames it owns after its first. -/
def Walk.begin (w : Walk) (g : Group) : Walk :=
  let i := w.npc
  let x := g.word i
  let again := decide (i ≤ w.pc) && (g.word w.pc).op == 4 && (g.word (i - 1)).b2 % 2 == 1
  let w := { w with pc := i, npc := i + 1, left := 0, enter := w.enter || again }
  match x.op with
  | 1 => { w with left := x.w1 - 1 }
  | 2 => { w with seg := some x.id, pos := x.w1, enter := true }
  | 3 => { w with loops := (i + 1, x.w1) :: w.loops }
  | 4 => match w.loops with
    | (b, r) :: t => if 1 < r then { w with loops := (b, r - 1) :: t, npc := b } else { w with loops := t }
    | [] => w
  | _ => w

/-- The current segment. -/
def Walk.cur (w : Walk) (g : Group) : Seg := g.seg (w.seg.getD 0)
/-- The next frame of the current segment (R109): position `pos` after it is one more than the position it plays. The
Bool says that the segment wrapped. -/
def Walk.frame (w : Walk) (s : Seg) : Walk × Bool :=
  let wrap := decide (s.total ≤ w.pos)
  ({ w with pos := (if wrap then 0 else w.pos) + 1, enter := false
            play := if (w.enter || wrap) && !s.resident then w.play + 1 else w.play }, wrap)

/-! ### Stored frames -/

/-- The 64 UI words of a played frame: each stored UI is played r times (R90). -/
def repeatUis (s : Seg) (pos : Nat) (bytes : List Byte) : List Byte :=
  let r := 2 ^ s.rep
  let n := frameSize s.enc / 64
  if r = 1 then bytes
  else (List.range 64).flatMap (fun u => (bytes.drop (n * ((pos % r * 64 + u) / r))).take n)
/-- The units of 64 bytes that hold stored frame k of a resident segment (R91). -/
def Seg.units (s : Seg) (k : Nat) : List Nat :=
  (List.range (frameSize s.enc / 64)).map (fun i => s.firnOff + k * (frameSize s.enc / 64) + i)

/-- What stands in Firn for the frame at a position. -/
inductive Held where
  | ok (bytes : List Byte)
  | missing
  | poison
  deriving DecidableEq, Repr

/-- The ring line of a play. -/
def Group.line (g : Group) (play idx : Nat) : Option RingLine :=
  g.ring.find? (fun l => l.play == play && l.idx == idx)
/-- Lines that a frame needs. -/
def Seg.lines (s : Seg) (k : Nat) : List Nat := if s.enc = 0 then [2 * k, 2 * k + 1] else [s.lineOf k]

/-- The frame at position pos of the current segment of a walk, as Firn holds it (R99, R283). -/
def Group.held (g : Group) (w : Walk) (s : Seg) (pos : Nat) : Held :=
  let k := pos / 2 ^ s.rep
  if s.bad then .poison
  else if s.enc = 3 then .ok []
  else if s.resident then
    let us := s.units k
    if us.any (fun u => g.resBad.contains u) then .poison
    else .ok (repeatUis s pos (us.flatMap (fun u => tabGet [] g.res u)))
  else
    let ls := (s.lines k).map (fun i => g.line w.play i)
    if ls.any (fun l => match l with | some x => x.st != 2 | none => true) then .missing
    else if ls.any (fun l => match l with | some x => x.bad | none => true) then .poison
    else
      let b := ls.flatMap (fun l => match l with | some x => x.data | none => [])
      .ok (repeatUis s pos (if s.enc = 2 then (b.drop (64 * (k % 2))).take 64 else b))

/-! ### The ring (R98 to R102) -/

/-- RING_LINES. -/
def Chip.ringLines (c : Chip) (g : Nat) : Nat := c.field (firnB g) 31 16
/-- FILLING shows a line IN_FILL. -/
def Chip.firnFilling (c : Chip) (g : Nat) : Chip :=
  c.setField (firnB g + 4) 30 30 (b2n (c.ledger (ringLed g 1) != 0))
/-- A line leaves the ring: PLAYED when a frame was played from it, else DISCARDED (R100). An IN_FILL line becomes an
orphan, which is discarded when its data arrives (R119); a line whose read waits goes with its request. -/
def Chip.freeLine (c : Chip) (g : Nat) (l : RingLine) : Chip :=
  if l.st = 2 then
    let c := c.ledMove (ringLed g 2) (ringLed g 0)
    if l.used then c.ledAdd (ringLed g 4) else (c.ledAdd (ringLed g 5)).count (16 * g + 10)
  else if l.st = 1 then c.setGroup g { c.group g with orphans := (c.group g).orphans ++ [l.id] }
  else c
/-- Every line of the ring is abandoned (R100, R119). -/
def Chip.dropRing (c : Chip) (g : Nat) : Chip :=
  let x := c.group g
  let c := c.setGroup g { x with ring := [] }
  let c := x.ring.foldl (fun c l => c.freeLine g l) c
  let dead := (x.ring.filter (fun l => l.st = 0)).map (·.id)
  { c with mem := { c.mem with ch := c.mem.ch.map (fun e => (e.1, { e.2 with
      stream := e.2.stream.filter (fun r => match r.who with
        | .fill h _ i => !(h == g && dead.contains i)
        | .header h _ _ => h != g || r.retry
        | _ => true) })) } }
/-- Lines that playback has left before a frame of a play needs lines from idx on (R100). -/
def Chip.leaveLines (c : Chip) (g play idx : Nat) : Chip :=
  let x := c.group g
  let gone := x.ring.takeWhile (fun l => decide (l.play < play) || (l.play == play && decide (l.idx < idx)))
  if gone = [] then c
  else
    let c := c.setGroup g { x with ring := x.ring.drop gone.length }
    gone.foldl (fun c l => c.freeLine g l) c
/-- AHEAD at a boundary whose next frame is stored frame k of a play (R99). -/
def Group.aheadOf (g : Group) (play k : Nat) : Nat :=
  match g.ring with
  | [] => 0
  | l :: _ =>
    if l.play ≠ play then 0
    else min (((g.ring.takeWhile (fun l => l.st = 2)).map (·.count)).sum - (k - l.first)) 0xFFFFFF
/-- AHEAD, MINAHEAD and LEADSHORT at a boundary whose next frame is streamed (R99, R102). -/
def Chip.judgeLead (c : Chip) (g ahead lead : Nat) : Chip :=
  let c := c.setField (firnB g + 4) 23 0 ahead
  let c := c.setReg (firnB g + 8) (BitVec.ofNat 32 (min ahead (c.field (firnB g + 8) 23 0)))
  if ahead < lead then (c.cntUp (firnB g + 0xC)).count (16 * g + 11) else c

/-! ### The fill engine (R94, R98, R114) -/

/-- The next word of the path on which no JCOND jumps begins (R98, R114). -/
def Walk.next (w : Walk) (g : Group) : Walk :=
  (if (g.word w.pc).op = 5 then w.jump g.prog (g.word w.pc).w1 else w).begin g
/-- A word on that path owns a streamed frame, before the program ends or the path closes the loop level at depth d. A loop
that begins on the path counts once: every pass through its body is the same. -/
def Group.streamsBy (g : Group) (d : Nat) : Nat → Walk → Bool
  | 0, _ => false
  | n + 1, w =>
    if (g.word w.pc).op = 0x10 then false
    else
      let w := w.next g
      let w := if (g.word w.pc).op = 3 then { w with loops := (w.loops.map (fun e => (e.1, 1))).take 1 ++ w.loops.drop 1 }
        else w
      if !(w.cur g).resident then true
      else if w.loops.length < d then false
      else g.streamsBy d n w
/-- Words within which a path meets a streamed frame, if it ever does: of each level now open it takes the way back once. -/
def Group.pathBound (g : Group) : Nat := 16 * (g.prog.length + 1)
/-- The body of the loop that has just begun plays a streamed frame. -/
def Group.bodyStreams (g : Group) (w : Walk) : Bool :=
  g.streamsBy w.loops.length g.pathBound { w with loops := w.loops.zipIdx.map (fun e => (e.1.1, if e.2 = 0 then 1 else e.1.2)) }
/-- A streamed frame lies on the path after the current word. -/
def Group.streamsAhead (g : Group) (w : Walk) : Bool :=
  g.streamsBy 0 g.pathBound { w with loops := w.loops.map (fun e => (e.1, min e.2 2)) }

/-- What one step of the fill engine asks for. -/
inductive FillAsk where
  | walked
  | done
  | header (seg addr : Nat)
  | line (id addr : Nat)
  deriving DecidableEq, Repr

/-- One step of the fill engine along the path on which no JCOND jumps: a word begun, resident frames passed at once, a
play entered, or the next line. `left` counts here every frame that the current word still owns. A body that plays no
streamed frame is walked once; a jump to where no streamed frame follows ends the streamed part (R104). -/
def Group.fillStep (g : Group) : Group × FillAsk :=
  let f := g.fill
  let w := f.walk
  let set (w : Walk) : Group := { g with fill := { f with walk := w } }
  if !f.active then (g, .done)
  else if w.left = 0 then
    let prev := g.word w.pc
    if prev.op = 0x10 ∨ (prev.op = 5 ∧ !g.streamsAhead w) then ({ g with fill := { f with active := false } }, .done)
    else
      let w := w.next g
      let w := match w.loops with
        | (b, _) :: t => if (g.word w.pc).op = 3 ∧ !g.bodyStreams w then { w with loops := (b, 1) :: t } else w
        | [] => w
      (set { w with left := w.left + 1 }, .walked)
  else
    let s := w.cur g
    if s.resident then (set { w with pos := w.pos + w.left, left := 0, enter := false }, .walked)
    else if w.enter ∨ s.total ≤ w.pos then
      let w := { w with pos := if s.total ≤ w.pos then 0 else w.pos, enter := false, play := w.play + 1 }
      ({ g with fill := { f with walk := w, line := 0 } }, .header (w.seg.getD 0) s.addr)
    else
      let r := 2 ^ s.rep
      let k := w.pos / r
      let stop := match s.enc with
        | 2 => min ((k / 2 * 2 + 2) * r) s.total
        | _ => (k + 1) * r
      let n := min w.left (stop - w.pos)
      let last := (w.pos + n - 1) / r
      let idx := s.lineOf k
      let w' := { w with pos := w.pos + n, left := w.left - n }
      if idx < f.line then
        let ring := g.ring.map (fun l =>
          if l.play = w.play ∧ l.idx = idx then { l with count := last + 1 - l.first } else l)
        ({ g with ring := ring, fill := { f with walk := w' } }, .walked)
      else if s.enc = 0 ∧ f.line < idx then
        let l : RingLine := { id := f.nextId, seg := w.seg.getD 0, play := w.play, idx := idx - 1, first := k }
        ({ g with ring := g.ring ++ [l], fill := { f with line := idx, nextId := f.nextId + 1 } },
         .line f.nextId (s.addr + 128 + 128 * (idx - 1)))
      else
        let l : RingLine :=
          { id := f.nextId, seg := w.seg.getD 0, play := w.play, idx := idx, first := k, count := last + 1 - k }
        ({ g with ring := g.ring ++ [l], fill := { f with walk := w', line := idx + 1, nextId := f.nextId + 1 } },
         .line f.nextId (s.addr + 128 + 128 * idx))

/-- Steps to the next access; a program has at most 4,096 words, so more steps than that find none. -/
def Group.fillFind : Nat → Group → Group × FillAsk
  | 0, g => (g, .done)
  | n + 1, g =>
    let r := g.fillStep
    if r.2 = .walked then Group.fillFind n r.1 else r

/-- Steps that ask for no access: the engine's walk goes on over frames whose lines it has asked for. -/
def Group.fillWalk : Nat → Group → Group
  | 0, g => g
  | n + 1, g =>
    let r := g.fillStep
    match r.2 with
    | .walked => Group.fillWalk n r.1
    | .done => r.1
    | _ => g

/-- Accesses that the fill engine holds waiting for slots at a time, those not counted that the task's guard holds back for
the next window (R157; DESIGN CHOICE, log entry 47). -/
def fillDepth : Nat := 128
def Chip.fillWaits (c : Chip) (g : Nat) : Nat :=
  (c.mem.ch.map (fun e => e.2.stream.countP (fun r => r.who.isFill g && !r.late))).sum
/-- The fill engine asks for accesses while the ring has a free line (R98); without one it goes on over the frames of lines
that it has. -/
def Chip.pump (c : Chip) (g : Nat) : Chip := go 256 c
where
  go : Nat → Chip → Chip
    | 0, c => c
    | n + 1, c =>
      let x := c.group g
      match x.owner with
      | none => c
      | some t =>
        if !x.fill.active ∨ fillDepth ≤ c.fillWaits g ∨
            c.ringLines g ≤ x.ring.length + x.orphans.length then c.setGroup g (x.fillWalk 8192)
        else
          let r := x.fillFind 8192
          let c := c.setGroup g r.1
          match r.2 with
          | .header s a => go n (c.memReq .stream { addr := a, who := .header g t s })
          | .line i a => go n (c.memReq .stream { addr := a, who := .fill g t i })
          | _ => c

/-- A slot issued the read of ring line i: the line is IN_FILL (R98). -/
def Chip.fillIssued (c : Chip) (g i : Nat) : Chip :=
  let x := c.group g
  let c := c.setGroup g { x with ring := x.ring.map (fun l => if l.id = i then { l with st := 1 } else l) }
  ((c.ledMove (ringLed g 0) (ringLed g 1)).firnFilling g).pump g

/-- A line's data is in Firn: it is READY, or discarded when it was abandoned (R98, R119). -/
def Chip.lineFilled (c : Chip) (g i : Nat) (bad : Bool) (data : List Byte) : Chip :=
  let x := c.group g
  let c := ((c.ledAdd (ringLed g 3)).count (16 * g + 9))
  let c := if x.orphans.contains i then
      let c := c.setGroup g { c.group g with orphans := x.orphans.erase i }
      ((c.ledMove (ringLed g 1) (ringLed g 0)).ledAdd (ringLed g 5)).count (16 * g + 10)
    else
      (c.setGroup g { c.group g with ring := (c.group g).ring.map (fun l =>
        if l.id = i then { l with st := 2, bad := bad, data := data } else l) }).ledMove (ringLed g 1) (ringLed g 2)
  (c.firnFilling g).pump g

/-- The oldest line whose data reached Firn is READY, or discarded. -/
def Chip.fillArrived (c : Chip) (g : Nat) : Chip :=
  let x := c.group g
  match x.arrived with
  | (i, bad, data) :: rest => (c.setGroup g { x with arrived := rest }).lineFilled g i bad data
  | [] => c
/-- Every line whose data reached Firn. -/
def Chip.fillAll (c : Chip) (g : Nat) : Chip :=
  (List.range (c.group g).arrived.length).foldl (fun c _ => c.fillArrived g) c

end Sys2Proof.Machine
end

