-- ==== Sys2Proof/Machine/SeqOps.lean ====
section
/-! DEFINITION. SeqOps.lean: pin states, edges, flag views and the frame boundary of a group sequencer
(R54 to R63, R82 to R90, R105 to R134). -/

namespace Sys2Proof.Machine

/-! ### Pin states of a frame (R82 to R89) -/

/-- The state of a 3-bit code (R82). -/
def stateOf (v : Nat) : PinState := match v % 8 with
  | 0 => .D0 | 1 => .D1 | 2 => .DZ | 3 => .DK | 4 => .CL | 5 => .CH | 6 => .CM | _ => .CX
/-- A state's compare half (R82). -/
def PinState.compares : PinState → Bool
  | .CL | .CH | .CM | .CX => true
  | _ => false
/-- The state and marker of pin j in UI u (R84 to R87); SOURCE frames give CX here. -/
def uiState (enc modes dmode : Nat) (data : List Byte) (j u : Nat) : PinState × Bool :=
  match enc with
  | 0 =>
    let n := planByte data (4 * u + j / 2) / 16 ^ (j % 2) % 16
    (stateOf (n % 8), decide (8 ≤ n))
  | 1 =>
    let n := planByte data (2 * u + j / 4) / 4 ^ (j % 4) % 4
    (stateOf (if modes.testBit j then 4 + n else n), false)
  | 2 =>
    let b := planByte data u / 2 ^ j % 2
    (match dmode / 4 ^ j % 4 with
      | 0 => stateOf b
      | 1 => stateOf (4 + b)
      | 2 => .DK
      | _ => .CX, false)
  | _ => (.CX, false)
/-- The ninth pin's state (R89). -/
def ninthState (inv : Bool) (s : PinState) : PinState :=
  if inv then match s with
    | .D0 => .D1 | .D1 => .D0 | .CL => .CH | .CH => .CL | s => s
  else s
/-- The state that a pin's safe state amounts to (R63). -/
def Chip.safePin (c : Chip) (p : Nat) : PinState :=
  match c.field (pinB p + 4) 25 24 with
  | 0 => .DK
  | 1 => .DZ
  | _ => if c.field (pinB p + 4) 23 23 = 1 then .D1 else .D0
/-- Compare levels and configuration of lane j at the strobes of a frame: PIN_LEVEL and PIN_CFG, or GRP_FCK_LEVEL and
GRP_FCK_CTRL (R45, R59, R62, R65). -/
def FrameRec.judged (r : FrameRec) (j : Nat) : Word × Word := r.judge.getD j (0, 0)
/-- The registers that a frame's strobes are judged by, now. -/
def Chip.judges (c : Chip) (g : Nat) : List (Word × Word) :=
  (List.range 9).map (fun j => if j = 8 then (c.reg (grpB g + 0x30), c.reg (grpB g + 0x2C))
    else (c.reg (pinB (8 * g + j)), c.reg (pinB (8 * g + j) + 4)))
/-- The state of lane j in UI u of a frame; tx holds the bits of each source that drives (R69). Lane 8 is the FCK lane as
a ninth pin. -/
def Chip.laneState (c : Chip) (g : Nat) (r : FrameRec) (tx : List (Option (List Bool))) (j u : Nat) : PinState × Bool :=
  if r.enc = 3 then
    if j = 8 then (.DZ, false)
    else match bitsOf (r.judged j).2.toNat 31 30 with
    | 0 => (match tx.getD j none with
      | some bs => if bs.getD u false then .D1 else .D0
      | none => .DK, false)
    | 1 => (.CX, false)
    | _ => (c.safePin (8 * g + j), false)
  else if j = 8 then
    let s := uiState r.enc r.modes r.dmode r.data r.ninthSrc u
    (ninthState r.ninthInv s.1, s.2)
  else uiState r.enc r.modes r.dmode r.data j u

/-! ### Edges (R54 to R61) -/

/-- The five edges of a lane, after its UI start, skew and reference movement included. -/
structure Edges where
  de : Int
  da : Int
  dr : Int
  st : Int
  se : Int
  deriving DecidableEq, Repr

/-- Word w of timing set t of group g (R56). -/
def tsetWord (g t w : Nat) : Nat := grpB g + 0x2000 + 0x80 * t + 4 * w
/-- PIN_SKEW of a lane (R80): board part plus calibrated path delay. -/
def Chip.skew (c : Chip) (l : Nat) : Int × Int :=
  let b := tabGet (0, 0) c.cal.board l
  let v := tabGet {} c.cal.vals.lanes l
  (clampS 16 (b.1 + v.drv), clampS 16 (b.2 + v.cmp))
/-- Edges of lane j under the active timing set. -/
def Chip.edges (c : Chip) (g tset j : Nat) (move : Int) : Edges :=
  let a := tsetWord g tset (1 + 3 * j)
  let sk := c.skew (if j = 8 then 96 + g else 8 * g + j)
  { de := c.field a 13 0 + sk.1, da := c.field a 29 16 + sk.1, dr := c.field (a + 4) 13 0 + sk.1
    st := c.field (a + 4) 29 16 + sk.2 + move, se := c.field (a + 8) 13 0 + sk.2 + move }

/-- A lane the board fits (R356). -/
def Chip.fitted (c : Chip) (l : Nat) : Bool := bitOf (c.reg (0x00351400 + 4 * l)).toNat 31

/-- An edge of kind i is placed, never at or before the last of its kind (R61). -/
def LaneDrv.place (d : LaneDrv) (i : Nat) (t : Int) : LaneDrv × Int × Nat :=
  match d.edges.getD i none with
  | some p =>
    if t ≤ p then ({ d with edges := d.edges.set i (some (p + 1)) }, p + 1, 1)
    else ({ d with edges := d.edges.set i (some t) }, t, 0)
  | none => ({ d with edges := d.edges.set i (some t) }, t, 0)
/-- A drive transition (R61); the Nat is 1 when it falls under 131 fine units from the last. -/
def LaneDrv.move (d : LaneDrv) (t : Int) : LaneDrv × Nat :=
  ({ d with moved := some t }, match d.moved with
    | some m => if (t - m).natAbs < 131 then 1 else 0
    | none => 0)
/-- A placed edge waits for its time, behind those of its time (log entry 31). -/
def LaneDrv.await (d : LaneDrv) (t : Int) (start : Nat) (e : DriveEdge) : LaneDrv :=
  { d with pend := d.pend.takeWhile (fun x => decide (x.1 ≤ t)) ++
      (t, start, e) :: d.pend.dropWhile (fun x => decide (x.1 ≤ t)) }
/-- A drive edge acts at its time (R58); the Nat counts a close transition. An edge that changes nothing is no transition
(R61). -/
def LaneDrv.act (d : LaneDrv) (t : Int) : DriveEdge → LaneDrv × Nat
  | .enable => if d.on then (d, 0) else ({ d with on := true } : LaneDrv).move t
  | .level h =>
    if d.high = h then (d, 0)
    else if d.on then ({ d with high := h } : LaneDrv).move t else ({ d with high := h }, 0)
  | .release => if d.on then ({ d with on := false } : LaneDrv).move t else (d, 0)
/-- Edges act one after another. -/
def LaneDrv.actAll (d : LaneDrv) : List (Int × Nat × DriveEdge) → LaneDrv × Nat
  | [] => (d, 0)
  | e :: es =>
    let r := d.act e.1 e.2.2
    let q := r.1.actAll es
    (q.1, r.2 + q.2)
/-- Every edge before a time acts. -/
def LaneDrv.retire (d : LaneDrv) (t : Int) : LaneDrv × Nat :=
  ({ d with pend := d.pend.dropWhile (fun x => decide (x.1 < t)) } : LaneDrv).actAll
    (d.pend.takeWhile (fun x => decide (x.1 < t)))
/-- Every edge that waits acts. -/
def LaneDrv.flush (d : LaneDrv) : LaneDrv × Nat := ({ d with pend := [] } : LaneDrv).actAll d.pend
/-- UIs from a start on are not played: their edges never come. -/
def LaneDrv.cutAt (d : LaneDrv) (start : Nat) : LaneDrv :=
  if d.pend.any (fun x => decide (start ≤ x.2.1)) then
    { d with pend := d.pend.filter (fun x => decide (x.2.1 < start))
             edges := d.edges.map (fun e => e.filter (fun t => decide (t < start))) }
  else d
/-- The level that the last placed edge gives. -/
def LaneDrv.goal (d : LaneDrv) : Bool :=
  (d.pend.filterMap (fun x => match x.2.2 with
    | .level h => some h
    | _ => none)).getLastD d.high

/-- A lane's driver and the edges that R61 moved. -/
structure LaneRun where
  drv : LaneDrv
  order : Nat := 0
  deriving DecidableEq, Repr

/-- An edge of kind i is placed for a time. -/
def LaneRun.edge (r : LaneRun) (i : Nat) (t : Int) : LaneRun × Int :=
  let p := r.drv.place i t
  ({ drv := p.1, order := r.order + p.2.2 }, p.2.1)
/-- A drive edge is placed: kind 0 DE, 1 DA, 2 DR. -/
def LaneRun.drive (r : LaneRun) (i : Nat) (start : Nat) (off : Int) (e : DriveEdge) : LaneRun :=
  let p := r.edge i (start + off)
  { p.1 with drv := p.1.drv.await p.2 start e }
/-- The edges that one UI of a lane places (R58). -/
def LaneRun.ui (r : LaneRun) (e : Edges) (start : Nat) (s : PinState) : LaneRun :=
  match s with
  | .DK => r
  | .DZ => r.drive 2 start e.dr .release
  | .D0 | .D1 => (r.drive 0 start e.de .enable).drive 1 start e.da (.level (s == .D1))
  | _ =>
    let r := r.drive 2 start e.dr .release
    let r := (r.edge 3 (start + e.st)).1
    (r.edge 4 (start + e.se)).1

/-- The lane number of lane j of group g (R46). -/
def laneOf (g j : Nat) : Nat := if j = 8 then 96 + g else 8 * g + j
/-- Lane j of group g runs: its driver, edges moved and close transitions, which GRP_EDGE_CNT counts (R61, R81). A lane that
the board does not fit, or that a trip turned off, drives nothing (R356, R397). -/
def Chip.laneRan (c : Chip) (g j : Nat) (r : LaneRun) (close : Nat) : Chip :=
  let x := c.group g
  let fit := c.fitted (laneOf g j) && !c.dev.tripped
  let d := if fit then r.drv else { r.drv with on := false, toggles := false, moved := none, pend := [] }
  let close := if fit then close else 0
  let c := c.setGroup g { x with drv := ((x.drv ++ List.replicate 9 ({} : LaneDrv)).take 9).set j d }
  let c := (c.fieldUp (grpB g + 0x3C) 31 16 r.order).fieldUp (grpB g + 0x3C) 15 0 close
  if r.order + close = 0 then c else c.count (16 * g + 15) (r.order + close)

/-- Edges of lane j over the UIs of a frame that start at the given times (R58, R61). Edges of earlier frames that fall before
every edge of this one act first. -/
def Chip.runEdges (c : Chip) (g j : Nat) (move : Int) (uis : List (Nat × PinState)) : Chip :=
  let x := c.group g
  let e := c.edges g x.tset j move
  let d := (x.drv.getD j {}).retire ((uis.headD (0, .DZ)).1 + (c.skew (laneOf g j)).1)
  c.laneRan g j (uis.foldl (fun (r : LaneRun) u => r.ui e u.1 u.2) { drv := d.1 }) d.2
/-- The forwarded clock over UIs of a frame: it changes at DA of lane 8, high at its first change (R66). It is driven; in a
pause it stands still (DESIGN CHOICE, log entry 31). One that toggled since the last burst is low before its first change
(DEDUCED, log entry 86). -/
def Chip.runClock (c : Chip) (g : Nat) (starts : List Nat) : Chip :=
  let x := c.group g
  let e := c.edges g x.tset 8 0
  let rate := 2 ^ c.field (grpB g + 0x2C) 29 28
  let l : LaneDrv := x.drv.getD 8 {}
  let l : LaneDrv := if l.toggles then { l with toggles := false, high := false, pend := [] } else l
  let d := ({ l with on := true } : LaneDrv).retire (starts.headD 0 + (c.skew (laneOf g 8)).1)
  c.laneRan g 8 (starts.zipIdx.foldl (fun (r : LaneRun) u =>
    if u.2 % rate = 0 then r.drive 1 u.1 e.da (.level (!r.drv.goal)) else r) { drv := d.1 }) d.2
/-- The last edges of lane j: UIs from a time after the epoch on are not played; a state is entered there, and every edge
placed acts (R63). -/
def Chip.endEdges (c : Chip) (g j fine : Nat) (s : PinState) : Chip :=
  let x := c.group g
  let e := c.edges g x.tset j 0
  let r : LaneRun := LaneRun.ui { drv := (x.drv.getD j {}).cutAt fine } e fine s
  let d := r.drv.flush
  c.laneRan g j { r with drv := d.1 } d.2

/-- A forwarded clock that SAFE_Z leaves toggling goes on (R65). -/
def Chip.keepClock (c : Chip) (g : Nat) : Chip :=
  if c.fckMode g = 1 ∧ c.field (grpB g + 0x2C) 26 26 = 0 then
    let x := c.group g
    let l : LaneDrv := x.drv.getD 8 {}
    c.setGroup g { x with drv := ((x.drv ++ List.replicate 9 ({} : LaneDrv)).take 9).set 8 { l with toggles := l.on } }
  else c
/-- The pins of group g enter their safe states at a time after the epoch (R63, R65, R68). -/
def Chip.safeState (c : Chip) (g fine : Nat) : Chip :=
  let c := (List.range 8).foldl (fun c j => c.endEdges g j fine (c.safePin (8 * g + j))) c
  (c.endEdges g 8 fine (if c.fckMode g = 3 ∨ (c.fckMode g = 1 ∧ c.field (grpB g + 0x2C) 26 26 = 1) then .DZ else .DK)).keepClock
    g

/-! ### Flag views (R123) -/

/-- A change of the flags. -/
def flagWrite (v set clr : Dword) : Dword := (v &&& ~~~clr) ||| set
/-- The view at a time in fine units of the TM count: changes seen by then. -/
def Ctx.viewAt (x : Ctx) (t : Nat) : Dword :=
  (x.viewPend.filter (fun e => e.1 ≤ t)).foldl (fun v e => flagWrite v e.2.2.1 e.2.2.2) x.view
/-- Start of the frame that group g plays, in fine units of the TM count. -/
def Chip.frameStart (c : Chip) (g : Nat) : Nat :=
  let x := c.group g
  512 * x.epoch + uiStart (c.period g x.pa) (x.ui - 64)
/-- A change enters the view of context n, in the order in which changes are seen. Changes that every frame now playing has
seen join the settled view; none while a group waits, whose condition asks when it became true. -/
def Chip.pushView (c : Chip) (n seen at0 : Nat) (set clr : Dword) : Chip :=
  let x := c.ctx n
  let ps := x.viewPend
  let ps := ps.filter (fun e => e.1 ≤ seen) ++ (seen, at0, set, clr) :: ps.filter (fun e => seen < e.1)
  let gs := (bitsIn (c.env n).groups 12).filter (fun g => (c.group g).st != 5)
  let low := gs.foldl (fun m g => min m (c.frameStart g)) seen
  let waits := gs.any (fun g => (c.group g).st == 3)
  let old := if waits then [] else ps.takeWhile (fun e => decide (e.1 ≤ low))
  c.setCtx n { x with view := old.foldl (fun v e => flagWrite v e.2.2.1 e.2.2.2) x.view
                      viewPend := ps.drop old.length }
/-- The condition of WAITF (R124). -/
def SeqWord.waitTrue (w : SeqWord) (v : Dword) : Bool :=
  if w.b2 % 2 = 1 then v &&& w.mask == w.mask else v &&& w.mask != 0

/-! ### Conditions (R116, R117) -/

/-- Entries of sideband port n whose latch is set and whose read ended 8 ns before a TM period. -/
def Chip.sbSeen (c : Chip) (n t : Nat) (e : Nat) : Bool :=
  bitOf (c.reg (sbHit n e)).toNat (e % 32) && decide (tabGet 0 (tabGet {} c.sb n).setAt e + 128 ≤ t)
/-- The condition of the JCOND that owns the frame now ending, which began at a time in fine units of the TM count, before
INV (R116, R117). -/
def Chip.jcondRaw (c : Chip) (x : Group) (n start : Nat) (w : SeqWord) : Bool :=
  let f := x.frame - 1
  let res := x.results.find? (fun r => r.1 + 3 = f)
  let sel := w.w2 % 512
  match w.b2 % 8 with
  | 0 => match res with
    | some r => r.2.1 &&& sel != 0
    | none => false
  | 1 => match res with
    | some r => r.2.2 &&& sel != 0 && r.2.1 &&& sel == 0
    | none => false
  | 2 => ((c.ctx n).viewAt start).getLsbD w.b3
  | 3 => if sel = 0x100 then (List.range 256).any (fun e => c.sbSeen w.b3 (start / 512) e) else c.sbSeen w.b3 (start / 512) sel
  | _ => match x.walk.loops with
    | (_, r) :: _ => r == 1
    | [] => false
/-- JCOND's test; a true one on SB_HIT clears the latches it tested and saw. -/
def Chip.jcond (c : Chip) (x : Group) (n start : Nat) (w : SeqWord) : Bool × Chip :=
  let hit := c.jcondRaw x n start w != decide (128 ≤ w.b2)
  if hit && w.b2 % 8 == 3 then
    let es := if w.w2 % 512 = 0x100 then List.range 256 else [w.w2 % 512]
    (true, (es.filter (fun e => c.sbSeen w.b3 (start / 512) e)).foldl
      (fun c e => c.sbClear w.b3 e) c)
  else (hit, c)

/-! ### The end of a group's burst (R63, R100, R127 to R134, R175) -/

/-- The groups of the task that context n runs. -/
def Chip.taskGroups (c : Chip) (n : Nat) : List Nat := bitsIn (c.env n).groups 12
/-- Every group of the task has ended: the task enters ENDING, its TDCs and converters stop (R166, R175, R220, R240). -/
def Chip.endTask (c : Chip) (n : Nat) : Chip :=
  if (c.taskGroups n).all (fun g => (c.group g).st == 5) then
    let c := (c.tdcBurstEnd n).adcBurstEnd n
    let x := c.ctx n
    if x.pend = some 7 ∨ x.st = 7 then c
    else (c.updCtx n (fun x => { x with pend := some 7 })).raise (srcTask n) 0x8007 [.task n x.gen 7]
  else c
/-- The length of a pause that ends at a time after the epoch joins SEQ_PAUSE_NS (R136), each pause in whole ns (DESIGN
CHOICE, log entry 34). -/
def Chip.pauseEnd (c : Chip) (g fine : Nat) : Chip :=
  let x := c.group g
  if x.st = 3 ∨ x.st = 4 then
    (c.setReg64 (seqB g + 0x60) (c.reg64 (seqB g + 0x60) + (fine - x.pauseFrom) / 8192)).setField (firnB g + 4) 31 31 0
  else c
/-- UIs of a frame that begin before a time after the epoch. -/
def FrameRec.uisBy (r : FrameRec) (fine : Nat) : Nat :=
  ((List.range r.uis).filter (fun u => decide (uiStart r.per (uiFrom r.per r.start + u) < fine))).length
/-- Group g ends its burst for a cause, once (R134). The UIs of its last frame that begin at that time or later are not
played (R63). -/
def Chip.endGroup (c : Chip) (g cause fine : Nat) : Chip :=
  let x := c.group g
  match x.owner with
  | none => c
  | some n =>
    if x.st = 5 ∨ x.st = 0 then c
    else
      let c := (c.pauseEnd g fine).safeState g fine
      let c := if x.laneMode then c.chkStop g else c
      let c := (c.setGroup g { c.group g with fill := { (c.group g).fill with active := false } }).dropRing g
      let y := c.group g
      let c := c.setGroup g { y with
        st := 5, cause := cause, faultDue := false, endDue := none, judged := true
        pipe := y.pipe.map (fun r => { r with uis := r.uisBy fine }) }
      c.endTask n

/-- The other groups of the task end with a cause at their first boundary at or after a time (R130, R134); a paused group
ends at once. -/
def Chip.endPeers (c : Chip) (n g cause fine : Nat) : Chip :=
  (c.taskGroups n).foldl (fun c h =>
    let x := c.group h
    if h = g ∨ x.st = 5 ∨ x.st = 0 then c
    else if x.st = 3 ∨ x.st = 4 then c.endGroup h cause fine
    else if x.endDue.isNone then c.setGroup h { x with endDue := some (cause, fine) } else c) c

/-- An underrun of group g at a boundary (R130, R131): the walk stands at the missing frame, position pos. -/
def Chip.underrunAt (c : Chip) (g n fine : Nat) (w : Walk) (pos : Nat) : Chip :=
  let x := c.group g
  let b := seqB g
  let c := c.setReg64 (b + 0x68) x.frame
  let c := c.setReg (b + 0x70) (BitVec.ofNat 32 (2 ^ 31 + w.pc * 2 ^ 16 + w.seg.getD 0xFFFF))
  let c := c.setReg (b + 0x74) (BitVec.ofNat 32 pos)
  let led (i : Nat) : Nat := min (c.ledger (ringLed g i)).toNat 0xFFFF
  let c := c.setReg (b + 0x78) (BitVec.ofNat 32 (led 0 * 2 ^ 16 + led 1))
  let c := c.setReg (b + 0x7C) (BitVec.ofNat 32 (led 2 * 2 ^ 16))
  let c := (List.range 8).foldl (fun c d =>
    c.setReg (b + 0x80 + 4 * d) (BitVec.ofNat 32 ((w.loops.reverse.map (·.2)).getD d 0))) c
  let c := c.raiseErr (srcSeq g) 0x0100 g (x.frame % 2 ^ 32) ((c.ctx n).handle n)
  (c.endGroup g 2 fine).endPeers n g 3 fine
/-- SEQ_FAULT of group g at a boundary (R134): its word index is that of the word that owns the current frame (DESIGN CHOICE,
log entry 90). -/
def Chip.faultAt (c : Chip) (g n fine : Nat) : Chip :=
  let c := c.raiseErr (srcSeq g) 0x0101 g (c.group g).walk.pc ((c.ctx n).handle n)
  (c.endGroup g 5 fine).endPeers n g 6 fine

/-- A pause begins at a boundary: 3 WAIT, 4 STALLED (R124, R132, R133). -/
def Chip.pause (c : Chip) (g st fine : Nat) : Chip :=
  let x := c.group g
  let x := { x with st := st, pauseFrom := fine, stallFrom := some (x.stallFrom.getD x.frame) }
  (c.setGroup g x).count (16 * g + 7)

/-! ### The frame boundary -/

/-- What a boundary came to. -/
inductive Beat where
  | nothing | plays | stalls | underran | ended | pauses | holds
  deriving DecidableEq, Repr

/-- What happened at a boundary: the word whose frame began, if a word's frame did; a JCOND wait fell through; a SYNC ended
by its edge, or by its timeout. -/
structure Happen where
  beat : Beat := .nothing
  op : Option Nat := none
  fell : Bool := false
  edge : Bool := false
  late : Bool := false
  deriving DecidableEq, Repr

/-- Bits of the sources that drive in a SOURCE frame, with the sources moved on (R69 to R72). -/
def Chip.sourceBits (c : Chip) (g : Nat) : List (Option (List Bool)) × Chip :=
  (List.range 8).foldl (fun (a : List (Option (List Bool)) × Chip) j =>
    let c := a.2
    let p := 8 * g + j
    let k := c.srcCfg p
    let x := c.group g
    let s := x.srcs.getD j {}
    if c.pinDir p ≠ 0 ∨ k.typ = 0 ∨ s.mute then (a.1 ++ [none], c)
    else
      let r := srcTake x k 64 s
      let c := c.setGroup g { x with srcs := ((x.srcs ++ List.replicate 8 ({} : SrcSt)).take 8).set j r.2.1 }
      (a.1 ++ [some r.1], if r.2.2 = 0 then c else c.fieldUp (chkStatus p) 23 16 r.2.2)) ([], c)

/-- ARMT (R121). One that names a pin outside the envelope, itself or in its plan, acts on nothing and is one breach (R15,
R222). -/
def Chip.armWord (c : Chip) (g n : Nat) (w : SeqWord) : Chip :=
  let pins := (bitsIn w.w2 8).map (fun j => 8 * g + j)
  let plan := (c.ctx n).tdcPlan.getD w.id []
  if (pins ++ tdcPlanPins g plan).all (fun p => bitOf (c.env n).tdcPins p) then
    pins.foldl (fun c p => c.tdcArm p n w.id plan) c
  else c.breach (srcSeq g) n 0x0200

/-- A frame plays from a boundary: walk w has just taken it, at position pos; `word` is the word whose first frame it is
(R52 to R58, R86, R106 to R112, R120 to R125). -/
def Chip.playFrame (c : Chip) (g n bound : Nat) (w : Walk) (pos : Nat) (word : Option SeqWord) (bytes : List Byte) : Chip :=
  let x := c.group g
  let s := w.cur x
  let op := match word with
    | some y => y.op
    | none => 0
  let arg := match word with
    | some y => y.b2
    | none => 0
  let tgood := bitOf (c.reg (tsetWord g arg 0)).toNat 31
  let tset := if op = 8 ∧ tgood then arg else x.tset
  let pa := if op = 8 ∧ tgood then c.field (tsetWord g arg 0) 1 0 else if op = 9 then arg else x.pa
  let per := c.period g pa
  let ui := if pa = x.pa then x.ui else uiFrom per bound
  let start := uiStart per ui
  let t := x.epoch + start / 512
  let time := c.timeAtFine (512 * x.epoch + start)
  let modes := match word with
    | some y =>
      if op = 2 ∧ s.enc = 1 ∧ s.modeLoad then s.modeInit
      else if op = 7 then (x.modes &&& (255 - y.b3)) ||| (y.b2 &&& y.b3)
      else x.modes
    | none => x.modes
  let r : FrameRec :=
    { num := x.frame, start := start, mcount := c.mtc t, tns := stampNs time, tfrac := stampFrac time, per := per
      enc := s.enc, data := bytes, modes := modes, dmode := s.dmode, ninthSrc := s.ninthSrc, ninthInv := s.ninthInv
      cmode := if op = 0xE then arg else x.cmode
      cparam := match word with
        | some y => if op = 0xE then y.w1 else x.cparam
        | none => x.cparam
      afterStall := x.afterStall x.frame
      judge := c.judges g }
  let x := { x with
    walk := w, tset := tset, pa := pa, ui := ui + 64, frame := x.frame + 1, shownPos := pos, st := 1
    judged := !([5, 6, 0xD, 0xF, 0x10].contains op), tests := if op = 6 then 1 else x.tests
    faultDue := x.faultDue || (op == 8 && !tgood), modes := modes, cmode := r.cmode, cparam := r.cparam
    pipe := x.pipe ++ [r]
    syncFrame := if op = 0xF then x.frame else x.syncFrame, syncFrom := if op = 0xF then start else x.syncFrom
    syncUi := if op = 0xF then ui else x.syncUi, syncEnd := if op = 0xF then none else x.syncEnd
    ring := if s.resident then x.ring else x.ring.map (fun (l : RingLine) =>
      if l.play = w.play ∧ (s.lines (pos / 2 ^ s.rep)).contains l.idx then { l with used := true } else l) }
  let was := x.laneMode
  let x := { x with laneMode := s.enc == 3 }
  let x := if s.enc = 3 ∧ c.fckMode g = 2 then x.fckStep (uiStart per (ui + 64) - start) else x
  let c := (c.setGroup g x).count (16 * g)
  let c := if was && s.enc != 3 then c.chkStop g else c
  let src := if s.enc = 3 then c.sourceBits g else ([], c)
  let c := src.2
  let starts := (List.range 64).map (fun u => uiStart per (ui + u))
  let c := (List.range 8).foldl (fun c j =>
    let mv := if s.enc = 3 ∧ c.fckMode g = 2 ∧ c.pinDir (8 * g + j) = 1 then x.fckMove else 0
    c.runEdges g j mv (starts.zipIdx.map (fun e => (e.1, (c.laneState g r src.1 j e.2).1)))) c
  let c := match c.fckMode g with
    | 1 => c.runClock g starts
    | 3 => c.runEdges g 8 0 (starts.zipIdx.map (fun e => (e.1, (c.laneState g r src.1 8 e.2).1)))
    | _ => c
  match word with
  | none => c
  | some y =>
    let c := if y.flags % 2 = 1 then c.raise (srcSeq g) 0x8020 [] none (w.pc + r.num * 2 ^ 16) else c
    match op with
    | 0xA => c.armWord g n y
    | 0xB => c.adcWord (srcSeq g) n y.id
    | 0xC =>
      let set := if y.b2 % 2 = 0 then y.mask else 0
      let clr := if y.b2 % 2 = 0 then 0 else y.mask
      let at0 := 512 * x.epoch + start
      (c.pushView n (at0 + 65536) at0 set clr).raise (srcSeq g) 0x8010 [.flags n (c.ctx n).gen 0 set clr]
    | _ => c

/-- The frame after the judged end of the last one: it plays, or data is missing (R99, R130, R132). `again` says that the
boundary was judged before, by a stall. -/
def Chip.nextFrame (c : Chip) (g n bound : Nat) (again : Bool) (h : Happen) : Happen × Chip :=
  let x := c.group g
  let w0 := x.walk
  let fresh := w0.left = 0
  let w1 := if fresh then w0.begin x else { w0 with left := w0.left - 1 }
  let s := w1.cur x
  let fr := w1.frame s
  let w := fr.1
  let pos := w.pos - 1
  let k := pos / 2 ^ s.rep
  let c := c.pump g
  let c := if s.resident then c.leaveLines g (w.play + 1) 0 else c.leaveLines g w.play ((s.lines k).headD 0)
  let x := c.group g
  let ahead := x.aheadOf w.play k
  let c := if s.resident ∨ again then c else c.judgeLead g ahead s.lead
  let peer := match x.endDue with
    | some e => decide (e.2 ≤ bound)
    | none => false
  match x.held w s pos with
  | .missing =>
    if x.elastic && !peer then
      ({ h with beat := .stalls }, ((c.pause g 4 bound).cntUp (seqB g + 0x54)).setField (firnB g + 4) 31 31 1)
    else ({ h with beat := .underran }, c.underrunAt g n bound w pos)
  | .poison => ({ h with beat := .underran }, c.underrunAt g n bound w pos)
  | .ok bytes =>
    if peer then ({ h with beat := .ended }, c.endGroup g (match x.endDue with | some e => e.1 | none => 3) bound)
    else
      let c := if fr.2 then (c.cntUp (seqB g + 0x50)).count (16 * g + 6) else c
      let word := if fresh then some (x.word w.pc) else none
      let c := c.playFrame g n bound w pos word bytes
      ({ h with beat := .plays, op := word.map (·.op) }, c.pump g)

/-- A taken jump (R115, R117, R119): a JCOND's abandons the lines fetched for the other path. -/
def Chip.takeJump (c : Chip) (g target : Nat) (abandon : Bool) : Chip :=
  let x := c.group g
  let w := x.walk.jump x.prog target
  let c := (c.setGroup g { x with walk := w, judged := true }).cntUp (seqB g + 0x40) |>.count (16 * g + 5)
  if abandon then
    let c := c.dropRing g
    let x := c.group g
    (c.setGroup g { x with fill := { x.fill with walk := w, line := 0, active := true } }).pump g
  else c

/-- The forwarded clock goes on through n hold frames (R66, R125). -/
def Chip.holdClock (c : Chip) (g : Nat) : Nat → Nat → Chip
  | _, 0 => c
  | ui, n + 1 =>
    let per := c.period g (c.group g).pa
    (c.runClock g ((List.range 64).map (fun u => uiStart per (ui + u)))).holdClock g (ui + 64) n
/-- n SYNC hold frames (R125). -/
def Chip.holdFrames (c : Chip) (g n : Nat) : Chip :=
  let c := if c.fckMode g = 1 then c.holdClock g (c.group g).ui n else c
  let x := c.group g
  let c := c.setGroup g { x with st := 2, frame := x.frame + n, ui := x.ui + 64 * n }
  let c := c.setReg64 (seqB g + 0x58) (c.reg64 (seqB g + 0x58) + n)
  if n = 0 then c else c.count (16 * g + 8) n

/-- Results that must be complete before the next frame of group g are not: those of frame f − 4 before frame f (R117,
R189). -/
def Group.awaitsResults (x : Group) : Bool := x.pipe.any (fun r => decide (r.num + 4 ≤ x.frame))
/-- The end of the frame that group g plays is judged at its boundary, and the next frame begins (R106 to R134). WAITF is
judged on the view at that boundary (DESIGN CHOICE, log entry 34); a lead that a pause delays is judged at the resume
(the same). A SYNC without an edge is known to be so 8 ns after its last frame (R126, R338). What ended a peer within the
frame that now ends comes before that frame's END; one whose END frame ends at that very time keeps END (DESIGN CHOICE, log
entry 91). -/
def Chip.beat (c : Chip) (g : Nat) : Happen × Chip :=
  let x := c.group g
  match x.owner with
  | none => ({}, c)
  | some n =>
    if (x.st ≠ 1 ∧ x.st ≠ 2) ∨ x.awaitsResults then ({}, c)
    else
      let per := c.period g x.pa
      let bound := uiStart per x.ui
      let c := c.advanceTo (x.epoch + bound / 512)
      let y := x.word x.walk.pc
      let op := if x.judged then 0 else y.op
      let peer := match x.endDue with
        | some e => decide (e.2 ≤ bound)
        | none => false
      let cause := match x.endDue with
        | some e => e.1
        | none => 3
      let before := match x.endDue with
        | some e => decide (e.2 < bound)
        | none => false
      let due := peer && (cause == 6 || before)
      if x.faultDue then ({ beat := .ended }, c.faultAt g n bound)
      else if before then ({ beat := .ended }, c.endGroup g cause bound)
      else if op = 0x10 then ({ beat := .ended, op := some 0x10 }, c.endGroup g 1 bound)
      else if due then ({ beat := .ended }, c.endGroup g cause bound)
      else match op with
      | 5 => (c.takeJump g y.w1 false).nextFrame g n bound false {}
      | 6 =>
        let r := c.jcond x n (c.frameStart g) y
        let c := r.2
        if r.1 then (c.takeJump g y.w1 true).nextFrame g n bound false {}
        else if x.tests < max 1 y.w3 then
          let w := x.walk
          let pos := w.pos - 1
          if peer then ({ beat := .ended }, c.endGroup g cause bound) else
          match x.held w (w.cur x) pos with
          | .ok bytes =>
            let tests := x.tests + 1
            let c := c.playFrame g n bound w pos none bytes
            ({ beat := .plays, op := some 6 }, c.setGroup g { c.group g with judged := false, tests := tests })
          | _ => ({ beat := .underran }, c.underrunAt g n bound w pos)
        else
          let c := c.setGroup g { c.group g with judged := true }
          if 2 ≤ y.w3 then (c.cntUp (seqB g + 0x44)).nextFrame g n bound false { fell := true }
          else c.nextFrame g n bound false {}
      | 0xD =>
        if y.waitTrue ((c.ctx n).viewAt (512 * x.epoch + bound)) then
          (c.setGroup g { x with judged := true }).nextFrame g n bound false {}
        else if peer then ({ beat := .ended }, c.endGroup g cause bound)
        else ({ beat := .pauses }, c.pause g 3 bound)
      | 0xF =>
        let edge := match x.syncEnd with
          | some e => decide (e ≤ x.frame)
          | none => false
        let late := x.syncEnd.isNone && decide (x.syncFrame + y.w3 + 1 ≤ x.frame)
        if edge then (c.setGroup g { x with judged := true, st := 1 }).nextFrame g n bound false { edge := true }
        else if late then
          let c := c.advanceTo (x.epoch + bound / 512 + 128)
          let c := (c.setGroup g { x with judged := true, st := 1 }).cntUp (seqB g + 0x4C)
          let c := c.raiseErr (srcSeq g) 0x0304 g x.walk.pc ((c.ctx n).handle n)
          c.nextFrame g n bound false { late := true }
        else if peer then ({ beat := .ended }, c.endGroup g cause bound)
        else ({ beat := .holds }, c.holdFrames g 1)
      | _ => c.nextFrame g n bound false {}

/-- The hold frames still to come before the SYNC of group g ends, by its edge or its timeout (R125, R126). A group that a peer
ends goes on frame by frame (R130). -/
def Group.holdsLeft (x : Group) : Nat :=
  if x.inSync && !x.faultDue && x.endDue.isNone then
    x.syncEnd.getD (x.syncFrame + (x.word x.walk.pc).w3 + 1) - x.frame
  else 0
/-- Fine units after the epoch at which group g next takes a turn: its next boundary, past hold frames. -/
def Chip.turnAt (c : Chip) (g : Nat) : Nat :=
  let x := c.group g
  uiStart (c.period g x.pa) (x.ui + 64 * x.holdsLeft)
/-- Group g takes that turn. -/
def Chip.turn (c : Chip) (g : Nat) : Happen × Chip := (c.holdFrames g (c.group g).holdsLeft).beat g
/-- The other groups of the task that play or hold. -/
def Chip.peers (c : Chip) (n g : Nat) : List Nat :=
  (c.taskGroups n).filter (fun h => h != g && ((c.group h).st == 1 || (c.group h).st == 2))
/-- A peer's turn at the time of a boundary, if it ends the peer by an underrun or a fault: it ends the others at that time
too (R130, R134). -/
def Chip.peerEnds (c : Chip) (h : Nat) : Chip :=
  let r := c.turn h
  if (r.2.group h).st = 5 ∧ (r.2.group h).cause ∈ [2, 5] then r.2 else c
/-- The next boundary of group g. It waits for the earlier ones of its task's other groups and for the results that those at
the same time need, and what ends one of them at that time comes first (R117, R130, R134). -/
def Chip.boundary (c : Chip) (g : Nat) : Happen × Chip :=
  match (c.group g).owner with
  | none => ({}, c)
  | some n =>
    let x := c.group g
    let b := uiStart (c.period g x.pa) x.ui
    let ps := c.peers n g
    if (x.st ≠ 1 ∧ x.st ≠ 2) ∨ x.awaitsResults then ({}, c)
    else if ps.any (fun h => decide (c.turnAt h < b) || (decide (c.turnAt h = b) && (c.group h).awaitsResults)) then ({}, c)
    else ((ps.filter (fun h => decide (c.turnAt h = b))).foldl Chip.peerEnds c).beat g

/-- A paused group resumes at the first UI start of its accumulator at or after a time, not before its boundary, and the
held frame begins (R124, R132); a fault met in the pause ends it there (R134). -/
def Chip.resume (c : Chip) (g fine : Nat) (again : Bool) : Happen × Chip :=
  let x := c.group g
  match x.owner with
  | none => ({}, c)
  | some n =>
    let per := c.period g x.pa
    let ui := max x.ui (uiFrom per fine)
    let start := uiStart per ui
    let c := (c.advanceTo (x.epoch + start / 512)).pauseEnd g start
    let c := c.setGroup g { c.group g with st := 1, ui := ui, judged := true }
    if x.faultDue then ({ beat := .ended }, c.faultAt g n start) else c.nextFrame g n start again {}

end Sys2Proof.Machine
end

