-- ==== Sys2Proof/Machine/Capture.lean ====
section
/-! DEFINITION. Capture.lean: compare results of a frame: counters, first fails, capture modes and records (R45, R59, R76,
R189 to R198). -/

namespace Sys2Proof.Machine

/-- The comparator's result at a voltage in units of 0.1 mV, for threshold codes of 0.3 mV (R45, R46). -/
def compareLevel (vcl vch v : Nat) : Level := if v < 3 * vcl then .L else if 3 * vch < v then .H else .M
/-- The comparator's result on lane j of a frame, by the thresholds at its strobes (R45, R50, R65). -/
def FrameRec.levelAt (r : FrameRec) (j v : Nat) : Level :=
  compareLevel (bitsOf (r.judged j).1.toNat 11 0) (bitsOf (r.judged j).1.toNat 27 16) v
/-- Lane j compares in a frame (R62, R65). -/
def FrameRec.compares (r : FrameRec) (j : Nat) : Bool :=
  if j = 8 then bitsOf (r.judged j).2.toNat 31 30 == 3 else bitOf (r.judged j).2.toNat 28
/-- Whether a level passes a compare state (R45). -/
def PinState.passes : PinState → Level → Bool
  | .CL, .L | .CH, .H | .CM, .M => true
  | .CX, _ => true
  | _, _ => false

/-- What one lane's results of a frame came to: bit u of each mask is UI u. -/
structure LaneRes where
  /-- compared, CX included -/
  seen : Nat := 0
  judged : Nat := 0
  failed : Nat := 0
  high : Nat := 0
  mid : Nat := 0
  tagged : Nat := 0
  deriving DecidableEq, Repr

/-- A mask of the UIs that pass a test. -/
def uiMask (f : Nat → Bool) : Nat := ((List.range 64).map (fun u => if f u then 2 ^ u else 0)).sum
/-- UIs of a mask. -/
def uisOf (m : Nat) : List Nat := (List.range 64).filter (fun u => m.testBit u)
/-- Tagged UIs of a frame (R194). -/
def FrameRec.tags (r : FrameRec) (marked : Nat) : Nat :=
  if r.cmode < 3 then 0
  else if r.enc = 0 then marked
  else uiMask (fun u => decide (r.cparam % 64 ≤ u) && decide (u ≤ r.cparam / 256 % 64))

/-- The observations of a frame behind a deskew delay (R77): UIs in which none has come through yet, what comes through, and
what is held back. -/
def delayed (d uis : Nat) (line : List (Nat × Bool)) (o : LaneObs) : Nat × List (Nat × Bool) × List (Nat × Bool) :=
  let all := line ++ (List.range uis).map (fun u => (o.volts.getD u 0, o.changed.getLsbD u))
  let gap := min uis (d - line.length)
  (gap, all.take (uis - gap), all.drop (uis - gap))
/-- The deskew delay applied to pin p (R77, R79). -/
def Chip.deskewDelay (c : Chip) (p : Nat) : Nat :=
  if bitOf (c.reg (pinB p + 0x7C)).toNat 31 then c.field (pinB p + 0x7C) 21 16 else 0

/-- The results of lane j in a frame, from its UI `gap` on (R45, R59, R62, R63, R69, R76); `chk` gives the checker's verdicts
of a checked lane. -/
def Chip.laneRes (c : Chip) (g : Nat) (r : FrameRec) (o : List (Nat × Bool)) (gap : Nat) (chk : Option (List Bool)) (j : Nat) :
    LaneRes :=
  let st := (List.range 64).map (fun u => c.laneState g r [] j u)
  let en := r.compares j
  let lv := (List.range 64).map (fun u => r.levelAt j (o.getD (u - gap) (0, false)).1)
  let sAt (u : Nat) : PinState := (st.getD u (.DZ, false)).1
  let seen := uiMask (fun u => en && PinState.compares (sAt u) && decide (gap ≤ u) && decide (u < r.uis))
  let judged := uiMask (fun u => seen.testBit u && (sAt u != .CX || chk.isSome))
  let failed := uiMask (fun u => judged.testBit u && (match chk with
    | some v => v.getD (u - gap) false
    | none => (o.getD (u - gap) (0, false)).2 || !PinState.passes (sAt u) (lv.getD u .L)))
  { seen := seen, judged := judged, failed := failed
    high := uiMask (fun u => lv.getD u .L == .H), mid := uiMask (fun u => lv.getD u .L == .M)
    tagged := r.tags (uiMask (fun u => (st.getD u (.DZ, false)).2)) }

/-- Number of UIs in a mask. -/
def uiCount (m : Nat) : Nat := (uisOf m).length
/-- Adds to a 48-bit counter that saturates (R190). -/
def Chip.laneCount (c : Chip) (a n : Nat) : Chip := c.setReg64 a (min (c.reg64 a + n) (2 ^ 48 - 1))

/-- First fail of lane l in frame r, and of its site s (R191). -/
def Chip.firstFail (c : Chip) (l s : Nat) (r : FrameRec) : Chip :=
  if (c.laneFirst l).isSome then c
  else
    let c := c.setReg64 (laneReg8 l + 0x10) (2 ^ 63 + r.num % 2 ^ 40)
    let a := siteLed s 6
    let old := c.reg64 a
    let m := tabGet 0 c.mor.firsts s
    if old.testBit 63 ∧ ¬ (r.mcount < m ∨ (r.mcount = m ∧ l < bitsOf old 54 48)) then c
    else
      let c := c.setReg64 a (2 ^ 63 + l * 2 ^ 48 + r.num % 2 ^ 40)
      { c with mor := { c.mor with firsts := tabSet c.mor.firsts s r.mcount } }

/-- The FAIL record's bitmap under the frame's capture mode; 0 for none (R193). -/
def failBitmap (r : FrameRec) (recs : Nat) (x : LaneRes) : Nat :=
  match r.cmode with
  | 1 | 5 => x.failed
  | 2 => if recs < r.cparam then x.failed else 0
  | 3 => x.failed &&& x.tagged
  | _ => 0
/-- The RXDATA record's mask; 0 for none. -/
def rxMask (r : FrameRec) (x : LaneRes) : Nat := if r.cmode = 4 ∨ r.cmode = 5 then x.seen &&& x.tagged else 0

/-- The records of lane l (R193 to R198). -/
def Chip.laneRecords (c : Chip) (g n l s : Nat) (r : FrameRec) (x : LaneRes) : Chip :=
  let recs := laneReg8 l + 0x18
  let fm := failBitmap r (c.reg recs).toNat x
  let c := if fm = 0 then c
    else ((c.cntUp recs).count (16 * g + 3)).makeRec g
      { site := s, wide := false, ctx := some n
        words := [fm, c.laneInfo l 1 s r.num false (r.enc == 3) r.afterStall] }
  let rm := rxMask r x
  if rm = 0 then c
  else c.makeRec g
    { site := s, wide := true, ctx := some n
      words := [rm, c.laneInfo l 2 s r.num true false r.afterStall, x.high &&& rm,
                r.tns + r.tfrac * 2 ^ 32 + uiCount (x.mid &&& rm) * 2 ^ 40] }

/-- Bits of a lane's results for the check-value units that it feeds (R251, R252). -/
def Chip.laneCrc (c : Chip) (n l : Nat) (x : LaneRes) (sum : ChkSum) : Chip :=
  let raw := (uisOf x.seen).map (fun u => x.high.testBit u)
  let cmp := (uisOf x.judged).map (fun u => x.failed.testBit u)
  let c := (c.crcOnLane n 1 l).foldl (fun c u => c.crcFeed u raw) c
  let c := (c.crcOnLane n 2 l).foldl (fun c u => (c.crcFeedBytes u sum.bytes).crcFeed u sum.serial) c
  (c.crcOnLane n 3 l).foldl (fun c u => c.crcFeed u cmp) c

/-- One lane of a completed frame; it answers the fails and judged masks of R116 with this lane's bit added. -/
def Chip.laneDone (c : Chip) (g n : Nat) (r : FrameRec) (obs : List LaneObs) (j : Nat) : LaneRes × Chip :=
  let l := if j = 8 then 96 + g else 8 * g + j
  let o := obs.getD j { volts := [], changed := 0 }
  let p := 8 * g + j
  let checks := decide (r.enc = 3) && j != 8 && bitsOf (r.judged j).2.toNat 31 30 == 1 && r.compares j &&
    [1, 2, 3].contains (c.chkType p)
  let k := (c.group g).chk j
  let cut := delayed (if checks then c.deskewDelay p else 0) r.uis (if checks then k.line else []) o
  let fed := if checks then
      (c.setChk p { k with line := cut.2.2 }).chkFeed p (cut.2.1.map (fun e => r.levelAt j e.1 == .H))
    else ({}, c)
  let c := fed.2
  let x := c.laneRes g r cut.2.1 cut.1 (if checks then some fed.1.fails else none) j
  let s := c.laneSite n l
  let nf := uiCount x.failed
  let c := if x.judged = 0 then c
    else ((c.laneCount (laneReg8 l + 8) (uiCount x.judged)).laneCount (laneReg8 l) nf).count (16 * g + 1)
      (uiCount x.judged)
  let c := if nf = 0 then c else (c.count (16 * g + 2) nf).firstFail l s r
  (x, (c.laneRecords g n l s r x).laneCrc n l x fed.1)

/-- COMPARE_RESULTS_COMPLETE (R189): the oldest frame whose results are not complete, once it has ended. -/
def compareResults (g : Nat) (obs : List LaneObs) (c : Chip) : Chip :=
  let x := c.group g
  match x.owner, x.pipe with
  | some n, r :: rs =>
    if x.st = 1 ∧ x.frame ≤ r.num + 1 then c
    else
      let c := c.setGroup g { x with pipe := rs }
      let c := if r.enc = 3 then c else c.chkReset g
      let a := (List.range 9).foldl (fun (a : Nat × Nat × Chip) j =>
        let d := a.2.2.laneDone g n r obs j
        (if d.1.failed = 0 then a.1 else a.1 + 2 ^ j, if d.1.judged = 0 then a.2.1 else a.2.1 + 2 ^ j, d.2)) (0, 0, c)
      let c := a.2.2
      let y := c.group g
      c.setGroup g { y with results := ((r.num, a.1, a.2.1) :: y.results).take 8 }
  | _, _ => c

def execCompareResultsComplete (g : Grp) (obs : List LaneObs) (s : State) : Host.Outcome State Fault Refusal :=
  s.onChip (compareResults g obs)

end Sys2Proof.Machine
end

