-- ==== Sys2Proof/Machine/RegRules.lean ====
section
/-! DEFINITION. RegRules.lean: the value rules of pin-group registers, shared by register writes and image records
(R46, R47, R53, R60, R62, R65, R70 to R73), and the condition in which a pin stands outside a burst (R63, R356). -/

namespace Sys2Proof.Machine

/-- R47 on a level register: VDH or VCH in bits 27:16, VDL or VCL in bits 11:0. -/
def levelCodes (v : Nat) : Bool := decide (bitsOf v 27 16 ≤ 4000) && decide (bitsOf v 11 0 ≤ 4000)
/-- A value of a register of group offset o (R153's list); vmax is the guard limit of R49. -/
def levelRule (o v vmax : Nat) : Bool :=
  let hi := bitsOf v 27 16
  let lo := bitsOf v 11 0
  if o = 0x20 then levelCodes v && decide (lo < hi) && decide (hi ≤ vmax)
  else if o = 0x24 then decide (lo ≤ 4000) && decide (lo ≤ vmax)
  else if o = 0x30 ∨ (0x8000 ≤ o ∧ o < 0xC000 ∧ o % 0x800 = 0) then levelCodes v && decide (lo ≤ hi)
  else true
/-- Reserved encodings (R62, R65, R70, R73). -/
def encodingRule (o v : Nat) : Bool :=
  if o = 0x2C then bitsOf v 29 28 != 3
  else if o < 0x8000 then true
  else match o % 0x800 with
    | 0x04 => bitsOf v 31 30 != 3 && bitsOf v 25 24 != 3
    | 0x10 => decide (bitsOf v 31 28 ≤ 5) && decide (bitsOf v 26 24 ≤ 4) &&
        !(bitsOf v 31 28 == 2 && bitsOf v 21 16 == 0)
    | 0x60 => decide (bitsOf v 31 28 ≤ 3) && decide (bitsOf v 26 24 ≤ 4)
    | _ => true
/-- Bits of a group register that a delta may set (R153); none for a register that no delta may name. -/
def deltaBits (o : Nat) : Option Nat :=
  if o = 0x20 ∨ o = 0x30 then some (fld 27 16 + fld 11 0)
  else if o = 0x24 then some (fld 11 0)
  else if o = 0x2C then some (fld 31 26)
  else if o < 0x8000 ∨ 0xC000 ≤ o then none
  else match o % 0x800 with
    | 0x00 => some (fld 27 16 + fld 11 0)
    | 0x04 => some (fld 31 28 + fld 25 23)
    | 0x10 => some (fld 31 28 + fld 26 0)
    | 0x14 | 0x18 | 0x1C | 0x20 | 0x24 => some (ones 32)
    | 0x60 => some (fld 31 28 + fld 26 22 + fld 15 8)
    | q => if 0x40 ≤ q ∧ q ≤ 0x5C ∧ q % 4 = 0 then some (ones 32) else none
/-- Seeds that do not lock a user LFSR of LFSR_LEN + 1 bits (R71). -/
def seedRule (src seed : Nat) : Bool :=
  !(bitsOf src 31 28 == 2 && seed % 2 ^ (bitsOf src 21 16 + 1) == 0)
/-- End in bytes of the payload ring that PIN_SRC_AUX places (R72). -/
def ringEnd (aux : Nat) : Nat := 64 * bitsOf aux 15 0 + 2 * (bitsOf aux 31 16 + 1)
/-- Legal periods (R53). -/
def periodRule (p : Nat) : Bool := decide (2 ^ 39 ≤ p) && decide (p ≤ 2 ^ 47)
/-- Edge words A, B, C of a lane (R57, R60): DE ≤ DA and ST ≤ SE. -/
def edgeRule (a b c : Nat) : Bool :=
  decide (bitsOf a 13 0 ≤ bitsOf a 29 16) && decide (bitsOf b 29 16 ≤ bitsOf c 13 0)

/-! ### Pins outside a burst -/

/-- Pin p takes the condition of its safe state (R63, R64, R356). -/
def Chip.settlePin (c : Chip) (p : Nat) : Chip :=
  let g := p / 8
  let x := c.group g
  let d : LaneDrv := x.drv.getD (p % 8) {}
  let d : LaneDrv :=
    if !c.fitted p || c.dev.tripped then { d with on := false }
    else match c.field (pinB p + 4) 25 24 with
    | 0 => d
    | 1 => { d with on := false }
    | _ => { d with on := true, high := c.field (pinB p + 4) 23 23 == 1 }
  c.setGroup g { x with drv := ((x.drv ++ List.replicate 9 ({} : LaneDrv)).take 9).set (p % 8) d }
/-- The FCK lane of group g takes its condition outside a burst: off, but for a forwarded clock that a burst started and that
SAFE_Z leaves toggling; with no burst yet there is none to keep (R63 to R66, R68; DEDUCED, log entry 86). -/
def Chip.settleFck (c : Chip) (g : Nat) : Chip :=
  let x := c.group g
  let keeps := c.fckMode g == 1 && c.field (grpB g + 0x2C) 26 26 == 0 && c.fitted (96 + g) && !c.dev.tripped
  if keeps then c
  else c.setGroup g { x with
    drv := ((x.drv ++ List.replicate 9 ({} : LaneDrv)).take 9).set 8 { x.drv.getD 8 {} with on := false, toggles := false } }
/-- Step BALL measures lane l: the injection switch connects the source to its ball (R379). -/
def Chip.onBall (c : Chip) (l : Nat) : Bool :=
  match c.cal.run with
  | some r => r.step == 6 && r.units.any (fun e => e.1 == l)
  | none => false
/-- The termination of lane l is connected (R62, R65): never that of an unfitted lane, nor any after TJ_TRIP; step BALL sets it
for its measurement (R356, R379, R397; DEDUCED, log entry 85). -/
def Chip.termOn (c : Chip) (l : Nat) : Bool :=
  let asked := if l < 96 then bitOf (c.reg (pinB l + 4)).toNat 29 else bitOf (c.reg (grpB (l - 96) + 0x2C)).toNat 27
  c.fitted l && !c.dev.tripped && (asked || c.onBall l)
/-- The VTT code at lane l: the register's, its reset value while step BALL measures the lane (R379; log entry 85). -/
def Chip.vttCode (c : Chip) (l : Nat) : Nat :=
  let g := if l < 96 then l / 8 else l - 96
  if c.onBall l then 0x07D0 else c.field (grpB g + 0x24) 11 0
/-- Every lane of group g in its safe state. -/
def Chip.settleGroup (c : Chip) (g : Nat) : Chip :=
  ((List.range 8).foldl (fun c j => c.settlePin (8 * g + j)) c).settleFck g

end Sys2Proof.Machine
end

