-- ==== Sys2Proof/Machine/Images.lean ====
section
/-! DEFINITION. Images.lean: the records of a burst image as they stand in LPDDR5X (R91, R92, R141 to R152). -/

namespace Sys2Proof.Machine

/-- n little-endian bytes at an LPDDR5X address. -/
def memNat (d : Memory) (a n : Nat) : Nat := leNat (memReadBytes d a n)

/-- A directory entry (R141). -/
structure DirEntry where
  typ : Nat
  idx : Nat
  crc : Nat
  off : Nat
  len : Nat
  count : Nat
  deriving DecidableEq, Repr

/-- Directory entry i of the image at base. -/
def dirEntry (d : Memory) (base i : Nat) : DirEntry :=
  let a := base + 0x100 + 32 * i
  { typ := memNat d a 1, idx := memNat d (a + 1) 1, crc := memNat d (a + 4) 4, off := memNat d (a + 8) 8
    len := memNat d (a + 0x10) 8, count := memNat d (a + 0x18) 4 }
/-- The directory. -/
def imageDir (d : Memory) (base : Nat) : List DirEntry :=
  (List.range (memNat d (base + 6) 2)).map (dirEntry d base)
/-- The record of a type and index. -/
def findRec (es : List DirEntry) (typ idx : Nat) : Option DirEntry := es.find? (fun e => e.typ == typ && e.idx == idx)
/-- Body offset and count of a record; an absent record is empty. -/
def recOf (es : List DirEntry) (typ idx : Nat) : Nat × Nat :=
  match findRec es typ idx with
  | some e => (e.off, e.count)
  | none => (0, 0)

/-- The envelope at an address (R144). -/
def envAt (d : Memory) (a : Nat) : Env :=
  { groups := memNat d a 2, siteCount := memNat d (a + 2) 1, crcCtx := bitOf (memNat d (a + 3) 1) 0
    sbPorts := memNat d (a + 4) 1, adcConv := memNat d (a + 5) 1, xcmp := memNat d (a + 6) 2
    refPeriod := memNat d (a + 8) 8, tdcPins := memNat d (a + 0x10) 12, crcUnits := memNat d (a + 0x1C) 4
    adcAcc := memNat d (a + 0x20) 8
    streamSlots := (List.range 8).map (fun i => memNat d (a + 0x28 + 4 * i) 4)
    resBytes := (List.range 12).map (fun i => memNat d (a + 0x80 + 4 * i) 4)
    ringLead := (List.range 12).map (fun i => memNat d (a + 0xB0 + 4 * i) 4)
    fillLines := (List.range 12).map (fun i => memNat d (a + 0xE0 + 4 * i) 4)
    siteRate := (List.range 128).map (fun i => memNat d (a + 0x180 + 8 * i) 4)
    siteQuota := (List.range 128).map (fun i => memNat d (a + 0x184 + 8 * i) 4) }

/-- A segment descriptor (R91). -/
structure SegDesc where
  id : Nat
  grp : Nat
  enc : Nat
  dflags : Nat
  frames : Nat
  lead : Nat
  addr : Nat
  firnOff : Nat
  deriving DecidableEq, Repr

def segDescAt (d : Memory) (a : Nat) : SegDesc :=
  { id := memNat d a 2, grp := memNat d (a + 2) 1, enc := memNat d (a + 3) 1, dflags := memNat d (a + 4) 1
    frames := memNat d (a + 8) 4, lead := memNat d (a + 0xC) 4, addr := memNat d (a + 0x10) 8
    firnOff := memNat d (a + 0x18) 4 }
def SegDesc.resident (s : SegDesc) : Bool := bitOf s.dflags 0
def SegDesc.landing (s : SegDesc) : Bool := bitOf s.dflags 1
/-- Bytes of stored frames. -/
def SegDesc.bytes (s : SegDesc) : Nat := s.frames * frameSize s.enc
/-- Bytes of the extent, header included, rounded up to lines (R92). -/
def SegDesc.extent (s : SegDesc) : Nat := (128 + s.bytes + 127) / 128 * 128
/-- Every descriptor of the image. -/
def imageSegs (d : Memory) (base : Nat) (es : List DirEntry) : List SegDesc :=
  let r := recOf es 2 0
  (List.range r.2).map (fun i => segDescAt d (base + r.1 + 32 * i))
/-- The segment of a descriptor with its header's values (R92). -/
def segOf (d : Memory) (s : SegDesc) : Seg :=
  let h (o n : Nat) : Nat := memNat d (s.addr + o) n
  { enc := s.enc, resident := s.resident, landing := s.landing, frames := s.frames, lead := s.lead, addr := s.addr
    firnOff := s.firnOff, rep := h 3 1 % 16, dmode := h 8 2, modeInit := h 0xA 1, modeLoad := bitOf (h 0xB 1) 0
    ninthSrc := h 0xC 1 % 8, ninthInv := bitOf (h 0xC 1) 3 }

/-- The program of group g. -/
def imageProg (d : Memory) (base : Nat) (es : List DirEntry) (g : Nat) : List SeqWord :=
  let r := recOf es 0x10 g
  (List.range r.2).map (fun i => seqWordOf (memReadBytes d (base + r.1 + 16 * i) 16))

/-- A payload-ring extent (R150). -/
structure RingExt where
  grp : Nat
  firnOff : Nat
  len : Nat
  addr : Nat
  crc : Nat
  deriving DecidableEq, Repr
def ringExtAt (d : Memory) (a : Nat) : RingExt :=
  { grp := memNat d a 1, firnOff := memNat d (a + 4) 4, len := memNat d (a + 8) 4, addr := memNat d (a + 0x10) 8
    crc := memNat d (a + 0x18) 4 }
def imageRings (d : Memory) (base : Nat) (es : List DirEntry) : List RingExt :=
  let r := recOf es 8 0
  (List.range r.2).map (fun i => ringExtAt d (base + r.1 + 32 * i))

/-- Words of a timing set that group g's record gives for set t, zeros for a set it does not give (R151). -/
def imageTset (d : Memory) (base : Nat) (es : List DirEntry) (g t : Nat) : List Word :=
  let o := base + (recOf es 0x11 g).1
  let mask := memNat d o 8
  if mask.testBit t then
    let k := (bitsIn mask t).length
    (List.range 32).map (fun w => BitVec.ofNat 32 (memNat d (o + 128 + 128 * k + 4 * w) 4))
  else List.replicate 32 0
/-- Deltas of group g: offset and value (R152). -/
def imageDeltas (d : Memory) (base : Nat) (es : List DirEntry) (g : Nat) : List (Nat × Nat) :=
  let r := recOf es 0x12 g
  (List.range (memNat d (base + r.1 + 0x24) 4)).map (fun i =>
    (memNat d (base + r.1 + 128 + 8 * i) 4, memNat d (base + r.1 + 132 + 8 * i) 4))
/-- Entries of a plan record (R149). -/
def imagePlan (d : Memory) (base : Nat) (es : List DirEntry) (typ size : Nat) : List (List Byte) :=
  let r := recOf es typ 0
  (List.range r.2).map (fun i => memReadBytes d (base + r.1 + size * i) size)

end Sys2Proof.Machine
end

