-- ==== Sys2Proof/Machine/Preload.lean ====
section
/-! DEFINITION. Preload.lean: preload of an admitted task and the start of its burst (R13, R44, R94, R96, R152, R192). -/

namespace Sys2Proof.Machine

/-- Sets a ledger gauge. -/
def Chip.setLed (c : Chip) (a v : Nat) : Chip := { c with led := tabSet c.led a (BitVec.ofNat 64 v) }

/-- 128-byte pieces of an extent: address, first 64-byte unit, bytes. -/
def pieces (addr unit bytes : Nat) : List (Nat × Nat × Nat) :=
  (List.range ((bytes + 127) / 128)).map (fun i => (addr + 128 * i, unit + 2 * i, min 128 (bytes - 128 * i)))

/-- Group g takes its program and segment table and asks for its resident data and ring (R94, R96, R98). Of the underrun
registers only VALID is cleared; SEQ_UR_FRAME and the other fields keep their values (DESIGN CHOICE, log entry 34). Its
reads join the stream queues in this order: segment headers, resident and payload-ring lines, the ring's lead (DESIGN
CHOICE, log entry 95). -/
def Chip.preloadGroup (c : Chip) (d : Memory) (n base : Nat) (es : List DirEntry) (elastic : Bool) (g : Nat) : Chip :=
  let x := c.group g
  let prog := imageProg d base es g
  let named := (prog.filter (fun w => w.op == 2)).map SeqWord.id
  let all := (imageSegs d base es).filter (fun s => s.grp == g)
  let used := all.filter (fun s => named.contains s.id)
  let ps := all.flatMap (fun s => if s.resident && s.enc != 3 then pieces (s.addr + 128) s.firnOff s.bytes else []) ++
    ((imageRings d base es).filter (fun r => r.grp == g)).flatMap (fun r => pieces r.addr r.firnOff r.len)
  let need := ps.zipIdx.map (fun e => (e.2, e.1.1, e.1.2.1, e.1.2.2))
  let res := ((c.env n).resBytes.getD g 0 + 127) / 128
  let ring := 32768 - res
  let x : Group := { x with
    elastic := elastic, prog := prog, segs := used.foldl (fun t s => tabSet t s.id (segOf d s)) []
    res := [], resBad := [], resNeed := need, hdrNeed := used.map (·.id), ring := []
    arrived := x.arrived.filter (fun l => x.orphans.contains l.1)
    fill := { active := true, nextId := x.fill.nextId }, walk := {}, st := 0, cause := 0, frame := 0, shownPos := 0
    judged := true, tests := 0, faultDue := false, endDue := none, ui := 0, pauseFrom := 0, syncEnd := none
    stallFrom := none, pipe := [], results := [], fckLock := false, fckPhases := [], fckMove := 0, fckFrozen := false
    deskewOk := false, deskewDone := false, laneMode := false }
  let c := c.setGroup g x
  let c := ((c.setReg (firnB g) (BitVec.ofNat 32 (ring * 2 ^ 16 + res))).setReg (firnB g + 4) 0).setReg (firnB g + 8)
    0xFFFFFF
  let c := (c.setLed (ringLed g 6) ring).setLed (ringLed g 0) (ring - (c.ledger (ringLed g 1)).toNat)
  let c := (c.setReg64 (seqB g + 0x58) 0).setReg64 (seqB g + 0x60) 0
  let c := c.setField (seqB g + 0x70) 31 31 0
  let c := (List.range 8).foldl (fun c j => c.setReg (pinB (8 * g + j) + 0x7C) 0) c
  let c := c.firnFilling g
  let c := used.foldl (fun c s => c.memReq .stream { addr := s.addr, who := .header g n s.id }) c
  let c := need.foldl (fun c e => c.memReq .stream { addr := e.2.1, who := .res g n e.1 }) c
  c.pump g

/-- Accesses on a channel in a table cycle that admission's reservation gives a task: 3,400 for 16,000 MB/s (R13, R275); one
where it reserves nothing (DESIGN CHOICE, log entry 87). -/
def Env.cycleSlots (e : Env) (ch : Nat) : Nat := max 1 ((mbps e (128 * e.streamSlots.getD ch 0) * 3400 + 15999) / 16000)
/-- The accesses that context n may make on each channel, of which it has made none. -/
def Chip.giveSlots (c : Chip) (n : Nat) (f : Nat → Nat) : Chip :=
  { c with mem := { c.mem with
      streamCap := (List.range 8).foldl (fun t ch => tabSet t (8 * n + ch) (f ch)) c.mem.streamCap
      streamUsed := c.mem.streamUsed.filter (fun e => e.1 / 8 ≠ n) } }
/-- Preload of context n starts: it is resident and the memory runs at FSP0; a switch never begins during training (R174,
R286, R289). -/
def Chip.startPreload (c : Chip) (d : Memory) (n : Nat) : Chip :=
  let x := c.ctx n
  if x.st ≠ 5 ∨ x.preloading ∨ x.startTm ≠ 0 ∨ !x.onChip ∨ x.cancelDue then c
  else if c.switching ∨ c.training then c
  else if c.fsp = 1 then c.startSwitch 0
  else
    let im := c.image x.image
    let es := imageDir d im.base
    let sm := recOf es 4 0
    let c := c.setCtx n { x with
      preloading := true, window := 0, fired := [], siteWin := []
      siteMap := (memReadBytes d (im.base + sm.1) 108).map (·.toNat)
      tdcPlan := imagePlan d im.base es 6 32, adcPlan := imagePlan d im.base es 7 64 }
    (c.taskGroups n).foldl (fun c g => c.preloadGroup d n im.base es im.elastic g) (c.giveSlots n im.env.cycleSlots)
/-- Every admitted task whose preload waited for the memory starts it. -/
def Chip.startPreloads (c : Chip) (d : Memory) : Chip := c.holders.foldl (fun c n => c.startPreload d n) c

/-- A resident line reached Firn. -/
def Group.takeRes (x : Group) (i : Nat) (bad : Bool) (data : List Byte) : Group :=
  match x.resNeed.find? (fun e => e.1 = i) with
  | none => x
  | some (_, _, unit, bytes) =>
    let us := if bytes ≤ 64 then [unit] else [unit, unit + 1]
    { x with
      resNeed := x.resNeed.filter (fun e => e.1 ≠ i)
      resBad := if bad then us ++ x.resBad else x.resBad
      res := us.foldl (fun t u => tabSet t u ((data.drop (64 * (u - unit))).take 64)) x.res }
/-- The header of a segment reached the segment table (R94, R283). -/
def Group.takeHeader (x : Group) (s : Nat) (bad : Bool) : Group :=
  if x.hdrNeed.contains s then
    { x with hdrNeed := x.hdrNeed.erase s, segs := tabUpd {} x.segs s (fun g => { g with bad := g.bad || bad }) }
  else x

/-- The ring holds the lead of the first streamed segment, or all that is streamed (R13, R97). -/
def Group.leadHeld (x : Group) : Bool :=
  match x.ring with
  | [] => !x.fill.active
  | l :: _ =>
    let ready := x.ring.takeWhile (fun l => l.st = 2)
    decide ((x.seg l.seg).lead ≤ (ready.map (·.count)).sum) || (!x.fill.active && ready.length == x.ring.length)
/-- Preload holds for group g all that R13 lists. -/
def Group.loaded (x : Group) : Bool := x.resNeed == [] && x.hdrNeed == [] && x.leadHeld

/-- Group g's registers take the image's periods, timing sets and deltas (R44, R151, R152), and its lanes start anew. -/
def Chip.configGroup (c : Chip) (d : Memory) (n base : Nat) (es : List DirEntry) (g : Nat) : Chip :=
  let cfg := base + (recOf es 0x12 g).1
  let c := (List.range 4).foldl (fun c a => c.setReg64 (grpB g + 8 * a) (memNat d (cfg + 8 * a) 8)) c
  let c := (List.range 64).foldl (fun c t => c.setRegs (tsetWord g t 0) (imageTset d base es g t)) c
  let c := (imageDeltas d base es g).foldl (fun c e => c.setReg (grpB g + e.1) (BitVec.ofNat 32 e.2)) c
  let t := memNat d (cfg + 0x20) 1
  let pa := c.field (tsetWord g t 0) 1 0
  let limit := ((c.env n).resBytes.getD g 0 + 127) / 128 * 128
  let c := c.settleGroup g
  let a := (List.range 8).foldl (fun (a : List SrcSt × Chip) j =>
    let p := 8 * g + j
    let k := a.2.srcCfg p
    let mute := (k.typ == 4 || k.typ == 5) && decide (limit < ringEnd (a.2.reg (pinB p + 0x14)).toNat)
    (a.1 ++ [k.start (a.2.reg64 (pinB p + 0x20)) mute], if mute then a.2.fieldUp (chkStatus p) 23 16 else a.2)) ([], c)
  let c := a.2
  let c := c.chkReset g
  let x := c.group g
  let c := c.setGroup g { x with
    tset := t, pa := pa, modes := 0xFF, cmode := 1, cparam := 0, srcs := a.1
    drv := ((x.drv ++ List.replicate 9 ({} : LaneDrv)).take 9).zipIdx.map (fun e => { e.1 with
      high := e.1.high && !(e.2 == 8 && c.fckMode g == 1)
      edges := [none, none, none, none, none], moved := none, pend := [] }) }
  let lanes := (96 + g) :: (List.range 8).map (fun j => 8 * g + j)
  lanes.foldl (fun c l => (List.range 7).foldl (fun c w => c.setReg (laneReg8 l + 4 * w) 0) c) c

/-- The start count of R13 for a count at which preload ends: 4,096 TM later, rounded up to a whole frame of period P. -/
def startCount (m p : Nat) : Nat :=
  let k := ((m + 4096) * 2 ^ 40 + 64 * p - 1) / (64 * p)
  (k * 64 * p + 2 ^ 40 - 1) / 2 ^ 40

/-- Context n is in preload, and its start count is not set. -/
def Chip.preloads (c : Chip) (n : Nat) : Bool :=
  let x := c.ctx n
  x.st == 5 && x.preloading && x.startTm == 0 && !x.cancelDue
/-- Preload of context n ends (R13, R44, R192): the image's settings take effect and the start count is set. -/
def Chip.finishPreload (c : Chip) (d : Memory) (n : Nat) : Chip :=
  let x := c.ctx n
  let im := c.image x.image
  let es := imageDir d im.base
  let gs := c.taskGroups n
  let c := gs.foldl (fun c g => c.configGroup d n im.base es g) c
  let c := (List.range im.env.siteCount).foldl (fun c s =>
    let s := x.siteBase + s
    ((c.setReg64 (siteLed s 6) 0).setReg (siteUsed s) 0)) c
  let c := if c.crcCtx then c else (bitsIn im.env.crcUnits 32).foldl (fun c u => c.crcInit u) c
  let c := c.sbClearHits im.env.sbPorts
  let p := gs.foldl (fun m g => max m (c.period g (c.group g).pa)) 1
  let m := c.mtc c.tm
  let start := startCount m p
  let tm := c.tm + (start - m)
  let c := gs.foldl (fun c g => c.setGroup g { c.group g with epoch := tm }) c
  let y := c.ctx n
  let c := c.setCtx n { y with
    preloading := false, startCount := start, startTm := tm, view := y.flags, viewPend := [] }
  c.giveSlots n (fun ch => im.env.streamSlots.getD ch 0)

/-- BURST_START (R14): the start count is reached; every group of the task begins frame 0 at its next boundary. -/
def burstStart (n : Nat) (c : Chip) : Chip :=
  let x := c.ctx n
  if x.st ≠ 5 ∨ x.startTm = 0 ∨ x.pend.isSome ∨ x.cancelDue then c
  else
    let c := c.advanceTo x.startTm
    let c := (c.taskGroups n).foldl (fun c g => c.setGroup g { c.group g with st := 1 }) c
    (c.updCtx n (fun x => { x with pend := some 6 })).raise (srcTask n) 0x8006 [.task n x.gen 6]

def execBurstStart (n : CtxNo) (s : State) : Host.Outcome State Fault Refusal := s.onChip (burstStart n)

end Sys2Proof.Machine
end

