-- ==== Sys2Proof/Machine/Tasks.lean ====
section
/-! DEFINITION. Tasks.lean: the task scheduler: creation, flags, delay lists, admission, freeze and thaw, cancel and ending
(R160 to R188), and what Cirque's acceptance of a task's events does (R29). -/

namespace Sys2Proof.Machine

/-- Ledgers of R187. -/
def tskCreated : Nat := 0x00200040
def tskLive : Nat := 0x00200060
def tskResident : Nat := 0x00200068
def tskFrozen : Nat := 0x00200070
def listClock (l : Nat) : Nat := 0x00200010 + 8 * l

/-! ### The 256 bytes of a context (R161) -/

/-- A context as bytes; st is its state code. -/
def Chip.ctxBytes (c : Chip) (n : Nat) (x : Ctx) (st : Nat) : List Byte :=
  let e := (c.image x.image).env
  toLe 4 (x.handle n) ++ toLe 1 st ++ toLe 1 x.prio ++
  toLe 1 (b2n x.all + 2 * b2n x.resident + 4 * x.dlist) ++ toLe 1 x.image ++ toLe 1 x.siteBase ++ toLe 1 e.siteCount ++
  toLe 2 e.groups ++ toLe 4 x.delay ++ toLe 8 x.flags.toNat ++ toLe 8 x.waitMask.toNat ++ toLe 8 x.expiry ++
  toLe 4 x.admitTimeout ++ toLe 4 x.link ++ toLe 8 x.linkMask.toNat ++ toLe 8 x.userTag.toNat ++ toLe 8 x.createSeq ++
  toLe 8 x.readyFrc ++ toLe 8 x.admitFrc ++ toLe 8 x.startCount ++ toLe 4 x.breach ++ toLe 2 x.status ++
  List.replicate 154 0

/-! ### Freeze and thaw (R164, R181, R182) -/

/-- The order of R181: a victim's key, larger first; `seq` and `expiry` stand for those of the context. -/
def Ctx.victimKey (x : Ctx) (expiry seq : Nat) : Option (List Nat) :=
  if x.move.isSome ∨ x.wantSlot.isSome ∨ x.held ∨ ¬ (x.pend = none ∨ x.pend = some x.st) then none
  else match x.st with
  | 2 => some [3, x.dlist, expiry, seq]
  | 1 => some [2, 2 ^ 64 - x.flagAt, 0, 0]
  | 4 => some [1, x.prio, x.readyFrc, seq]
  | _ => none
/-- The victim among resident contexts, with its key. -/
def Chip.victim (c : Chip) : Option (Nat × List Nat) :=
  (c.liveCtxs.filter (fun e => e.2.resident)).foldl (fun (m : Option (Nat × List Nat)) e =>
    match e.2.victimKey e.2.expiry e.2.createSeq with
    | none => m
    | some k => match m with
      | some b => if lexLt b.2 k then some (e.1, k) else m
      | none => some (e.1, k)) none
/-- The writes of a context's frozen copy, whose RESIDENT bit is 0 (R161). -/
def Chip.writeFrozen (c : Chip) (n : Nat) : Chip :=
  let x : Ctx := { c.ctx n with resident := false }
  c.memWriteReqs .host (c.freezeBase + 256 * n) (c.ctxBytes n x x.st) (fun i => .freeze n i)
/-- What changed in a frozen context, or in one that is being frozen, is carried into its copy (R180, R182). -/
def Chip.carryFrozen (c : Chip) (n : Nat) : Chip :=
  let x := c.ctx n
  if (!x.resident && !x.arriving) || x.freezing then c.writeFrozen n else c
/-- Context n begins to be frozen. -/
def Chip.freezeStart (c : Chip) (n : Nat) : Chip :=
  (c.updCtx n (fun x => { x with move := some (false, c.frc) })).writeFrozen n
/-- Slots that hold a context; one that is being frozen or thawed has a slot (R39). -/
def Chip.slotsUsed (c : Chip) : Nat := c.liveCtxs.countP (fun e => e.2.resident)
/-- Slots that a freeze is emptying. -/
def Chip.slotsLeaving (c : Chip) : Nat := c.liveCtxs.countP (fun e => e.2.freezing)
/-- TSK_CTX shows context n (R186). -/
def Chip.select (c : Chip) (n : Nat) : Chip :=
  let x := c.ctx n
  { c.setReg 0x00200098 (BitVec.ofNat 32 (x.handle n)) with
    sched := { c.sched with sel := some (n, x.gen), selFinal := [] } }
/-- The TSK_CTX_SEL writes that wait for context n end with a status (R186). One that another write overtook selects all
the same: the selection is that of the write that completes last (DESIGN CHOICE, log entry 68). -/
def Chip.selDone (c : Chip) (n status : Nat) : Chip :=
  let due := c.sched.selWait.filter (fun w => w.n == n)
  if due = [] then c
  else
    let c := { c with sched := { c.sched with selWait := c.sched.selWait.filter (fun w => w.n != n) } }
    let c := if status = 0 then c.select n else c
    due.foldl (fun c w =>
      match w.bad with
      | some (st, i) =>
        if status = 0 ∨ i < w.word then c.replyAt w.s w.q w.tag st i else c.replyAt w.s w.q w.tag status w.word
      | none => c.replyAt w.s w.q w.tag status (if status = 0 then 0 else w.word)) c

/-- The key in the order of R181 of a context that waits for a slot since its creation, in the state it enters or has entered
(R164). -/
def Chip.arrivalKey (c : Chip) (x : Ctx) : Option (List Nat) :=
  let y : Ctx := { x with st := if x.st = 0 then x.pend.getD 0 else x.st, pend := none, move := none, wantSlot := none }
  if x.st = 0 then y.victimKey (c.reg64 (listClock x.dlist) + x.delay) (2 ^ 64) else y.victimKey x.expiry x.createSeq
/-- Who leaves a slot for an arriving context: none where the order of R181 chooses the context itself, or nobody can leave
(R164). -/
def Chip.roomFor (c : Chip) (x : Ctx) : Option Nat :=
  match c.victim, c.arrivalKey x with
  | none, _ => none
  | some (v, _), none => some v
  | some (v, k), some m => if lexLt k m then none else some v
/-- An arriving context is created frozen (R164). -/
def Chip.settleFrozen (c : Chip) (n : Nat) : Chip :=
  (c.updCtx n (fun x => { x with arriving := false, wantSlot := none, resident := false })).writeFrozen n
/-- The context that has waited longest for a slot (DESIGN CHOICE, log entry 72). -/
def Chip.slotNext (c : Chip) : Option (Nat × Nat) :=
  (c.liveCtxs.filterMap (fun e => e.2.wantSlot.map (fun t => (e.1, t)))).foldl (fun (m : Option (Nat × Nat)) e =>
    match m with
    | some b => if e.2 < b.2 then some e else m
    | none => some e) none
/-- Contexts that wait for a slot since their creation. -/
def Chip.arrivals (c : Chip) : List Nat := (c.liveCtxs.filter (fun e => e.2.arriving)).map (·.1)
/-- Contexts that wait for a slot take free ones, and freezes start for the others where R181 finds victims (R182); an arriving
context for which none leaves is created frozen (R164). One whose freeze was under way counts as frozen until it takes its
slot, without a thaw (DESIGN CHOICE, log entry 92). -/
def Chip.serveSlots (c : Chip) : Chip := go 512 c
where
  go : Nat → Chip → Chip
    | 0, c => c
    | f + 1, c =>
      match c.slotNext with
      | none => c
      | some (n, t) =>
        if c.slotsUsed < 256 then
          let c := c.ledMove tskFrozen tskResident
          if (c.ctx n).arriving then
            go f ((c.updCtx n (fun x => { x with wantSlot := none, arriving := false, resident := true })).selDone n 0)
          else
            let c := c.updCtx n (fun x => { x with
              wantSlot := none, resident := true, thawBad := false, move := some (true, t) })
            go f (c.memReadReqs .host (c.freezeBase + 256 * n) 2 (fun i => .thaw n i))
        else if c.slotsLeaving < c.liveCtxs.countP (fun e => e.2.wantSlot.isSome) then
          let room := if (c.ctx n).arriving then c.roomFor (c.ctx n) else c.victim.map (·.1)
          match room with
          | some v => go f (c.freezeStart v)
          | none =>
            match if (c.ctx n).arriving then some n else c.arrivals.head? with
            | some a => go f (c.settleFrozen a)
            | none => c
        else c
/-- A frozen context asks for a thaw. -/
def Chip.askThaw (c : Chip) (n : Nat) : Chip :=
  let x := c.ctx n
  if x.resident ∨ x.wantSlot.isSome then c
  else (c.updCtx n (fun x => { x with wantSlot := some c.frc })).serveSlots
/-- Context n becomes READY or is admitted: a freeze of it is given up, since contexts in READY and PRELOAD are never frozen
(R181), and another context leaves in its place, or none for an arriving one (R164; DESIGN CHOICE, log entry 93). -/
def Chip.keepSlot (c : Chip) (n : Nat) : Chip :=
  if (c.ctx n).freezing then (c.updCtx n (fun x => { x with move := none })).serveSlots else c
/-- The copy of context n is written, and it leaves its slot (R181). -/
def Chip.freezeEnds (c : Chip) (n : Nat) : Chip :=
  let c := c.updCtx n (fun x => { x with move := none, resident := false })
  (((c.ledMove tskResident tskFrozen).cntUp 0x00200084).count 297).serveSlots
/-- The thaw of context n ends, from the FRC at which it was asked for: it is in its slot, or its copy could not be read and
it stays frozen (R166, R182, R186). -/
def Chip.thawEnds (c : Chip) (n since : Nat) : Chip :=
  if (c.ctx n).thawBad then
    let c := c.updCtx n (fun x => { x with move := none, resident := false })
    ((c.ledMove tskResident tskFrozen).selDone n 0x12).serveSlots
  else
    let c := ((c.updCtx n (fun x => { x with move := none })).cntUp 0x00200088).count 298
    (c.fieldMax 0x0020008C 31 0 (c.frc - since)).selDone n 0

/-! ### States (R165, R166) -/

/-- The scheduler moves context n to a state: it is raised now and entered when Cirque accepts it (R29). -/
def Chip.raiseState (c : Chip) (n st : Nat) : Chip :=
  (c.updCtx n (fun x => { x with pend := some st })).raise (srcTask n) (0x8000 + st) [.task n (c.ctx n).gen st]
/-- A readying of a context: a pending cancel consumes it (R180). -/
def Chip.readyCtx (c : Chip) (n st : Nat) : Chip :=
  let x := c.ctx n
  if !x.cancelDue then c.raiseState n st
  else if x.spent then c
  else (c.setCtx n { x with spent := true }).cntUp 0x00200080
/-- The wait condition of R168. -/
def Ctx.waitOk (x : Ctx) : Bool :=
  if x.all then x.flags &&& x.waitMask == x.waitMask else x.flags &&& x.waitMask != 0

/-- FSP drop follows the last release (R286). -/
def Chip.lastRelease (c : Chip) : Chip :=
  let c := if bitOf (c.reg 0x00300008).toNat 31 then { c with mem := { c.mem with idleFrom := some c.frc } } else c
  if c.executing (fun x => x == .devQuiesce) then c.cmdFinish 0 else c
/-- Context n releases everything it holds (R177): a pass follows, and RUNNING ends with the last release (R365). -/
def Chip.releaseCtx (c : Chip) (n : Nat) : Chip :=
  if !(c.ctx n).held then c
  else
    let gs := c.taskGroups n
    let c := c.dropPattern n
    let c := gs.foldl (fun c g =>
      let c := c.setGroup g { c.group g with fill := { (c.group g).fill with active := false } }
      let c := c.dropRing g
      c.setGroup g { c.group g with owner := none, resNeed := [], hdrNeed := [], pipe := [] }) c
    let c := c.updCtx n (fun x => { x with held := false, preloading := false })
    let c := { c with
      sched := { c.sched with passDue := true }
      mem := { c.mem with
        streamCap := c.mem.streamCap.filter (fun e => e.1 / 8 ≠ n)
        streamUsed := c.mem.streamUsed.filter (fun e => e.1 / 8 ≠ n) } }
    if c.anyAdmitted then c
    else
      let c := if c.dev.mode = .running then c.setMode .ready else c
      c.lastRelease

/-- Context n ends in a terminal state (R165, R185, R186): its event has the sequence number seq. -/
def Chip.endCtx (c : Chip) (n st seq : Nat) : Chip :=
  let c := c.releaseCtx n
  let x := c.ctx n
  let c := if c.sched.sel = some (n, x.gen) ∧ c.sched.selFinal = [] then
      { c with sched := { c.sched with selFinal := bytesToWords (c.ctxBytes n x st) } }
    else c
  let k := 0x00200800 + 16 * ((c.reg 0x0020009C).toNat % 512)
  let c := c.setReg k (BitVec.ofNat 32 (x.handle n))
  let c := c.setReg (k + 4) (BitVec.ofNat 32 (x.status * 2 ^ 16 + min x.breach 0xFFFF))
  let c := (c.setReg64 (k + 8) seq).cntWrap 0x0020009C
  let c := ((c.ledAdd (tskCreated + 8 * (st - 7))).ledSub tskLive).ledSub (if x.resident then tskResident else tskFrozen)
  let c := c.count 295
  let c := c.selDone n 3
  let c := c.dropReads (fun w => match w with
    | .thaw m _ => m == n
    | _ => false)
  ({ c with sched := { c.sched with ctxs := tabDel c.sched.ctxs n } }).serveSlots
/-- Ends with a status. -/
def Chip.finishCtx (c : Chip) (n st status seq : Nat) : Chip :=
  (c.updCtx n (fun x => { x with status := status })).endCtx n st seq
/-- The scheduler raises a terminal state with a status, which the context takes when Cirque accepts it (R29). -/
def Chip.raiseEnd (c : Chip) (n st status : Nat) : Chip :=
  (c.updCtx n (fun x => { x with due := status })).raiseState n st

/-! ### Creation (R162 to R164) -/

/-- Lowest context number that is FREE. -/
def Chip.freeCtx (c : Chip) : Option Nat := (List.range 4096).find? (fun n => !(c.ctx n).live)
/-- GEN after a reuse (R160). -/
def nextGen (g : Nat) : Nat := if 0xFFFFE ≤ g then 1 else g + 1

/-- TASK_CREATE: status, handle, and the device after it. Its creation counts as its last flag change until its flags change
(DESIGN CHOICE, log entry 94). The copy of a context created frozen is written as its creation is accepted. -/
def Chip.createTask (c : Chip) (o : TaskOps) : Nat × Nat × Chip :=
  let cf := o.cflags.toNat
  let link := o.linkHandle.toNat
  let im := o.image.toNat
  if !c.imageLoaded im then (3, 0, c)
  else if link ≠ noTask ∧ (c.findTask link).isNone then (3, 0, c)
  else if 128 < o.siteBase.toNat + (c.image im).env.siteCount then (2, 0, c)
  else match c.freeCtx with
  | none => (0xB, 0, c.ledAdd 0x00200078)
  | some n =>
    let gen := nextGen (tabGet 0 c.sched.gens n)
    let x : Ctx :=
      { gen := gen, prio := o.prio.toNat, all := bitOf cf 0, dlist := bitsOf cf 3 2, image := im
        siteBase := o.siteBase.toNat, delay := o.delay.toNat, flags := o.flags, waitMask := o.waitMask
        admitTimeout := o.admitTimeout.toNat, link := link, linkMask := o.linkMask, userTag := o.userTag
        imageId := (c.image im).id
        flagAt := c.sched.flagNo + 1 }
    let st := if o.waitMask ≠ 0 ∧ !x.waitOk then 1 else if x.delay ≠ 0 then 2 else 3
    let c := { c with sched := { c.sched with gens := tabSet c.sched.gens n gen, flagNo := c.sched.flagNo + 1 } }
    let full := decide (256 ≤ c.slotsUsed)
    let room := if full then c.roomFor { x with pend := some st } else none
    let c := c.setCtx n { x with
      resident := !full, arriving := room.isSome, wantSlot := if room.isSome then some c.frc else none }
    let c := ((c.ledAdd tskCreated).ledAdd tskLive).ledAdd (if full then tskFrozen else tskResident)
    let c := match room with
      | some v => c.freezeStart v
      | none => c
    (0, x.handle n, (c.count 293).raiseState n st)

/-! ### Flags (R167 to R169) -/

/-- SETFs of context n of generation gen that are raised and not accepted: what they set and clear (R167). -/
def Cirque.setfs (q : Cirque) (n gen : Nat) : List (Dword × Dword) :=
  (q.queues.flatMap (·.2) ++ q.staged).flatMap (fun e => e.acts.filterMap (fun a => match a with
    | .flags m h 0 set clr => if m = n ∧ h = gen then some (set, clr) else none
    | _ => none))
/-- The views of an elastic burst take a write as Cirque accepts it; of two writes of one flag the one accepted later decides it
once both are accepted (R123, R167). A SETF is in the views before, or comes 8 ns after it began, and decides again what a
write accepted meanwhile changed. -/
def Chip.takeView (c : Chip) (n kind : Nat) (set clr : Dword) : Chip :=
  let x := c.ctx n
  let now := 512 * c.tm
  let open_ := c.cirque.setfs n x.gen
  if kind = 0 then
    let later := open_.foldl (fun m e => m ||| e.1 ||| e.2) 0
    if x.viewPend.any (fun e => decide (now < e.1) && e.2.2 == (set, clr)) then c
    else c.pushView n now now (set &&& ~~~later) (clr &&& ~~~later)
  else
    let mine := set ||| clr
    let c := c.setCtx n { x with viewPend := x.viewPend.map (fun e =>
      if now < e.1 ∧ e.2.2 ∉ open_ then (e.1, e.2.1, e.2.2.1 &&& ~~~mine, e.2.2.2 &&& ~~~mine) else e) }
    c.pushView n now now set clr
/-- A flag write that Cirque accepted changes context n; kind 0 came from its own groups, whose views have it. -/
def Chip.writeFlags (c : Chip) (n kind : Nat) (set clr : Dword) : Chip :=
  let no := c.sched.flagNo + 1
  let c := { c with sched := { c.sched with flagNo := no } }
  let c := c.updCtx n (fun x => { x with flags := flagWrite x.flags set clr, flagAt := no })
  let x := c.ctx n
  let c := if x.startTm ≠ 0 ∧ (c.image x.image).elastic then c.takeView n kind set clr else c
  let c := c.carryFrozen n
  if x.st = 1 ∧ (x.pend = none ∨ x.pend = some 1) ∧ x.waitOk then c.readyCtx n (if x.delay ≠ 0 then 2 else 3) else c

/-- Two flag writes that take effect together as one: the later decides each flag that both name (R167). -/
def joinFlags (set clr set' clr' : Dword) : Dword × Dword := ((set &&& ~~~clr') ||| set', clr ||| clr')
/-- The link write of the SETF being accepted joins what that event has already written to context m of generation gen: one
accepted event makes one link write (R22, R169). -/
def Cirque.addLink (q : Cirque) (m gen : Nat) (set clr : Dword) : Cirque :=
  let old := (q.linkWrite.find? (fun e => e.acts.any (fun a => match a with
    | .flags n g _ _ _ => n == m && g == gen
    | _ => false)))
  let w (set clr : Dword) : Event := { src := srcTask m, typ := 0x8012, acts := [.flags m gen 2 set clr] }
  match old with
  | some e => { q with linkWrite := q.linkWrite.map (fun x => if x = e then
      (match x.acts with
        | [.flags _ _ _ s k] => w (joinFlags s k set clr).1 (joinFlags s k set clr).2
        | _ => x) else x) }
  | none => { q with linkWrite := q.linkWrite ++ [w set clr] }
/-- A flag event of context n, of generation gen, is accepted. -/
def Chip.flagEvent (c : Chip) (n gen kind : Nat) (set clr : Dword) : Chip :=
  let live := (c.ctx n).live && (c.ctx n).gen == gen
  let c := if live then c.writeFlags n kind set clr else c
  let x := c.ctx n
  match kind with
  | 0 =>
    if live ∧ x.link ≠ noTask then
      { c with cirque := c.cirque.addLink (x.link % 4096) (x.link / 4096) (set &&& x.linkMask) (clr &&& x.linkMask) }
    else c
  | 1 =>
    if c.executing (fun k => match k with | .taskFlags h _ _ => h == gen * 4096 + n | _ => false) then
      (if live then c.cmdFinish 0 (twoWords x.flags.toNat) else c.cmdFinish 3)
    else c
  | _ => if live then c else c.cntUp 0x00200094

/-! ### Cancel (R178, R180) -/

/-- Every group of the task that has begun its burst aborts it (R63, R134, R178). -/
def Chip.abortTask (c : Chip) (n : Nat) : Chip :=
  (c.taskGroups n).foldl (fun c g =>
    let x := c.group g
    c.endGroup g 4 (max (512 * (c.tm - x.epoch)) 0)) c
/-- The command that asked for a cancel of this handle completes. -/
def Chip.cancelReply (c : Chip) (n gen status state : Nat) : Chip :=
  if c.executing (fun k => match k with | .taskCancel h => h == gen * 4096 + n | _ => false) then
    c.cmdFinish status [] state
  else c
/-- A cancel is asked for: it is raised as the state it leads to, and judged when Cirque accepts it (R178). One that finds the
terminal event of its task raised would be accepted after that, on the same port, and one that finds the task's end raised
but not its terminal event finds it in ENDING. -/
def Chip.cancelStart (c : Chip) (n : Nat) : Chip :=
  let x := c.ctx n
  if x.pend ∈ [some 8, some 9, some 10] then c.cancelReply n x.gen 3 0
  else if x.st = 7 ∨ x.pend = some 7 then c.cancelReply n x.gen 1 7
  else
    let run := x.st = 6 ∨ x.pend = some 6
    let ready := x.pend = some 2 ∨ x.pend = some 3
    let c := if ready then c.cntUp 0x00200080 else c
    let c := c.updCtx n (fun x => { x with
      cancelDue := true, spent := decide ready, pend := if run then some 7 else x.pend })
    c.raise (srcTask n) (if run then 0x8007 else 0x8009) [.cancel n x.gen]
/-- Cirque accepted the cancel. -/
def Chip.cancelEvent (c : Chip) (n gen seq : Nat) : Chip :=
  let x := c.ctx n
  if !x.live ∨ x.gen ≠ gen then c.cancelReply n gen 3 0
  else if x.st = 7 then c.cancelReply n gen 1 7
  else if x.st = 6 then
    let ended := (c.taskGroups n).all (fun g => (c.group g).st == 5)
    let c := c.updCtx n (fun x => { x with st := 7, pend := none, cancelDue := false })
    if ended then c.cancelReply n gen 1 7 else (c.abortTask n).cancelReply n gen 0 0
  else (c.finishCtx n 9 0x0102 seq).cancelReply n gen 0 0

/-- Aborts every running burst and cancels every preload (R365, R366). -/
def Chip.stopBursts (c : Chip) : Chip :=
  c.holders.foldl (fun c n =>
    let x := c.ctx n
    if x.st = 6 ∨ x.pend = some 6 then c.abortTask n
    else if (x.st = 5 ∨ x.pend = some 5) ∧ !x.cancelDue then c.cancelStart n
    else c) c

/-! ### Acceptance of a task-state event (R29, R165) -/

/-- Context n enters state st; events of one context are accepted in the order in which they were raised, and a cancel that
waits consumes a readying (R180). -/
def Chip.enterState (c : Chip) (d : Memory) (n gen st seq : Nat) : Chip :=
  let x := c.ctx n
  if !x.live ∨ x.gen ≠ gen then c
  else
    let new := x.st == 0
    let was := x.st
    let x := if new then { x with createSeq := seq } else x
    let x := { x with st := st, pend := if x.pend = some st then none else x.pend }
    let born (c : Chip) : Chip := if new then c.carryFrozen n else c
    if x.cancelDue ∧ st ≤ 3 then born (c.setCtx n { x with st := if new then st else was })
    else match st with
      | 1 =>
        let c := born (c.setCtx n x)
        if x.waitOk then c.readyCtx n (if x.delay ≠ 0 then 2 else 3) else c
      | 2 => born (c.setCtx n { x with expiry := c.reg64 (listClock x.dlist) + x.delay })
      | 3 =>
        let c := born ((c.setCtx n { x with readyFrc := c.frc, expiry := 0 }).keepSlot n)
        ({ c with sched := { c.sched with passDue := true } }).qmax
      | 5 =>
        let c := c.setCtx n x
        if x.resident then c.startPreload d n
        else if x.thawBad then c.raiseEnd n 10 0x0105
        else c.askThaw n
      | 8 | 9 | 10 => ((c.setCtx n { x with status := x.due }).endCtx n st seq).startPreloads d
      | _ => c.setCtx n x

/-! ### Time (R170, R171, R166) -/

/-- Insertion sort by a list key. -/
def sortBy {α : Type} (key : α → List Nat) (l : List α) : List α :=
  l.foldr ins []
where
  ins (a : α) : List α → List α
    | [] => [a]
    | b :: bs => if lexLt (key b) (key a) then b :: ins a bs else a :: b :: bs

/-- TICK_BOUNDARY. -/
def tickBoundary (c : Chip) : Chip :=
  let c := c.advanceTo (16 * c.sched.tickNext)
  let c := { c with sched := { c.sched with tickNext := c.sched.tickNext + (c.reg 0x00200000).toNat } }
  let c := (List.range 4).foldl (fun c l => c.setReg64 (listClock l) (c.reg64 (listClock l) + 1)) c
  (List.range 4).foldl (fun c l =>
    if bitOf (c.reg 0x00200008).toNat l then c
    else
      let due := c.liveCtxs.filter (fun e =>
        e.2.st == 2 && e.2.dlist == l && e.2.pend.isNone && decide (e.2.expiry ≤ c.reg64 (listClock l)))
      (sortBy (fun e => [e.2.expiry, e.2.createSeq]) due).foldl (fun c e => c.readyCtx e.1 3) c) c

/-! ### Admission (R172 to R174) -/

/-- Contexts that a pass examines, in order. -/
def Chip.candidates (c : Chip) : List (Nat × Ctx) :=
  sortBy (fun e => [e.2.prio, e.2.readyFrc, e.2.createSeq]) (c.liveCtxs.filter (fun e =>
    (e.2.st == 3 || e.2.st == 4) && (e.2.pend.isNone || e.2.pend == some 4) && !e.2.cancelDue))
/-- The bin of R188 for a wait in ns. -/
def waitBin (w : Nat) : Nat := if w < 1024 then 0 else min 15 (Nat.log2 w - 9)
/-- The fit: context n takes its resources (R44, R155, R174, R188, R240, R365). -/
def Chip.admitTask (c : Chip) (n : Nat) : Chip :=
  let x := c.ctx n
  let e := c.env n
  let c := (c.setCtx n { x with held := true, admitFrc := c.frc }).keepSlot n
  let c := (bitsIn e.groups 12).foldl (fun c g => c.setGroup g { c.group g with owner := some n }) c
  let c := c.adcTake e
  let c := (c.cntUp (0x00200400 + 64 * x.prio + 4 * waitBin (c.frc - x.readyFrc))).count 294
  let c := if c.dev.mode = .ready then c.setMode .running else c
  ({ c with mem := { c.mem with idleFrom := none } }).raiseState n 5
/-- Units that accepted CAL_RUNs hold back from admission, waiting ones included (R384): groups, their TDCs and the
converters of step ADC. -/
def Chip.calHolds (c : Chip) (f : FreeRes) : FreeRes :=
  let cmds := (match c.cmd.exec with
    | some e => [e.2]
    | none => []) ++ c.cmd.queue.map (·.2)
  cmds.foldl (fun (f : FreeRes) x => match x with
    | .calRun steps groups _ =>
      let pins := (bitsIn groups 12).map (fun g => 255 * 2 ^ (8 * g))
      { f with groups := f.groups ||| groups, tdc := pins.foldl (· ||| ·) f.tdc
               conv := if bitOf steps 2 then 15 else f.conv }
    | _ => f) f

/-- State of a pass: what is free, and whether a context blocks. -/
structure PassSt where
  free : FreeRes
  blocked : Bool := false

/-- ADMISSION_PASS. -/
def admissionPass (c : Chip) : Chip :=
  if !c.sched.passDue ∨ ¬ (c.dev.mode = .ready ∨ c.dev.mode = .running) then c
  else
    let c := ({ c with sched := { c.sched with passDue := false } }).count 296
    let f := c.calHolds c.freeRes
    let f := if c.retraining then { f with stream := List.replicate 8 0 } else f
    let wait (c : Chip) (n : Nat) : Chip :=
      if (c.ctx n).st = 3 ∧ (c.ctx n).pend = none then c.raiseState n 4 else c
    (c.candidates.foldl (fun (a : PassSt × Chip) t =>
      let c := a.2
      let n := t.1
      let e := c.env n
      if e.neverFits then (a.1, c.raiseEnd n 10 0x0103)
      else if a.1.blocked then (a.1, wait c n)
      else if a.1.free.fits e t.2.siteBase then ({ a.1 with free := a.1.free.take e t.2.siteBase }, c.admitTask n)
      else
        let age := (c.reg 0x00200004).toNat
        if age ≠ 0 ∧ age ≤ c.frc - t.2.readyFrc then
          ({ a.1 with blocked := true }, (wait c n).cntUp 0x00200090)
        else (a.1, wait c n)) ({ free := f }, c)).2

/-- ADMIT_TIMEOUT of context n: the fit of a pass that is due wins, and disarms it (R180). -/
def admitTimeout (n : Nat) (c : Chip) : Chip :=
  let c := admissionPass c
  let x := c.ctx n
  if ¬ (x.st = 3 ∨ x.st = 4) ∨ ¬ (x.pend = none ∨ x.pend = some 4) ∨ x.admitTimeout = 0 ∨ x.cancelDue then c
  else (c.advanceTo (16 * (x.readyFrc + 1000 * x.admitTimeout))).raiseEnd n 10 0x0104

/-! ### Ending (R175) -/

/-- TASK_DRAIN_DONE: no record of the task is left in the compare pipelines or in Q-REC. -/
def taskDrainDone (n : Nat) (c : Chip) : Chip :=
  let x := c.ctx n
  let gs := c.taskGroups n
  let mine (i : Nat) : Bool := (tabGet [] c.mor.queues i).any (fun r => r.ctx == some n)
  if x.st ≠ 7 ∨ x.pend.isSome ∨ gs.any (fun g => (c.group g).pipe != [] || mine g) then c
  else
    let causes := gs.map (fun g => (c.group g).cause)
    let c := gs.foldl (fun c g => c.chkReset g) c
    if causes.any (fun k => k == 5 || k == 6) then c.raiseEnd n 10 0x0101
    else if causes.any (fun k => k == 2 || k == 3) then c.raiseEnd n 10 0x0100
    else if causes.contains 4 then c.raiseEnd n 9 0x0102
    else c.raiseEnd n 8 0

/-- TASK_PRIO (R179). -/
def Chip.taskPrio (c : Chip) (h p : Nat) : Nat × Nat × Chip :=
  match c.findTask h with
  | none => (3, 0, c)
  | some n =>
    let x := c.ctx n
    if 5 ≤ x.st then (1, x.st, c) else (0, 0, (c.setCtx n { x with prio := p }).qmax)

def execTickBoundary (s : State) : Host.Outcome State Fault Refusal := s.onChip tickBoundary
def execAdmissionPass (s : State) : Host.Outcome State Fault Refusal := s.onChip admissionPass
def execAdmitTimeout (n : CtxNo) (s : State) : Host.Outcome State Fault Refusal := s.onChip (admitTimeout n)
def execTaskDrainDone (n : CtxNo) (s : State) : Host.Outcome State Fault Refusal := s.onChip (taskDrainDone n)
/-- CORE_LOAD_WINDOW (R183): FRC reaches the end of a window of 2^20 ns. -/
def execCoreLoadWindow (s : State) : Host.Outcome State Fault Refusal :=
  s.onChip (fun c => c.advanceTo (16 * ((c.frc / 2 ^ 20 + 1) * 2 ^ 20)))

end Sys2Proof.Machine
end

