-- ==== Sys2Proof/Machine/Cirque.lean ====
section
/-! DEFINITION. Cirque.lean: acceptance of events: sequence numbers, what an event changes, the error log and FAULT
(R22 to R29, R169, R317, R393 to R397). -/

namespace Sys2Proof.Machine

/-! ### FAULT (R365, R397) -/

/-- The device enters FAULT with a cause and detail: bursts are aborted as by DEV_QUIESCE, and a fault before LINKING
starts port bring-up where the link clocks run. FAULT is left only by reset, so a later cause changes nothing. -/
def Chip.toFault (c : Chip) (cause detail : Nat) : Chip :=
  if c.dev.mode = .fault then c
  else
    let early := c.dev.mode == .boot || c.dev.mode == .calibrate || c.dev.mode == .train
    let c := c.setReg 0x0001000C (BitVec.ofNat 32 (cause * 2 ^ 24 + detail % 2 ^ 24))
    let c := (c.setMode .fault).stopBursts
    if early ∧ cause ≠ 1 ∧ cause ≠ 2 then c.bringupAll else c

/-! ### Error records (R393, R394) -/

/-- The eight words of an error record accepted with sequence number seq. -/
def Event.record (e : Event) (r : ErrInfo) (seq frc : Nat) : List Word :=
  twoWords seq ++ twoWords frc ++
  [ BitVec.ofNat 32 (e.typ % 2 ^ 16 + r.cls * 2 ^ 16 + srcPort e.src * 2 ^ 24),
    BitVec.ofNat 32 (r.unit % 2 ^ 16 + min e.count 0xFFFF * 2 ^ 16),
    BitVec.ofNat 32 r.task, BitVec.ofNat 32 r.detail ]

/-- An accepted error record is logged and counted, and a FATAL one takes the device to FAULT. -/
def Chip.logRecord (c : Chip) (e : Event) (r : ErrInfo) (seq : Nat) : Chip :=
  let ws := e.record r seq c.frc
  let c := (c.setRegs (0x00342000 + 32 * ((c.reg 0x00340008).toNat % 256)) ws).cntWrap 0x00340008
  let c := c.cntUp (0x00340010 + 4 * r.cls)
  let c := if 2 ≤ r.cls then (c.cntUp 0x00340004).count 310 else c
  if r.cls = 3 then
    let c := if (List.range 8).all (fun i => c.reg (0x00340020 + 4 * i) = 0) then c.setRegs 0x00340020 ws else c
    c.toFault 9 seq
  else c

/-! ### Acceptance (R22 to R24, R29) -/

/-- One effect of an accepted event. -/
def Chip.applyAct (c : Chip) (d : Memory) (seq : Nat) (a : Act) : Chip :=
  match a with
  | .task n gen st => c.enterState d n gen st seq
  | .cancel n gen => (c.cancelEvent n gen seq).startPreloads d
  | .flags n gen kind set clr => c.flagEvent n gen kind set clr
  | .push k wr => c.pushAccepted k wr seq
  | .cplt port tag status state data own => (c.cmdIssue port tag status state data own).headFsp
  | .tdcDone p => c.tdcEnded p
  | .tdcResults => c.tdcResultsOut
  | .adcDone k => c.adcEnded k
  | .adcResults => c.adcResultsOut

/-- The event is one that the notify queue takes whatever the mask (R317). -/
def Event.always (e : Event) : Bool := e.err.isSome || (decide (0x8008 ≤ e.typ) && decide (e.typ ≤ 0x800A))

/-- Cirque accepts an event: the next sequence number, its effects, its record and its notification. A completion that it
issues names the number given last before this cycle (R314). -/
def Chip.accept (c : Chip) (d : Memory) (e : Event) : Chip :=
  let seq := c.cirque.next
  let c := (c.setReg64 0x00020010 ((c.reg64 0x00020010 + e.count) % 2 ^ 64)).count 288
  let c := e.acts.foldl (fun c a => c.applyAct d seq a) c
  let c := match e.err with
    | some r => c.logRecord e r seq
    | none => c
  let c := { c with cirque := { c.cirque with next := (seq + 1) % 2 ^ 64 } }
  if e.always || bitOf (c.field 0x00310004 31 16) (srcPort e.src) then
    c.notify { seq := seq, frc := c.frc, src := e.src, typ := e.typ, count := e.count }
  else c

/-- LINK_WRITE: the link writes that the last accepted SETF created are accepted before any port (R22, R169). -/
def linkWrite (d : Memory) (c : Chip) : Chip :=
  c.cirque.linkWrite.foldl (fun c e => c.accept d e) { c with cirque := { c.cirque with linkWrite := [] } }

/-- The port whose turn it is: the first with an event waiting after the one served last (R22). -/
def Cirque.turn (q : Cirque) : Option Nat :=
  ((List.range 16).map (fun i => (q.last + 1 + i) % 16)).find? (fun p => tabGet [] q.queues p != [])

/-- EVENT_ACCEPT: one event by round robin, after a link write that waits (R22). -/
def eventAccept (d : Memory) (c : Chip) : Chip :=
  let c := linkWrite d c
  match c.cirque.turn with
  | none => c
  | some p =>
    match tabGet [] c.cirque.queues p with
    | [] => c
    | e :: es =>
      let q := { c.cirque with queues := if es = [] then tabDel c.cirque.queues p else tabSet c.cirque.queues p es
                               last := p }
      ({ c with cirque := unstage q p }).accept d e

def execEventAccept (s : State) : Host.Outcome State Fault Refusal := s.onMem eventAccept
def execLinkWrite (s : State) : Host.Outcome State Fault Refusal := s.onMem linkWrite

end Sys2Proof.Machine
end

