-- ==== Sys2Proof/Machine/ImageCheck.lean ====
section
/-! DEFINITION. ImageCheck.lean: steps 1 to 5 of the load check of R154: header, directory, CRCs, and each record on its
own. Where R139 leaves open which byte OFFSET names, log entry 16 states the reading. -/

namespace Sys2Proof.Machine

/-- What a refused load reports (R139). -/
structure Breach where
  code : Nat
  record : Nat
  item : Nat
  off : Nat
  deriving DecidableEq, Repr

/-- No ITEM, and the RECORD values of the header and the directory (R139). -/
def noItem : Nat := 0xFFFFFFFF
def recHeader : Nat := 0xFFFF
def recDir : Nat := 0xFFFE

/-- A check: a breach when the condition fails. -/
def ensure (ok : Bool) (b : Breach) : Option Breach := if ok then none else some b
/-- The first breach of checks in order. -/
def firstOf : List (Unit → Option Breach) → Option Breach
  | [] => none
  | f :: fs =>
    match f () with
    | some b => some b
    | none => firstOf fs
/-- The first breach over a list. -/
def firstIn {α : Type} (l : List α) (f : α → Option Breach) : Option Breach := l.findSome? f
/-- Offset from a of the first byte that is not 0, among n. -/
def firstByte (d : Memory) (a n : Nat) : Option Nat := (List.range n).find? (fun i => memRead d (a + i) != 0)
/-- The first line of `bad`, the reads that could not be corrected, among the lines of a range (R139). -/
def poisonIn (bad : List Nat) (a n : Nat) : Option Nat :=
  (bad.filter (fun x => meets x 128 a n)).foldl (fun (m : Option Nat) x => match m with
    | some y => some (min x y)
    | none => some x) none
/-- 0x010C for the reads of a range of the image at base. -/
def poisonCheck (bad : List Nat) (base a n record item : Nat) : Option Breach :=
  (poisonIn bad a n).map (fun x => { code := 0x010C, record := record, item := item, off := max x a - base })
/-- Reserved bytes: the breach names the first byte that is not 0. -/
def zeros (d : Memory) (a n : Nat) (b : Nat → Breach) : Option Breach := (firstByte d a n).map b

/-! ### Step 1: the header (R141, R143) -/

/-- A breach in the header. -/
def hdrBreach (code off : Nat) : Breach := { code := code, record := recHeader, item := noItem, off := off }
/-- The image range may not lie there (R143). -/
def Chip.imagePlace (c : Chip) (base len : Nat) : Bool :=
  decide (base + len ≤ c.memBytes) && !meets base len c.freezeBase (2 ^ 21) &&
  (List.range 16).all (fun k => !(c.ringOn k && meets base len (c.reg64 (ringB k)) (c.ringSize k))) &&
  c.images.loaded.all (fun e => !meets base len e.2.base e.2.len)
/-- The agreed feature set as 128 bits (R363). -/
def Chip.agreedBits (c : Chip) : Nat := c.reg64 0x40 + 2 ^ 64 * c.reg64 0x48
/-- HDR_CRC (0x0102). -/
def headerCrc (d : Memory) (base : Nat) : Option Breach :=
  ensure (crc32c (memReadBytes d base 0xFC) == memNat d (base + 0xFC) 4) (hdrBreach 0x0102 0xFC)
/-- Checks 0x0101 to 0x0105 of the header. -/
def Chip.headerRules (c : Chip) (d : Memory) (base : Nat) : Option Breach :=
  let len := memNat d (base + 8) 8
  firstOf
    [ fun _ => ensure (memNat d base 4 == 0x31494243) (hdrBreach 0x0101 0)
    , fun _ => ensure (memNat d (base + 4) 2 == 0x0100) (hdrBreach 0x0101 4)
    , fun _ => ensure (len % 128 == 0 && decide (512 ≤ len) && decide (len ≤ 2 ^ 36) && c.imagePlace base len)
        (hdrBreach 0x0103 8)
    , fun _ => ensure (memNat d (base + 0x10) 4 < 2) (hdrBreach 0x0104 0x10)
    , fun _ => zeros d (base + 0x14) 12 (fun i => hdrBreach 0x0104 (0x14 + i))
    , fun _ => zeros d (base + 0x3C) 188 (fun i => hdrBreach 0x0104 (0x3C + i))
    , fun _ => ensure (memNat d (base + 0x20) 16 &&& c.agreedBits == memNat d (base + 0x20) 16) (hdrBreach 0x0105 0x20) ]
/-- Step 1. -/
def Chip.checkHeader (c : Chip) (d : Memory) (base : Nat) : Option Breach :=
  firstOf [fun _ => headerCrc d base, fun _ => c.headerRules d base]

/-! ### Steps 2 and 3: the directory and the record CRCs (R140 to R143) -/

/-- A breach in a field of directory entry i. -/
def dirBreach (code i field : Nat) : Breach := { code := code, record := i, item := noItem, off := 0x100 + 32 * i + field }
def DirEntry.perGroup (e : DirEntry) : Bool := decide (0x10 ≤ e.typ) && decide (e.typ ≤ 0x12)
/-- A listed TYPE (R142). -/
def DirEntry.known (e : DirEntry) : Bool := (decide (1 ≤ e.typ) && decide (e.typ ≤ 8)) || e.perGroup
/-- COUNT and LENGTH of R142: the field that breaks, from the start of the entry. A COUNT of timing sets above 64 is one of
them (DESIGN CHOICE, log entry 96). -/
def DirEntry.sizeFault (e : DirEntry) (segCount : Nat) : Option Nat :=
  let f (ok : Bool) (len : Nat) : Option Nat :=
    if !ok then some 0x18 else if e.len != len then some 0x10 else none
  match e.typ with
  | 1 => f (e.count == 1) 1408
  | 2 => f (decide (e.count ≤ 6144)) (32 * e.count)
  | 3 => f (e.count == segCount) (8 * e.count)
  | 4 => f (e.count == 1) 108
  | 5 => f true (4 * e.count)
  | 6 => f (decide (1 ≤ e.count) && decide (e.count ≤ 4096)) (32 * e.count)
  | 7 => f (decide (1 ≤ e.count) && decide (e.count ≤ 4096)) (64 * e.count)
  | 8 => f true (32 * e.count)
  | 0x10 => f true (16 * e.count)
  | 0x11 => f (decide (e.count ≤ 64)) (128 * (e.count + 1))
  | _ => f (decide (e.count ≤ 1024)) (128 + 8 * e.count)
/-- Numbers of a list's elements beside them. -/
def numbered {α : Type} (l : List α) : List (Nat × α) := l.zipIdx.map (fun e => (e.2, e.1))

/-- DIR_CRC (0x0102). -/
def dirCrc (d : Memory) (base : Nat) : Option Breach :=
  ensure (crc32c (memReadBytes d (base + 0x100) (32 * memNat d (base + 6) 2)) == memNat d (base + 0xF8) 4)
    { code := 0x0102, record := recDir, item := noItem, off := 0xF8 }
/-- The checks of step 2 after DIR_CRC. -/
def dirRules (d : Memory) (base : Nat) : Option Breach :=
  let n := memNat d (base + 6) 2
  let len := memNat d (base + 8) 8
  let es := numbered (imageDir d base)
  let a (i : Nat) : Nat := base + 0x100 + 32 * i
  firstOf
    [ fun _ => ensure (decide (7 ≤ n) && decide (n ≤ 44)) (hdrBreach 0x0104 6)
    , fun _ => firstIn es (fun e => firstOf
        [ fun _ => zeros d (a e.1 + 2) 2 (fun i => dirBreach 0x0104 e.1 (2 + i))
        , fun _ => zeros d (a e.1 + 0x1C) 4 (fun i => dirBreach 0x0104 e.1 (0x1C + i)) ])
    , fun _ => firstIn es (fun e => firstOf
        [ fun _ => ensure e.2.known (dirBreach 0x0106 e.1 0)
        , fun _ => ensure (if e.2.perGroup then decide (e.2.idx ≤ 11) else e.2.idx == 0) (dirBreach 0x0106 e.1 1)
        , fun _ => ensure (es.all (fun p => p.1 + 1 != e.1 || lexLt [p.2.typ, p.2.idx] [e.2.typ, e.2.idx]))
            (dirBreach 0x0106 e.1 0) ])
    , fun _ => ensure ([1, 2, 3, 4].all (fun t => es.any (fun e => e.2.typ == t)))
        { code := 0x0106, record := recDir, item := noItem, off := 0x100 }
    , fun _ => firstIn es (fun e => ensure
        (e.2.off % 128 == 0 && decide (e.2.off + e.2.len ≤ len) && !meets e.2.off e.2.len 0 (0x100 + 32 * n) &&
          es.all (fun o => o.1 == e.1 || !meets e.2.off e.2.len o.2.off o.2.len))
        (dirBreach 0x0107 e.1 8))
    , fun _ => firstIn es (fun e => (e.2.sizeFault (recOf (es.map (·.2)) 2 0).2).map (dirBreach 0x0108 e.1)) ]
/-- The CRC of record i (0x0109). -/
def recordCrc (d : Memory) (base i : Nat) (e : DirEntry) : Option Breach :=
  ensure (crc32c (memReadBytes d (base + e.off) e.len) == e.crc) (dirBreach 0x0109 i 4)

/-! ### Step 4: each record on its own -/

/-- ENVELOPE (R144): field by field, then the check-value mode (0x0207). -/
def Chip.checkEnvelope (c : Chip) (d : Memory) (base i : Nat) (r : DirEntry) : Option Breach :=
  let a := base + r.off
  let e := envAt d a
  let bad (off : Nat) : Breach := { code := 0x0201, record := i, item := noItem, off := r.off + off }
  firstOf
    [ fun _ => ensure (e.groups != 0 && decide (e.groups < 4096)) (bad 0)
    , fun _ => ensure (decide (1 ≤ e.siteCount) && decide (e.siteCount ≤ 128)) (bad 2)
    , fun _ => ensure (memNat d (a + 3) 1 < 2) (bad 3)
    , fun _ => ensure (decide (e.sbPorts < 8)) (bad 4)
    , fun _ => ensure (decide (e.adcConv < 16)) (bad 5)
    , fun _ => ensure (periodRule e.refPeriod) (bad 8)
    , fun _ => ensure (!e.crcCtx || decide (e.crcUnits < 2 ^ 16)) (bad 0x1C)
    , fun _ => zeros d (a + 0x48) 56 (fun k => bad (0x48 + k))
    , fun _ => zeros d (a + 0x110) 112 (fun k => bad (0x110 + k))
    , fun _ => firstIn (List.range 128) (fun s =>
        if s < e.siteCount then ensure (e.siteRate.getD s 0 != 0) (bad (0x180 + 8 * s))
        else firstOf
          [ fun _ => ensure (e.siteRate.getD s 0 == 0) (bad (0x180 + 8 * s))
          , fun _ => ensure (e.siteQuota.getD s 0 == 0) (bad (0x184 + 8 * s)) ])
    , fun _ => ensure (e.crcCtx == bitOf (c.reg 0x00240000).toNat 0)
        { code := 0x0207, record := i, item := noItem, off := r.off + 3 } ]

/-- A descriptor k with its header (R91 to R93, R145), which is read once the extent lies in the image. -/
def checkSegment (d : Memory) (bad : List Nat) (base len i : Nat) (r : DirEntry) (k : Nat) : Option Breach :=
  let o := r.off + 32 * k
  let a := base + o
  let s := segDescAt d a
  let fail (code off : Nat) : Breach := { code := code, record := i, item := k, off := off }
  let h := s.addr
  let hb (off : Nat) : Breach := fail 0x0303 (h - base + off)
  let rep := memNat d (h + 3) 1
  firstOf
    [ fun _ => ensure (s.id != 0xFFFF) (fail 0x0301 o)
    , fun _ => ensure (decide (s.grp < 12)) (fail 0x0301 (o + 2))
    , fun _ => ensure (decide (s.enc < 4)) (fail 0x0301 (o + 3))
    , fun _ => ensure (decide (s.dflags < 4)) (fail 0x0301 (o + 4))
    , fun _ => zeros d (a + 5) 3 (fun n => fail 0x0301 (o + 5 + n))
    , fun _ => ensure (decide (1 ≤ s.frames) && decide (s.frames ≤ 2 ^ 24)) (fail 0x0301 (o + 8))
    , fun _ => ensure (s.enc == 3 || !s.resident || s.lead == 0) (fail 0x0301 (o + 0xC))
    , fun _ => ensure (s.addr % 128 == 0) (fail 0x0301 (o + 0x10))
    , fun _ => ensure (s.enc == 3 || s.resident || s.firnOff == 0) (fail 0x0301 (o + 0x18))
    , fun _ => zeros d (a + 0x1C) 4 (fun n => fail 0x0301 (o + 0x1C + n))
    , fun _ => ensure (k == 0 || decide ((segDescAt d (a - 32)).id < s.id)) (fail 0x0302 o)
    , fun _ => ensure (decide (base ≤ s.addr) && decide (s.addr + s.extent ≤ base + len)) (fail 0x0304 (o + 0x10))
    , fun _ => poisonCheck bad base h 128 i k
    , fun _ => ensure (memNat d h 2 == s.id) (hb 0)
    , fun _ => ensure (memNat d (h + 2) 1 == s.enc) (hb 2)
    , fun _ => ensure (decide (rep ≤ 8)) (hb 3)
    , fun _ => ensure (memNat d (h + 4) 4 == s.frames) (hb 4)
    , fun _ => ensure (s.enc == 2 || memNat d (h + 8) 2 == 0) (hb 8)
    , fun _ => ensure (s.enc == 1 || memNat d (h + 0xA) 1 == 0) (hb 0xA)
    , fun _ => ensure (decide (memNat d (h + 0xB) 1 ≤ b2n (s.enc == 1))) (hb 0xB)
    , fun _ => ensure (decide (memNat d (h + 0xC) 1 < 16)) (hb 0xC)
    , fun _ => zeros d (h + 0xD) 115 (fun n => hb (0xD + n))
    , fun _ => ensure (s.enc != 3 || s.resident) (fail 0x0305 (o + 4))
    , fun _ => ensure (s.enc != 3 || s.lead == 0) (fail 0x0305 (o + 0xC))
    , fun _ => ensure (s.enc != 3 || s.firnOff == 0) (fail 0x0305 (o + 0x18))
    , fun _ => ensure (!s.landing || s.resident) (fail 0x0306 (o + 4)) ]

/-- SEGMENT_CHECK entry k (R145). -/
def checkSegCheck (d : Memory) (base i : Nat) (r : DirEntry) (segs : List SegDesc) (k : Nat) : Option Breach :=
  let o := r.off + 8 * k
  firstOf
    [ fun _ => ensure ((segs.map (·.id)).getD k 0x10000 == memNat d (base + o) 2) { code := 0x0302, record := i, item := k, off := o }
    , fun _ => zeros d (base + o + 2) 2 (fun n => { code := 0x0302, record := i, item := k, off := o + 2 + n }) ]
/-- LANDING_PADS entry k: reserved byte, order, duplicates (R147). -/
def checkPad (d : Memory) (base i : Nat) (r : DirEntry) (k : Nat) : Option Breach :=
  let o := r.off + 4 * k
  let key (k : Nat) : List Nat :=
    [memNat d (base + r.off + 4 * k) 1, memNat d (base + r.off + 4 * k + 2) 2]
  firstOf
    [ fun _ => ensure (k == 0 || lexLt (key (k - 1)) (key k)) { code := 0x0601, record := i, item := k, off := o }
    , fun _ => ensure (memNat d (base + o + 1) 1 == 0) { code := 0x0601, record := i, item := k, off := o + 1 } ]

/-- The byte at which a TDC plan entry breaks R218 and R219. -/
def tdcPlanFault (e : List Byte) : Option Nat :=
  let sa := planByte e 0
  let so := planByte e 2
  let src (v : Nat) : Nat := v % 8
  let argMax (first : Bool) (v : Nat) : Nat := if v = 3 then 7 else if first && v == 0 then 63 else 0
  let same := sa % 16 == so % 16 && (src sa == 2 || (src sa == 3 && planByte e 1 == planByte e 3))
  if 16 ≤ sa ∨ 3 < src sa then some 0
  else if argMax true (src sa) < planByte e 1 then some 1
  else if 16 ≤ so ∨ 3 < src so then some 2
  else if argMax false (src so) < planByte e 3 then some 3
  else if 15999999 < planNat e 4 4 then some 4
  else if planNat e 8 4 ≤ planNat e 4 4 ∨ 16000000 < planNat e 8 4 then some 8
  else if 8 ≤ planByte e 0x10 then some 0x10
  else if 8 ≤ planByte e 0x11 then some 0x11
  else match (List.range 14).find? (fun i => planByte e (0x12 + i) != 0) with
  | some i => some (0x12 + i)
  | none => if same then some 2 else none
/-- The byte at which an ADC plan entry breaks R237: the first field that it takes to fail. -/
def adcPlanFault (p : List Byte) : Option Nat :=
  let k := adcKind p
  let x := k == 1
  let n := adcLen p
  if adcPlanOk p then none
  else if k = 3 ∨ (!x && adcCmp p != 0) then some 0
  else if n = 0 ∨ 16 < n then some 1
  else if 64 ≤ planByte p 2 ∨ (x != (adcEdge p != 0)) then some 2
  else if planByte p 3 ≠ 0 then some 3
  else if adcNsBase p = 0 ∨ 2 ^ 24 < adcNsBase p then some 4
  else if (if x then decide (4096 ≤ planNat p 8 2) else planNat p 8 2 != 0) then some 8
  else if (if x then decide (64 ≤ planByte p 0x0A) else planByte p 0x0A != 0) then some 0x0A
  else if (if x then !diffOk (planByte p 0x0B % 128) (decide (128 ≤ planByte p 0x0B)) else planByte p 0x0B != 0) then
    some 0x0B
  else if (k = 2 ∧ adcLimit p < 10) ∨ (k = 0 ∧ adcLimit p ≠ 0) then some 0x0C
  else match (List.range n).find? (fun i =>
    let e := adcEntry p i
    !(decide (entGain e ≤ 4) && decide (entOsr e ≤ 10) && diffOk (entInput e) (entDiff e) &&
      decide (adcNsBase p * 2 ^ entExp e ≤ 2 ^ 28))) with
  | some i => some (0x10 + 3 * i)
  | none =>
    match (List.range (0x30 - 3 * n)).find? (fun i => planByte p (0x10 + 3 * n + i) != 0) with
    | some i => some (0x10 + 3 * n + i)
    | none => some 0

/-- RING_DATA entry k: its fields (R150). -/
def checkRingEntry (d : Memory) (base len i : Nat) (r : DirEntry) (k : Nat) : Option Breach :=
  let o := r.off + 32 * k
  let e := ringExtAt d (base + o)
  let bad (off : Nat) : Breach := { code := 0x0505, record := i, item := k, off := o + off }
  firstOf
    [ fun _ => ensure (decide (e.grp < 12)) (bad 0)
    , fun _ => zeros d (base + o + 1) 3 (fun n => bad (1 + n))
    , fun _ => ensure (e.len % 64 == 0 && decide (64 ≤ e.len) && decide (e.len ≤ 131072)) (bad 8)
    , fun _ => zeros d (base + o + 0xC) 4 (fun n => bad (0xC + n))
    , fun _ => ensure (e.addr % 128 == 0 && decide (base ≤ e.addr) && decide (e.addr + e.len ≤ base + len)) (bad 0x10)
    , fun _ => zeros d (base + o + 0x1C) 4 (fun n => bad (0x1C + n)) ]

/-! ### Programs (R105, R109 to R116, R120 to R127) -/

/-- CMODE and CPARAM (R193, R194). -/
def capRule (cmode cparam : Nat) : Bool :=
  match cmode with
  | 0 | 1 => cparam == 0
  | 2 => cparam != 0
  | 3 | 4 | 5 => decide (cparam % 64 ≤ bitsOf cparam 13 8) && bitsOf cparam 7 6 == 0 && decide (cparam < 2 ^ 14)
  | _ => false
/-- The byte at which a word breaks R110 and R111 (0x0401). -/
def SeqWord.fault (w : SeqWord) : Option Nat :=
  let f (b2 b3 w1 w2 w3 : Bool) : Option Nat :=
    if 2 ≤ w.flags then some 1 else if !b2 then some 2 else if !b3 then some 3 else if !w1 then some 4
    else if !w2 then some 8 else if !w3 then some 12 else none
  let z2 := w.b2 == 0
  let z3 := w.b3 == 0
  let y1 := w.w1 == 0
  let y2 := w.w2 == 0
  let y3 := w.w3 == 0
  match w.op with
  | 0x01 => f z2 z3 (!y1) y2 y3
  | 0x02 => f true true true y2 y3
  | 0x03 => f (decide (w.b2 < 2)) z3 (!y1) y2 y3
  | 0x04 => f z2 z3 y1 y2 y3
  | 0x05 => f z2 z3 (decide (w.w1 < 4096)) y2 y3
  | 0x06 => f (bitsOf w.b2 6 3 == 0 && decide (w.b2 % 8 < 5)) true (decide (w.w1 < 4096)) true true
  | 0x07 => f true true y1 y2 y3
  | 0x08 => f (decide (w.b2 < 64)) z3 y1 y2 y3
  | 0x09 => f (decide (w.b2 < 4)) z3 y1 y2 y3
  | 0x0A => f true true y1 (decide (w.w2 < 512)) y3
  | 0x0B => f true true y1 y2 y3
  | 0x0C => f (decide (w.b2 < 2)) z3 true true y3
  | 0x0D => f (decide (w.b2 < 2)) z3 true true true
  | 0x0E => f (decide (w.b2 < 6)) z3 (capRule w.b2 w.w1 || decide (6 ≤ w.b2)) y2 y3
  | 0x0F => f (decide (4 ≤ w.b2)) z3 y1 y2 (!y3)
  | 0x10 => f z2 z3 y1 y2 y3
  | _ => some 0
/-- The byte at which a JCOND breaks R116 (0x0409). -/
def SeqWord.condFault (w : SeqWord) : Option Nat :=
  if w.op ≠ 6 then none
  else match w.b2 % 8 with
  | 0 | 1 => if w.b3 ≠ 0 then some 3 else if w.w2 = 0 ∨ 512 ≤ w.w2 then some 8 else none
  | 2 => if 64 ≤ w.b3 then some 3 else if w.w2 ≠ 0 then some 8 else none
  | 3 => if 3 ≤ w.b3 then some 3 else if 0x100 < w.w2 then some 8 else none
  | _ => if w.b3 ≠ 0 then some 3 else if w.w2 ≠ 0 then some 8 else none

/-- One program in step 4: each word against every check, open loops innermost first. -/
def checkWords (i off total : Nat) (elastic : Bool) : List SeqWord → Nat → List Nat → Option Breach
  | [], _, stack =>
    match stack.getLast? with
    | some k => some { code := 0x0406, record := i, item := k, off := off + 16 * k }
    | none => none
  | w :: ws, k, stack =>
    let at0 (code b : Nat) : Breach := { code := code, record := i, item := k, off := off + 16 * k + b }
    let some0 (code : Nat) (b : Option Nat) : Option Breach := b.map (at0 code)
    let r := firstOf
      [ fun _ => some0 0x0401 w.fault
      , fun _ => ensure (k != 0 || decide (total ≤ 4096)) (at0 0x0402 0)
      , fun _ => ensure (k != 0 || w.op == 2) (at0 0x0403 0)
      , fun _ => ensure (ws != [] || w.op == 0x10 || w.op == 5) (at0 0x0404 0)
      , fun _ => ensure (!(w.op == 3 && stack.length == 8) && !(w.op == 4 && stack == [])) (at0 0x0406 0)
      , fun _ => some0 0x0409 w.condFault
      , fun _ => ensure (!(w.op == 6 && w.b2 % 8 == 4 && stack == [])) (at0 0x040A 2)
      , fun _ => ensure (!(w.op == 0x0A && decide (256 ≤ w.w2))) (at0 0x040D 8)
      , fun _ => ensure (!((w.op == 0x0C || w.op == 0x0D) && w.mask == 0)) (at0 0x040E 4)
      , fun _ => ensure (!(w.op == 0x0D && !elastic)) (at0 0x040F 0) ]
    match r with
    | some b => some b
    | none =>
      checkWords i off total elastic ws (k + 1)
        (if w.op = 3 then k :: stack else if w.op = 4 then stack.drop 1 else stack)
/-- PROGRAM (R105). -/
def checkProgram (d : Memory) (base i : Nat) (r : DirEntry) (elastic : Bool) : Option Breach :=
  if r.count = 0 then some { code := 0x0402, record := i, item := 0, off := r.off }
  else checkWords i r.off r.count elastic
    ((List.range r.count).map (fun k => seqWordOf (memReadBytes d (base + r.off + 16 * k) 16))) 0 []

/-! ### TIMING_SETS and GROUP_CONFIG (R151 to R153) -/

/-- Bits of word w of a timing set that may be 1 (R56, R57). -/
def tsetBits (w : Nat) : Nat :=
  if w = 0 then fld 31 31 + fld 1 0
  else if 28 ≤ w then 0
  else if w % 3 = 0 then fld 13 0 else fld 29 16 + fld 13 0
/-- TIMING_SETS. -/
def checkTsets (d : Memory) (base i : Nat) (r : DirEntry) : Option Breach :=
  let a := base + r.off
  let bad (item off : Nat) : Breach := { code := 0x0501, record := i, item := item, off := r.off + off }
  firstOf
    [ fun _ => ensure ((bitsIn (memNat d a 8) 64).length == r.count) (bad noItem 0)
    , fun _ => zeros d (a + 8) 120 (fun n => bad noItem (8 + n))
    , fun _ => firstIn (List.range r.count) (fun k =>
        let e := 128 + 128 * k
        let word (w : Nat) : Nat := memNat d (a + e + 4 * w) 4
        firstOf
          [ fun _ => ensure (bitOf (word 0) 31) (bad k e)
          , fun _ => firstIn (List.range 32) (fun w => ensure (word w &&& tsetBits w == word w) (bad k (e + 4 * w)))
          , fun _ => firstIn (List.range 9) (fun j =>
              ensure (edgeRule (word (1 + 3 * j)) (word (2 + 3 * j)) (word (3 + 3 * j))) (bad k (e + 4 + 12 * j))) ]) ]

/-- The joint rules of R153 for a PIN_SRC delta, on the values the record writes. -/
def jointRule (ds : List (Nat × Nat)) (o v : Nat) : Bool :=
  let get (a : Nat) : Option Nat := (ds.find? (fun e => e.1 == a)).map (·.2)
  let t := bitsOf v 31 28
  if t = 2 then
    match get (o + 0x10), get (o + 0x14) with
    | some lo, some hi => seedRule v (lo + 2 ^ 32 * hi)
    | _, _ => false
  else if t = 4 ∨ t = 5 then (get (o + 4)).isSome
  else true
/-- GROUP_CONFIG of group g; vmax is the board's limit of R49. -/
def checkConfig (d : Memory) (base i : Nat) (r : DirEntry) (vmax : Nat) : Option Breach :=
  let a := base + r.off
  let bad (code item off : Nat) : Breach := { code := code, record := i, item := item, off := r.off + off }
  let ds := (List.range r.count).map (fun k => (memNat d (a + 128 + 8 * k) 4, memNat d (a + 132 + 8 * k) 4))
  firstOf
    [ fun _ => firstIn [0, 1, 2, 3] (fun k => ensure (periodRule (memNat d (a + 8 * k) 8)) (bad 0x0502 noItem (8 * k)))
    , fun _ => zeros d (a + 0x21) 3 (fun n => bad 0x0504 noItem (0x21 + n))
    , fun _ => ensure (memNat d (a + 0x24) 4 == r.count) (bad 0x0504 noItem 0x24)
    , fun _ => zeros d (a + 0x28) 88 (fun n => bad 0x0504 noItem (0x28 + n))
    , fun _ => firstIn (numbered ds) (fun e =>
        let o := e.2.1
        let v := e.2.2
        let at0 := 128 + 8 * e.1
        firstOf
          [ fun _ => ensure (levelRule o v vmax) (bad 0x0503 e.1 (at0 + 4))
          , fun _ => ensure ((deltaBits o).isSome && !((ds.take e.1).any (fun x => x.1 == o))) (bad 0x0504 e.1 at0)
          , fun _ => ensure (v &&& (deltaBits o).getD 0 == v && encodingRule o v &&
              (decide (o < 0x8000) || o % 0x800 != 0x10 || jointRule ds o v)) (bad 0x0504 e.1 (at0 + 4)) ]) ]

/-- Step 4. -/
def Chip.checkRecords (c : Chip) (d : Memory) (bad : List Nat) (base : Nat) : Option Breach :=
  let es := imageDir d base
  let len := memNat d (base + 8) 8
  let elastic := bitOf (memNat d (base + 0x10) 4) 0
  firstIn (numbered es) (fun e =>
    let i := e.1
    let r := e.2
    let each (f : Nat → Option Breach) : Option Breach := firstIn (List.range r.count) f
    let plan (size code : Nat) (f : List Byte → Option Nat) : Option Breach := each (fun k =>
      (f (memReadBytes d (base + r.off + size * k) size)).map (fun b =>
        { code := code, record := i, item := k, off := r.off + size * k + b }))
    match r.typ with
    | 1 => c.checkEnvelope d base i r
    | 2 => each (checkSegment d bad base len i r)
    | 3 => each (checkSegCheck d base i r (imageSegs d base es))
    | 5 => each (checkPad d base i r)
    | 6 => plan 32 0x0701 tdcPlanFault
    | 7 => plan 64 0x0702 adcPlanFault
    | 8 => each (checkRingEntry d base len i r)
    | 0x10 => checkProgram d base i r elastic
    | 0x11 => checkTsets d base i r
    | 0x12 => checkConfig d base i r (c.field (0x00100028 + 0x10000 * r.idx) 11 0)
    | _ => none)

/-! ### Step 5: segment and ring CRCs (R140, R145, R150) -/

/-- Directory index of a record. -/
def recIndex (es : List DirEntry) (typ idx : Nat) : Nat := es.findIdx (fun e => e.typ == typ && e.idx == idx)
/-- The CRC of segment k (0x010A). -/
def segmentCrc (d : Memory) (base : Nat) (es : List DirEntry) (k : Nat) (s : SegDesc) : Option Breach :=
  let o := (recOf es 3 0).1 + 8 * k + 4
  ensure (crc32c (memReadBytes d s.addr (128 + s.bytes)) == memNat d (base + o) 4)
    { code := 0x010A, record := recIndex es 2 0, item := k, off := o }
/-- The CRC of ring extent k (0x010A). -/
def ringCrc (d : Memory) (es : List DirEntry) (k : Nat) (r : RingExt) : Option Breach :=
  ensure (crc32c (memReadBytes d r.addr r.len) == r.crc)
    { code := 0x010A, record := recIndex es 8 0, item := k, off := (recOf es 8 0).1 + 32 * k + 0x18 }

end Sys2Proof.Machine
end

