-- ==== Sys2Proof/Machine/ImageRules.lean ====
section
/-! DEFINITION. ImageRules.lean: step 6 of the load check of R154, the rules between records, and the whole check. -/

namespace Sys2Proof.Machine

/-- What step 6 works from: the image's bytes, its directory, envelope, segments and ring extents. -/
structure ImgView where
  d : Memory
  base : Nat
  es : List DirEntry
  env : Env
  segs : List SegDesc
  rings : List RingExt
  deriving DecidableEq, Repr

def viewOf (d : Memory) (base : Nat) : ImgView :=
  let es := imageDir d base
  { d := d, base := base, es := es, env := envAt d (base + (recOf es 1 0).1), segs := imageSegs d base es
    rings := imageRings d base es }

/-- A breach in record (typ, idx) of the image, off bytes into its body. -/
def ImgView.breach (v : ImgView) (code typ idx item off : Nat) : Breach :=
  { code := code, record := recIndex v.es typ idx, item := item, off := (recOf v.es typ idx).1 + off }
/-- A breach of segment descriptor k. -/
def ImgView.segBreach (v : ImgView) (code k field : Nat) : Breach := v.breach code 2 0 k (32 * k + field)
/-- Groups that have a record of a type, ascending. -/
def ImgView.groupsOf (v : ImgView) (typ : Nat) : List Nat := (v.es.filter (fun e => e.typ == typ)).map (·.idx)
def ImgView.prog (v : ImgView) (g : Nat) : List SeqWord := imageProg v.d v.base v.es g
/-- The smallest period that GROUP_CONFIG loads into group g. -/
def ImgView.minPeriod (v : ImgView) (g : Nat) : Nat :=
  let a := v.base + (recOf v.es 0x12 g).1
  ([8, 16, 24].map (fun o => memNat v.d (a + o) 8)).foldl min (memNat v.d a 8)
/-- Played repeats of a segment, from its header (R90, R92). -/
def ImgView.rep (v : ImgView) (s : SegDesc) : Nat := memNat v.d (s.addr + 3) 1 % 16
/-- Segment SEG_ID, where it belongs to group g. -/
def ImgView.segIn (v : ImgView) (g id : Nat) : Option SegDesc := v.segs.find? (fun s => s.id == id && s.grp == g)
/-- Place of a resident segment with data in the resident region, in bytes. -/
def SegDesc.place (s : SegDesc) : Option (Nat × Nat) :=
  if s.resident && s.enc != 3 then some (64 * s.firnOff, s.bytes) else none
/-- The resident region of group g in bytes: whole lines of RES_BYTES (R96). -/
def ImgView.region (v : ImgView) (g : Nat) : Nat := (v.env.resBytes.getD g 0 + 127) / 128 * 128
/-- Lines of the ring for R97: the region capped at 24,576 lines (R144). -/
def ImgView.ring (v : ImgView) (g : Nat) : Nat := Config.firnLines - min (v.region g / 128) Config.maxResident

/-! ### Extents and the envelope (R92, R96, R142 to R144) -/

/-- 0x0107 for segment extents. -/
def ImgView.extents (v : ImgView) : Option Breach :=
  let fixed := (0, 0x100 + 32 * v.es.length) :: v.es.map (fun e => (e.off, e.len))
  firstIn (numbered v.segs) (fun s => ensure
    (fixed.all (fun f => !meets s.2.addr s.2.extent (v.base + f.1) f.2) &&
      (numbered v.segs).all (fun o => o.1 == s.1 || !meets s.2.addr s.2.extent o.2.addr o.2.extent))
    (v.segBreach 0x0107 s.1 0x10))
/-- End of what group g holds in its resident region. -/
def ImgView.resEnd (v : ImgView) (g : Nat) : Nat :=
  let a := (v.segs.filter (fun s => s.grp == g)).filterMap (fun s => s.place.map (fun p => p.1 + p.2))
  let b := (v.rings.filter (fun r => r.grp == g)).map (fun r => 64 * r.firnOff + r.len)
  (a ++ b).foldl max 0
/-- Streamed segments of group g. -/
def ImgView.streamed (v : ImgView) (g : Nat) : List SegDesc := v.segs.filter (fun s => s.grp == g && !s.resident)
/-- 0x0202 to 0x0205. -/
def ImgView.envRules (v : ImgView) : Option Breach :=
  let bad (code off : Nat) : Breach := v.breach code 1 0 noItem off
  let used := bitsIn v.env.groups 12
  firstOf
    [ fun _ => ensure ([0x10, 0x11, 0x12].all (fun t => v.groupsOf t == used)) (bad 0x0202 0)
    , fun _ => firstIn (List.range 12) (fun g =>
        ensure (decide (v.resEnd g ≤ v.env.resBytes.getD g 0)) (bad 0x0203 (0x80 + 4 * g)))
    , fun _ => firstIn (List.range 12) (fun g => ensure
        (v.env.ringLead.getD g 0 == ((v.streamed g).map (fun s => s.lead * frameSize s.enc)).foldl max 0)
        (bad 0x0204 (0xB0 + 4 * g)))
    , fun _ => ensure (decide (v.env.refPeriod ∈ used.map v.minPeriod) &&
        used.all (fun g => decide (v.env.refPeriod ≤ v.minPeriod g))) (bad 0x0205 8) ]

/-- Pins of its group that a TDC plan entry names as PIN sources (R215, R216). -/
def planPins (e : List Byte) : Nat :=
  (if planByte e 0 % 8 = 3 then 2 ^ (planByte e 1 % 8) else 0) ||| (if planByte e 2 % 8 = 3 then 2 ^ (planByte e 3 % 8) else 0)
/-- A rule over every word of every program, in directory order; the rule gives the byte that breaks it. -/
def ImgView.scan (v : ImgView) (code : Nat) (f : Nat → Nat → SeqWord → Option Nat) : Option Breach :=
  firstIn (v.groupsOf 0x10) (fun g => firstIn (numbered (v.prog g)) (fun w =>
    (f g w.1 w.2).map (fun b => v.breach code 0x10 g w.1 (16 * w.1 + b))))
/-- 0x0206 (R121, R149) and 0x0208 (R148). -/
def ImgView.maskRules (v : ImgView) : Option Breach :=
  let e := v.env
  let tdc := imagePlan v.d v.base v.es 6 32
  firstOf
    [ fun _ => firstIn (numbered (imagePlan v.d v.base v.es 7 64)) (fun p => firstOf
        [ fun _ => ensure (bitOf e.adcConv (adcConvOf p.2) && (adcKind p.2 != 1 || bitOf e.xcmp (adcCmp p.2)))
            (v.breach 0x0206 7 0 p.1 (64 * p.1))
        , fun _ => firstIn (List.range (adcLen p.2)) (fun i =>
            ensure (bitOf e.adcAcc (entUnit (adcEntry p.2 i))) (v.breach 0x0206 7 0 p.1 (64 * p.1 + 0x10 + 3 * i))) ])
    , fun _ => v.scan 0x0206 (fun g _ w =>
        let have8 := e.tdcPins / 2 ^ (8 * g) % 256
        if w.op = 0x0A then
          (if planPins (tdc.getD w.id []) &&& have8 ≠ planPins (tdc.getD w.id []) then some 2
          else if w.w2 % 256 &&& have8 ≠ w.w2 % 256 then some 8 else none)
        else if w.op = 6 ∧ w.b2 % 8 = 3 ∧ !bitOf e.sbPorts w.b3 then some 3 else none)
    , fun _ => firstIn (List.range 12) (fun g =>
        ensure (v.streamed g == [] || e.fillLines.getD g 0 != 0) (v.breach 0x0208 1 0 noItem (0xE0 + 4 * g))) ]

/-! ### Segments (R93, R97) -/

/-- The payload rings that PIN_SRC_AUX deltas place in group g's region: first byte and length (R72, R150). -/
def ImgView.payloadRings (v : ImgView) (g : Nat) : List (Nat × Nat) :=
  ((imageDeltas v.d v.base v.es g).filter (fun e => decide (0x8000 ≤ e.1) && e.1 % 0x800 == 0x14)).map (fun e =>
    (64 * bitsOf e.2 15 0, ringEnd e.2 - 64 * bitsOf e.2 15 0))
/-- 0x0307 to 0x030A. -/
def ImgView.segRules (v : ImgView) : Option Breach :=
  let ss := numbered v.segs
  firstOf
    [ fun _ => firstIn ss (fun s => match s.2.place with
        | none => none
        | some (o, n) => ensure (decide (o + n ≤ v.region s.2.grp) &&
            ss.all (fun t => t.1 == s.1 || t.2.grp != s.2.grp || (match t.2.place with
              | some (p, m) => !meets o n p m
              | none => true)) &&
            (v.payloadRings s.2.grp).all (fun r => !meets o n r.1 r.2)) (v.segBreach 0x0307 s.1 0x18))
    , fun _ => firstIn ss (fun s => ensure (s.2.resident ||
        (decide (1024 ≤ s.2.lead) && decide (2 * (s.2.lead * frameSize s.2.enc) ≤ 128 * v.ring s.2.grp)))
        (v.segBreach 0x0308 s.1 0x0C))
    , fun _ => firstIn ss (fun s => ensure (s.2.enc != 0 || v.rep s.2 != 0 || !(v.groupsOf 0x12).contains s.2.grp ||
        decide (2 ^ 40 ≤ v.minPeriod s.2.grp)) (v.segBreach 0x0309 s.1 3))
    , fun _ => firstIn (v.groupsOf 0x10) (fun g =>
        ensure (decide (((v.prog g).filter (fun w => w.op == 2)).map SeqWord.id |>.dedup |>.length |> (· ≤ 512)))
          (v.breach 0x030A 0x10 g noItem 0)) ]

/-! ### Programs (R112 to R121) -/

/-- LOOP and ENDL indices of each loop of a program (R113). -/
def loopsOf (ws : List SeqWord) : List (Nat × Nat) :=
  ((numbered ws).foldl (fun (a : List Nat × List (Nat × Nat)) w =>
    if w.2.op = 3 then (w.1 :: a.1, a.2)
    else if w.2.op = 4 then (a.1.drop 1, (a.1.headD 0, w.1) :: a.2)
    else a) ([], [])).2
/-- SEG_ID of the nearest SEG at or before word k (R129). -/
def segAt (ws : List SeqWord) (k : Nat) : Nat :=
  match ((ws.take (k + 1)).filter (fun w => w.op == 2)).getLast? with
  | some w => w.id
  | none => 0xFFFF
/-- The segment current at word k of group g is resident. -/
def ImgView.residentAt (v : ImgView) (g : Nat) (ws : List SeqWord) (k : Nat) : Bool :=
  match v.segIn g (segAt ws k) with
  | some s => s.resident
  | none => false
/-- Word k stands in a loop body that R114 refuses because of it: a streamed segment in a body without STREAMED_BODY, or
the first word of a body that holds a SEG and does not begin with one. -/
def ImgView.bodyFault (v : ImgView) (g : Nat) (ws : List SeqWord) (k : Nat) : Bool :=
  (loopsOf ws).any (fun l =>
    decide (l.1 < k) && decide (k ≤ l.2) &&
    ((k == l.1 + 1 && ((ws.drop k).headD (seqWordOf [])).op != 2 &&
        ((ws.take (l.2 + 1)).drop (l.1 + 1)).any (fun w => w.op == 2)) ||
      (((ws.drop l.1).headD (seqWordOf [])).b2 % 2 == 0 && !v.residentAt g ws k)))
/-- A target is a landing pad and lies inside no loop that excludes the jump at word k (R115). -/
def ImgView.targetOk (v : ImgView) (g : Nat) (ws : List SeqWord) (k t : Nat) : Bool :=
  (match ws[t]? with
    | some w => w.op == 2 && (match v.segIn g w.id with
      | some s => s.landing
      | none => false)
    | none => false) &&
  (loopsOf ws).all (fun l =>
    !(decide (l.1 < t) && decide (t ≤ l.2)) || (decide (l.1 < k) && decide (k ≤ l.2)))
/-- Words that jump. -/
def SeqWord.jumps (w : SeqWord) : Bool := w.op == 5 || w.op == 6
/-- VALID_MASK of group g. -/
def ImgView.tsets (v : ImgView) (g : Nat) : Nat := memNat v.d (v.base + (recOf v.es 0x11 g).1) 8
/-- 0x0405 to 0x040D. -/
def ImgView.progRules (v : ImgView) : Option Breach :=
  let tdcN := (recOf v.es 6 0).2
  let adcN := (recOf v.es 7 0).2
  firstOf
    [ fun _ => v.scan 0x0405 (fun g _ w => if w.op ≠ 2 then none else match v.segIn g w.id with
        | none => some 2
        | some s => if w.w1 < s.frames * 2 ^ v.rep s then none else some 4)
    , fun _ => v.scan 0x0407 (fun g k _ => if v.bodyFault g (v.prog g) k then some 0 else none)
    , fun _ => v.scan 0x0408 (fun g k w => if w.jumps && !v.targetOk g (v.prog g) k w.w1 then some 4 else none)
    , fun _ => v.scan 0x040B (fun g k w =>
        if w.op = 6 ∧ 2 ≤ w.w3 ∧ !v.residentAt g (v.prog g) k then some 12 else none)
    , fun _ => v.scan 0x040C (fun g _ w => if w.op = 8 ∧ !bitOf (v.tsets g) w.b2 then some 2 else none)
    , fun _ => firstIn (v.groupsOf 0x12) (fun g =>
        let t := memNat v.d (v.base + (recOf v.es 0x12 g).1 + 0x20) 1
        ensure (decide (t < 64) && bitOf (v.tsets g) t) (v.breach 0x040C 0x12 g noItem 0x20))
    , fun _ => v.scan 0x040D (fun _ _ w =>
        if (w.op = 0x0A ∧ tdcN ≤ w.id) ∨ (w.op = 0x0B ∧ adcN ≤ w.id) then some 2 else none) ]

/-! ### Payload rings, landing pads, plans, sites (R72, R146 to R150) -/

/-- 0x0505. -/
def ImgView.ringRules (v : ImgView) : Option Breach :=
  let rs := numbered v.rings
  firstOf
    [ fun _ => firstIn rs (fun r => ensure
        (decide (64 * r.2.firnOff + r.2.len ≤ v.region r.2.grp) &&
          v.segs.all (fun s => s.grp != r.2.grp || (match s.place with
            | some (p, m) => !meets (64 * r.2.firnOff) r.2.len p m
            | none => true)) &&
          rs.all (fun o => o.1 == r.1 || o.2.grp != r.2.grp || !meets (64 * r.2.firnOff) r.2.len (64 * o.2.firnOff) o.2.len))
        (v.breach 0x0505 8 0 r.1 (32 * r.1 + 4)))
    , fun _ => firstIn (v.groupsOf 0x12) (fun g => firstIn (numbered (imageDeltas v.d v.base v.es g)) (fun e =>
        let aux := e.2.2
        let lo := 64 * bitsOf aux 15 0
        ensure (decide (e.2.1 < 0x8000) || e.2.1 % 0x800 != 0x14 || (decide (ringEnd aux ≤ v.region g) &&
            v.rings.any (fun r => r.grp == g && decide (64 * r.firnOff ≤ lo) &&
              decide (ringEnd aux ≤ 64 * r.firnOff + r.len))))
          (v.breach 0x0505 0x12 g e.1 (128 + 8 * e.1 + 4)))) ]
/-- Landing-pad entries: group and word. -/
def ImgView.pads (v : ImgView) : List (Nat × Nat) :=
  let r := recOf v.es 5 0
  (List.range r.2).map (fun k => (memNat v.d (v.base + r.1 + 4 * k) 1, memNat v.d (v.base + r.1 + 4 * k + 2) 2))
/-- The pad of R148 plays at least as long as its group's refill takes; both sides times 2^41 × 128 × FILL_LINES. -/
def ImgView.padLong (v : ImgView) (g word : Nat) : Bool :=
  let lead := v.env.ringLead.getD g 0
  let fill := v.env.fillLines.getD g 0
  match v.segIn g (segAt (v.prog g) word) with
  | none => true
  | some s => lead == 0 || decide
      (lead * (4096 * 64 * v.env.refPeriod * 125) + 2000000 * 2 ^ 41 * (128 * fill) ≤
        s.frames * 2 ^ v.rep s * 64 * v.minPeriod g * 125 * (128 * fill))
/-- 0x0601 to 0x0603. -/
def ImgView.padRules (v : ImgView) : Option Breach :=
  let ps := numbered v.pads
  firstOf
    [ fun _ => firstIn ps (fun p => ensure ((v.prog p.2.1).any (fun w => w.jumps && w.w1 == p.2.2) &&
        (v.groupsOf 0x10).contains p.2.1) (v.breach 0x0601 5 0 p.1 (4 * p.1)))
    , fun _ => v.scan 0x0602 (fun g _ w => if w.jumps && !v.pads.contains (g, w.w1) then some 4 else none)
    , fun _ => firstIn ps (fun p => ensure (v.padLong p.2.1 p.2.2) (v.breach 0x0603 5 0 p.1 (4 * p.1))) ]
/-- 0x0701 for an FCK source while the group's GRP_FCK_CTRL delta sets MODE off (R219), and 0x0801 (R146). -/
def ImgView.lastRules (v : ImgView) : Option Breach :=
  let off (g : Nat) : Bool := (imageDeltas v.d v.base v.es g).any (fun e => e.1 == 0x2C && bitsOf e.2 31 30 == 0)
  firstOf
    [ fun _ => firstIn (numbered (imagePlan v.d v.base v.es 6 32)) (fun p => ensure
        (!(planByte p.2 0 % 8 == 2 || planByte p.2 2 % 8 == 2) ||
          (v.groupsOf 0x10).all (fun g => !off g || !(v.prog g).any (fun w => w.op == 0x0A && w.id == p.1)))
        (v.breach 0x0701 6 0 p.1 (32 * p.1)))
    , fun _ => firstIn (List.range 108) (fun l =>
        let s := memNat v.d (v.base + (recOf v.es 4 0).1 + l) 1
        let g := if l < 96 then l / 8 else l - 96
        ensure (if bitOf v.env.groups g then decide (s < v.env.siteCount) else s == 0xFF) (v.breach 0x0801 4 0 l l)) ]

/-- Step 6. -/
def checkRules (d : Memory) (base : Nat) : Option Breach :=
  let v := viewOf d base
  firstOf
    [ fun _ => v.extents, fun _ => v.envRules, fun _ => v.maskRules, fun _ => v.segRules, fun _ => v.progRules
    , fun _ => v.ringRules, fun _ => v.padRules, fun _ => v.lastRules ]

/-! ### The whole check (R139, R154, R258) -/

/-- A check of the catalogue; `crc` says that it compares a CRC (R258). -/
structure Check where
  crc : Bool := false
  run : Unit → Option Breach
/-- Runs checks in order: the first breach, the CRCs compared, and those that did not match; n were compared before. -/
def runChecks : List Check → Nat → Option Breach × Nat × Nat
  | [], n => (none, n, 0)
  | k :: ks, n =>
    match k.run () with
    | none => runChecks ks (n + b2n k.crc)
    | some b => (some b, n + b2n k.crc, b2n k.crc)
/-- Runs stages in order; a stage is made out only when every stage before it has passed. -/
def runStages : List (Unit → List Check) → Nat → Option Breach × Nat × Nat
  | [], n => (none, n, 0)
  | f :: fs, n =>
    match runChecks (f ()) n with
    | (none, m, _) => runStages fs m
    | r => r
/-- The load check of the image at base, of which the lines of `bad` could not be read: its breach, the CRCs that unit 2
compared, and the mismatches among them. Each read comes before the check that needs it (R137, R139, R154, R258). The header
rules are judged at the check's end, against the rings that are on then (DESIGN CHOICE, log entry 98). -/
def Chip.verdict (c : Chip) (d : Memory) (bad : List Nat) (base : Nat) : Option Breach × Nat × Nat :=
  let es := imageDir d base
  let seg := recIndex es 2 0
  let rd := recIndex es 8 0
  runStages
    [ fun _ =>
        [ { run := fun _ => poisonCheck bad base base 256 recHeader noItem }
        , { crc := true, run := fun _ => headerCrc d base }
        , { run := fun _ => c.headerRules d base } ]
    , fun _ =>
        [ { run := fun _ => poisonCheck bad base (base + 0x100) (32 * es.length) recDir noItem }
        , { crc := true, run := fun _ => dirCrc d base }
        , { run := fun _ => dirRules d base } ]
    , fun _ => (numbered es).flatMap (fun e =>
        [ { run := fun _ => poisonCheck bad base (base + e.2.off) e.2.len e.1 noItem }
        , { crc := true, run := fun _ => recordCrc d base e.1 e.2 } ])
    , fun _ => [{ run := fun _ => c.checkRecords d bad base }]
    , fun _ => (numbered (imageSegs d base es)).flatMap (fun s =>
        [ { run := fun _ => poisonCheck bad base s.2.addr (128 + s.2.bytes) seg s.1 }
        , { crc := true, run := fun _ => segmentCrc d base es s.1 s.2 } ]) ++
        (numbered (imageRings d base es)).flatMap (fun r =>
        [ { run := fun _ => poisonCheck bad base r.2.addr r.2.len rd r.1 }
        , { crc := true, run := fun _ => ringCrc d es r.1 r.2 } ])
    , fun _ => [{ run := fun _ => checkRules d base }] ] 0

/-! ### The reads of the check (R137, R139) -/

/-- Stretches of a list up to and with the first that f finds. -/
def upTo {α : Type} (f : α → Bool) : List α → List α
  | [] => []
  | x :: xs => if f x then [x] else x :: upTo f xs
/-- The stretches, address and length, that the check reads after the header, in its order, up to its first breach. Bytes
that no record or segment covers are not read (R143). -/
def Chip.checkReads (c : Chip) (d : Memory) (base : Nat) : List (Nat × Nat) :=
  let es := imageDir d base
  let dir := [(base + 0x100, 32 * memNat d (base + 6) 2)]
  if (c.checkHeader d base).isSome then []
  else if (dirCrc d base).isSome || (dirRules d base).isSome then dir
  else
    let recs := numbered es
    let bodies := (upTo (fun e => (recordCrc d base e.1 e.2).isSome) recs).map (fun e => (base + e.2.off, e.2.len))
    if recs.any (fun e => (recordCrc d base e.1 e.2).isSome) then dir ++ bodies
    else
      let segs := numbered (imageSegs d base es)
      let heads := segs.map (fun s => (s.2.addr, 128))
      match c.checkRecords d [] base with
      | some b =>
        let i := recIndex es 2 0
        let n := if b.record < i then 0
          else if b.record = i then (if 0x0303 ≤ b.code ∧ b.code ≠ 0x0304 then b.item + 1 else b.item)
          else heads.length
        dir ++ bodies ++ heads.take n
      | none =>
        let ss := upTo (fun s => (segmentCrc d base es s.1 s.2).isSome) segs
        let rings := numbered (imageRings d base es)
        let rs := if segs.any (fun s => (segmentCrc d base es s.1 s.2).isSome) then []
          else upTo (fun r => (ringCrc d es r.1 r.2).isSome) rings
        dir ++ bodies ++ heads ++ ss.map (fun s => (s.2.addr, 128 + s.2.bytes)) ++ rs.map (fun r => (r.2.addr, r.2.len))
/-- Lines that a stretch touches. -/
def linesIn (a n : Nat) : Nat := (a % 128 + n + 127) / 128
/-- Line i of stretches taken one after the other. -/
def lineAt : List (Nat × Nat) → Nat → Option Nat
  | [], _ => none
  | (a, n) :: xs, i => if i < linesIn a n then some (a / 128 * 128 + 128 * i) else lineAt xs (i - linesIn a n)
/-- Lines of the header, and lines that the check keeps asked for at a time (DESIGN CHOICE, log entry 48). -/
def headerLines : Nat := 2
def checkDepth : Nat := 64
/-- The check asks for its next lines, until the header has passed for the header's only; after a read that could not be
corrected it asks for no more. -/
def Chip.checkAsk (c : Chip) : Chip :=
  match c.images.check with
  | none => c
  | some (base, _) =>
    if c.images.bad != [] then c
    else if !c.images.grown then
      (List.range (headerLines - c.images.asked)).foldl (fun c _ =>
        let a := base + 128 * c.images.asked
        { c with images := { c.images with asked := c.images.asked + 1 } }.memReq .host { addr := a, who := .check }) c
    else
      (List.range (checkDepth - (c.images.asked - c.images.got))).foldl (fun c _ =>
        match lineAt c.images.plan (c.images.asked - headerLines) with
        | none => c
        | some a =>
          { c with images := { c.images with asked := c.images.asked + 1 } }.memReq .host { addr := a, who := .check }) c
/-- A line of the check arrived. With the last line of a header that passes, the closed range grows before any byte beyond
the header is read (R137). -/
def Chip.checkLine (c : Chip) (d : Memory) (a : Nat) (bad : Bool) : Chip :=
  let c := { c with images := { c.images with got := c.images.got + 1, bad := if bad then a :: c.images.bad else c.images.bad } }
  match c.images.check with
  | none => c
  | some (base, _) =>
    let c := if !c.images.grown ∧ c.images.got = headerLines ∧ c.images.bad = [] ∧ (c.checkHeader d base).isNone then
        { c with images := { c.images with
            grown := true, plan := c.checkReads d base, check := some (base, memNat d (base + 8) 8) } }
      else c
    if c.images.grown then c.checkAsk else c

/-- The loaded image that a passed check leaves (R138, R173). -/
def imageOf (d : Memory) (base : Nat) : Image :=
  { base := base, len := memNat d (base + 8) 8, id := memNat d (base + 0x30) 8, elastic := bitOf (memNat d (base + 0x10) 4) 0
    env := envAt d (base + (recOf (imageDir d base) 1 0).1) }

end Sys2Proof.Machine
end

