-- ==== Sys2Proof/Machine/Memory.lean ====
section
/-! DEFINITION. Memory.lean: slots of the LPDDR5X channels, read data, refresh, frequency switches and self-refresh, and
host block transfers (R270 to R290, R313, R314). -/

namespace Sys2Proof.Machine

/-! ### Slots (R272 to R280) -/

/-- Row bits of a bank (R270). -/
def Chip.rowBits (c : Chip) : Nat := if c.field 0x00300000 31 30 = 0 then 16 else 17
/-- Address of a row of a bank of a channel. -/
def rowAddr (ch b row : Nat) : Nat := row * 2 ^ 18 + b * 2 ^ 10 + ch * 2 ^ 7
/-- The action of a draw (R279): both neighbours of the row that the bank has are activated, and each activate draws. -/
def Chip.refreshRows (c : Chip) (ch : Nat) (x : Nat × Nat) : Chip :=
  let n := 2 ^ c.rowBits
  let c := if x.2 % n = 0 then c else c.draw ch (rowAddr ch x.1 (x.2 - 1))
  if x.2 % n + 1 = n then c else c.draw ch (rowAddr ch x.1 (x.2 + 1))

/-- MR4 codes that call for more than twice the nominal refresh rate. PRESUMED: JEDEC's coding of MR4 (log entry 15). -/
def mr4Beyond (code : Nat) : Bool := (decide (0x0C ≤ code) && decide (code ≤ 0x0F)) || code == 0x1F
/-- Tenths of the nominal refresh interval that an MR4 code asks for. PRESUMED: JEDEC's coding of MR4 (log entry 15). -/
def mr4Tenths (code : Nat) : Nat := [10, 80, 60, 40, 33, 25, 20, 17, 13, 10, 7, 5].getD code 5

/-- The MRR poll of bank 15's MAINT slot (R276, R278, R283). -/
def Chip.mrrPoll (c : Chip) (ch mr4 odecc : Nat) : Chip :=
  let a := 0x00301000 + 0x100 * ch
  let c := c.setMemCh ch { c.memCh ch with mrrLast := c.frc }
  let c := c.setField a 4 0 mr4
  let c := if (c.reg (a + 0x68)).toNat = odecc then c
    else (c.setReg (a + 0x68) (BitVec.ofNat 32 odecc)).raise (srcPhy ch) 0x8090
  if mr4Beyond mr4 then c.guardReject.raiseErr (srcPhy ch) 0x0305 ch mr4 else c

/-- What a MAINT slot of bank b does (R278). -/
def Chip.maintSlot (c : Chip) (ch b mr4 odecc : Nat) : Chip :=
  let m := c.memCh ch
  if b = 0 ∧ m.zqLast + 1000000 * c.mem.zqMs ≤ c.frc then c.setMemCh ch { m with zqLast := c.frc }
  else if b = 15 ∧ m.mrrLast + 1000 * c.field 0x00300010 15 0 ≤ c.frc then c.mrrPoll ch mr4 odecc
  else match m.mitq.find? (fun x => x.1 = b) with
  | none => c
  | some x =>
    ((((c.setMemCh ch { m with mitq := m.mitq.erase x }).ledAdd (slotReg ch 8)).ledSub (slotReg ch 9)).mitGauge
      ch).refreshRows ch x

/-- A STREAM access that the slots of its task limit: its context, and the accesses still allowed to it in the window of a
burst (R157), or in the table cycle of a preload (R13). -/
def Chip.guardLeft (c : Chip) (ch : Nat) (r : Req) : Option (Nat × Nat) :=
  match r.who.context with
  | none => none
  | some n =>
    let x := c.ctx n
    if r.retry ∨ (!x.preloading ∧ (x.startTm = 0 ∨ c.tm < x.startTm)) then none
    else some (n, tabGet 0 c.mem.streamCap (8 * n + ch) - tabGet 0 c.mem.streamUsed (8 * n + ch))
/-- A window guard judges the request: preload accesses are counted in none (R157). -/
def Chip.guarded (c : Chip) (r : Req) : Bool :=
  match r.who.context with
  | none => false
  | some n => !(c.ctx n).preloading
/-- The oldest request of bank b that its task's slots let through, the queue without it, and the requests that a guard holds
back for the first time (R157). -/
def pickStream (ok guard : Req → Bool) (b : Nat) : List Req → Option Req × List Req × List Req
  | [] => (none, [], [])
  | r :: rs =>
    if bankOf r.addr ≠ b then
      let x := pickStream ok guard b rs
      (x.1, r :: x.2.1, x.2.2)
    else if ok r then (some r, rs, [])
    else
      let x := pickStream ok guard b rs
      if guard r then (x.1, { r with late := true } :: x.2.1, if r.late then x.2.2 else r :: x.2.2)
      else (x.1, r :: x.2.1, x.2.2)
/-- A read is on its way: its bytes are those that stand in the LPDDR5X now. -/
def Chip.readIssued (c : Chip) (d : Memory) (ch : Nat) (r : Req) : Chip :=
  let m := c.memCh ch
  (c.setMemCh ch { m with reads := m.reads ++ [(r, memReadBytes d r.addr 128)] }).draw ch r.addr
/-- Q-DATA of a channel holds 16 accesses; while it is full the controller issues none (R18). -/
def dataDepth : Nat := 16
def Chip.dataFull (c : Chip) (ch : Nat) : Bool := decide (dataDepth ≤ (c.memCh ch).reads.length)
/-- A slot in which nothing is issued. -/
def Chip.idleSlot (c : Chip) (ch : Nat) : Chip := (c.ledAdd (slotReg ch 6)).count (195 + 8 * ch)

/-- A STREAM slot of bank b: a steal, else the oldest request that its guard lets through (R157, R274, R280). -/
def Chip.streamSlot (c : Chip) (d : Memory) (ch b : Nat) : Chip :=
  let m := c.memCh ch
  match m.steals.find? (fun x => x.1 = b) with
  | some x =>
    (((((c.setMemCh ch { m with steals := m.steals.erase x }).ledAdd (slotReg ch 5)).ledSub (slotReg ch 9)).count
      (196 + 8 * ch)).refreshRows ch x)
  | none =>
    if c.dataFull ch then c.idleSlot ch
    else
    let c := c.holders.foldl (fun c n => c.rollWindow n) c
    let m := c.memCh ch
    let p := pickStream (fun r => match c.guardLeft ch r with
      | some (_, k) => k != 0
      | none => true) c.guarded b m.stream
    let c := c.setMemCh ch { m with stream := p.2.1 }
    let c := p.2.2.foldl (fun c r => match r.who.context with
      | some n => c.breach (srcOf 12 0) n ch
      | none => c) c
    match p.1 with
    | none => c.idleSlot ch
    | some r =>
      let c := match c.guardLeft ch r with
        | some (n, _) => { c with mem := { c.mem with streamUsed := tabUpd 0 c.mem.streamUsed (8 * n + ch) (· + 1) } }
        | none => c
      let c := ((c.ledAdd (slotReg ch 1)).count (192 + 8 * ch)).readIssued d ch r
      match r.who with
      | .fill g _ i => if r.retry then c else c.fillIssued g i
      | _ => c

/-- A line of a host block write is written: the write completes with its last line (R314). -/
def Chip.blkLine (c : Chip) (id : Nat) : Chip :=
  match c.mem.wrs.find? (fun e => e.1 = id) with
  | none => c
  | some (_, w) =>
    if 1 < w.left then { c with mem := { c.mem with wrs := tabSet c.mem.wrs id { w with left := w.left - 1 } } }
    else ({ c with mem := { c.mem with wrs := tabDel c.mem.wrs id } }).reply w.q w.tag 0

/-- A CAPTURE slot of bank b (R205, R274). -/
def captureSlot (d : Memory) (c : Chip) (ch b : Nat) : Memory × Chip :=
  let m := c.memCh ch
  match takeReq (fun _ => !c.dataFull ch) b m.capture with
  | none => (d, c.idleSlot ch)
  | some (r, rest) =>
    let c := (((c.setMemCh ch { m with capture := rest }).ledAdd (slotReg ch 2)).count (193 + 8 * ch)).draw ch r.addr
    (memWriteBytes d r.addr (r.data.getD []), match r.who with
      | .ring k i => c.lineWritten k i
      | _ => c)
/-- A HOST slot of bank b (R274). -/
def hostSlot (d : Memory) (c : Chip) (ch b : Nat) : Memory × Chip :=
  let m := c.memCh ch
  match takeReq (fun _ => !c.dataFull ch) b m.host with
  | none => (d, c.idleSlot ch)
  | some (r, rest) =>
    let c := ((c.setMemCh ch { m with host := rest }).ledAdd (slotReg ch 3)).count (194 + 8 * ch)
    match r.data with
    | none => (d, c.readIssued d ch r)
    | some bs =>
      let c := c.draw ch r.addr
      (memWriteBytes d r.addr bs, match r.who with
        | .blkWr id => c.blkLine id
        | _ => c)

/-- A REFpb that is due is issued directly after the later slot of its bank pair in a round (R276): pair p is banks p
and p + 8 (log entry 15), so it stands where the next slot is that of bank p + 9. -/
def Chip.issueRef (c : Chip) (ch : Nat) : Chip :=
  let m := c.memCh ch
  if m.refDue ≠ 0 ∧ m.pos % 16 = (m.refNext % 8 + 9) % 16 then
    c.setMemCh ch { m with
      refDue := m.refDue - 1, refNext := (m.refNext + 1) % (8 * (c.field 0x00300000 29 29 + 1)) }
  else c

/-- A table cycle of a channel begins, and with it the share of each preload on it (R13; log entry 87). -/
def Chip.cycleBegins (c : Chip) (ch : Nat) : Chip :=
  { c with mem := { c.mem with
      streamUsed := c.mem.streamUsed.filter (fun e => !(e.1 % 8 == ch && (c.ctx (e.1 / 8)).preloading)) } }
/-- The next slot of one channel's table (R272 to R280). -/
def slotOf (ch mr4 odecc : Nat) (d : Memory) (c : Chip) : Memory × Chip :=
  let m := c.memCh ch
  let c := if m.pos = 0 then c.cycleBegins ch else c
  let b := m.pos % 16
  let c := (c.setMemCh ch { m with pos := (m.pos + 1) % 4096 }).ledAdd (slotReg ch 0)
  let r := match roundClass (m.pos / 16) with
    | .maint => (d, (c.ledAdd (slotReg ch 4)).maintSlot ch b mr4 odecc)
    | .stream => (d, c.streamSlot d ch b)
    | .capture => captureSlot d c ch b
    | .host => hostSlot d c ch b
  (r.1, r.2.issueRef ch)
/-- What MR4 and the on-die ECC status of a channel read at the last poll. -/
def Chip.lastMr4 (c : Chip) (ch : Nat) : Nat := c.field (0x00301000 + 0x100 * ch) 4 0
def Chip.lastOdecc (c : Chip) (ch : Nat) : Nat := c.field (0x00301068 + 0x100 * ch) 7 0
/-- The next slot on every channel, from channel ch on: the tables run in lockstep (R272). Entry i of mr4 and odecc is what an
MRR poll in it reads on channel ch + i; where there is none, what the last poll read. -/
def slots (ch : Nat) (mr4 : List (BitVec 5)) (odecc : List Byte) (d : Memory) (c : Chip) : Memory × Chip :=
  (List.range 8).foldl (fun dc i =>
    let k := (ch + i) % 8
    slotOf k ((mr4[i]?.map (·.toNat)).getD (dc.2.lastMr4 k)) ((odecc[i]?.map (·.toNat)).getD (dc.2.lastOdecc k)) dc.1 dc.2)
    (d, c)
/-- MEM_SLOT: the next slot of channel ch's table, and with it of every channel's. -/
def memSlot (ch : Nat) (mr4 : List (BitVec 5)) (odecc : List Byte) (d : Memory) (c : Chip) : Memory × Chip :=
  if !c.tableRuns then (d, c) else slots ch mr4 odecc d c

/-! ### Read data (R283) -/

/-- Completions of a host block read whose 512 bytes are all there, in address order; a poisoned line (stored empty)
ends it (R283, R314). -/
def Chip.blkSend (c : Chip) (id : Nat) : Chip := go 2049 c
where
  go : Nat → Chip → Chip
    | 0, c => c
    | f + 1, c =>
      match c.mem.rds.find? (fun e => e.1 = id) with
      | none => c
      | some (_, r) =>
        let n := min 4 (r.lines - 4 * r.sent)
        let ls := (List.range n).map (fun i => r.got.find? (fun e => e.1 = 4 * r.sent + i))
        if ls.any (·.isNone) then c
        else
          let bs := ls.map (fun l => match l with
            | some e => e.2
            | none => [])
          let last := decide (r.lines ≤ 4 * r.sent + 4)
          if bs.any (· == []) then
            let c := { c with mem := { c.mem with rds := tabDel c.mem.rds id } }
            (c.dropReads (fun w => match w with
              | .blkRd i _ => i == id
              | _ => false)).reply r.q r.tag 0x12
          else
            let data := bytesToWords bs.flatten
            if last then ({ c with mem := { c.mem with rds := tabDel c.mem.rds id } }).reply r.q r.tag 0 0 0 data
            else
              let c := { c with mem := { c.mem with rds := tabSet c.mem.rds id { r with
                sent := r.sent + 1, got := r.got.filter (fun e => 4 * r.sent + 4 ≤ e.1) } } }
              go f (c.answer r.q r.tag 0 false 0 0 data)

/-- The requester of a read receives it, poisoned or good (R283). -/
def Chip.deliver (c : Chip) (d : Memory) (r : Req) (bad : Bool) (bs : List Byte) : Chip :=
  match r.who with
  | .fill g _ i => c.setGroup g { c.group g with arrived := (c.group g).arrived ++ [(i, bad, bs)] }
  | .header g _ s => c.setGroup g ((c.group g).takeHeader s bad)
  | .res g _ i => c.setGroup g ((c.group g).takeRes i bad bs)
  | .blkRd id i =>
    match c.mem.rds.find? (fun e => e.1 = id) with
    | none => c
    | some (_, x) =>
      ({ c with mem := { c.mem with rds := tabSet c.mem.rds id { x with
          got := tabSet x.got i (if bad then [] else bs) } } }).blkSend id
  | .thaw n _ => if bad then c.updCtx n (fun x => { x with thawBad := true }) else c
  | .dma u _ => c.crcDmaData u bad bs
  | .push id i => c.pushLine id i bad bs
  | .check => c.checkLine d r.addr bad
  | _ => c
/-- The class whose queue a read waits in (R274). -/
def Who.streams : Who → Bool
  | .fill _ _ _ | .header _ _ _ | .res _ _ _ | .gone => true
  | _ => false
/-- The context that a memory error record names. -/
def Who.task : Who → Option Nat
  | .thaw n _ => some n
  | w => w.context

/-- MEM_READ_DATA: the oldest read of a channel arrives. Without link ECC nothing is seen (R268, R283). -/
def memReadData (ch : Nat) (ecc : EccResult) (d : Memory) (c : Chip) : Chip :=
  let m := c.memCh ch
  match m.reads with
  | [] => c
  | (r, bs) :: rest =>
    let c := c.setMemCh ch { m with reads := rest }
    let a := 0x00301000 + 0x100 * ch
    let ecc := if c.field 0x00300000 28 28 = 0 then .good else ecc
    match ecc with
    | .good => c.deliver d r false bs
    | .corrected => ((c.cntUp (a + 0x5C)).count (198 + 8 * ch)).deliver d r false bs
    | .uncorrectable =>
      let c := c.guardReject
      if r.retry then
        ((c.cntUp (a + 0x64)).raiseErr (srcPhy ch) 0x0012 ch (r.addr / 128 % 2 ^ 32) (c.taskOf r.who.task)).deliver d r
          true bs
      else
        let c := (c.cntUp (a + 0x60)).count (199 + 8 * ch)
        let m := c.memCh ch
        let r := { r with retry := true }
        c.setMemCh ch (if r.who.streams then { m with stream := r :: m.stream } else { m with host := r :: m.host })

/-! ### Accesses that a row waits for (log entry 10) -/

/-- The next slot on every channel, and the data of every read then on its way: what `fails` names arrives uncorrectable,
everything else good. -/
def slotTime (fails : Req → Bool) (d : Memory) (c : Chip) : Memory × Chip :=
  let r := slots 0 [] [] d c
  (r.1, (List.range 8).foldl (fun c ch => (List.range (c.memCh ch).reads.length).foldl (fun c _ =>
    match (c.memCh ch).reads with
    | [] => c
    | x :: _ => memReadData ch (if fails x.1 then .uncorrectable else .good) r.1 c) c) r.2)
/-- The table runs on, slot by slot, with `each` after every slot, until `done`: at most n slots, and none while the table is
stopped (R277). -/
def awaitMem (fails : Req → Bool) (each : Chip → Chip) (done : Chip → Bool) : Nat → Memory → Chip → Memory × Chip
  | 0, d, c => (d, c)
  | n + 1, d, c =>
    if done c || !c.tableRuns then (d, c)
    else
      let r := slotTime fails d c
      awaitMem fails each done n r.1 (each r.2)
/-- Slots within which `lines` accesses are served whatever the other requests of their class, while none is held back. -/
def slotBound (c : Chip) (lines : Nat) : Nat :=
  16384 + 64 * (lines + (c.mem.ch.map (fun e => e.2.stream.length + e.2.capture.length + e.2.host.length)).sum)
/-- The table runs until no access that p selects waits or is on its way. -/
def awaitWho (p : Who → Bool) (d : Memory) (c : Chip) : Memory × Chip :=
  awaitMem (fun _ => false) id (fun c => !c.memHas p) (slotBound c 0) d c

/-! ### Refresh, frequency switches, self-refresh (R276, R286, R287, R290) -/

/-- The time of one refresh interval of a channel, in TM: the per-bank interval at the rate of MR4, shared by the ranks
(R276): 3.906 µs at the nominal rate for the eight pairs of a rank. -/
def Chip.refInterval (c : Chip) (ch : Nat) : Nat :=
  7812 * mr4Tenths (c.lastMr4 ch) / (10 * (c.field 0x00300000 29 29 + 1))
/-- REFRESH: the refresh interval ends, and a REFpb is due for the next of the eight bank pairs of each rank; it is issued
after the pair's slots (R276). -/
def refresh (ch : Nat) (c : Chip) : Chip :=
  if !c.tableRuns then c
  else
    let c := c.advanceTo ((c.memCh ch).refAt + c.refInterval ch)
    let m := c.memCh ch
    (c.setMemCh ch { m with refDue := m.refDue + 1, refAt := c.tm }).issueRef ch

/-- The table restarts, and a MEM_FSP that waited for the switch is judged (R286, R287). -/
def Chip.rejudgeFsp (c : Chip) : Chip :=
  match c.active with
  | some (_, .memFsp target _) => c.judgeFsp target c.anyAdmitted
  | _ => c

/-- FSP_SWITCH_DONE (R287), ns after the switch began. -/
def fspSwitchDone (ns : Nat) (d : Memory) (c : Chip) : Chip :=
  match c.mem.switch with
  | none => c
  | some (target, t0) =>
    let c := c.advanceTo (16 * (t0 + ns))
    let c := ((c.setField memStatus 31 31 target).setField memStatus 30 29 0).setRun
    let c := { c with mem := { c.mem with
      switch := none, timingOf := target, ch := c.mem.ch.map (fun (e : Nat × MemCh) => (e.1, { e.2 with zqLast := c.frc })) } }
    let c := ((c.cntUp 0x00300014).fieldMax 0x00300018 31 0 ns).count 311
    let c := c.restartTable
    let c := if c.mem.deferred then ({ c with mem := { c.mem with deferred := false } }).cmdFinishHead 0 0
      else c.rejudgeFsp.headFsp
    c.startPreloads d

/-- AUTO_FSP_TIMER (R286, R289): during training and during a switch the timer's end waits. -/
def autoFspTimer (c : Chip) : Chip :=
  match c.mem.idleFrom with
  | none => c
  | some t =>
    let c := c.advanceTo (16 * (t + 1000 * c.field 0x00300008 15 0))
    if c.training ∨ c.switching then c
    else
      let c := { c with mem := { c.mem with idleFrom := none } }
      if c.anyAdmitted ∨ c.fsp = 1 ∨ !c.fspValid 1 then c else c.startSwitch 1

/-- No access waits or is on its way. -/
def Chip.memQuiet (c : Chip) : Bool :=
  c.mem.ch.all (fun e => e.2.stream == [] && e.2.capture == [] && e.2.host == [] && e.2.reads == [])

/-- SELF_REFRESH_ENTRY (R290). -/
def selfRefreshEntry (c : Chip) : Chip :=
  if c.dev.mode ≠ .lowpower ∨ !c.tableRuns ∨ !c.memQuiet then c
  else
    let c := c.advanceTo (16 * (c.mem.lastReq + 1000 * c.field 0x00300008 15 0))
    (c.setField memStatus 30 30 1).setRun
/-- SELF_REFRESH_EXIT (R290): a request waits, counted late as it came; latencyNs is the latency that the exit adds to it. -/
def selfRefreshExit (latencyNs : Nat) (c : Chip) : Chip :=
  if !c.inSelfRefresh ∨ c.switching ∨ c.memQuiet then c
  else
    let c := (c.setField memStatus 30 30 0).setRun
    (c.fieldMax 0x00300024 31 0 latencyNs).restartTable

/-! ### Host block transfers (R32, R95, R181, R204, R285, R313) -/

/-- The range is closed to host block writes: snapshots, frozen contexts, images loaded or under check, headers of
IMAGE_LOADs that wait or whose completion is not issued (R137, R138), enabled rings. -/
def Chip.closed (c : Chip) (a n : Nat) : Bool :=
  meets a n c.freezeBase (2 ^ 21) ||
  c.images.loaded.any (fun e => meets a n e.2.base e.2.len) ||
  (match c.images.check with
    | some (b, m) => meets a n b m
    | none => false) ||
  ((c.cmd.exec.toList ++ c.cmd.queue).map (·.2)).any (fun x => match x with
    | .imageLoad b => meets a n b 256
    | _ => false) ||
  (List.range 16).any (fun k => c.ringOn k && meets a n (c.reg64 (ringB k)) (c.ringSize k))

/-- A block write starts: it is refused in a closed range or during a retrain, else its lines wait for HOST slots. -/
def Chip.startBlkWr (c : Chip) (q : Nat) (tag : Byte) (addr : Nat) (bs : List Byte) : Chip :=
  if c.closed addr bs.length then c.reply q tag 4
  else if c.retraining then c.reply q tag 9
  else
    let id := c.mem.nextId
    let c := { c with mem := { c.mem with
      nextId := id + 1, wrs := tabSet c.mem.wrs id { q := q, tag := tag, left := bs.length / 128 } } }
    c.memWriteReqs .host addr bs (fun _ => .blkWr id)
/-- A block read starts. -/
def Chip.startBlkRd (c : Chip) (q : Nat) (tag : Byte) (addr lines : Nat) : Chip :=
  if c.retraining then c.reply q tag 9
  else
    let id := c.mem.nextId
    let c := { c with mem := { c.mem with
      nextId := id + 1, rds := tabSet c.mem.rds id { q := q, tag := tag, lines := lines } } }
    c.memReadReqs .host addr lines (fun i => .blkRd id i)

/-- BLK_WR: the transaction of R313. -/
def blkWr (q : Nat) (tag : Byte) (addr : Dword) (bs : List Byte) (c : Chip) : Chip :=
  c.request q { ttype := 3, tag := tag, tlen := BitVec.ofNat 16 bs.length, param := 0, addr := addr, data := bytesToWords bs }
    (fun c => c.startBlkWr q tag addr.toNat bs)
/-- BLK_RD: the transaction of R313. -/
def blkRd (q : Nat) (tag : Byte) (addr : Dword) (lines : BitVec 16) (c : Chip) : Chip :=
  c.request q { ttype := 4, tag := tag, tlen := lines, param := 0, addr := addr, data := [] }
    (fun c => c.startBlkRd q tag addr.toNat lines.toNat)

def execMemSlot (ch : Chan) (mr4 : List (BitVec 5)) (odecc : List Byte) (s : State) : Host.Outcome State Fault Refusal :=
  s.onBoth (memSlot ch mr4 odecc)
def execMemReadData (ch : Chan) (ecc : EccResult) (s : State) : Host.Outcome State Fault Refusal :=
  s.onMem (memReadData ch ecc)
def execRefresh (ch : Chan) (s : State) : Host.Outcome State Fault Refusal := s.onChip (refresh ch)
def execFspSwitchDone (ns : Nat) (s : State) : Host.Outcome State Fault Refusal := s.onMem (fspSwitchDone ns)
def execAutoFspTimer (s : State) : Host.Outcome State Fault Refusal := s.onChip autoFspTimer
def execSelfRefreshEntry (s : State) : Host.Outcome State Fault Refusal := s.onChip selfRefreshEntry
def execSelfRefreshExit (latencyNs : Nat) (s : State) : Host.Outcome State Fault Refusal :=
  s.onChip (selfRefreshExit latencyNs)
def execBlkWr (q : Port) (tag : Byte) (addr : Dword) (bytes : List Byte) (s : State) :
    Host.Outcome State Fault Refusal := s.onChip (blkWr q tag addr bytes)
def execBlkRd (q : Port) (tag : Byte) (addr : Dword) (lines : BitVec 16) (s : State) :
    Host.Outcome State Fault Refusal := s.onChip (blkRd q tag addr lines)

end Sys2Proof.Machine
end

