-- ==== Sys2Proof/Machine/Nvm.lean ====
section
/-! DEFINITION. Nvm.lean: the configuration image and the calibration slots of the flash (R350 to R361, R387, R411). -/

namespace Sys2Proof.Machine

/-! ### Flash bytes -/

/-- The byte at a flash address; an erased byte reads 0xFF (log entry 2). -/
def Chip.flRead (c : Chip) (a : Nat) : Byte := tabGet 0xFF c.flash a
def Chip.flBytes (c : Chip) (a n : Nat) : List Byte := (List.range n).map (fun i => c.flRead (a + i))
def Chip.flNat (c : Chip) (a n : Nat) : Nat := leNat (c.flBytes a n)
/-- The flash with n bytes from a erased. -/
def Chip.flErase (c : Chip) (a n : Nat) : Chip :=
  { c with flash := c.flash.filter (fun e => decide (e.1 < a) || decide (a + n ≤ e.1)) }
/-- The flash with bytes written from a. -/
def Chip.flWrite (c : Chip) (a : Nat) : List Byte → Chip
  | [] => c
  | b :: bs =>
    (({ c with flash := if b = 0xFF then tabDel c.flash a else tabSet c.flash a b } : Chip)).flWrite (a + 1) bs
/-- The flash's size in bytes. -/
def Chip.flSize (c : Chip) : Nat := c.dev.flashMb * 2 ^ 17

/-! ### Header and directory (R351) -/

/-- A directory entry: TYPE, OFFSET, LENGTH, CRC and its index. -/
structure NvmEntry where
  typ : Nat
  off : Nat
  len : Nat
  crc : Nat
  idx : Nat
  deriving DecidableEq, Repr

def Chip.nvmDir (c : Chip) : List NvmEntry :=
  (List.range (c.flNat 6 2)).map (fun i =>
    let a := 0x20 + 16 * i
    { typ := c.flNat a 2, off := c.flNat (a + 4) 4, len := c.flNat (a + 8) 4, crc := c.flNat (a + 12) 4, idx := i })

/-- Ranges (start, length) lie inside n bytes and do not overlap one another. -/
def disjoint (n : Nat) : List (Nat × Nat) → Bool
  | [] => true
  | x :: xs =>
    decide (x.1 + x.2 ≤ n) &&
    xs.all (fun y => decide (x.1 + x.2 ≤ y.1) || decide (y.1 + y.2 ≤ x.1) || x.2 == 0 || y.2 == 0) && disjoint n xs

/-- The header and directory pass R351. -/
def Chip.nvmHeaderOk (c : Chip) : Bool :=
  let n := c.flNat 6 2
  c.flNat 0 4 == 0x4D564E42 && c.flNat 4 2 == 0x0100 && c.flNat 0x1C 4 == crc32c (c.flBytes 0 0x1C) &&
  decide (1 ≤ n) && decide (n ≤ 62) && c.flNat 0x18 4 == crc32c (c.flBytes 0x20 (16 * n)) &&
  (let es := c.nvmDir
   (es.zip (es.drop 1)).all (fun p => decide (p.1.typ < p.2.typ) || (p.1.typ == p.2.typ && p.1.typ == 0x10)) &&
   disjoint c.flSize ((0, 0x20 + 16 * n) :: (c.flNat 8 4, 2 ^ 20) :: (c.flNat 12 4, 2 ^ 20) ::
     es.map (fun e => (e.off, e.len))))

/-! ### Records (R352 to R357) -/

/-- Listed size of a record. -/
def nvmSize : Nat → Nat
  | 1 => 16 | 2 => 864 | 3 => 48 | 4 => 432 | 5 => 32 | 6 => 32 | 7 => 8 | 8 => 16 | _ => 0
/-- n little-endian bytes of a body. -/
def bodyNat (b : List Byte) (o n : Nat) : Nat := leNat ((b.drop o).take n)
/-- Field ranges of a record body; BOARD_PIN has none of its own, and what R353 marks MEM_CONFIG is not judged here. -/
def nvmFieldsOk (t : Nat) (b : List Byte) : Bool :=
  let f := bodyNat b
  match t with
  | 1 => decide (f 2 1 ≤ 1) && decide (8 ≤ f 3 1) && decide (f 3 1 ≤ 16) && decide (16 ≤ f 4 2) &&
      decide (f 4 2 ≤ 64) && f 6 10 == 0
  | 3 => decide (f 0 1 ≤ 2) && decide (f 1 1 ≤ 2) && decide (f 2 1 ≤ 3) && f 3 1 == 0 && f 0x2C 4 == 0 &&
      (List.range 10).all (fun i => f (4 + 4 * i) 4 &&& (ones 32 - (fld 20 16 + fld 11 8 + fld 3 0)) == 0)
  | 4 => (List.range 108).all (fun l => bitsOf (f (4 * l) 4) 30 16 == 0)
  | 5 => (List.range 12).all (fun g => decide (f (2 * g) 2 ≤ 4000)) && f 0x18 8 == 0
  | 6 => decide (f 0x10 1 ≤ 1) && f 0x11 15 == 0
  | 7 => decide (f 0 1 ≤ 31) && f 1 7 == 0
  | 8 => decide ((signedOf 32 (f 0 4)).natAbs ≤ 100000) && decide ((signedOf 32 (f 4 4)).natAbs ≤ 100000) &&
      decide (f 8 4 ≤ 10000) && f 12 4 == 0
  | _ => true

/-- What BOOT finds of a record: absent, bad, or good with its body. -/
inductive NvmRec where
  | absent
  | bad
  | good (body : List Byte)
  deriving DecidableEq, Repr

/-- Record TYPE t, 1 to 8. -/
def Chip.nvmRec (c : Chip) (t : Nat) : NvmRec :=
  match c.nvmDir.find? (fun e => e.typ == t) with
  | none => .absent
  | some e =>
    if e.len ≠ nvmSize t then .bad
    else
      let b := c.flBytes e.off e.len
      if e.crc ≠ crc32c b then .bad
      -- a value that R353 marks MEM_CONFIG stops BOOT with that cause
      else if t = 1 ∧ (1 < bodyNat b 0 1 ∨ bodyNat b 1 1 = 0 ∨ 2 < bodyNat b 1 1) then .good b
      else if nvmFieldsOk t b then .good b else .bad

/-- NVM_REC_STATUS.REC[t]. -/
def Chip.setRec (c : Chip) (t v : Nat) : Chip := c.setField 0x00350004 (2 * t + 1) (2 * t) v
/-- An NVM_RECORD_BAD error record from the SPI unit (R352, R359, R360). -/
def Chip.recordBad (c : Chip) (unit detail : Nat) : Chip := c.raiseErr (srcOf 14 1) 0x030F unit detail
/-- The defaults of a record's format (R355 to R357, R411); without BOARD_PIN every lane's entry is bad (R354). -/
def nvmDefault : Nat → List Byte
  | 2 => []
  | 3 => [2, 2] ++ List.replicate 46 0
  | 4 => (List.range 108).flatMap (fun l => toLe 4 (0x80000000 + l))
  | 5 => (List.range 12).flatMap (fun _ => toLe 2 0x0FA0) ++ List.replicate 8 0
  | 6 => List.replicate 16 0xFF ++ List.replicate 16 0
  | t => List.replicate (nvmSize t) 0

/-- BOARD_PIN's field CFG of lane l, with PRE, POST, CTLE and skews (R354). -/
def applyLane (c : Chip) (l : Nat) (b : List Byte) : Chip :=
  let f := bodyNat b
  let pre := f 0 1
  let post := f 1 1
  let ctle := f 2 1
  let cfg := f 3 1
  let pin := decide (l < 96)
  let eqReg := if pin then pinB l + 8 else grpB (l - 96) + 0x40
  let bad := decide (15 < pre) || decide (31 < post) || decide (15 < ctle) || decide (31 < cfg) ||
    decide (32 < pre + post) || (if pin then cfg % 4 == 3 else bitsOf cfg 2 1 != 0 || bitOf cfg 4)
  if b.length ≠ 8 ∨ bad then c.setReg eqReg 0x80000000
  else
    let c := c.setReg eqReg (BitVec.ofNat 32 (post * 2 ^ 16 + pre * 2 ^ 8 + ctle))
    let c := { c with cal := { c.cal with
      board := tabSet c.cal.board l (signedOf 16 (f 4 2), signedOf 16 (f 6 2)) } }
    let c := c.setRegs (0x00351000 + 8 * l) (bytesToWords b)
    if pin then
      let a := pinB l + 4
      (((c.setField a 25 24 (cfg % 4)).setField a 23 23 (bitsOf cfg 2 2)).setField a 29 29 (bitsOf cfg 3 3)).setField
        a 28 28 (bitsOf cfg 4 4)
    else
      let a := grpB (l - 96) + 0x2C
      (c.setField a 26 26 (cfg % 2)).setField a 27 27 (bitsOf cfg 3 3)

/-- The body of record t takes effect. -/
def applyBody (t : Nat) (b : List Byte) (c : Chip) : Chip :=
  let f := bodyNat b
  match t with
  | 1 =>
    let gib := 16 * (1 + f 0 1) * f 1 1
    let c := c.setReg 0x00300000
      (BitVec.ofNat 32 (f 0 1 * 2 ^ 30 + (f 1 1 - 1) * 2 ^ 29 + f 2 1 % 2 * 2 ^ 28 + gib))
    let c := c.setReg 0x0030000C (BitVec.ofNat 32 (f 3 1))
    { c with mem := { c.mem with zqMs := f 4 2 } }
  | 2 => (List.range 108).foldl (fun c l => applyLane c l ((b.drop (8 * l)).take 8)) c
  | 3 =>
    let c := (c.setField 0x00310000 31 31 (f 2 1 % 2)).setField 0x00310000 30 30 (bitsOf (f 2 1) 1 1)
    let c := (c.updPort 0 (fun p => { p with coding := f 0 1 })).updPort 1 (fun p => { p with coding := f 1 1 })
    let c := (List.range 10).foldl (fun c i =>
      c.setReg (laneReg (i / 5) (i % 5) + 4) (BitVec.ofNat 32 (f (4 + 4 * i) 4))) c
    let c := if f 0 1 = 0 ∧ f 1 1 = 0 then c.setField 0x24 8 8 0 else c
    { c with dev := { c.dev with boardRead := true } }
  | 4 => c.setRegs 0x00351400 (bytesToWords b)
  | 5 => (List.range 12).foldl (fun c g => c.setReg (grpB g + 0x28) (BitVec.ofNat 32 (f (2 * g) 2 % 2 ^ 12))) c
  | 6 =>
    let compat := (c.port 0).coding != 0 || (c.port 1).coding != 0
    let mask := (Config.implemented.toNat &&& f 0 16) &&& (if compat then ones 128 else ones 40)
    (c.setRegs 0x20 (nWords 4 mask)).setReg 0x00240000 (BitVec.ofNat 32 (f 0x10 1 % 2))
  | 7 => c.setField 0x00010008 8 0 (f 0 1 % 32 * 16 + c.field 0x00010008 15 12)
  | _ => c.setRegs 0x00320060 ((bytesToWords b).take 3)

/-- A CRC of unit 1 is compared (R258). -/
def Chip.nvmCheck (c : Chip) (ok : Bool) : Chip := c.privCheck 1 1 (b2n (!ok))
/-- The CRCs of the header and, when nothing before it fails, of the directory. -/
def Chip.nvmHeaderChecks (c : Chip) : Chip :=
  let n := c.flNat 6 2
  if c.flNat 0 4 ≠ 0x4D564E42 ∨ c.flNat 4 2 ≠ 0x0100 then c
  else
    let hdr := c.flNat 0x1C 4 == crc32c (c.flBytes 0 0x1C)
    let d := c.nvmCheck hdr
    if !hdr ∨ n = 0 ∨ 62 < n then d else d.nvmCheck (c.flNat 0x18 4 == crc32c (c.flBytes 0x20 (16 * n)))
/-- The CRC of record t, when it is present in its listed size. -/
def Chip.nvmRecCheck (c : Chip) (t : Nat) : Chip :=
  match c.nvmDir.find? (fun e => e.typ == t) with
  | none => c
  | some e => if e.len ≠ nvmSize t then c else c.nvmCheck (e.crc == crc32c (c.flBytes e.off e.len))

/-- Record t is read, judged and applied (R352); a FAULT ends BOOT. -/
def readRecord (c : Chip) (t : Nat) : Chip :=
  if c.dev.mode ≠ .boot then c
  else
    let show_ (c : Chip) (b : List Byte) : Chip :=
      if t = 2 ∨ t = 4 then c else c.setRegs (0x00350600 + 0x40 * (t - 1)) (bytesToWords b)
    let dflt (c : Chip) (v : Nat) : Chip :=
      ((show_ (applyBody t (nvmDefault t) c) (nvmDefault t)).setRec t v).recordBad t t
    let r := c.nvmRec t
    let c := c.nvmRecCheck t
    match r with
    | .absent => if t = 1 then (c.setRec t 3).toFault 6 1 else dflt c 1
    | .bad => if t ∈ [1, 5, 7] then ((c.setRec t 3).recordBad t t).toFault 5 t else dflt c 2
    | .good b =>
      if t = 1 ∧ (1 < bodyNat b 0 1 ∨ bodyNat b 1 1 = 0 ∨ 2 < bodyNat b 1 1) then (c.setRec t 3).toFault 6 1
      else show_ (applyBody t b c) b

/-! ### Patches (R360) -/

/-- Why PATCH record e is skipped, 1 when it is applied: bad record, signature over bytes 0x00 to 0x0F and CODE against the
fused key, ROM version, code limit. -/
def Chip.patchResult (c : Chip) (e : NvmEntry) (total : Nat) : Nat :=
  let b := c.flBytes e.off e.len
  let code := bodyNat b 8 4
  if e.len < 84 ∨ 65552 < e.len ∨ e.crc ≠ crc32c b ∨ code % 4 ≠ 0 ∨ code < 4 ∨ code + 0x50 ≠ e.len ∨
      bodyNat b 12 4 ≠ 0 then 5
  else if !edVerify c.dev.fuses.patchKey.toNat (b.take 16 ++ b.drop 0x50) ((b.drop 16).take 64) then 2
  else if BitVec.ofNat 32 (bodyNat b 0 4) ≠ c.dev.fuses.romVer then 3
  else if 131072 < total + code then 4
  else 1
/-- The PATCH records, in directory order. -/
def readPatches (c : Chip) : Chip :=
  let ps := (c.nvmDir.filter (fun e => e.typ == 0x10)).zipIdx
  (ps.foldl (fun (a : Nat × Chip) p =>
    let c := a.2
    let skip (c : Chip) : Chip := (c.fieldUp 0x00350004 27 24).recordBad 0x10 0x10
    if 8 ≤ p.2 then (a.1, skip c)
    else
      let r := c.patchResult p.1 a.1
      let c := if p.1.len < 84 ∨ 65552 < p.1.len then c
        else c.nvmCheck (p.1.crc == crc32c (c.flBytes p.1.off p.1.len))
      let c := c.setReg (0x00350080 + 4 * p.2) (BitVec.ofNat 32 (r * 2 ^ 28 + p.1.idx * 2 ^ 8))
      if r = 1 then (a.1 + (p.1.len - 0x50), c.fieldUp 0x00350004 31 28) else (a.1, skip c)) (0, c)).2

/-! ### Calibration slots (R358, R359, R387) -/

/-- Flash address of slot 0 A or 1 B. -/
def Chip.slotAt (c : Chip) (k : Nat) : Nat := c.flNat (8 + 4 * k) 4
/-- The slot's header is valid in every condition of R358 but BODY_CRC. -/
def Chip.slotHdrOk (c : Chip) (k : Nat) : Bool :=
  let a := c.slotAt k
  c.flNat a 4 == 0x4C414342 && c.flNat (a + 0x3C) 4 == 0xA5C35A3C &&
  decide (1 ≤ c.flNat (a + 4) 4) && decide (c.flNat (a + 4) 4 ≤ 0xFFFFFFFE) &&
  c.flNat (a + 8) 4 % 4 == 0 && decide (4 ≤ c.flNat (a + 8) 4) && decide (c.flNat (a + 8) 4 ≤ 1048512) &&
  c.flNat (a + 0x10) 8 == c.dev.fuses.dieId.toNat
def Chip.slotSeq (c : Chip) (k : Nat) : Nat := c.flNat (c.slotAt k + 4) 4
def Chip.slotBody (c : Chip) (k : Nat) : List Byte := c.flBytes (c.slotAt k + 0x40) (c.flNat (c.slotAt k + 8) 4)
def Chip.slotValid (c : Chip) (k : Nat) : Bool :=
  c.slotHdrOk k && c.flNat (c.slotAt k + 12) 4 == crc32c (c.slotBody k)

/-- Entries of the FINE table of an LSB code: k from 0 to the largest k of R212, the first at which k × L reaches TM. -/
def fineLen (code : Nat) : Nat := (62500 + 500 * (code + 1) - 1) / (500 * (code + 1)) + 1
/-- A signed 16-bit field of a body. -/
def bodyS (b : List Byte) (o n : Nat) : Int := signedOf (8 * n) (bodyNat b o n)
/-- n consecutive 32-bit words of a body. -/
def bodyWords (b : List Byte) (o n : Nat) : List Word := bytesToWords ((b.drop o).take (4 * n))
/-- The FINE tables of codes 0 to 7 in turn. -/
def fineTables (b : List Byte) (o : Nat) : List (List Nat) :=
  (List.range 8).map (fun code =>
    let start := ((List.range code).map fineLen).sum
    (bodyWords b (o + 4 * start) (fineLen code)).map (·.toNat))

/-- One lane of a slot body; a reserved field that is not 0, or a body too short, leaves the lane nominal. -/
def loadLane (b : List Byte) (v : CalVals) (l : Nat) : CalVals :=
  let x := (b.drop (0x1000 + 2048 * l)).take 2048
  if x.length ≠ 2048 ∨ bodyNat x 0xC 4 ≠ 0 ∨ bodyNat x 0xF8 8 ≠ 0 ∨ bodyNat x 0x678 392 ≠ 0 then v
  else
    let lane : LaneCal :=
      { drv := bodyS x 4 2, cmp := bodyS x 6 2, trims := BitVec.ofNat 32 (bodyNat x 8 4)
        dropped := (x.drop 0x10).take 160, stages := (x.drop 0xF0).take 8 }
    let v := { v with lanes := tabSet v.lanes l lane }
    if 96 ≤ l then v
    else
      { v with
        zero := tabSet v.zero l ((bodyWords x 0xB0 16).map (·.toInt))
        fine := tabSet v.fine l (fineTables x 0x100) }
/-- The values of a slot body (R387). -/
def loadVals (b : List Byte) : CalVals :=
  let v : CalVals := if b.length < 0xA8 then {} else
    { adc := (List.range 4).map (fun k => (k, (List.range 5).map (fun g =>
        (bodyS b (8 * (5 * k + g)) 4, bodyNat b (8 * (5 * k + g) + 4) 4))))
      link := [bodyS b 0xA0 4, bodyS b 0xA4 4] }
  let v : CalVals := (List.range 12).foldl (fun (v : CalVals) g =>
    if b.length < 0x200 + 256 * g then v else { v with levels := tabSet v.levels g (bodyWords b (0x100 + 256 * g) 24) }) v
  (List.range 108).foldl (loadLane b) v

/-- The units of CalVals that a slot supplies show ORIGIN STORED (R381). -/
def Chip.showStored (c : Chip) (v : CalVals) : Chip :=
  let c := v.lanes.foldl (fun c e => c.setField (0x00331000 + 16 * e.1) 31 30 1) c
  let c := v.levels.foldl (fun c e => c.setField (0x00332000 + 4 * e.1) 31 30 1) c
  let c := v.adc.foldl (fun c e => c.setField (0x00332040 + 4 * e.1) 31 30 1) c
  [0, 1].foldl (fun c q => c.setReg (portB q + 4) (BitVec.ofInt 32 (v.link.getD q 0))) c

/-- BOOT chooses a slot (R359): the valid one with the higher SEQ; equal SEQs leave the choice open. -/
def readSlots (c : Chip) : Chip :=
  let a := c.slotHdrOk 0
  let b := c.slotHdrOk 1
  let tie := a && b && c.slotSeq 0 == c.slotSeq 1
  let (w, c) := if tie then c.freeVal else (0, c)
  let first := if !a then 1 else if !b then 0 else if tie then b2n (w.getLsbD 0) else
    if c.slotSeq 0 < c.slotSeq 1 then 1 else 0
  let hdr (k : Nat) := if k = 0 then a else b
  let good := hdr first && c.slotValid first
  let second := !good && hdr (1 - first) && c.slotValid (1 - first)
  let read (k : Nat) := if k = first then good else if good then hdr k else second
  let c := ((c.setField 0x00350008 29 29 (b2n (read 0))).setField 0x00350008 28 28 (b2n (read 1))).setField
    0x00350008 27 27 (b2n (hdr first && !good))
  let c := if hdr first then c.nvmCheck good else c
  let c := if !good && hdr (1 - first) then c.nvmCheck second else c
  let use (c : Chip) (k : Nat) : Chip :=
    let v := loadVals (c.slotBody k)
    let c := (c.setField 0x00350008 31 30 k).setRegs 0x00350040 (bytesToWords (c.flBytes (c.slotAt k) 64))
    { c.showStored v with cal := { c.cal with vals := v, stored := v } }
  if good then use c first
  else if second then use c (1 - first)
  else
    let (u, c) := c.freeVal
    (({ c with dev := { c.dev with calNone := true } }).recordBad (u.toNat % 2 ^ 16) 0x00CA)

end Sys2Proof.Machine
end

