-- ==== Sys2Proof/Machine/Startup.lean ====
section
/-! DEFINITION. Startup.lean: resets, clocks, thermal guards, the configuration image in BOOT, and the test access
port (R345 to R361, R397, R399, R422). -/

namespace Sys2Proof.Machine

/-! ### Resets (R345 to R347, R407) -/

/-- The TAP as the device enters BOOT: a reset but PORST_N's leaves it, and BYPASS is executed in place of EXTEST (R345,
R422). -/
def Tap.inBoot (t : Tap) : Tap := if t.ir = .extest then { t with ir := .bypass, cells := [] } else t
/-- The device after a complete reset: every block at its reset values, the fuse shadow and the flash kept. The straps
are sampled as the reset is released (R346), and the device number is theirs until DEVICE is read (R357); cause is the bit of
DEV_RESET_CAUSE. -/
def Chip.resetAll (c : Chip) (bit count : Nat) (straps : Nat) : Chip :=
  let n : Chip := { dev := { fuses := c.dev.fuses, early := c.dev.early, porst := c.dev.porst }, tap := c.tap.inBoot
                    flash := c.flash, free := c.free }
  let n := n.setReg 0x00010004 (BitVec.ofNat 32 (2 ^ bit + count))
  let n := n.setReg 0x00010008 (BitVec.ofNat 32 (straps * 2 ^ 12 + straps))
  let n := (n.setReg 0xC n.dev.fuses.romVer).setReg64 0x18 n.dev.fuses.dieId.toNat
  n.setRegs 0x003300A0 (n.dev.fuses.tempCoef.take 4)
/-- DEV_RESET_CAUSE.COUNT after one more SYSRST_N or DEV_RESET reset. -/
def Chip.nextCount (c : Chip) : Nat := min (c.field 0x00010004 15 0 + 1) 0xFFFF
def Chip.straps (c : Chip) : Nat := c.field 0x00010008 15 12

/-- A reset pulse of a low time resets; between 100 ns and the minimum it may or may not. -/
def Chip.pulseResets (c : Chip) (lowNs minNs : Nat) : Bool × Chip :=
  if lowNs < 100 then (false, c)
  else if lowNs < minNs then
    let (v, c) := c.freeVal
    (v.getLsbD 0, c)
  else (true, c)

/-- POWER_ON_RESET: while PORST_N is held low the device stays in reset; the row of its rise ends that. -/
def powerOnReset (lowNs straps : Nat) (pin : PorstPin) (d : Memory) (c : Chip) : Memory × Chip :=
  let (yes, c) := c.pulseResets lowNs 10000
  if !yes then (d, c)
  else
    let n := c.resetAll 31 0 straps
    ([], { n with tap := {}, dev := { n.dev with early := pin.early, porst := pin.held } })
/-- SYSTEM_RESET. -/
def systemReset (lowNs straps : Nat) (d : Memory) (c : Chip) : Memory × Chip :=
  let (yes, c) := c.pulseResets lowNs 1000
  if !yes then (d, c) else ([], c.resetAll 30 c.nextCount straps)
/-- COMMAND_RESET_START (R347): once the last frame of the completion has left its port. -/
def commandResetStart (d : Memory) (c : Chip) : Memory × Chip :=
  match c.dev.resetWait with
  | some w => if c.cplWaits w then (d, c) else ([], c.resetAll 29 c.nextCount c.straps)
  | none => (d, c)

/-! ### Clocks (R348, R365, R397, R399) -/

/-- Seed of channel ch's mitigation LFSR (R279). -/
def lfsrSeed (tag : Word) (ch : Nat) : Word :=
  let s := tag ^^^ BitVec.ofNat 32 ch
  if s = 0 then 0xFFFFFFFF ^^^ BitVec.ofNat 32 ch else s
/-- MASTER_PLL_LOCK: FRC starts, and DEV_RESET_TAG is drawn, never 0 (R27, R373). -/
def pllLock (draw : Nat) (c : Chip) : Chip :=
  if c.dev.mode ≠ .boot ∨ c.dev.pllLocked ∨ c.dev.porst then c
  else
    let tag : Word := BitVec.ofNat 32 (draw + 1)
    let c := { c.setReg 8 tag with dev := { c.dev with pllLocked := true }, tm := 0 }
    (List.range 8).foldl (fun c ch => c.setMemCh ch { c.memCh ch with lfsr := lfsrSeed tag ch }) c
/-- PLL_LOCK_TIMEOUT. -/
def pllLockTimeout (c : Chip) : Chip := if c.dev.mode = .boot ∧ !c.dev.pllLocked ∧ !c.dev.porst then c.toFault 1 0 else c

/-- The clocks from the master PLL stop: the time base stops, and every port goes down and stays down (R365, R397). -/
def Chip.loseClocks (c : Chip) : Chip := { c with dev := { c.dev with clocksLost := true } }
def Chip.portStays (c : Chip) (q : Nat) : Chip := (c.portDown q 1).updPort q (fun p => { p with running := false })
def Chip.stopClocks (c : Chip) : Chip := (c.loseClocks.portStays 0).portStays 1
/-- PLL_UNLOCK. -/
def pllUnlock (c : Chip) : Chip :=
  if !c.clocked then c else (c.raiseErr (srcOf 14 0) 0x0312 0 0).stopClocks
/-- REFCLK_LOSS, which the calibration source times whether or not the master PLL still runs. -/
def refclkLoss (c : Chip) : Chip :=
  if c.dev.porst then c
  else if c.dev.mode = .boot then ((c.toFault 2 0).stopClocks).guardReject
  else ((c.guardReject).raiseErr (srcOf 14 3) 0x0311 0 0).stopClocks
/-- REFCLK_RANGE: a 1 ms window with this deviation. -/
def refclkRange (ppm : Int) (c : Chip) : Chip :=
  let b := c.mon.rangeBlocked
  if c.dev.porst then c
  else if 500 < ppm.natAbs then
    let c := c.guardReject
    let c := if b = 0 then c.raiseErr (srcOf 14 3) 0x0310 0 (codeOf 32 ppm) else c
    { c with mon := { c.mon with rangeBlocked := 16 } }
  else { c with mon := { c.mon with rangeBlocked := b - 1 } }

/-! ### Die temperature (R399) -/

/-- TJ_HIGH, once until the site falls below 105 °C. -/
def tjHigh (site : Nat) (t : Int) (c : Chip) : Chip :=
  if t ≤ 1100 ∨ site ∈ c.mon.tjHigh ∨ c.dev.porst then c
  else
    let c := { c with mon := { c.mon with tjHigh := site :: c.mon.tjHigh } }
    (c.guardReject).raiseErr (srcOf 14 0) 0x0313 site (codeOf 32 t)
/-- TJ_HIGH_REARM. -/
def tjHighRearm (site : Nat) (t : Int) (c : Chip) : Chip :=
  if t < 1050 then { c with mon := { c.mon with tjHigh := c.mon.tjHigh.erase site } } else c
/-- TJ_TRIP of a site: every driver goes off and every termination opens within 1 µs (R397). -/
def tjTrip (site : Nat) (t : Int) (c : Chip) : Chip :=
  if t ≤ 1200 ∨ c.dev.porst then c
  else
    let c := (c.guardReject).raiseErr (srcOf 14 0) 0x0314 site (codeOf 32 t)
    let c := { c with dev := { c.dev with tripped := true } }
    { c with groups := c.groups.map (fun e => (e.1, { e.2 with
        drv := e.2.drv.map (fun (l : LaneDrv) => { l with on := false, toggles := false }) })) }

/-! ### BOOT (R350 to R361) -/

/-- FLASH_READY_POLL: the flash is ready; SFDP read and geometry. -/
def flashReadyPoll (sfdp quad : Bool) (mb : Nat) (c : Chip) : Chip :=
  if c.dev.mode ≠ .boot ∨ !c.dev.pllLocked ∨ c.dev.flashReady then c
  else
    let c := c.setReg 0x00350000 (BitVec.ofNat 32 (b2n sfdp * 2 ^ 31 + b2n (sfdp && quad) * 2 ^ 30 +
      (if sfdp then mb % 2 ^ 16 else 0)))
    if sfdp && quad && decide (64 ≤ mb) && decide (mb ≤ 512) then
      { c with dev := { c.dev with flashReady := true, flashMb := mb } }
    else c.toFault 3 0
/-- NVM_TIMEOUT. -/
def nvmTimeout (c : Chip) : Chip :=
  if c.dev.mode = .boot ∧ c.dev.pllLocked ∧ !c.dev.flashReady then (c.guardReject).toFault 4 0 else c
/-- SPI_READ_TIMEOUT (R399): in BOOT any read of the flash, the SFDP read too; in a CAL_STORE the command ends and its slot
stays invalid. -/
def spiReadTimeout (c : Chip) : Chip :=
  if c.dev.mode = .boot ∧ c.dev.pllLocked then (c.guardReject).toFault 4 0
  else if c.cal.storing.isSome ∧ c.executing (fun x => x == .calStore) then
    ({ c with cal := { c.cal with storing := none } }.guardReject).cmdFinish 0x17
  else c

/-- A calibration step starts on its units (R376): unit numbers with no retry yet. LEVELS ends on every group when no
converter passed ADC (R380); what it flags is the calibration's to say. -/
def Chip.stepUnits (c : Chip) (step groups : Nat) : List Nat :=
  let gs := bitsIn groups 12
  match step with
  | 0 | 1 | 7 => [0]
  | 2 => [0, 1, 2, 3]
  | 3 => gs
  | 4 => gs.flatMap (fun g => (List.range 8).map (fun j => 8 * g + j)) ++ gs.map (fun g => 96 + g)
  | 5 => gs.flatMap (fun g => (List.range 8).map (fun j => 8 * g + j))
  | _ => (gs.flatMap (fun g => (List.range 8).map (fun j => 8 * g + j)) ++ gs.map (fun g => 96 + g)).filter c.fitted
/-- CAL_STATUS shows a step, or idle. -/
def Chip.showStep (c : Chip) (step : Option Nat) : Chip :=
  c.setReg 0x00330000 (match step with
    | some s => BitVec.ofNat 32 (2 ^ 31 + s * 2 ^ 27)
    | none => 0x78000000)
/-- Unlisted lanes of a step read RETRIES 0 as the step begins on them. -/
def Chip.beginStep (c : Chip) (r : CalRun) (step : Nat) : Chip :=
  let us := c.stepUnits step r.groups
  let c := if 4 ≤ step ∧ step ≤ 6 then us.foldl (fun c l => c.setField (0x00331000 + 16 * l) 23 22 0) c else c
  let r : CalRun := { r with step := step, units := us.map (fun u => (u, 0)) }
  ({ c with cal := { c.cal with run := some r } }).showStep (some step)

/-- The flash holds what the board put there, as far as it is not known, and its header and directory are read
(R350, R351, R411). -/
def Chip.loadHeader (c : Chip) (chunks : List (Nat × List Byte)) : Chip :=
  let c := chunks.foldl (fun c e => c.flWrite e.1 e.2) c
  c.nvmHeaderChecks.setRegs 0x00350100 (bytesToWords (c.flBytes 0 32))
/-- The directory is shown, and the records of R352 but the patches are read. -/
def Chip.loadRecords (c : Chip) : Chip :=
  [1, 2, 3, 4, 5, 6, 7, 8].foldl readRecord (c.setRegs 0x00350200 (bytesToWords (c.flBytes 0x20 (16 * c.flNat 6 2))))
/-- CONFIG_IMAGE_APPLIED: the flash read is finished; every record is applied, or BOOT ends in FAULT. `chunks` are what
the board's flash holds, as far as it is not known. -/
def configImageApplied (chunks : List (Nat × List Byte)) (c : Chip) : Chip :=
  if c.dev.mode ≠ .boot ∨ !c.dev.flashReady then chunks.foldl (fun c e => c.flWrite e.1 e.2) c
  else
    let c := c.loadHeader chunks
    if !c.nvmHeaderOk then c.toFault 5 0
    else
      let c := c.loadRecords
      if c.dev.mode ≠ .boot then c
      else
        let c := readSlots (readPatches c)
        let c := (List.range 12).foldl (fun c g => c.settleGroup g) c
        let c := c.setReg 0x00010010 (BitVec.ofNat 32 (c.frc / 1000))
        let c := c.setMode .calibrate
        c.beginStep { byCmd := false, groups := 0xFFF, hits := 20, step := 0, steps := [1, 2, 3, 4, 5, 6, 7]
                      units := [], start := c.frc } 0

/-! ### Test access port (R422) -/

/-- DEV_STATE (R364). -/
def Chip.devState (c : Chip) : Nat :=
  c.dev.mode.code * 2 ^ 28 + b2n c.dev.calNone * 2 ^ 27 + b2n c.dev.calFlagged * 2 ^ 26 + b2n c.dev.committed * 2 ^ 25
/-- The next state of the TAP at a TCK edge with TMS (R422; IEEE 1149.1, PRESUMED, log entry 82). -/
def tapNext : TapState → Bool → TapState
  | .reset, m => if m then .reset else .idle
  | .idle, m => if m then .selectDr else .idle
  | .selectDr, m => if m then .selectIr else .captureDr
  | .captureDr, m => if m then .exit1Dr else .shiftDr
  | .shiftDr, m => if m then .exit1Dr else .shiftDr
  | .exit1Dr, m => if m then .updateDr else .pauseDr
  | .pauseDr, m => if m then .exit2Dr else .pauseDr
  | .exit2Dr, m => if m then .updateDr else .shiftDr
  | .updateDr, m => if m then .selectDr else .idle
  | .selectIr, m => if m then .reset else .captureIr
  | .captureIr, m => if m then .exit1Ir else .shiftIr
  | .shiftIr, m => if m then .exit1Ir else .shiftIr
  | .exit1Ir, m => if m then .updateIr else .pauseIr
  | .pauseIr, m => if m then .exit2Ir else .pauseIr
  | .exit2Ir, m => if m then .updateIr else .shiftIr
  | .updateIr, m => if m then .selectDr else .idle
/-- One TCK edge with TMS: Capture-DR takes v, Shift-DR puts the low bit on TDO (R422). -/
def Tap.tck (v : Dword) (t : Tap) (tms : Bool) : Tap :=
  let t := match t.state with
    | .captureDr => { t with dr := v, out := [] }
    | .shiftDr => { t with out := t.out ++ [t.dr.getLsbD t.out.length] }
    | _ => t
  { t with state := tapNext t.state tms }
/-- A scan of an n-bit data register that captures v, from Run-Test/Idle and back. -/
def Tap.scanDr (t : Tap) (n : Nat) (v : Dword) : Tap :=
  ([true, false, false] ++ List.replicate (n - 1) false ++ [true, true, false]).foldl (Tap.tck v) { t with state := .idle }
/-- FAULTREAD: DEV_STATE and DEV_FAULT are captured and leave on TDO, bit 0 first. -/
def faultread (c : Chip) : Chip :=
  let v := BitVec.ofNat 64 (c.devState + (c.reg 0x0001000C).toNat * 2 ^ 32)
  { c with tap := ({ c.tap with ir := .faultread, cells := [] } : Tap).scanDr 64 v }
/-- Free values, n of them (log entry 4). -/
def Chip.freeVals (c : Chip) : Nat → List Dword × Chip
  | 0 => ([], c)
  | n + 1 =>
    let (v, c) := c.freeVal
    let (vs, c) := c.freeVals n
    (v :: vs, c)
/-- EXTEST while PORST_N is low or in FAULT: the cells drive their 492 balls with what the tester has shifted in, which no
command carries: free values, 64 balls each (R422; DESIGN CHOICE, log entry 82). In any other state BYPASS is executed. -/
def extest (c : Chip) : Chip :=
  if c.dev.mode = .fault ∨ c.dev.porst then
    let (vs, c) := c.freeVals 8
    { c with tap := { c.tap with state := .idle, ir := .extest, cells := vs } }
  else { c with tap := { c.tap with state := .idle, ir := .bypass, cells := [] } }
/-- TEST_LOGIC_RESET. -/
def testLogicReset (c : Chip) : Chip := { c with tap := {} }

/-! ### Rows -/

def execPowerOnReset (lowNs : Nat) (straps : BitVec 4) (pin : PorstPin) (s : State) :
    Host.Outcome State Fault Refusal := s.onBoth (powerOnReset lowNs straps.toNat pin)
def execSystemReset (lowNs : Nat) (straps : BitVec 4) (s : State) : Host.Outcome State Fault Refusal :=
  s.onBoth (systemReset lowNs straps.toNat)
def execCommandResetStart (s : State) : Host.Outcome State Fault Refusal := s.onBoth commandResetStart
/-- After an early release of PORST_N the manual covers no behaviour but the failure to lock (R346). -/
def execMasterPllLock (draw : Fin 4294967295) (s : State) : Host.Outcome State Fault Refusal :=
  if s.chip.dev.early ∧ s.chip.dev.mode = .boot ∧ !s.chip.dev.pllLocked ∧ !s.chip.dev.porst then .fault .outsideManual
  else s.onChip (pllLock draw)
def execPllLockTimeout (s : State) : Host.Outcome State Fault Refusal := s.onChip pllLockTimeout
def execPllUnlock (s : State) : Host.Outcome State Fault Refusal := s.onChip pllUnlock
def execRefclkLoss (s : State) : Host.Outcome State Fault Refusal := s.onChip refclkLoss
def execRefclkRange (ppm : Int) (s : State) : Host.Outcome State Fault Refusal := s.onChip (refclkRange ppm)
def execTjHigh (site : Fin 4) (deciC : Int) (s : State) : Host.Outcome State Fault Refusal := s.onChip (tjHigh site deciC)
def execTjTrip (site : Fin 4) (deciC : Int) (s : State) : Host.Outcome State Fault Refusal := s.onChip (tjTrip site deciC)
def execTjHighRearm (site : Fin 4) (deciC : Int) (s : State) : Host.Outcome State Fault Refusal :=
  s.onChip (tjHighRearm site deciC)
def execFlashReadyPoll (sfdpOk quad : Bool) (densityMb : Nat) (s : State) : Host.Outcome State Fault Refusal :=
  s.onChip (flashReadyPoll sfdpOk quad densityMb)
def execNvmTimeout (s : State) : Host.Outcome State Fault Refusal := s.onChip nvmTimeout
def execSpiReadTimeout (s : State) : Host.Outcome State Fault Refusal := s.onChip spiReadTimeout
def execConfigImageApplied (flash more : List (Nat × List Byte)) (s : State) :
    Host.Outcome State Fault Refusal := s.onChip (configImageApplied (flash ++ more))
def execFaultread (s : State) : Host.Outcome State Fault Refusal := s.onChip faultread
def execExtest (s : State) : Host.Outcome State Fault Refusal := s.onChip extest
def execTestLogicReset (s : State) : Host.Outcome State Fault Refusal := s.onChip testLogicReset

end Sys2Proof.Machine
end

