-- ==== Sys2Proof/Machine/Calib.lean ====
section
/-! DEFINITION. Calib.lean: calibration steps and units, CAL_RUN, CAL_STORE, temperature drift, and training (R284, R285,
R358, R373 to R387). -/

namespace Sys2Proof.Machine

/-! ### The uniformity test (R375) -/

/-- x² of the octants of n hits against the octants' widths. -/
def chiSquare (n : Nat) (hits : List Nat) (ws : List Nat) : Rat :=
  let w := ws.sum
  ((List.range 8).map (fun j =>
    let e : Rat := ((n * ws.getD j 0 : Nat) : Rat) / ((w : Nat) : Rat)
    let d : Rat := (hits.getD j 0 : Rat) - e
    d * d / e)).sum
/-- The octant widths in use. -/
def Chip.octants (c : Chip) : List Nat := (List.range 8).map (fun j => (c.reg (0x00330060 + 4 * j)).toNat)
/-- A histogram of n hits passes against CAL_CHI_LIMIT. -/
def Chip.chiOk (c : Chip) (n : Nat) (hits ws : List Nat) : Bool :=
  decide (chiSquare n hits ws ≤ ((c.field 0x00330004 15 0 : Nat) : Rat))

/-- Octant widths from 2^20 hits (R374); the rounding remainder goes to the octant with the most hits, the pick-th of
equals. -/
def octantWidths (hits : List Nat) (pick : Nat) : List Nat :=
  let ws := (List.range 8).map (fun j => (roundDiv ((62500 * hits.getD j 0 : Nat) : Int) (2 ^ 20)).toNat)
  let top := hits.foldl max 0
  let best := (List.range 8).filter (fun j => hits.getD j 0 == top)
  let j := best.getD (pick % best.length) 0
  ws.set j (62500 - (ws.sum - ws.getD j 0))

/-! ### Delay lines and FINE tables (R377, R378) -/

/-- Hits of the 68 taps of segment j of a line. -/
def segHits (line : List Nat) (j : Nat) : List Nat := (line.drop (68 * j)).take 68
/-- Hits of a line in the octants of TM: segment j spans octant j (R374). -/
def lineOctants (line : List Nat) : List Nat := (List.range 8).map (fun j => (segHits line j).sum)
/-- How far tap t of a segment that starts at `start` fs and is w fs wide lies from grid point k, in units of
1/(512 × hits of the segment) fs (R377). -/
def tapOff (start w : Nat) (hits : List Nat) (t k : Nat) : Int :=
  (512 * (start * hits.sum + w * (hits.take t).sum) : Nat) - (62500 * k * hits.sum : Nat)
/-- The taps kept for n grid points from k on, one for each in rising order: the nearest of those that still leave one for
every later point, the lower of two equally near (DEDUCED, log entry 53). -/
def keepTaps (start w : Nat) (hits : List Nat) : Nat → Nat → Nat → List (Nat × Nat)
  | 0, _, _ => []
  | n + 1, k, lo =>
    let t := ((List.range (68 - n - lo)).map (· + lo)).foldl (fun b t =>
      if (tapOff start w hits t k).natAbs < (tapOff start w hits b k).natAbs then t else b) lo
    (t, k) :: keepTaps start w hits n (k + 1) (t + 1)
/-- The four taps that each segment of a line drops, and for each segment the hits and the largest distance of a kept tap in
1/(512 × hits) fs, at octant widths ws. -/
def lineTaps (ws line : List Nat) : List Byte × List (Nat × Nat) :=
  let segs := (List.range 8).map (fun j =>
    let hits := segHits line j
    let start := (ws.take j).sum
    let kept := keepTaps start (ws.getD j 0) hits 64 (64 * j) 0
    (((List.range 68).filter (fun t => !kept.any (fun e => e.1 == t))).map (BitVec.ofNat 8),
      hits.sum, (kept.map (fun e => (tapOff start (ws.getD j 0) hits e.1 e.2).natAbs)).foldl max 0))
  (segs.flatMap (·.1), segs.map (·.2))
/-- INL_MAX of a line, whole fs. -/
def lineInl (xs : List (Nat × Nat)) : Nat := (xs.map (fun e => e.2 / (512 * e.1))).foldl max 0
/-- INL_MAX exceeds 500 fs. -/
def lineOut (xs : List (Nat × Nat)) : Bool := xs.any (fun e => decide (500 * 512 * e.1 < e.2))

/-- The stages that step TDC selects for an LSB code: those of the first of 8 trials that spans its largest k within 1. -/
def stageOf (code : Nat) (x : TdcHist) : Option Byte :=
  ((x.trials.take 8).find? (fun e => decide (fineLen code ≤ e.1 + 2) && decide (e.1 ≤ fineLen code))).map (·.2)
/-- FINE of an LSB code from its histogram: the widths of the codes before k, in 62,500 fs together (R378; to the nearest,
DEDUCED, log entry 53). -/
def fineOf (code : Nat) (x : TdcHist) : List Nat :=
  let hits := x.codes.take (fineLen code)
  (List.range (fineLen code)).map (fun k => (roundDiv ((62500 * (hits.take k).sum : Nat) : Int) hits.sum).toNat)
/-- TDC_DNL: the largest deviation of a step of code 1 from its LSB (R378). -/
def dnlOf (fine : List Nat) : Nat :=
  ((fine.zip (fine.drop 1)).map (fun e => (((e.2 : Nat) : Int) - e.1 - 1000).natAbs)).foldl max 0

/-- Nominal FINE table of an LSB code (R382). -/
def fineNominal (code : Nat) : List Nat := (List.range (fineLen code)).map (fun k => k * 500 * (code + 1))

/-! ### Units (R376, R381) -/

/-- UNIT of an error record of a unit; the manual names none for LINK (log entry 5). -/
def Chip.unitNo (c : Chip) (step unit : Nat) : Nat × Chip :=
  match step with
  | 2 => (0x0200 + unit, c)
  | 3 => (0x0100 + unit, c)
  | 7 =>
    let (v, c) := c.freeVal
    (v.toNat % 2 ^ 16, c)
  | _ => (unit, c)
/-- The status register of a unit's values, if it has one: lane, group, converter. -/
def unitReg (step unit : Nat) : Option Nat :=
  match step with
  | 2 => some (0x00332040 + 4 * unit)
  | 3 => some (0x00332000 + 4 * unit)
  | 4 | 5 | 6 => some (0x00331000 + 16 * unit)
  | _ => none
/-- The flags of the same unit of the same kind. -/
def sameUnit (step unit : Nat) (f : Nat × Nat × Nat) : Bool := unitReg f.1 f.2.1 == unitReg step unit
/-- The slot in use gives the unit's values (R381). -/
def Chip.hasStored (c : Chip) (step unit : Nat) : Bool :=
  match step with
  | 2 => c.cal.stored.adc.any (fun e => e.1 == unit)
  | 3 => c.cal.stored.levels.any (fun e => e.1 == unit)
  | _ => c.cal.stored.lanes.any (fun e => e.1 == unit)
/-- ORIGIN, CAUSE and STEP of a unit follow its flags (R381, R388). -/
def Chip.showUnit (c : Chip) (step unit : Nat) : Chip :=
  match unitReg step unit with
  | none => c
  | some a =>
    match c.cal.flags.find? (sameUnit step unit) with
    | none => ((c.setField a 31 30 0).setField a 29 28 0).setField a 27 24 0
    | some (st, _, cause) =>
      let c := (c.setField a 31 30 (if c.hasStored step unit then 1 else 2)).setField a 29 28 cause
      if 4 ≤ step ∧ step ≤ 6 then c.setField a 27 24 st else c
/-- DEV_STATE.CAL_FLAGGED. -/
def Chip.showFlagged (c : Chip) : Chip := { c with dev := { c.dev with calFlagged := c.cal.flags != [] } }
def Chip.setRunCal (c : Chip) (r : Option CalRun) : Chip := { c with cal := { c.cal with run := r } }

/-- Table t with entry i as in table u. -/
def tabCopy {α : Type} (t u : Table α) (i : Nat) : Table α :=
  match u.find? (fun e => e.1 == i) with
  | some e => tabSet t i e.2
  | none => tabDel t i
/-- A lane's values changed. -/
def CalVals.lane (v : CalVals) (l : Nat) (f : LaneCal → LaneCal) : CalVals := { v with lanes := tabUpd {} v.lanes l f }
/-- The values of a unit of a step become those of the slot in use, nominal ones where that has none (R381, R382); `tdc` are
the LSB codes that step TDC found, which stay (R378). -/
def CalVals.fallBack (v slot : CalVals) (step unit : Nat) (tdc : List Nat) : CalVals :=
  let old (l : Nat) : LaneCal := tabGet {} slot.lanes l
  match step with
  | 2 => { v with adc := tabCopy v.adc slot.adc unit }
  | 3 =>
    ((96 + unit) :: (List.range 8).map (8 * unit + ·)).foldl (fun v l => v.lane l (fun x => { x with trims := (old l).trims }))
      { v with levels := tabCopy v.levels slot.levels unit }
  | 4 => v.lane unit (fun x => { x with dropped := (old unit).dropped })
  | 5 =>
    if tdc = [] then
      { v.lane unit (fun x => { x with stages := (old unit).stages }) with fine := tabCopy v.fine slot.fine unit }
    else
      let keep {α : Type} (d : Nat → α) (new was : List α) : List α :=
        (List.range 8).map (fun i => if i ∈ tdc then new.getD i (d i) else was.getD i (d i))
      { v.lane unit (fun x => { x with
          stages := keep (fun i => Config.designStage (8 * unit + i)) x.stages (old unit).stages }) with
        fine := tabSet v.fine unit (keep fineNominal (tabGet [] v.fine unit) (tabGet [] slot.fine unit)) }
  | 6 => { v.lane unit (fun x => { x with drv := (old unit).drv, cmp := (old unit).cmp }) with
           zero := tabCopy v.zero slot.zero unit }
  | 7 => { v with link := slot.link }
  | _ => v
/-- LNK_TS_DELAY of both ports shows the values in use (R318, R380). -/
def Chip.showLink (c : Chip) : Chip :=
  [0, 1].foldl (fun c q => c.setReg (portB q + 4) (BitVec.ofInt 32 (c.cal.vals.link.getD q 0))) c
/-- A unit is flagged with a cause and leaves the step (R381). -/
def Chip.flagUnit (c : Chip) (r : CalRun) (unit cause : Nat) (tdc : List Nat := []) : Chip :=
  let c := { c with cal := { c.cal with vals := c.cal.vals.fallBack c.cal.stored r.step unit tdc } }
  let c := if r.step = 7 then c.showLink else c
  let code := 0x13 + cause
  let (no, c) := c.unitNo r.step unit
  let r : CalRun := { r with units := r.units.filter (fun e => e.1 != unit), flagged := r.flagged + 1
                             first := if r.flagged = 0 then code else r.first }
  let c := (c.setRunCal (some r)).cntUp 0x00330014
  let flags := (r.step, unit, cause) :: c.cal.flags.filter (fun f => !(f.1 == r.step && f.2.1 == unit))
  let c := { c with cal := { c.cal with flags := flags } }
  ((c.showUnit r.step unit).showFlagged).raiseErr (srcOf 14 0) code no r.step
/-- A unit passes and leaves the step. -/
def Chip.passUnit (c : Chip) (r : CalRun) (unit : Nat) : Chip :=
  let r : CalRun := { r with units := r.units.filter (fun e => e.1 != unit), passed := r.passed + 1 }
  let c := c.setRunCal (some r)
  let flags := c.cal.flags.filter (fun f => !(f.1 == r.step && f.2.1 == unit))
  ({ c with cal := { c.cal with flags := flags } }.showUnit r.step unit).showFlagged
/-- A unit fails: it is retried up to three times, then flagged. -/
def Chip.failUnit (c : Chip) (r : CalRun) (unit retries cause : Nat) : Chip :=
  if 3 ≤ retries then c.flagUnit r unit cause
  else
    let r : CalRun := { r with units := r.units.map (fun e => if e.1 = unit then (unit, retries + 1) else e) }
    let c := (c.setRunCal (some r)).cntUp 0x00330010
    if 4 ≤ r.step ∧ r.step ≤ 6 then c.setField (0x00331000 + 16 * unit) 23 22 (retries + 1) else c

/-- Calibration ends: CAL_STATUS idle. -/
def Chip.calIdle (c : Chip) : Chip := (c.setRunCal none).showStep none
/-- SOURCE or OCTANT failed (R383, R384). -/
def Chip.calFatal (c : Chip) (r : CalRun) : Chip :=
  let c := c.calIdle
  if r.byCmd then
    let c := c.cmdFinish 0x15
    { c with sched := { c.sched with passDue := true } }
  else c.toFault 8 r.step

/-! ### Values (R374 to R380) -/

def Chip.updVals (c : Chip) (f : CalVals → CalVals) : Chip := { c with cal := { c.cal with vals := f c.cal.vals } }
/-- A calibrated part of PIN_SKEW in fine units (R379). -/
def skewPart (fs : Int) : Int := roundDiv ((fs - 1000000) * 512) 62500
/-- Tables and stages of a pin after step TDC: a code whose stage selection failed keeps its earlier values (R378). -/
def mergeTdc (v : CalVals) (p : Nat) (codes : List TdcHist) : CalVals :=
  let old := tabGet [] v.fine p
  let was := (tabGet {} v.lanes p).stages
  let tables := codes.zipIdx.map (fun e => match stageOf e.2 e.1 with
    | some _ => fineOf e.2 e.1
    | none => old.getD e.2 (fineNominal e.2))
  let st := codes.zipIdx.map (fun e => (stageOf e.2 e.1).getD (was.getD e.2 (Config.designStage (8 * p + e.2))))
  ({ v with fine := tabSet v.fine p tables }).lane p (fun x => { x with stages := st })

/-- Unit `unit` of step LEVELS, DELAY, ... measured: the outcome is judged by the step's rules. -/
def Chip.judgeUnit (c : Chip) (r : CalRun) (unit retries : Nat) (x : CalResult) : Chip :=
  let lane := 0x00331000 + 16 * unit
  match r.step, x with
  | 0, .source khz octants =>
    let c := c.setReg 0x00330080 (BitVec.ofNat 32 khz)
    if octants ∧ 750000 ≤ khz ∧ khz ≤ 1150000 then c.passUnit r unit else c.calFatal r
  | 1, .octant hits =>
    let top := hits.foldl max 0
    let tie := 1 < hits.countP (· == top)
    let (v, c) := if tie then c.freeVal else (0, c)
    let ws := octantWidths hits v.toNat
    if c.chiOk (2 ^ 20) hits (List.replicate 8 1) && ws.all (fun w => decide (15125 ≤ 2 * w) && decide (2 * w ≤ 16125)) then
      (c.setRegs 0x00330060 (ws.map (BitVec.ofNat 32))).passUnit r unit
    else c.calFatal r
  | 2, .adc offsets gains mv =>
    if 570 ≤ mv ∧ mv ≤ 630 then
      (c.updVals (fun v => { v with adc := tabSet v.adc unit ((offsets.zip gains).take 5) })).passUnit r unit
    else c.flagUnit r unit 3
  | 3, .levels trims cmp =>
    let c := c.updVals (fun v => { v with levels := tabSet v.levels unit (trims.take 24) })
    let c := (cmp.take 9).zipIdx.foldl (fun c e =>
      c.updVals (fun v => v.lane (if e.2 = 8 then 96 + unit else 8 * unit + e.2) (fun l => { l with trims := e.1 }))) c
    c.passUnit r unit
  | 4, .delay lines =>
    if !lines.all (fun l => c.chiOk (2 ^ r.hits) (lineOctants l) c.octants) then c.failUnit r unit retries 2
    else
      let taps := lines.map (lineTaps c.octants)
      let c := c.setField (lane + 4) 15 0 (min ((taps.map (fun e => lineInl e.2)).foldl max 0) 0xFFFF)
      if taps.any (fun e => lineOut e.2) then c.flagUnit r unit 3
      else (c.updVals (fun v => v.lane unit (fun l => { l with dropped := taps.flatMap (·.1) }))).passUnit r unit
  | 5, .tdc codes =>
    if !codes.zipIdx.all (fun e => (stageOf e.2 e.1).isNone || c.chiOk (2 ^ r.hits) e.1.octants c.octants) then
      c.failUnit r unit retries 2
    else
      let c := c.updVals (fun v => mergeTdc v unit codes)
      let c := match codes[1]? with
        | some x => if (stageOf 1 x).isNone then c else c.setField (lane + 8) 15 0 (min (dnlOf (fineOf 1 x)) 0xFFFF)
        | none => c
      let found := (codes.zipIdx.filter (fun e => (stageOf e.2 e.1).isSome)).map (·.2)
      if codes.zipIdx.any (fun e => (stageOf e.2 e.1).isNone) then c.flagUnit r unit 3 found else c.passUnit r unit
  | 6, .ball hits spreads zero drv cmp =>
    let spread := spreads.foldl max 0
    let chi := (chiSquare (2 ^ r.hits) hits c.octants * 16).floor.toNat
    let c := c.setField (lane + 4) 31 16 (min chi 0xFFFF)
    let good := c.chiOk (2 ^ r.hits) hits c.octants
    let c := if good then c.setField (lane + 8) 31 16 (min spread 0xFFFF) else c
    if !good ∨ (c.reg 0x00330008).toNat < spread then c.failUnit r unit retries 1
    else
      let c := c.updVals (fun v =>
        let v := v.lane unit (fun l => { l with drv := skewPart drv, cmp := skewPart cmp })
        if unit < 96 then { v with zero := tabSet v.zero unit (zero.take 16) } else v)
      c.passUnit r unit
  | 7, .link delays =>
    ((c.updVals (fun v => { v with link := delays.take 2 })).showLink).passUnit r unit
  | _, _ => c

/-- CAL_UNIT_DONE: a unit of the running step, with a result of that step's kind. -/
def calUnitDone (unit : Nat) (x : CalResult) (c : Chip) : Chip :=
  match c.cal.run with
  | none => c
  | some r =>
    match r.units.find? (fun e => e.1 = unit) with
    | none => c
    | some e => c.judgeUnit r unit e.2 x
/-- CAL_UNIT_TIMEOUT. -/
def calUnitTimeout (unit : Nat) (c : Chip) : Chip :=
  match c.cal.run with
  | none => c
  | some r =>
    match r.units.find? (fun e => e.1 = unit) with
    | none => c
    | some e => if r.step ≤ 1 then c.calFatal r else c.failUnit r unit e.2 2

/-! ### Steps (R376, R384) -/

/-- A step starts. With no converter that passed ADC, LEVELS flags every group with cause TIMEOUT (R380). -/
def Chip.startStep (c : Chip) (r : CalRun) (step : Nat) : Chip :=
  let c := c.beginStep r step
  if step = 3 ∧ [0, 1, 2, 3].all (fun k => c.cal.flags.any (fun f => f.1 == 2 && f.2.1 == k)) then
    (bitsIn r.groups 12).foldl (fun c g =>
      match c.cal.run with
      | some r => c.flagUnit r g 2
      | none => c) c
  else c
/-- Training starts: MRESET rises and the LPDDR5X interface is driven; CS1 stays low with one rank (R420). -/
def Chip.memDriven (c : Chip) : Chip :=
  { c with balls := { c.balls with
      memDq := .active, memCkT := .active, memCkC := .active, memCa := .active, memCs0 := .active
      memCs1 := if bitOf (c.reg 0x00300000).toNat 29 then .active else .low, memWck := .active, mresetN := .high } }
/-- Calibration's last step ended. A power-up calibration that a FAULT has overtaken leads nowhere: FAULT is left only by a reset
(R365). -/
def Chip.endCal (c : Chip) (r : CalRun) : Chip :=
  let c := c.calIdle
  if r.byCmd then
    let c := c.cmdFinish (if r.flagged = 0 then 0 else r.first)
      ([BitVec.ofNat 32 (r.passed % 2 ^ 16 + r.flagged % 2 ^ 16 * 2 ^ 16),
        BitVec.ofNat 32 ((c.frc - r.start) / 1000000)] ++ twoWords c.frc)
    { c with sched := { c.sched with passDue := true } }
  else if c.dev.mode ≠ .calibrate then c
  else
    let c := (c.setReg 0x00010014 (BitVec.ofNat 32 (c.frc / 1000))).memDriven
    { c with dev := { c.dev with mode := .train }, mem := { c.mem with trainLeft := [1, 0], trainEnd := 0 } }
/-- CAL_STEP_DONE: temps are those of the four sites at a DELAY calibration (R386). -/
def calStepDone (temps : List Int) (c : Chip) : Chip :=
  match c.cal.run with
  | none => c
  | some r =>
    if r.units ≠ [] then c
    else
      let c := c.setReg64 (0x00330018 + 8 * r.step) c.frc
      let c := if r.step = 4 then
          let c := (List.range 4).foldl (fun c i =>
            c.setField (0x003300B0 + 4 * (i / 2)) (16 * (i % 2) + 15) (16 * (i % 2)) (codeOf 16 (temps.getD i 0))) c
          { c with cal := { c.cal with
            tempAt := (bitsIn r.groups 12).foldl (fun t g => tabSet t g (temps.take 4)) c.cal.tempAt } }
        else c
      match r.steps with
      | [] => c.endCal r
      | s :: ss => c.startStep { r with steps := ss } s

/-- CAL_RUN begins to execute (R384). -/
def Chip.calRunStart (c : Chip) (steps groups hits : Nat) : Chip :=
  c.startStep { byCmd := true, groups := groups, hits := if hits = 0 then 20 else hits, step := 0
                steps := 1 :: (bitsIn steps 7).filter (fun s => 2 ≤ s), units := [], start := c.frc } 0

/-- CAL_DRIFT: at a MEM_POLL interval, the sites' temperatures (R386). -/
def calDrift (temps : List Int) (c : Chip) : Chip :=
  let lim := 10 * c.field 0x0033000C 7 0
  if lim ≠ 0 ∧ c.cal.tempAt.any (fun e => (List.range 4).any (fun i =>
      decide (lim < (temps.getD i 0 - e.2.getD i 0).natAbs))) then c.raise (srcOf 14 0) 0x80C0
  else c

/-! ### CAL_STORE (R358, R387) -/

/-- The body of a lane. -/
def Chip.laneBody (c : Chip) (l : Nat) : List Byte :=
  let v := c.cal.vals
  let x := tabGet {} v.lanes l
  let stages := if x.stages = [] then (List.range 8).map (fun i => Config.designStage (8 * l + i)) else x.stages
  let dropped := if x.dropped = [] then (List.range 160).map (fun i => BitVec.ofNat 8 (64 + i % 4)) else x.dropped
  toLe 4 (c.reg (0x00331000 + 16 * l)).toNat ++ toLe 2 (codeOf 16 x.drv) ++ toLe 2 (codeOf 16 x.cmp) ++
  toLe 4 x.trims.toNat ++ toLe 4 0 ++ (dropped ++ List.replicate 160 0).take 160 ++
  (if 96 ≤ l then List.replicate (64 + 8 + 8 + 1400) 0
   else
    (List.range 16).flatMap (fun i => toLe 4 (codeOf 32 ((tabGet [] v.zero l).getD i 0))) ++
    (stages ++ List.replicate 8 0).take 8 ++ List.replicate 8 0 ++
    (List.range 8).flatMap (fun code => (List.range (fineLen code)).flatMap (fun k => toLe 4 (c.fine l code k)))) ++
  List.replicate 392 0
/-- The 225,280 bytes of a slot body, with the temperatures of the sites. -/
def Chip.slotBytes (c : Chip) (temps : List Int) : List Byte :=
  let v := c.cal.vals
  (List.range 4).flatMap (fun k => (List.range 5).flatMap (fun g =>
    let x := (tabGet [] v.adc k).getD g (0, 0)
    toLe 4 (codeOf 32 x.1) ++ toLe 4 x.2)) ++
  [0, 1].flatMap (fun q => toLe 4 (codeOf 32 (v.link.getD q 0))) ++
  (List.range 4).flatMap (fun i => toLe 2 (codeOf 16 (temps.getD i 0))) ++ List.replicate 80 0 ++
  (List.range 12).flatMap (fun g =>
    wordsToBytes ((tabGet [] v.levels g ++ List.replicate 24 0).take 24) ++ List.replicate 160 0) ++
  List.replicate 768 0 ++
  (List.range 108).flatMap c.laneBody

/-- The slot that CAL_STORE takes, and its SEQ; tie is the slot where both hold the highest SEQ. -/
def Chip.storeTarget (c : Chip) (tie : Nat) : Nat × Nat :=
  let a := c.slotValid 0
  let b := c.slotValid 1
  if a && b then
    if c.slotSeq 0 = c.slotSeq 1 then (tie, c.slotSeq 0 + 1)
    else if c.slotSeq 0 < c.slotSeq 1 then (0, c.slotSeq 1 + 1) else (1, c.slotSeq 0 + 1)
  else if a then (1, c.slotSeq 0 + 1)
  else if b then (0, c.slotSeq 1 + 1)
  else (0, 1)
/-- CAL_STORE begins to execute: the slot is erased, which leaves it invalid until COMMIT. -/
def Chip.calStoreStart (c : Chip) : Chip :=
  let (v, c) := if c.slotSeq 0 = c.slotSeq 1 then c.freeVal else (0, c)
  let (k, seq) := c.storeTarget (b2n (v.getLsbD 0))
  if seq = 0xFFFFFFFF then c.cmdFinish 0x11
  else { c.flErase (c.slotAt k) (2 ^ 20) with cal := { c.cal with storing := some (k, seq) } }
/-- The header of a slot but COMMIT (R358). -/
def Chip.slotHead (c : Chip) (seq : Nat) (body : List Byte) : List Byte :=
  toLe 4 0x4C414342 ++ toLe 4 seq ++ toLe 4 body.length ++ toLe 4 (crc32c body) ++
  toLe 8 c.dev.fuses.dieId.toNat ++ toLe 8 (nsOf c.timeNow) ++ List.replicate 28 0
/-- CAL_STORE_COMMIT: header and body are written, and the body is read back against BODY_CRC; where it matches, COMMIT is
written. Where it does not, the slot stays invalid, and the status of the completion is a free value: the spec names none
(R358; DESIGN CHOICE, log entry 83). -/
def calStoreCommit (x : StoreEnd) (c : Chip) : Chip :=
  match c.cal.storing with
  | none => c
  | some (k, seq) =>
    let body := c.slotBytes x.temps
    let back := x.readBack.getD body
    let ok := crc32c back == crc32c body
    let c := ((c.flWrite (c.slotAt k) (c.slotHead seq body)).flWrite (c.slotAt k + 0x40) back).nvmCheck ok
    let c := { c with cal := { c.cal with storing := none } }
    if ok then
      let c := c.flWrite (c.slotAt k + 0x3C) (toLe 4 0xA5C35A3C)
      ({ c with cal := { c.cal with stored := c.cal.vals } }).cmdFinish 0 [BitVec.ofNat 32 seq, BitVec.ofNat 32 k]
    else
      let (v, c) := c.freeVal
      c.cmdFinish (v.toNat % 2 ^ 16)

/-! ### Training (R284, R285) -/

/-- MEM_RETRAIN begins to execute. -/
def Chip.retrainStart (c : Chip) (mask : Nat) : Chip :=
  if c.anyAdmitted then c.cmdFinish 1 [] c.dev.mode.code
  else
    let c := (c.setField memStatus 28 28 1).setRun
    { c with mem := { c.mem with
      trainLeft := [1, 0].filter (fun f => bitOf mask f), trainBad := []
      trainEnd := match c.mem.switch with
        | some (t, _) => t
        | none => c.fsp } }
/-- TRAIN ends with FSP0 valid: the freeze and snapshot areas are placed, and LINKING begins (R284, R348). -/
def Chip.trainEnds (c : Chip) : Chip :=
  let c := c.setReg64 0x00020018 c.snapBase
  let c := c.setReg 0x002000A0 (BitVec.ofNat 32 (c.freezeBase / 256))
  let c := c.setReg 0x00010018 (BitVec.ofNat 32 (c.frc / 1000))
  (c.setMode .linking).bringupAll
/-- Training stops: the table runs again at the FSP it is left at. -/
def Chip.trainingOver (c : Chip) : Chip :=
  let c := ((c.setField memStatus 28 28 0).setField memStatus 31 31 c.mem.trainEnd).setRun
  ({ c with mem := { c.mem with timingOf := c.mem.trainEnd, ch := c.mem.ch.map (fun (e : Nat × MemCh) => (e.1, { e.2 with zqLast := c.frc })) } }).restartTable
/-- TRAIN_FSP_DONE: an FSP has trained, or failed on the channels of a mask. Training loads the shadow timing register set of
the FSP, whose contents the driver never sees: a free value (R288, log entry 4). Between two FSPs of a retrain a deferred
MEM_FSP executes (R286). -/
def trainFspDone (f failed : Nat) (eyes : List Word) (d : Memory) (c : Chip) : Chip :=
  match c.mem.trainLeft with
  | [] => c
  | x :: rest =>
    if x ≠ f ∨ !c.training ∨ c.switching ∨ ¬ (c.dev.mode = .train ∨ c.executing Cmd.retrains) then c
    else
      let c : Chip := { c with mem := { c.mem with trainLeft := rest } }
      let c : Chip := if failed = 0 then
          let (set, c) := ((c.setField memStatus (27 - f) (27 - f) 1).setReg64 (0x00300030 + 8 * f) c.frc).freeVal
          { c with mem := { c.mem with eyes := tabSet c.mem.eyes f eyes, timing := tabSet c.mem.timing f set } }
        else
          ({ c with mem := { c.mem with trainBad := f :: c.mem.trainBad } }).raiseErr (srcOf 12 0) 0x0013 (2 ^ f) failed
      if c.dev.mode = .train then
        if f = 0 ∧ failed ≠ 0 then
          (({ c with dev := { c.dev with memFailed := true } }).setField memStatus 28 28 0).toFault 7 (((bitsIn failed 8).head?).getD 0)
        else if rest = [] then c.trainingOver.trainEnds else c
      else if rest = [] then
        let c := (c.trainingOver).cmdFinish (if c.mem.trainBad = [] then 0 else 0x13)
        ({ c with sched := { c.sched with passDue := true } }).startPreloads d
      else c.runDeferred c.anyAdmitted

def execCalUnitDone (unit : Nat) (r : CalResult) (s : State) : Host.Outcome State Fault Refusal :=
  s.onChip (calUnitDone unit r)
def execCalUnitTimeout (unit : Nat) (s : State) : Host.Outcome State Fault Refusal := s.onChip (calUnitTimeout unit)
def execCalStepDone (temps : List Int) (s : State) : Host.Outcome State Fault Refusal := s.onChip (calStepDone temps)
def execCalStoreCommit (store : StoreEnd) (s : State) : Host.Outcome State Fault Refusal :=
  s.onChip (calStoreCommit store)
def execCalDrift (temps : List Int) (s : State) : Host.Outcome State Fault Refusal := s.onChip (calDrift temps)
def execTrainFspDone (fsp : Fin 2) (failed : Byte) (eyes : List Word) (s : State) :
    Host.Outcome State Fault Refusal := s.onMem (trainFspDone fsp.val failed.toNat eyes)

end Sys2Proof.Machine
end

