-- ==== Sys2Proof/Machine/Commands.lean ====
section
/-! DEFINITION. Commands.lean: arrival, start and effect of every command of R370, and snapshots (R30 to R34, R137 to
R139, R363 to R372). -/

namespace Sys2Proof.Machine

/-! ### Snapshots (R30 to R34, R410) -/

/-- Low-word addresses of n registers of 8 bytes, for each of m entries. -/
def snapRange (base m stride n : Nat) : List Nat :=
  (List.range m).flatMap (fun e => (List.range n).map (fun i => base + stride * e + 8 * i))
/-- The SNAP-class registers in the order of a frame body (R410). -/
def snapAddrs : List Nat :=
  snapRange 0x00100110 12 0x10000 7 ++ snapRange 0x00200040 1 0 8 ++ snapRange 0x00200200 1 0 12 ++
  snapRange 0x00210008 1 0 12 ++ snapRange 0x00211000 128 0x40 6 ++ snapRange 0x00221080 96 0x100 5 ++
  snapRange 0x00230158 4 0x100 5 ++ snapRange 0x00301008 8 0x100 10 ++
  (snapRange 0x00311100 3 0x20 4 ++ snapRange 0x00312100 3 0x20 4) ++ snapRange 0x00341018 64 0x20 1
/-- The value of a SNAP-class register at the last epoch. -/
def Chip.epochVal (c : Chip) (a : Nat) : Dword :=
  tabGet ((resetWord (a + 4)) ++ (resetWord a) : Dword) c.epoch a
/-- The epoch is captured from the device c0 as it stood at the start of the cycle: every ledger, and every event counter
(R30, R391, R437). -/
def Chip.capture (c c0 : Chip) : Chip :=
  { c with epoch := c0.counters.foldl (fun t e => tabSet t (0x00341018 + 32 * e.1) (BitVec.ofNat 64 e.2.count)) c0.led }
/-- The memory controller cannot run its table: it failed in TRAIN, or FAULT came before FSP0 or FSP1 was trained (R31; log
entry 69). -/
def Chip.noMemory (c : Chip) : Bool := c.dev.memFailed || !c.fspValid c.fsp
/-- The words of a frame's body. -/
def Chip.snapBody (c : Chip) : List Word := snapAddrs.flatMap (fun a => twoWords (c.epochVal a).toNat)
/-- The frame of handle h: header, body, zeros to 16 KiB (R33). -/
def Chip.snapFrame (c : Chip) (h s frc : Nat) : List Byte :=
  let body := wordsToBytes c.snapBody
  toLe 8 s ++ toLe 8 frc ++ toLe 4 (c.reg 8).toNat ++ toLe 4 (c.reg 0x00340004).toNat ++ toLe 2 h ++
  toLe 2 c.dev.mode.code ++ toLe 4 body.length ++ toLe 4 (crc32c body) ++ List.replicate 28 0 ++ body ++
  List.replicate (0x4000 - 0x40 - body.length) 0
/-- SNAPSHOT takes effect, in a cycle at whose start the device was c0 (R30, R437). In FAULT the memory counts as failed when its
training failed or never came to an end (R31; DEDUCED, log entry 69). -/
def Chip.snapStart (c c0 : Chip) : Chip :=
  let s := c0.lastSeq
  if c.dev.mode = .fault ∧ c.noMemory then
    let c := (c.capture c0).count 290
    ({ c with snap := { c.snap with epochSeq := s } }).cmdFinish 0x10
  else match (List.range 64).find? (fun h => !c.snap.held.contains h) with
  | none => (c.cntUp 0x0002002C).cmdFinish 0xF
  | some h =>
    let c := (c.capture c0).count 290
    let f := c.snapFrame h s c.frc
    let held : List Nat := h :: c.snap.held
    let c : Chip := { c with snap := { held := held, busy := some (h, s, c.frc, []), epochSeq := s } }
    c.memWriteReqs .host (c.snapBase + 0x4000 * h) f (fun i => .snap i)
/-- SNAP_RELEASE (R34). -/
def Chip.snapRelease (c : Chip) (h : Nat) : Chip :=
  if h ∈ c.snap.held then ({ c with snap := { c.snap with held := c.snap.held.erase h } }).cmdFinish 0
  else (c.cntUp 0x0002002C).cmdFinish 3

/-! ### Images (R137 to R139) -/

/-- The check ends or starts: nothing is asked for. -/
def Images.noCheck (m : Images) : Images :=
  { m with check := none, grown := false, plan := [], asked := 0, got := 0, bad := [] }
/-- IMAGE_LOAD begins: its header's range is closed, and the check asks for the header (R137, R139). -/
def Chip.imageLoadStart (c : Chip) (base : Nat) : Chip :=
  if 256 ≤ c.images.loaded.length then (c.count 319).cmdFinish 0xC
  else ({ c with images := { c.images.noCheck with check := some (base, 256) } }).checkAsk
/-- The check ends: it asks for no more, and what it has asked for is dropped. The range it closed stays closed until the
completion is issued (R137). -/
def Chip.endCheck (c : Chip) : Chip :=
  ({ c with images := { c.images.noCheck with check := c.images.check } }).dropReads (fun w => w == Who.check)
/-- Every line that the check asks for has come (R139). -/
def Chip.checkComplete (c : Chip) : Bool :=
  !c.memHas (fun w => w == Who.check) && c.images.got == c.images.asked && c.images.asked != 0
/-- The check ends with its verdict: the image is loaded, or refused with its first breach (R139, R154, R258). -/
def Chip.imageVerdict (c : Chip) (d : Memory) (base : Nat) : Chip :=
  let v := c.verdict d c.images.bad base
  let c := c.endCheck.privCheck 2 v.2.1 v.2.2
  match v.1 with
  | some b =>
    ((c.count 319).guardReject).cmdFinish 0xE
      ([BitVec.ofNat 32 (b.code + b.record * 2 ^ 16), BitVec.ofNat 32 b.item] ++ twoWords b.off)
  | none =>
    let h := ((List.range 256).find? (fun h => !c.imageLoaded h)).getD 0
    (({ c with images := { c.images with loaded := tabSet c.images.loaded h (imageOf d base), check := none } }).count 318).cmdFinish 0
      [BitVec.ofNat 32 h]
/-- IMAGE_UNLOAD (R138). -/
def Chip.imageUnload (c : Chip) (h : Nat) : Chip :=
  if !c.imageLoaded h then c.cmdFinish 3
  else if c.liveCtxs.any (fun e => e.2.image == h) then c.cmdFinish 0xD
  else ({ c with images := { c.images with loaded := tabDel c.images.loaded h } }).cmdFinish 0

/-! ### Device states (R363, R366, R367) -/

/-- NEGOTIATE_COMMIT. -/
def Chip.commit (c : Chip) (ver q tag : Nat) : Chip :=
  let c := [0, 4, 8, 12].foldl (fun c i => c.setReg (0x40 + i) (c.reg (0x20 + i) &&& c.reg (0x30 + i))) c
  let c := if c.agreed 11 then c else c.setField 0x00240000 0 0 0
  let c := c.setReg 0x00010020 (BitVec.ofNat 32 (c.frc / 1000))
  let c := { c with dev := { c.dev with mode := .ready, committed := true, driverVer := ver } }
  let c := if c.agreed 40 then c
    else
      let c := [0, 1].foldl (fun c q => c.updPort q (fun p => { p with coding := 0 })) c
      { c with dev := { c.dev with dropCompat := some { port := q, tag := tag } } }
  c.cmdFinish 0 ([0, 4, 8, 12].map (fun i => c.reg (0x40 + i)))
/-- Ports in compatibility coding go down once the completion of the commit has been sent (R322, R363). -/
def Chip.dropPorts (c : Chip) : Chip :=
  match c.dev.dropCompat with
  | none => c
  | some w =>
    if c.cplWaits w then c
    else
      let c := { c with dev := { c.dev with dropCompat := none } }
      [0, 1].foldl (fun c q =>
        if (c.port q).up && (c.port q).compat then c.portDown q 8
        else if (c.port q).compat && (c.port q).running then c.rebring q false else c) c
/-- DEV_QUIESCE: it completes when the last admitted task has released its resources. -/
def Chip.quiesce (c : Chip) : Chip :=
  let c := (c.setMode .quiesce).stopBursts
  if c.anyAdmitted then c else c.cmdFinish 0
/-- DEV_RESUME. -/
def Chip.resumeReady (c : Chip) : Chip :=
  ({ c with dev := { c.dev with mode := if c.anyAdmitted then .running else .ready }
            sched := { c.sched with passDue := true } }).cmdFinish 0
/-- DEV_LOWPOWER: the idle times of R286 and R290 start. -/
def Chip.lowPower (c : Chip) : Chip :=
  ({ c with dev := { c.dev with mode := .lowpower }
            mem := { c.mem with
              lastReq := c.frc
              idleFrom := if bitOf (c.reg 0x00300008).toNat 31 then some c.frc else c.mem.idleFrom } }).cmdFinish 0
/-- WAKE_DONE: the timing generators have run for 50 µs, and the memory, in self-refresh only in LOWPOWER, has left it
(R290, R367). -/
def wakeDone (c : Chip) : Chip :=
  if c.executing (fun x => x == .devWake) then
    let c := if c.inSelfRefresh ∧ !c.switching then ((c.setField memStatus 30 30 0).setRun).restartTable else c
    let c := if c.dev.mode = .lowpower then
        { c with dev := { c.dev with mode := .ready }, sched := { c.sched with passDue := true } }
      else c
    c.cmdFinish 0
  else c

/-! ### Time (R336, R340) -/

/-- TIME_REARM: the servo enters ACQUIRE, may make one step again and collects afresh; the route, and the exchanges that its
path delay is the mean of, stay (R332). -/
def Chip.timeRearm (c : Chip) : Chip :=
  let c := (c.servo 1).setField 0x00320004 28 28 0
  ({ c with time := { c.time with outliers := 0 } }).cmdFinish 0
/-- TIME_ALIGN. -/
def Chip.timeAlign (c : Chip) : Chip :=
  if c.anyAdmitted then c.cmdFinish 1 [] c.dev.mode.code
  else if !c.agreed 13 then c.cmdFinish 7
  else ({ c with time := { c.time with alignArmed := true } }).cmdFinish 0

/-! ### Start and arrival (R369) -/

/-- A command begins to execute, in a cycle at whose start the device was c0. -/
def Chip.startCmd (c c0 : Chip) (h : CmdHdr) (x : Cmd) : Chip :=
  let c := { c with cmd := { c.cmd with exec := some (h, x) } }
  match x with
  | .negotiateCommit ver => c.commit ver h.port h.tag.toNat
  | .devReset => ({ c with dev := { c.dev with resetWait := some { port := h.port, tag := h.tag.toNat } } }).cmdFinish 0
  | .devQuiesce => c.quiesce
  | .devResume => c.resumeReady
  | .devLowpower => c.lowPower
  | .devWake => c
  | .snapshot => c.snapStart c0
  | .snapRelease k => c.snapRelease k
  | .imageLoad base => c.imageLoadStart base
  | .imageUnload k => c.imageUnload k
  | .taskCreate o =>
    let r := c.createTask o
    r.2.2.cmdFinish r.1 (if r.1 = 0 then [BitVec.ofNat 32 r.2.1] else [])
  | .taskCancel k =>
    match c.findTask k with
    | some n => c.cancelStart n
    | none => c.cmdFinish 3
  | .taskFlags k set clr =>
    match c.findTask k with
    | some n => c.raise (srcTask n) 0x8011 [.flags n (k / 4096) 1 set clr]
    | none => c.cmdFinish 3
  | .taskPrio k p =>
    let r := c.taskPrio k p
    r.2.2.cmdFinish r.1 [] r.2.1
  | .memRetrain mask => c.retrainStart mask
  | .memFsp target _ => c.judgeFsp target c.anyAdmitted
  | .timeRearm => c.timeRearm
  | .timeAlign => c.timeAlign
  | .calRun steps groups hits => c.calRunStart steps groups hits
  | .calStore => c.calStoreStart

/-- A command that a retrain refuses (R285, R286, R387). -/
def Chip.busyTraining (c : Chip) (x : Cmd) : Bool :=
  c.retraining && (match x with
    | .imageLoad _ | .imageUnload _ | .snapRelease _ | .calStore => true
    | .memFsp target flags => flags == 0 && target != c.fsp && !c.switching
    | _ => false)
/-- An operand outside its range: an IMAGE_LOAD's BASE is a multiple of 4,096 with a header inside the LPDDR5X (R137). -/
def Chip.badOperand (c : Chip) (x : Cmd) : Bool :=
  x.badOperand || (match x with
    | .imageLoad base => base % 4096 != 0 || decide (c.memBytes < base + 256)
    | _ => false)
/-- A refused IMAGE_LOAD is one more of source 319 (R390). -/
def Chip.refusedLoad (c : Chip) (x : Cmd) : Chip :=
  match x with
  | .imageLoad _ => c.count 319
  | _ => c
/-- A descriptor is judged, and enters the queue or starts, in a cycle at whose start the device was c0 (R369, R408). -/
def Chip.judgeCmd (c c0 : Chip) (h : CmdHdr) (x : Cmd) : Chip :=
  if !c.cmdOk x then c.cmdRefuse h 1 c.dev.mode.code
  else if h.dirty || c.badOperand x then (c.refusedLoad x).cmdRefuse h 2 0
  else if c.busyTraining x then c.cmdRefuse h 9 0
  else
    let c := (c.cntWrap 0x00010044).count 291
    if c.cmd.exec.isNone && c.cmd.queue == [] then c.startCmd c0 h x
    else
      let c := { c with cmd := { c.cmd with queue := c.cmd.queue ++ [(h, x)] } }
      (c.fieldMax 0x0001004C 5 0 c.cmd.queue.length).headFsp
/-- The CMD transaction t carries this command. -/
def carriesCmd (t : Txn) (h : CmdHdr) (x : Cmd) : Bool :=
  t.ttype == 5 && t.tag == h.tag && decodeDesc t.data == some (h.cmdId, x, h.dirty)
/-- The descriptor of a command arrives on a port: the oldest request accepted there, or with none accepted the arrival
itself on an up port (log entry 7). With 32 commands waiting it stays in its buffer (R408), and so it does while completions
hold every one (R311). -/
def Chip.cmdArrive (c : Chip) (h : CmdHdr) (x : Cmd) : Chip :=
  if 32 ≤ c.cmd.queue.length ∨ (c.port h.port).heldUp then c
  else
    let q : Nat := h.port
    let p := c.port q
    match p.rxq with
    | t :: ts => if carriesCmd t h x then ((c.setPort q { p with rxq := ts }).judgeCmd c h x).freeBuf q 1 else c
    | [] =>
      if !p.up then c
      else if h.tag.toNat ∈ p.tags then c.tagInUse q h.tag (cmdResult h [])
      else (c.setPort q { p with tags := p.tags ++ [h.tag.toNat] }).judgeCmd c h x

/-- COMMAND_START: the next waiting command is judged again and starts (R369). -/
def commandStart (c0 : Chip) : Chip :=
  if c0.cmd.exec.isSome ∨ c0.cmd.headDone then c0
  else match c0.cmd.queue with
  | [] => c0
  | (h, x) :: rest =>
    let c : Chip := { c0 with cmd := { c0.cmd with queue := rest } }
    if c.cmdOk x then c.startCmd c0 h x
    else ({ c with cmd := { c.cmd with exec := some (h, x) } }).cmdFinish 1 [] c.dev.mode.code

/-! ### Rows -/

/-- A command row: its descriptor arrives. -/
def State.onCmd (s : State) (h : CmdHdr) (x : Cmd) : Host.Outcome State Fault Refusal :=
  s.onChip (fun c => c.cmdArrive h x)

def execNegotiateCommit (h : CmdHdr) (driverVer : Word) (s : State) : Host.Outcome State Fault Refusal :=
  s.onCmd h (.negotiateCommit driverVer.toNat)
def execDevReset (h : CmdHdr) (s : State) : Host.Outcome State Fault Refusal := s.onCmd h .devReset
def execDevQuiesce (h : CmdHdr) (s : State) : Host.Outcome State Fault Refusal := s.onCmd h .devQuiesce
def execDevResume (h : CmdHdr) (s : State) : Host.Outcome State Fault Refusal := s.onCmd h .devResume
def execDevLowpower (h : CmdHdr) (s : State) : Host.Outcome State Fault Refusal := s.onCmd h .devLowpower
def execDevWake (h : CmdHdr) (s : State) : Host.Outcome State Fault Refusal := s.onCmd h .devWake
def execWakeDone (s : State) : Host.Outcome State Fault Refusal := s.onChip wakeDone
def execSnapshot (h : CmdHdr) (s : State) : Host.Outcome State Fault Refusal := s.onCmd h .snapshot
def execSnapRelease (h : CmdHdr) (handle : BitVec 16) (s : State) : Host.Outcome State Fault Refusal :=
  s.onCmd h (.snapRelease handle.toNat)
def execCommandStart (s : State) : Host.Outcome State Fault Refusal := s.onChip commandStart
def execImageLoad (h : CmdHdr) (base : Dword) (s : State) : Host.Outcome State Fault Refusal :=
  s.onCmd h (.imageLoad base.toNat)
def execImageUnload (h : CmdHdr) (handle : Byte) (s : State) : Host.Outcome State Fault Refusal :=
  s.onCmd h (.imageUnload handle.toNat)
def execTaskCreate (h : CmdHdr) (ops : TaskOps) (s : State) : Host.Outcome State Fault Refusal :=
  s.onCmd h (.taskCreate ops)
def execTaskCancel (h : CmdHdr) (handle : Word) (s : State) : Host.Outcome State Fault Refusal :=
  s.onCmd h (.taskCancel handle.toNat)
def execTaskFlags (h : CmdHdr) (handle : Word) (set clr : Dword) (s : State) : Host.Outcome State Fault Refusal :=
  s.onCmd h (.taskFlags handle.toNat set clr)
def execTaskPrio (h : CmdHdr) (handle : Word) (prio : Byte) (s : State) : Host.Outcome State Fault Refusal :=
  s.onCmd h (.taskPrio handle.toNat prio.toNat)
def execMemRetrain (h : CmdHdr) (mask : Byte) (s : State) : Host.Outcome State Fault Refusal :=
  s.onCmd h (.memRetrain mask.toNat)
def execMemFsp (h : CmdHdr) (target flags : Byte) (s : State) : Host.Outcome State Fault Refusal :=
  s.onCmd h (.memFsp target.toNat flags.toNat)
def execTimeRearm (h : CmdHdr) (s : State) : Host.Outcome State Fault Refusal := s.onCmd h .timeRearm
def execTimeAlign (h : CmdHdr) (s : State) : Host.Outcome State Fault Refusal := s.onCmd h .timeAlign
def execCalRun (h : CmdHdr) (steps groups : BitVec 16) (hitsLog2 : Byte) (s : State) :
    Host.Outcome State Fault Refusal := s.onCmd h (.calRun steps.toNat groups.toNat hitsLog2.toNat)
def execCalStore (h : CmdHdr) (s : State) : Host.Outcome State Fault Refusal := s.onCmd h .calStore

end Sys2Proof.Machine
end

