-- ==== Sys2Proof/Machine/MemRows.lean ====
section
/-! DEFINITION. MemRows.lean: the rows that say that a unit's LPDDR5X accesses are done. Each lets the slot tables run on until
they are (log entry 10): every access takes a slot, is counted and makes its draw, and where the tables cannot serve them
(stopped, or a request held back by a guard) the row changes nothing. -/

namespace Sys2Proof.Machine

/-- The tables run until p has no access left; then f, else nothing. -/
def whenServed (p : Who → Bool) (f : Memory → Chip → Chip) (d : Memory) (c : Chip) : Memory × Chip :=
  let r := awaitWho p d c
  if r.2.memHas p then (d, c) else (r.1, f r.1 r.2)

/-- SNAPSHOT_FRAME_WRITTEN: the whole frame is in LPDDR5X, and SNAPSHOT completes (R31). -/
def snapshotFrameWritten (d : Memory) (c : Chip) : Memory × Chip :=
  match c.snap.busy with
  | none => (d, c)
  | some (h, s, frc, _) =>
    whenServed Who.isSnap (fun _ c =>
      (({ c with snap := { c.snap with busy := none } }).raise (srcOf 15 50) 0x80D0).cmdFinish 0
        ([BitVec.ofNat 32 h, 0] ++ twoWords s ++ twoWords frc)) d c

/-- FREEZE_DONE (R181): the copy of context n is written. -/
def freezeDone (n : Nat) (d : Memory) (c : Chip) : Memory × Chip :=
  if (c.ctx n).freezing then whenServed (Who.isFreeze n) (fun d c => (c.freezeEnds n).startPreloads d) d c else (d, c)

/-- THAW_DONE (R166, R182, R186): both lines of the frozen copy of context n were read; with `bad` the first of them, and its
retry, could not be corrected (R283). -/
def thawDone (n : Nat) (bad : Bool) (d : Memory) (c : Chip) : Memory × Chip :=
  match (c.ctx n).move with
  | some (true, since) =>
    let r := awaitMem (fun r => bad && r.who == .thaw n 0) id (fun c => !c.memHas (Who.isThaw n)) (slotBound c 0) d c
    if r.2.memHas (Who.isThaw n) then (d, c)
    else
      let c := r.2.thawEnds n since
      let x := c.ctx n
      let c := if x.thawBad ∧ x.st = 5 ∧ x.pend = none ∧ !x.cancelDue then c.raiseEnd n 10 0x0105 else c
      (r.1, c.startPreloads r.1)
  | _ => (d, c)

/-- PRELOAD_END (R13): every group of context n holds what its burst starts with. -/
def preloadEnd (n : Nat) (d : Memory) (c : Chip) : Memory × Chip :=
  if !c.preloads n then (d, c)
  else
    let gs := c.taskGroups n
    let each (c : Chip) : Chip := gs.foldl (fun c g => c.fillAll g) c
    let held (c : Chip) : Bool := gs.all (fun g => (c.group g).loaded)
    let c1 := each c
    let lines := (gs.map (fun g => (c1.group g).resNeed.length + (c1.group g).hdrNeed.length +
      c1.ringLines g)).sum
    let r := awaitMem (fun _ => false) each held (slotBound c1 (64 * lines)) d c1
    if held r.2 then (r.1, r.2.finishPreload r.1 n) else (d, c)

/-- FIRN_LINE_FILLED: the oldest line of group g whose data reached Firn is READY, or discarded (R98). -/
def firnLineFilled (g : Nat) (d : Memory) (c : Chip) : Memory × Chip :=
  if (c.group g).arrived != [] then (d, c.fillArrived g)
  else if !c.memHas (Who.isFill g) then (d, c)
  else
    let r := awaitMem (fun _ => false) id (fun c => (c.group g).arrived != []) (slotBound c 0) d c
    if (r.2.group g).arrived == [] then (d, c) else (r.1, r.2.fillArrived g)

/-- RING_LINE_COMMIT (R205): the oldest line that ring k's drain issued is written, and commits. -/
def ringLineCommit (k : Nat) (d : Memory) (c : Chip) : Memory × Chip :=
  match (c.ring k).lines with
  | [] => (d, c)
  | l :: _ =>
    if l.written then (d, c.commitLine k)
    else whenServed (fun w => w == .ring k (l.off / 128)) (fun _ c => c.commitLine k) d c

/-- IMAGE_CHECK_DONE: every line that the check of an image asks for has come, the lines of `unc` twice uncorrectable, and the
check ends with its verdict (R137, R139). -/
def imageCheckDone (unc : Option Nat) (d : Memory) (c : Chip) : Memory × Chip :=
  match c.images.check with
  | none => (d, c)
  | some (base, _) =>
    if c.images.asked = 0 then (d, c) else
    let fails (r : Req) : Bool := r.who == .check && (match unc with
      | some a => a / 128 == r.addr / 128
      | none => false)
    let r := awaitMem fails id Chip.checkComplete (slotBound c (2 ^ 29)) d c
    if r.2.checkComplete then (r.1, r.2.imageVerdict r.1 base) else (d, c)

/-- CRC_DONE: the last line of unit u's DMA has come, or the line of `unc`, twice uncorrectable, and the feed ends (R254,
R283). -/
def crcDone (u : Nat) (unc : Option Nat) (d : Memory) (c : Chip) : Memory × Chip :=
  match c.crcDma.find? (fun e => e.1 = u) with
  | none => (d, c)
  | some (_, x) =>
    let fails (r : Req) : Bool := r.who.isDma u && (match unc with
      | some a => a / 128 == r.addr / 128
      | none => false)
    let r := awaitMem fails id (fun c => c.crcDmaEnds u) (slotBound c (x.left / 128 + 2)) d c
    if r.2.crcDmaEnds u then (r.1, r.2.crcFinish u) else (d, c)

def execSnapshotFrameWritten (s : State) : Host.Outcome State Fault Refusal := s.onBoth snapshotFrameWritten
def execFreezeDone (n : CtxNo) (s : State) : Host.Outcome State Fault Refusal := s.onBoth (freezeDone n)
def execThawDone (n : CtxNo) (uncorrectable : Bool) (s : State) : Host.Outcome State Fault Refusal :=
  s.onBoth (thawDone n uncorrectable)
def execPreloadEnd (n : CtxNo) (s : State) : Host.Outcome State Fault Refusal := s.onBoth (preloadEnd n)
def execFirnLineFilled (g : Grp) (s : State) : Host.Outcome State Fault Refusal := s.onBoth (firnLineFilled g)
def execRingLineCommit (k : Ring) (s : State) : Host.Outcome State Fault Refusal := s.onBoth (ringLineCommit k)
def execImageCheckDone (uncorrectable : Option Nat) (s : State) : Host.Outcome State Fault Refusal :=
  s.onBoth (imageCheckDone uncorrectable)
def execCrcDone (u : Fin 32) (uncorrectable : Option Nat) (s : State) : Host.Outcome State Fault Refusal :=
  s.onBoth (crcDone u uncorrectable)

end Sys2Proof.Machine
end

