-- ==== Sys2Proof/Machine/LinkRows.lean ====
section
/-! DEFINITION. LinkRows.lean: the commands of the Oction link (R293 to R322). Every received frame of a port that takes
frames is one check of the link frame unit (R258). -/

namespace Sys2Proof.Machine

/-- A link control frame whose CRC passed is received on an up port. -/
def Chip.ctrlChecked (c : Chip) (q : Nat) : Chip := if (c.port q).up then c.privCheck 0 1 0 else c
/-- A CMD transaction whose opcode R370 does not list completes with BAD_OPERAND (R369). -/
def unknownOpcode (t : Txn) : Bool := t.ttype == 5 && (decodeDesc t.data).isNone

def execClockCheckWindow (q : Port) (clockSeen : Bool) (ppm : Int) (s : State) : Host.Outcome State Fault Refusal :=
  s.onChip (clockCheckWindow q clockSeen ppm)
def execBringupStepDone (q : Port) (phases arrivals : List Nat) (s : State) : Host.Outcome State Fault Refusal :=
  s.onChip (bringupStepDone q phases arrivals)
def execBringupTimeout (q : Port) (s : State) : Host.Outcome State Fault Refusal := s.onChip (bringupTimeout q)
def execAutoCodingSwitch (q : Port) (s : State) : Host.Outcome State Fault Refusal := s.onChip (autoCodingSwitch q)
def execInitReceived (q : Port) (cc0 cc1 cc2 : BitVec 16) (tail : InitTail) (s : State) :
    Host.Outcome State Fault Refusal :=
  s.onChip (fun c =>
    let p := c.port q
    initReceived q [cc0.toNat, cc1.toNat, cc2.toNat] tail.ackValid
      (if p.up || (p.running && p.step == 6) then c.privCheck 0 1 0 else c))
def execLinkMarkerReceived (q : Port) (lane : Fin 4) (laneNum count : Byte) (s : State) :
    Host.Outcome State Fault Refusal := s.onChip (linkMarkerReceived q lane laneNum.toNat count.toNat)
def execLinkMarkerTimeout (q : Port) (lane : Fin 4) (s : State) : Host.Outcome State Fault Refusal :=
  s.onChip (linkMarkerTimeout q lane)
def execMfSweepDone (q : Port) (lane : Fin 4) (zeroError : BitVec 128) (s : State) :
    Host.Outcome State Fault Refusal := s.onChip (mfSweepDone q lane zeroError)
def execLossOfCommaAlignment (q : Port) (lane : Fin 4) (syms : List LaneSym) (s : State) :
    Host.Outcome State Fault Refusal := s.onChip (lossOfCommaAlignment q lane syms)
def execDataFrameReceived (q : Port) (seq : Byte) (cls : BitVec 2) (ack : Option Byte) (t : Txn) (s : State) :
    Host.Outcome State Fault Refusal :=
  s.onChip (dataFrameReceived q seq.toNat cls.toNat (ack.map (·.toNat)) t (unknownOpcode t))
def execBadFrameReceived (q : Port) (bad : BadFrame) (s : State) : Host.Outcome State Fault Refusal :=
  s.onChip (badFrameReceived q bad.crcMismatch (bad.lanes.map (fun e => (e.1.val, e.2))))
def execAckReceived (q : Port) (ack : Option Byte) (s : State) : Host.Outcome State Fault Refusal :=
  s.onChip (fun c => ackReceived q (ack.map (·.toNat)) (c.ctrlChecked q))
def execNakReceived (q : Port) (ack : Option Byte) (s : State) : Host.Outcome State Fault Refusal :=
  s.onChip (fun c => nakReceived q (ack.map (·.toNat)) (c.ctrlChecked q))
def execCreditReceived (head : FrameHead) (cc0 cc1 cc2 : BitVec 16) (s : State) :
    Host.Outcome State Fault Refusal :=
  s.onChip (fun c =>
    creditReceived head.port [cc0.toNat, cc1.toNat, cc2.toNat] (head.ack.map (·.toNat)) (c.ctrlChecked head.port))
def execResumeReceived (head : FrameHead) (lastRx : Byte) (rxValid : Bool) (s : State) :
    Host.Outcome State Fault Refusal :=
  s.onChip (fun c =>
    resumeReceived head.port lastRx.toNat rxValid (head.ack.map (·.toNat)) (c.ctrlChecked head.port))
def execReplayTimeout (q : Port) (s : State) : Host.Outcome State Fault Refusal := s.onChip (replayTimeout q)
def execNakResendTimeout (q : Port) (s : State) : Host.Outcome State Fault Refusal := s.onChip (nakResendTimeout q)
def execCreditTimer (q : Port) (s : State) : Host.Outcome State Fault Refusal := s.onChip (creditTimer q)
def execResumeTimeout (s : State) : Host.Outcome State Fault Refusal := s.onChip resumeTimeout
/-- A commit without feature bit 40 takes compatibility ports down once its completion has left (R322). -/
def execDataFrameSend (q : Port) (s : State) : Host.Outcome State Fault Refusal :=
  s.onChip (fun c => (dataFrameSend q c).dropPorts)
def execNotifyHoldExpiry (q : Port) (s : State) : Host.Outcome State Fault Refusal := s.onChip (notifyHoldExpiry q)

end Sys2Proof.Machine
end

