-- ==== Sys2Proof/Machine/RegRead.lean ====
section
/-! DEFINITION. RegRead.lean: what a register word reads, and register read transactions (R5, R8, R10, R11, R35, R404). -/

namespace Sys2Proof.Machine

/-- The register at an address, as the check-value mode leaves it (R249). -/
def Chip.findReg (c : Chip) (a : Nat) : Option (RegRow × List Nat × Nat) :=
  if 0x00240100 ≤ a ∧ a < 0x00241100 ∧ !c.crcExists ((a - 0x00240100) / 0x80) then none else Machine.findReg a
/-- Registers that respond before NEGOTIATE_COMMIT (R11, R364). -/
def early (a : Nat) : Bool :=
  a == 0 || a == 4 || a == 8 || (decide (0x18 ≤ a) && decide (a ≤ 0x4C)) ||
  (decide (0x10000 ≤ a) && decide (a ≤ 0x10024)) || a == 0x00240000
def Chip.responds (c : Chip) (a : Nat) : Bool := c.dev.committed || early a

/-! ### Live words -/

/-- Bit i is set where f i holds. -/
def maskOf (n : Nat) (f : Nat → Bool) : Nat := ((List.range n).map (fun i => if f i then 2 ^ i else 0)).sum
/-- Word k of a value of several words, given the address of its first word. -/
def wordAt (a first v : Nat) : Word := BitVec.ofNat 32 (v / 2 ^ (8 * (a - first)))

/-- Cirque and snapshots (R409). -/
def Chip.evtWord (c : Chip) (a : Nat) : Word :=
  match a % 0x10000 with
  | 0x00 | 0x04 => wordAt a 0x00020000 c.cirque.next
  | 0x08 => BitVec.ofNat 32 (b2n c.cirque.satur * 2 ^ 31 + maskOf 16 (fun p => tabGet [] c.cirque.queues p != []))
  | 0x20 | 0x24 => wordAt a 0x00020020 (maskOf 64 (fun h => c.snap.held.contains h))
  | 0x28 => BitVec.ofNat 32 (b2n c.snap.busy.isSome * 2 ^ 31 + c.snap.held.length)
  | 0x30 | 0x34 => wordAt a 0x00020030 c.snap.epochSeq
  | _ => c.reg a

/-- Pin groups: status, sequencer, skew (R80, R81, R136). -/
def Chip.grpWord (c : Chip) (a : Nat) : Word :=
  let g := a / 0x10000 - 0x10
  let o := a % 0x10000
  let x := c.group g
  if o = 0x38 then BitVec.ofNat 32 (b2n (c.grpOwned g) * 2 ^ 31 + b2n x.laneMode * 2 ^ 30 + b2n x.fckLock * 2 ^ 29 +
    b2n x.deskewOk * 2 ^ 28 + x.tset * 2 ^ 16 + x.pa * 2 ^ 8)
  else if o = 0x200 then
    BitVec.ofNat 32 (x.st * 2 ^ 29 + x.cause * 2 ^ 26 + x.walk.loops.length * 2 ^ 20 + x.walk.pc)
  else if o = 0x204 then BitVec.ofNat 32 (x.walk.seg.getD 0xFFFF * 2 ^ 16)
  else if o = 0x208 then BitVec.ofNat 32 x.shownPos
  else if o = 0x210 ∨ o = 0x214 then wordAt o 0x210 (x.frame - 1)
  else if 0x220 ≤ o ∧ o < 0x240 then BitVec.ofNat 32 ((x.walk.loops.reverse.getD ((o - 0x220) / 4) (0, 0)).2)
  else if 0x8000 ≤ o ∧ o % 0x800 = 0xC then
    let k := c.skew (8 * g + (o - 0x8000) / 0x800)
    BitVec.ofNat 32 (codeOf 16 k.1 * 2 ^ 16 + codeOf 16 k.2)
  else c.reg a

/-- Task scheduler (R186, R187). -/
def Chip.tskWord (c : Chip) (a : Nat) : Word :=
  let o := a % 0x10000
  if 0x100 ≤ o ∧ o < 0x120 then BitVec.ofNat 32 (c.qdepth ((o - 0x100) / 4))
  else if 0x3000 ≤ o then
    if c.sched.selFinal ≠ [] then c.sched.selFinal.getD ((o - 0x3000) / 4) 0
    else match c.sched.sel with
    | some (n, _) => (bytesToWords (c.ctxBytes n (c.ctx n) (c.ctx n).st)).getD ((o - 0x3000) / 4) 0
    | none => 0
  else c.reg a

/-- TDC (R227, R228). -/
def Chip.tdcWord (c : Chip) (a : Nat) : Word :=
  let o := a % 0x10000
  if o = 0x10 then BitVec.ofNat 32 (b2n c.tdc.busy.isSome * 2 ^ 31)
  else if o < 0x1000 then c.reg a
  else
    let p := (o - 0x1000) / 0x100
    let t := c.tdcPin p
    let b := a / 0x100 * 0x100
    let i := o % 0x100
    if i = 0 then BitVec.ofNat 32 (b2n (t.armed || t.ending) * 2 ^ 31 + b2n t.opened * 2 ^ 30 + b2n (t.opened && t.started) * 2 ^ 29 +
      b2n t.dead * 2 ^ 28 + c.field a 27 27 * 2 ^ 27 + t.lsb * 2 ^ 16 + (if t.armed || t.ending then t.plan % 2 ^ 12 else 0))
    else if i = 4 then BitVec.ofNat 32 t.left
    else if i = 0x10 ∨ i = 0x14 then wordAt a (b + 0x10) t.acc.count
    else if 0x18 ≤ i ∧ i < 0x24 then wordAt a (b + 0x18) (codeOf 96 t.acc.sum)
    else if 0x28 ≤ i ∧ i < 0x38 then wordAt a (b + 0x28) t.acc.sumsq
    else if i = 0xA8 then (if t.armed || t.ending then BitVec.ofInt 32 (c.tdcZero p t.startSrc t.stopSrc) else 0)
    else c.reg a

/-- Parametric monitor (R246, R248). -/
def Chip.adcRegWord (c : Chip) (a : Nat) : Word :=
  let o := a % 0x10000
  if o = 0x10 then BitVec.ofNat 32 (b2n c.adc.snap.isSome * 2 ^ 31)
  else if 0x100 ≤ o ∧ o < 0x500 ∧ o % 0x100 = 0x44 then BitVec.ofNat 32 (c.adcStatus (o / 0x100 - 1))
  else if 0x600 ≤ o ∧ o < 0x700 ∧ o % 0x10 = 0 then BitVec.ofNat 32 (c.xcmpStatus ((o - 0x600) / 0x10))
  else if 0x1000 ≤ o ∧ o % 0x40 = 0x2C then BitVec.ofNat 32 (c.accLive ((o - 0x1000) / 0x40))
  else c.reg a

/-- Check-value units (R257). -/
def Chip.crcRegWord (c : Chip) (a : Nat) : Word :=
  let o := a % 0x10000
  if o < 0x100 ∨ 0x2000 ≤ o then c.reg a
  else
    let u := (o - 0x100) / 0x80
    let i := (o - 0x100) % 0x80
    if i = 0x24 then
      BitVec.ofNat 32 (b2n (c.crcOwned u) * 2 ^ 31 + b2n (c.crcBusy u) * 2 ^ 30 + c.field a 29 29 * 2 ^ 29)
    else if i = 0x48 ∨ i = 0x4C then wordAt i 0x48 (c.crcResult u)
    else c.reg a

/-- Memory controller: MEM_STATUS, and the eye widths of the FSP in use (R287, R291, R292). -/
def Chip.memWord (c : Chip) (a : Nat) : Word :=
  let o := a % 0x10000
  if a = memStatus then c.memStatusWord
  else if 0x1000 ≤ o ∧ 0x80 ≤ o % 0x100 then
    (tabGet [] c.mem.eyes (b2n (bitOf c.memStatusWord.toNat 31))).getD (18 * ((o - 0x1000) / 0x100) + (o % 0x100 - 0x80) / 4) 0
  else c.reg a

/-- Link status (R323, R324). -/
def Chip.lnkWord (c : Chip) (a : Nat) : Word :=
  let o := a % 0x10000
  if o = 0x10 then BitVec.ofNat 32 (b2n (c.port 0).up * 2 ^ 31 + b2n (c.port 1).up * 2 ^ 30 + c.activePort * 2 ^ 29 +
    b2n (c.port 0).compat * 2 ^ 28 + b2n (c.port 1).compat * 2 ^ 27)
  else if o < 0x1000 then c.reg a
  else
    let p := c.port (o / 0x1000 - 1)
    let i := o % 0x1000
    if i = 0 then BitVec.ofNat 32 (b2n p.up * 2 ^ 31 + b2n p.compat * 2 ^ 30 + b2n p.clkLock * 2 ^ 29 +
      b2n p.deskewOk * 2 ^ 28 + p.step * 2 ^ 24 + p.txSeq * 2 ^ 8 + p.rxSeq)
    else if 0x180 ≤ i ∧ i < 0x18C then BitVec.ofNat 32 (p.txCred ((i - 0x180) / 4))
    else c.reg a

/-- Time (R337, R344). -/
def Chip.timWord (c : Chip) (a : Nat) : Word :=
  let o := a % 0x10000
  match o with
  | 0x10 | 0x14 => wordAt o 0x10 (nsOf c.timeNow)
  | 0x18 => BitVec.ofNat 32 (codeOf 16 c.timeNow)
  | 0x20 | 0x24 => wordAt o 0x20 c.frc
  | 0x28 | 0x2C => wordAt o 0x28 (nsOf c.time.offset)
  | 0x30 => BitVec.ofNat 32 (codeOf 16 c.time.offset)
  | 0x38 | 0x3C => wordAt o 0x38 c.time.anchor
  | 0x5C =>
    if c.reg a = 0xFFFFFFFF then c.reg a
    else
      let late := if c.time.st = 3 then 25 * ((c.frc - c.time.lastValid) / 1000000) else 0
      BitVec.ofNat 32 (min (1500 + (c.reg 0x00320058).toNat + late) 0xFFFFFFFF)
  | _ => c.reg a

/-- Event counters (R400). -/
def Chip.cntWord (c : Chip) (a : Nat) : Word :=
  let o := a % 0x10000
  if o = 0 then BitVec.ofNat 32 (b2n c.frozen * 2 ^ 31)
  else if o < 0x1000 ∨ 0x1800 ≤ o then c.reg a
  else
    let k := tabGet {} c.counters ((o - 0x1000) / 0x20)
    let i := o % 0x20
    if i = 0 then BitVec.ofNat 32 (b2n k.en * 2 ^ 31 + b2n k.wrap * 2 ^ 30 + b2n k.thrHit * 2 ^ 29 + k.src)
    else if i = 8 ∨ i = 0xC then wordAt i 8 k.thresh
    else if i = 0x10 ∨ i = 0x14 then wordAt i 0x10 k.count
    else c.reg a

/-- The word at a defined address as it reads now, apart from SNAP-class registers. -/
def Chip.liveWord (c : Chip) (a : Nat) : Word :=
  match a / 0x10000 with
  | 0x01 =>
    if a = 0x00010000 then BitVec.ofNat 32 c.devState
    else if a = 0x00010040 then BitVec.ofNat 32 c.cmdStatus else c.reg a
  | 0x02 => c.evtWord a
  | 0x20 => c.tskWord a
  | 0x21 =>
    let k := (a - 0x00216000) / 0x40
    if 0x00216000 ≤ a ∧ a % 0x40 = 0x2C then
      BitVec.ofNat 32 (b2n (c.ringOn k && !c.ringRoom k) * 2 ^ 31 + c.field a 30 30 * 2 ^ 30 + (c.ring k).tags)
    else c.reg a
  | 0x22 => c.tdcWord a
  | 0x23 => c.adcRegWord a
  | 0x24 => c.crcRegWord a
  | 0x25 =>
    let n := (a / 0x1000) % 16
    if a = sbB n + 4 then c.reg a ||| BitVec.ofNat 32 (b2n (c.sbPort n).frame.isSome * 2 ^ 30) else c.reg a
  | 0x30 => c.memWord a
  | 0x31 => c.lnkWord a
  | 0x32 => c.timWord a
  | 0x33 =>
    if a = 0x00330000 then c.reg a ||| BitVec.ofNat 32 (b2n (c.cal.vals != c.cal.stored) * 2 ^ 26) else c.reg a
  | 0x34 => c.cntWord a
  | b => if 0x10 ≤ b ∧ b ≤ 0x1B then c.grpWord a else c.reg a

/-- The word at a defined address (R8). -/
def Chip.readWord (c : Chip) (a : Nat) : Word :=
  match c.findReg a with
  | none => 0
  | some (r, _, w) =>
    if r.snap then wordOf (c.epochVal (a - 4 * w)).toNat w
    else c.liveWord a

/-! ### Clearing reads (R10) -/

/-- What the largest-value fields restart from. -/
def Chip.peakNow (c : Chip) (a : Nat) : Word :=
  if a = 0x0001004C then BitVec.ofNat 32 c.cmd.queue.length
  else if 0x00200120 ≤ a ∧ a < 0x00200140 then BitVec.ofNat 32 (c.qdepth ((a - 0x00200120) / 4))
  else if a = 0x00210068 then BitVec.ofNat 32 (c.ledger (morLed 1)).toNat
  else if 0x00301000 ≤ a ∧ a < 0x00301800 ∧ a % 0x100 = 0x58 then
    BitVec.ofNat 32 (c.memCh ((a - 0x00301000) / 0x100)).mitq.length
  else if 0x00311000 ≤ a ∧ a < 0x00313000 ∧ a % 0x10 = 8 ∧ 0x200 ≤ a % 0x1000 then 127
  else 0
/-- Every RCL field of a word clears as it is read. -/
def Chip.clearRead (c : Chip) (a : Nat) : Chip :=
  match c.findReg a with
  | some (r, _, w) =>
    if r.rcl = 0 then c
    else
      let m := wordOf r.rcl w
      c.setReg a ((c.reg a &&& ~~~m) ||| (c.peakNow a &&& m))
  | none => c

/-! ### Read transactions (R35, R313) -/

/-- Addresses of n words from a. -/
def wordAddrs (a n : Nat) : List Nat := (List.range n).map (fun i => a + 4 * i)
/-- The status that refuses a read, if any: ADDR_ERROR, then STATE_CONFLICT before commit. -/
def Chip.readFault (c : Chip) (a n : Nat) : Option Nat :=
  let as := wordAddrs a n
  if a % 4 ≠ 0 ∨ a / 0x10000 ≠ (a + 4 * n - 1) / 0x10000 ∨ as.any (fun x => (c.findReg x).isNone) then some 4
  else if as.any (fun x => !c.responds x) then some 1
  else none
/-- A register read takes effect in one core cycle: every word is sampled from the device c0 as it stood at the start of the
cycle (R437), then every clear acts. A refused read of one word returns 0 (R5, R11), a longer one no data. -/
def Chip.readRegs (c c0 : Chip) (q : Nat) (tag : Byte) (a n : Nat) : Chip :=
  match c.readFault a n with
  | some st => c.reply q tag st 0 0 (if n = 1 then [0] else [])
  | none =>
    let ws := (wordAddrs a n).map (fun x => c0.readWord x)
    ((wordAddrs a n).foldl (fun c x => c.clearRead x) c).reply q tag 0 0 0 ws

/-- REG_RD. -/
def regRd (q : Nat) (tag : Byte) (addr : Dword) (n : BitVec 16) (c : Chip) : Chip :=
  c.request q { ttype := 2, tag := tag, tlen := n, param := 0, addr := addr, data := [] }
    (fun d => d.readRegs c q tag addr.toNat n.toNat)

def execRegRd (q : Port) (tag : Byte) (addr : Dword) (n : BitVec 16) (s : State) : Host.Outcome State Fault Refusal :=
  s.onChip (regRd q tag addr n)

end Sys2Proof.Machine
end

