-- ==== Sys2Proof/Machine/RegWrite.lean ====
section
/-! DEFINITION. RegWrite.lean: register writes: the refusals of R406, pairs (R405), and what each register's write does
(R44 to R79, R170, R186, R203 to R207, R225, R231 to R257, R261 to R267, R282, R323, R335, R341, R342, R363, R388 to R400).
A write answers a status of R396 and the device. -/

namespace Sys2Proof.Machine

/-! ### Shared rules -/

/-- A write of a word by the types of its bits (R6, R8): RW bits take the value, a 1 clears W1C and RS bits. -/
def RegRow.merge (r : RegRow) (w : Nat) (old v : Word) : Word :=
  let rw := wordOf r.rw w
  ((old &&& ~~~rw) ||| (v &&& rw)) &&& ~~~(v &&& wordOf r.clr w)
/-- The plain write of a word; one that software cannot write ignores it (R8). -/
def Chip.plain (c : Chip) (r : RegRow) (w a : Nat) (v : Word) : Nat × Chip :=
  (0, if wordOf r.rw w = 0 ∧ wordOf r.clr w = 0 then c else c.setReg a (r.merge w (c.reg a) v))
/-- The plain write where a rule holds, else a status. -/
def Chip.plainIf (c : Chip) (ok : Bool) (st : Nat) (r : RegRow) (w a : Nat) (v : Word) : Nat × Chip :=
  if ok then c.plain r w a v else (st, c)

/-- Writes that ownership or an enabled unit refuses whatever their value (R44, R203, R239, R255, R342, R388). -/
def Chip.conflict (c : Chip) (a : Nat) : Bool :=
  let b := a / 0x10000
  let o := a % 0x10000
  match b with
  | 0x21 => decide (0x6000 ≤ o) && decide (o % 0x40 < 8) && c.ringOn ((o - 0x6000) / 0x40)
  | 0x23 =>
    if 0x1000 ≤ o then c.unitOwned (·.adcAcc) ((o - 0x1000) / 0x40)
    else if 0x600 ≤ o then c.unitOwned (·.xcmp) ((o - 0x600) / 0x10)
    else decide (0x100 ≤ o) && c.convOwned (o / 0x100 - 1)
  | 0x24 =>
    if o < 0x100 ∨ 0x2000 ≤ o then false
    else
      let u := (o - 0x100) / 0x80
      let i := (o - 0x100) % 0x80
      c.crcOwned u || (decide (8 ≤ i) && decide (i < 0x20) && !c.crcIdle u) ||
      ((i / 8 == 8 || i / 8 == 10) && (!c.crcCtx || !c.crcIdle u))
  | 0x32 => decide (0x100 ≤ o) && decide (o < 0x140) && decide (o % 16 < 8) && c.field (trigCtrl ((o - 0x100) / 16)) 31 31 == 1
  | 0x33 => bitOf (c.reg 0x00330000).toNat 31
  | _ => decide (0x10 ≤ b) && decide (b ≤ 0x1B) && !(decide (0x200 ≤ o) && decide (o < 0x300)) && c.grpOwned (b - 0x10)

/-! ### Pin groups (R46 to R73, R362) -/

/-- The edge words of lane j of an entry. -/
def Chip.laneEdgesOk (c : Chip) (entry j : Nat) : Bool :=
  let e := entry + 4 + 12 * j
  edgeRule (c.reg e).toNat (c.reg (e + 4)).toNat (c.reg (e + 8)).toNat
/-- A timing-set word: a valid entry keeps R60 in every lane. -/
def Chip.tsetWrite (c : Chip) (r : RegRow) (w a : Nat) (v : Word) : Nat × Chip :=
  let n := (c.plain r w a v).2
  let entry := a / 0x80 * 0x80
  let ok :=
    !bitOf (n.reg entry).toNat 31 ||
    (if a = entry then (List.range 9).all (n.laneEdgesOk entry)
     else if 108 < a - entry then true
     else n.laneEdgesOk entry ((a - entry - 4) / 12))
  if ok then (0, n) else (6, c)
/-- CLEAR of PIN_CHK_CTRL: the checker's counters and status (R73, R79); PIN_DESKEW keeps what it holds (DESIGN CHOICE, log
entry 40). -/
def Chip.chkClear (c : Chip) (p : Nat) : Chip :=
  let c := c.setReg (chkStatus p) 0
  ((c.setReg64 (pinB p + 0x68) 0).setReg64 (pinB p + 0x70) 0).setReg (pinB p + 0x78) 0
/-- A group, pin or timing-set word. -/
def Chip.grpWrite (c : Chip) (r : RegRow) (w a : Nat) (v : Word) : Nat × Chip :=
  let o := a % 0x10000
  let g := a / 0x10000 - 0x10
  let x := r.merge w (c.reg a) v
  let n := x.toNat
  if 0x2000 ≤ o ∧ o < 0x4000 then c.tsetWrite r w a v
  else if r.rw = 0 then c.plain r w a v
  else
    let k := if 0x8000 ≤ o then o % 0x800 else 0x1000
    let rule := levelRule o n (c.field (grpB g + 0x28) 11 0) && encodingRule o n &&
      (k != 0x10 || seedRule n (c.reg64 (a + 0x10))) && (k != 0x14 || decide (ringEnd n ≤ 3 * 2 ^ 20))
    let feat := ((k == 0x10 || k == 0x60) && bitsOf n 31 28 != 0 && !c.agreed 3) ||
      (o == 0x2C && bitsOf n 31 30 == 2 && !c.agreed 7) || (o == 0x2C && bitsOf n 31 30 == 3 && !c.agreed 8)
    if !rule then (6, c)
    else if feat then (7, c)
    else
      let p := 8 * g + (o - 0x8000) / 0x800
      let c := c.setReg a x
      if k = 4 then (0, c.settlePin p)
      else if o = 0x2C then (0, c.settleFck g)
      else if k = 0x60 ∧ bitOf v.toNat 0 then (0, c.chkClear p) else (0, c)

/-! ### Task scheduler (R170, R172, R186) -/

/-- Status that stands for a TSK_CTX_SEL write whose completion waits for a thaw. -/
def waits : Nat := 0x10000
/-- TSK_CTX_SEL. -/
def Chip.ctxSel (c : Chip) (h : Nat) : Nat × Chip :=
  match c.findTask h with
  | none => (3, c)
  | some n => if (c.ctx n).onChip then (0, c.select n) else (waits, c.askThaw n)
def Chip.tskWrite (c : Chip) (r : RegRow) (w a : Nat) (v : Word) : Nat × Chip :=
  if a = 0x00200000 then c.plainIf (decide (100 ≤ v.toNat) && decide (v.toNat ≤ 1000000)) 6 r w a v
  else if a = 0x00200004 then
    let n := (c.plain r w a v).2
    (0, { n with sched := { n.sched with passDue := true } })
  else if a = 0x00200098 then c.ctxSel v.toNat
  else c.plain r w a v

/-! ### Moraine (R200 to R207) -/

/-- A site that an admitted task holds is mapped to ring k. -/
def Chip.ringMapped (c : Chip) (k : Nat) : Bool :=
  (List.range 128).any (fun s => c.field (siteRingReg s) 3 0 == k && (c.siteOwner s).isSome)
/-- Ring k may be enabled with a size (R204). -/
def Chip.ringPlace (c : Chip) (k size : Nat) : Bool :=
  let b := c.reg64 (ringB k)
  b % 4096 == 0 && decide (b + size ≤ c.memBytes) && !meets b size c.freezeBase (2 ^ 21) &&
  c.images.loaded.all (fun e => !meets b size e.2.base e.2.len) &&
  (List.range 16).all (fun j => j == k || !c.ringOn j || !meets b size (c.reg64 (ringB j)) (c.ringSize j))
/-- MOR_RING_CFG[k]. -/
def Chip.ringCfgWrite (c : Chip) (k : Nat) (v : Word) : Nat × Chip :=
  let n := v.toNat
  let old := (c.reg (ringCfg k)).toNat
  let new := BitVec.ofNat 32 (bitsOf n 31 30 * 2 ^ 30 + bitsOf n 21 16 * 2 ^ 16)
  let en := bitOf n 31
  if c.ringOn k && (en || bitsOf n 30 30 != bitsOf old 30 30 || bitsOf n 21 16 != bitsOf old 21 16) then (1, c)
  else if !en && (decide (0 < (c.ring k).tags) || c.ringMapped k) then (1, c)
  else if bitsOf n 21 16 < 16 ∨ 32 < bitsOf n 21 16 then (6, c)
  else if !en then (0, c.setReg (ringCfg k) new)
  else if !c.ringPlace k (2 ^ bitsOf n 21 16) then (6, c)
  else
    let c := (((c.setReg (ringCfg k) new).setReg64 (ringWr k) 0).setReg64 (ringAck k) 0).setReg64 (ringPushed k) 0
    (0, c.setRing k {})
def Chip.morWrite (c : Chip) (r : RegRow) (w a : Nat) (v : Word) : Nat × Chip :=
  let o := a % 0x10000
  if o = 0 then c.plainIf (decide (64 ≤ v.toNat % 2 ^ 16)) 6 r w a v
  else if 0x1000 ≤ o ∧ o < 0x3000 ∧ o % 0x40 = 0x3C then
    c.plainIf (c.siteOwner ((o - 0x1000) / 0x40)).isNone 1 r w a v
  else if o < 0x6000 then c.plain r w a v
  else match o % 0x40 with
  | 0x08 => c.ringCfgWrite ((o - 0x6000) / 0x40) v
  | 0x0C => c.plainIf (decide (1 ≤ v.toNat % 2 ^ 18) && decide (v.toNat % 2 ^ 18 ≤ 131072)) 6 r w a v
  | 0x28 =>
    let p := c.plainIf (bitsOf v.toNat 31 16 != 0 && bitsOf v.toNat 15 0 != 0) 6 r w a v
    (p.1, if p.1 = 0 && c.ringOn ((o - 0x6000) / 0x40) then p.2.pushIfDue ((o - 0x6000) / 0x40) else p.2)
  | _ => c.plain r w a v

/-! ### TDC, parametric monitor, check values, sideband -/

/-- The pins that TDC_SNAP_MASK selects. -/
def Chip.tdcMask (c : Chip) : List Nat :=
  (List.range 96).filter (fun p => bitOf (c.reg (0x00220000 + 4 * (p / 32))).toNat (p % 32))
/-- TDC_SNAP_CMD (R225). -/
def Chip.tdcSnapCmd (c : Chip) (v : Nat) : Nat × Chip :=
  if !bitOf v 0 then (0, c)
  else if c.tdc.busy.isSome || (bitOf v 1 && c.tdcMask.any (fun p => c.unitOwned (·.tdcPins) p)) then (1, c)
  else (0, c.tdcSnapStart c.tdcMask (bitOf v 1) true)
/-- Parametric monitor (R231, R244, R246). -/
def Chip.adcWrite (c : Chip) (r : RegRow) (w a : Nat) (v : Word) : Nat × Chip :=
  let o := a % 0x10000
  if o = 0 then c.adcMuxsel v.toNat
  else if o = 4 then c.adcSnapCmd v.toNat
  else if 0x100 ≤ o ∧ o < 0x500 ∧ o % 0x100 = 0x40 then c.adcCtrl (o / 0x100 - 1) v.toNat
  else if 0x1000 ≤ o ∧ o % 0x40 = 0x2C then
    let u := (o - 0x1000) / 0x40
    (0, if bitOf v.toNat 30 then c.setAcc u { c.acc u with ovr := false } else c)
  else c.plain r w a v
/-- Check-value units (R249 to R257). -/
def Chip.crcWrite (c : Chip) (r : RegRow) (w a : Nat) (v : Word) : Nat × Chip :=
  let o := a % 0x10000
  if o = 0 then c.crcModeWrite v.toNat
  else if o < 0x100 ∨ 0x2000 ≤ o then c.plain r w a v
  else
    let u := (o - 0x100) / 0x80
    match (o - 0x100) % 0x80 with
    | 0x00 => c.crcCfgWrite u v.toNat
    | 0x20 => c.crcCtrlWrite u v.toNat
    | 0x34 => c.crcDataWrite u 4 v.toNat
    | 0x30 => c.plainIf (v != 0) 6 r w a v
    | 0x38 => c.crcDataWrite u 1 v.toNat
    | _ => c.plain r w a v
/-- Sideband responders (R261 to R267). -/
def Chip.sbrWrite (c : Chip) (r : RegRow) (w a : Nat) (v : Word) : Nat × Chip :=
  let o := a % 0x10000
  let n := o / 0x1000
  let i := o % 0x1000
  if i = 0 then c.sbrCfgWrite n v.toNat
  else if 0x20 ≤ i ∧ i < 0x40 then c.sbrHitWrite n ((i - 0x20) / 4) v
  else if 0x400 ≤ i then c.sbrTableWrite n ((i - 0x400) / 4) v
  else c.plain r w a v

/-! ### Memory controller, link, time, calibration, counters -/

/-- MEM_PWR, MEM_MITIG, MEM_POLL (R282, R291). -/
def Chip.memWrite (c : Chip) (r : RegRow) (w a : Nat) (v : Word) : Nat × Chip :=
  let n := v.toNat
  match a % 0x10000 with
  | 0x08 => c.plainIf (n % 2 ^ 16 != 0) 6 r w a v
  | 0x0C =>
    if c.anyAdmitted && n % 32 != c.field a 4 0 then (1, c)
    else c.plainIf (decide (8 ≤ n % 32) && decide (n % 32 ≤ 16)) 6 r w a v
  | 0x10 => c.plainIf (decide (100 ≤ n % 2 ^ 16) && decide (n % 2 ^ 16 ≤ 10000)) 6 r w a v
  | _ => c.plain r w a v
/-- LNK_PORT_CFG, LNK_TIMERS, LNK_MF_CFG (R319, R323). -/
def Chip.lnkWrite (c : Chip) (r : RegRow) (w a : Nat) (v : Word) : Nat × Chip :=
  let n := v.toNat
  match a % 0x10000 with
  | 0x00 => if bitOf n 31 && !c.agreed 15 then (7, c) else (0, ((c.plain r w a v).2).rehomeAll)
  | 0x08 => c.plainIf (decide (500 ≤ n % 2 ^ 16)) 6 r w a v
  | 0x0C => c.plainIf (decide (bitsOf n 14 8 ≤ bitsOf n 6 0)) 6 r w a v
  | _ => c.plain r w a v
/-- TIM_TRIG_CTRL[i] (R342, R362). -/
def Chip.trigCtrlWrite (c : Chip) (i : Nat) (v : Word) : Nat × Chip :=
  let a := trigCtrl i
  let n := v &&& BitVec.ofNat 32 (fld 31 31 + fld 3 0)
  let arm := bitOf v.toNat 31
  if bitOf (c.reg a).toNat 31 && arm then (1, c)
  else if arm && !c.agreed 14 then (7, c)
  else
    let c := c.setReg a n
    if arm && c.clocked && decide ((c.reg64 (trigTime i) : Int) * 65536 < c.timeNow) then
      (0, (c.cntUp 0x003200A8).fireTrig i)
    else (0, c)
/-- Time registers (R335, R341, R342, R344). -/
def Chip.timWrite (c : Chip) (r : RegRow) (w a : Nat) (v : Word) : Nat × Chip :=
  let n := v.toNat
  let o := a % 0x10000
  if o = 0 then c.plainIf (bitsOf n 31 30 != 3) 6 r w a v
  else if o = 4 then
    let d := (c.plain r w a v).2
    (0, if bitOf n 27 then d.setReg 0x00320058 0 else d)
  else if o = 8 then c.plainIf (decide (100 ≤ n) && decide (n ≤ 100000000)) 6 r w a v
  else if o = 0xA0 then
    if n % 256 < 8 ∨ 200 < n % 256 then (6, c)
    else
      let d := (c.plain r w a v).2
      (0, if bitOf n 31 then d.pulse 0 else d)
  else if 0x100 ≤ o ∧ o < 0x140 ∧ o % 16 = 8 then c.trigCtrlWrite ((o - 0x100) / 16) v
  else c.plain r w a v
/-- CAL_CHI_LIMIT, CAL_IDLE, CAL_DRIFT (R388). -/
def Chip.calWrite (c : Chip) (r : RegRow) (w a : Nat) (v : Word) : Nat × Chip :=
  let n := v.toNat
  match a % 0x10000 with
  | 4 => c.plainIf (decide (16 ≤ n % 2 ^ 16) && decide (n % 2 ^ 16 ≤ 1024)) 6 r w a v
  | 8 => c.plainIf (decide (500 ≤ n) && decide (n ≤ 20000)) 6 r w a v
  | _ => c.plain r w a v
/-- EVT_CNT_CFG[i] (R389 to R391). -/
def Chip.cntCfgWrite (c : Chip) (i n : Nat) : Nat × Chip :=
  if 320 ≤ n % 512 then (6, c)
  else
    let k := tabGet {} c.counters i
    let k : Counter := { k with en := bitOf n 31, src := n % 512, count := 0, wrap := k.wrap && !bitOf n 30,
                                thrHit := k.thrHit && !bitOf n 29 }
    (0, { c with counters := tabSet c.counters i k })
/-- EVT_CNT_CTRL (R391): the clear acts first. -/
def Chip.cntCtrlWrite (c : Chip) (n : Nat) : Nat × Chip :=
  let c := if bitOf n 30 then
      { c with counters := c.counters.map (fun (e : Nat × Counter) => (e.1, { e.2 with count := 0 })) }
    else c
  (0, { c with frozen := bitOf n 31 })
def Chip.cntWrite (c : Chip) (r : RegRow) (w a : Nat) (v : Word) : Nat × Chip :=
  let o := a % 0x10000
  if o = 0 then c.cntCtrlWrite v.toNat
  else if 0x1000 ≤ o ∧ o < 0x1800 ∧ o % 0x20 = 0 then c.cntCfgWrite ((o - 0x1000) / 0x20) v.toNat
  else c.plain r w a v

/-! ### One word, and a whole pair -/

/-- A write of a word that is no part of a RW pair. -/
def Chip.writeWord (c : Chip) (r : RegRow) (w a : Nat) (v : Word) : Nat × Chip :=
  if c.conflict a then (1, c)
  else match a / 0x10000 with
  | 0x00 => if 0x30 ≤ a ∧ a < 0x40 ∧ c.dev.committed then (1, c) else c.plain r w a v
  | 0x02 =>
    let d := (c.plain r w a v).2
    (0, if a = 0x00020008 ∧ bitOf v.toNat 31 then { d with cirque := { d.cirque with satur := false } } else d)
  | 0x20 => c.tskWrite r w a v
  | 0x21 => c.morWrite r w a v
  | 0x22 => if a = 0x0022000C then c.tdcSnapCmd v.toNat else c.plain r w a v
  | 0x23 => c.adcWrite r w a v
  | 0x24 => c.crcWrite r w a v
  | 0x25 => c.sbrWrite r w a v
  | 0x30 => c.memWrite r w a v
  | 0x31 => c.lnkWrite r w a v
  | 0x32 => c.timWrite r w a v
  | 0x33 => c.calWrite r w a v
  | 0x34 => c.cntWrite r w a v
  | b => if 0x10 ≤ b ∧ b ≤ 0x1B then c.grpWrite r w a v else c.plain r w a v

/-- A write of both halves of the RW pair whose low word is at a (R405). -/
def Chip.writePair (c : Chip) (a v : Nat) : Nat × Chip :=
  let o := a % 0x10000
  if c.conflict a then (1, c)
  else match a / 0x10000 with
  | 0x21 => if o % 0x40 = 0x18 then c.ackRing ((o - 0x6000) / 0x40) v else (0, c.setReg64 a v)
  | 0x24 =>
    let u := (o - 0x100) / 0x80
    match (o - 0x100) % 0x80 with
    | 0x08 => c.crcParamWrite u 0 v
    | 0x10 => c.crcParamWrite u 1 v
    | 0x18 => c.crcParamWrite u 2 v
    | 0x40 => c.crcRestore u false v
    | 0x50 => c.crcRestore u true v
    | _ => (0, c.setReg64 a v)
  | 0x34 => (0, { c with counters := tabUpd {} c.counters ((o - 0x1000) / 0x20) (fun k => { k with thresh := v % 2 ^ 48 }) })
  | b =>
    if 0x10 ≤ b ∧ b ≤ 0x1B then
      if o < 0x20 then (if periodRule v then (0, c.setReg64 a v) else (6, c))
      else if o % 0x800 = 0x20 ∧ !seedRule (c.reg (a - 0x10)).toNat v then (6, c)
      else (0, c.setReg64 a v)
    else (0, c.setReg64 a v)

/-- The staged half of a word, if one is held. -/
def Chip.staged (c : Chip) (a : Nat) : Option Word := (c.staging.find? (fun e => e.1 == a)).map (·.2)
/-- A write of one half of a pair (R405): it waits for the other half, or completes the pair. -/
def Chip.writeHalf (c : Chip) (w a : Nat) (v : Word) : Nat × Chip :=
  let lo := a - 4 * w
  if c.conflict lo then (1, { c with staging := tabDel (tabDel c.staging lo) (lo + 4) })
  else match c.staged (if w = 0 then lo + 4 else lo) with
  | none => (0, { c with staging := tabSet c.staging a v })
  | some x =>
    let both := if w = 0 then v.toNat + 2 ^ 32 * x.toNat else x.toNat + 2 ^ 32 * v.toNat
    ({ c with staging := tabDel (tabDel c.staging lo) (lo + 4) } : Chip).writePair lo both

/-! ### Write transactions (R313, R314, R404 to R406) -/

/-- A REG_WR under way: status and index of the first refused word, the low half of a pair whose high half follows in the
same transaction, a selection that waits for a thaw (index, context), and the rings whose ACK_ERR it set. -/
structure RegWr where
  bad : Option (Nat × Nat) := none
  low : Option Word := none
  wait : Option (Nat × Nat) := none
  acks : List Nat := []
  deriving DecidableEq, Repr

/-- Word i was answered with a status. -/
def RegWr.note (x : RegWr) (i st : Nat) : RegWr :=
  if st = 0 ∨ x.bad.isSome then x else { x with bad := some (st, i) }

/-- A refused acknowledgement of the pair at address a sets the ACK_ERR of its ring. -/
def RegWr.noteAck (x : RegWr) (a st : Nat) : RegWr :=
  if st = 6 then { x with acks := (List.range 16).filter (fun k => Machine.ringAck k == a) ++ x.acks } else x
/-- An ACK_ERR that this write set stays set, whatever clears it in the same cycle (R10). -/
def Chip.keepAckErr (c : Chip) (x : RegWr) : Chip := x.acks.foldl (fun c k => c.setField (ringStatus k) 30 30 1) c
/-- Word i of a REG_WR at address a; `more` says that a word follows. -/
def Chip.regWrWord (c : Chip) (x : RegWr) (i a : Nat) (v : Word) (more : Bool) : RegWr × Chip :=
  match c.findReg a with
  | none => ({ x with low := none }.note i 4, c)
  | some (r, _, w) =>
    if !c.responds a then (x.note i 1, c)
    else if r.pair then
      if w = 0 && more then ({ x with low := some v }, c)
      else match (if w = 1 then x.low else none) with
      | some l =>
        let c : Chip := { c with staging := tabDel (tabDel c.staging (a - 4)) a }
        let s := c.writePair (a - 4) (l.toNat + 2 ^ 32 * v.toNat)
        (({ x with low := none }.note (i - 1) s.1).noteAck (a - 4) s.1, s.2)
      | none =>
        let s := c.writeHalf w a v
        ((x.note i s.1).noteAck (a - 4 * w) s.1, s.2)
    else
      let s := c.writeWord r w a v
      if s.1 = waits then ({ x with wait := (c.findTask v.toNat).map (fun n => (i, n)) }, s.2)
      else (x.note i s.1, s.2)
/-- The words of a REG_WR in ascending order. -/
def Chip.regWrWords (c : Chip) (x : RegWr) (i a : Nat) : List Word → RegWr × Chip
  | [] => (x, c)
  | v :: vs =>
    let s := c.regWrWord x i a v (vs != [])
    s.2.regWrWords s.1 (i + 1) (a + 4) vs

/-- A register write takes effect; it completes at once, or with the thaw that its TSK_CTX_SEL waits for (R186). -/
def Chip.writeRegs (c : Chip) (q : Nat) (tag : Byte) (a : Nat) (vs : List Word) : Chip :=
  if a % 4 ≠ 0 then c.reply q tag 4
  else if a / 0x10000 ≠ (a + 4 * vs.length - 1) / 0x10000 then
    c.reply q tag 4 ((0x10000 - a % 0x10000) / 4)
  else
    let s := c.regWrWords {} 0 a vs
    let d := s.2.keepAckErr s.1
    match s.1.wait with
    | some (i, n) =>
      let w : SelWait := { q := q, tag := tag, word := i, n := n, gen := (d.ctx n).gen, s := c.lastSeq, bad := s.1.bad }
      { d with sched := { d.sched with selWait := d.sched.selWait ++ [w] } }
    | none =>
      match s.1.bad with
      | some (st, i) => d.reply q tag st i
      | none => d.reply q tag 0

/-- REG_WR of words at an address. -/
def regWr (q : Nat) (tag : Byte) (addr : Dword) (vs : List Word) (c : Chip) : Chip :=
  c.request q
    { ttype := 1, tag := tag, tlen := BitVec.ofNat 16 vs.length, param := 0, addr := addr, data := vs }
    (fun c => c.writeRegs q tag addr.toNat vs)
/-- A row that is the write of one register: a REG_WR of its words. -/
def State.onReg (s : State) (q : Port) (tag : Byte) (a : Nat) (vs : List Word) : Host.Outcome State Fault Refusal :=
  s.onChip (regWr q tag (BitVec.ofNat 64 a) vs)

/-! ### Rows -/

def execRegWr (q : Port) (tag : Byte) (addr : Dword) (words : List Word) (s : State) :
    Host.Outcome State Fault Refusal := s.onChip (regWr q tag addr words)
def execTskAgeLimitWrite (q : Port) (tag : Byte) (value : Word) (s : State) : Host.Outcome State Fault Refusal :=
  s.onReg q tag 0x00200004 [value]
def execTskCtxSel (q : Port) (tag : Byte) (value : Word) (s : State) : Host.Outcome State Fault Refusal :=
  s.onReg q tag 0x00200098 [value]
def execTimTrigArm (q : Port) (tag : Byte) (i : Fin 4) (value : Word) (s : State) : Host.Outcome State Fault Refusal :=
  s.onReg q tag (trigCtrl i) [value]
def execSyncoutPulse (q : Port) (tag : Byte) (value : Word) (s : State) : Host.Outcome State Fault Refusal :=
  s.onReg q tag 0x003200A0 [value]
def execAsymUncertainClear (q : Port) (tag : Byte) (value : Word) (s : State) : Host.Outcome State Fault Refusal :=
  s.onReg q tag 0x00320004 [value]
def execPinChkClear (q : Port) (tag : Byte) (p : Pin) (value : Word) (s : State) : Host.Outcome State Fault Refusal :=
  s.onReg q tag (pinB p + 0x60) [value]
/-- Both words in one REG_WR (R207, R405). -/
def execRingAckWrite (q : Port) (tag : Byte) (k : Ring) (value : Dword) (s : State) :
    Host.Outcome State Fault Refusal := s.onReg q tag (Machine.ringAck k) (twoWords value.toNat)
def execRingEnable (q : Port) (tag : Byte) (k : Ring) (value : Word) (s : State) : Host.Outcome State Fault Refusal :=
  s.onReg q tag (ringCfg k) [value]
def execRingDisable (q : Port) (tag : Byte) (k : Ring) (value : Word) (s : State) : Host.Outcome State Fault Refusal :=
  s.onReg q tag (ringCfg k) [value]
def execTdcSnapGo (q : Port) (tag : Byte) (value : Word) (s : State) : Host.Outcome State Fault Refusal :=
  s.onReg q tag 0x0022000C [value]
def execAdcLaunch (q : Port) (tag : Byte) (k : Conv) (value : Word) (s : State) : Host.Outcome State Fault Refusal :=
  s.onReg q tag (convB k + 0x40) [value]
def execAdcArm (q : Port) (tag : Byte) (k : Conv) (value : Word) (s : State) : Host.Outcome State Fault Refusal :=
  s.onReg q tag (convB k + 0x40) [value]
def execAdcDisarm (q : Port) (tag : Byte) (k : Conv) (value : Word) (s : State) : Host.Outcome State Fault Refusal :=
  s.onReg q tag (convB k + 0x40) [value]
def execAdcSnapGo (q : Port) (tag : Byte) (value : Word) (s : State) : Host.Outcome State Fault Refusal :=
  s.onReg q tag 0x00230004 [value]
def execAdcMuxselWrite (q : Port) (tag : Byte) (value : Word) (s : State) : Host.Outcome State Fault Refusal :=
  s.onReg q tag 0x00230000 [value]
def execCrcInit (q : Port) (tag : Byte) (u : Fin 32) (value : Word) (s : State) : Host.Outcome State Fault Refusal :=
  s.onReg q tag (crcB u + 0x20) [value]
def execCrcDmaGo (q : Port) (tag : Byte) (u : Fin 32) (value : Word) (s : State) : Host.Outcome State Fault Refusal :=
  s.onReg q tag (crcB u + 0x20) [value]
def execCrcData32 (q : Port) (tag : Byte) (u : Fin 32) (value : Word) (s : State) : Host.Outcome State Fault Refusal :=
  s.onReg q tag (crcB u + 0x34) [value]
def execCrcData8 (q : Port) (tag : Byte) (u : Fin 32) (value : Word) (s : State) : Host.Outcome State Fault Refusal :=
  s.onReg q tag (crcB u + 0x38) [value]
def execCrcModeWrite (q : Port) (tag : Byte) (value : Word) (s : State) : Host.Outcome State Fault Refusal :=
  s.onReg q tag 0x00240000 [value]
/-- CRC_RUN, or with `bits` CRC_BITS, in one two-word write (R256). -/
def execCrcRestore (q : Port) (tag : Byte) (u : Fin 32) (bits : Bool) (value : Dword) (s : State) :
    Host.Outcome State Fault Refusal := s.onReg q tag (crcB u + (if bits then 0x50 else 0x40)) (twoWords value.toNat)
def execSbrDisable (q : Port) (tag : Byte) (n : Fin 3) (value : Word) (s : State) : Host.Outcome State Fault Refusal :=
  s.onReg q tag (sbB n) [value]
def execSbrHitClear (q : Port) (tag : Byte) (n : Fin 3) (i : Fin 8) (value : Word) (s : State) :
    Host.Outcome State Fault Refusal := s.onReg q tag (sbB n + 0x20 + 4 * i) [value]
def execSbrTableWrite (q : Port) (tag : Byte) (n : Fin 3) (e : Byte) (value : Word) (s : State) :
    Host.Outcome State Fault Refusal := s.onReg q tag (sbTable n e.toNat) [value]
def execMemMitigWrite (q : Port) (tag : Byte) (value : Word) (s : State) : Host.Outcome State Fault Refusal :=
  s.onReg q tag 0x0030000C [value]
def execEvtCntCfgWrite (q : Port) (tag : Byte) (i : Fin 64) (value : Word) (s : State) :
    Host.Outcome State Fault Refusal := s.onReg q tag (0x00341000 + 0x20 * i) [value]
def execCounterFreeze (q : Port) (tag : Byte) (value : Word) (s : State) : Host.Outcome State Fault Refusal :=
  s.onReg q tag 0x00340000 [value]
def execClearAll (q : Port) (tag : Byte) (value : Word) (s : State) : Host.Outcome State Fault Refusal :=
  s.onReg q tag 0x00340000 [value]

end Sys2Proof.Machine
end

