-- ==== Sys2Proof/Machine/Sequencer.lean ====
section
/-! DEFINITION. Sequencer.lean: the sequence words and the group sequencer's other happenings (R105 to R135). A word's row is
the frame boundary at which that word's first frame begins; at a boundary at which another word begins it changes
nothing (log entry 14). -/

namespace Sys2Proof.Machine

/-- The boundary of group g, if it begins a frame of a word with this opcode. -/
def Chip.wordRow (c : Chip) (g op : Nat) : Chip :=
  let r := c.boundary g
  if r.1.op = some op then r.2 else c
/-- The boundary of group g, if it comes to a certain end. -/
def Chip.beatRow (c : Chip) (g : Nat) (p : Happen → Bool) : Chip :=
  let r := c.boundary g
  if p r.1 then r.2 else c

def segWord (g : Nat) (c : Chip) : Chip := c.wordRow g 2
def framesWord (g : Nat) (c : Chip) : Chip := c.wordRow g 1
def loopWord (g : Nat) (c : Chip) : Chip := c.wordRow g 3
def endlWord (g : Nat) (c : Chip) : Chip := c.wordRow g 4
def jmpWord (g : Nat) (c : Chip) : Chip := c.wordRow g 5
def jcondWord (g : Nat) (c : Chip) : Chip := c.wordRow g 6
def modeWord (g : Nat) (c : Chip) : Chip := c.wordRow g 7
def tsetWordRow (g : Nat) (c : Chip) : Chip := c.wordRow g 8
def pslotWord (g : Nat) (c : Chip) : Chip := c.wordRow g 9
def armtWord (g : Nat) (c : Chip) : Chip := c.wordRow g 0xA
def adctWord (g : Nat) (c : Chip) : Chip := c.wordRow g 0xB
def setfWord (g : Nat) (c : Chip) : Chip := c.wordRow g 0xC
def waitfWord (g : Nat) (c : Chip) : Chip := c.wordRow g 0xD
def capmWord (g : Nat) (c : Chip) : Chip := c.wordRow g 0xE
def syncWord (g : Nat) (c : Chip) : Chip := c.wordRow g 0xF
/-- END begins its frame, or at that frame's end ends the group (R127). -/
def endWordRow (g : Nat) (c : Chip) : Chip := c.wordRow g 0x10

/-- FRAME_BOUNDARY: whatever the boundary brings. -/
def frameBoundary (g : Nat) (c : Chip) : Chip := (c.boundary g).2
/-- JCOND_TIMEOUT (R118). -/
def jcondTimeout (g : Nat) (c : Chip) : Chip := c.beatRow g (fun h => h.fell)
/-- UNDERRUN (R130, R131) and STALL (R132). -/
def underrun (g : Nat) (c : Chip) : Chip := c.beatRow g (fun h => h.beat == .underran)
def stall (g : Nat) (c : Chip) : Chip := c.beatRow g (fun h => h.beat == .stalls)

/-- A group of the task has begun the frame at the time of group g's next boundary. -/
def Chip.begun (c : Chip) (n g : Nat) : Bool :=
  let b := 512 * (c.group g).epoch + uiStart (c.period g (c.group g).pa) (c.group g).ui
  (c.peers n g).any (fun h => decide ((c.group h).frame ≠ 0) && decide (c.frameStart h = b))
/-- A fault of program memory (R134): a parity error now, or an invalid TSET met before; the burst ends at the next
boundary. One met once a peer has begun the frame there is met in that frame; one met in a pause ends it. -/
def progFault (g : Nat) (parity : Bool) (c : Chip) : Chip :=
  let x := c.group g
  match x.owner with
  | none => c
  | some n =>
    if x.st = 0 ∨ x.st = 5 ∨ !(parity || x.faultDue) then c
    else
      let late := !x.faultDue && (x.st == 1 || x.st == 2) && c.begun n g
      let c := if late then (c.boundary g).2 else c
      let y := c.group g
      let c := if y.st = 0 ∨ y.st = 5 then c else c.setGroup g { y with faultDue := true }
      if late then c else (c.boundary g).2

/-- SOURCE of a parity error inside a block, whose base it is told by: the pin group of an address space of its own, else the
chip (R24, R395; DESIGN CHOICE, log entry 79). -/
def srcBlock (b : Nat) : Nat := if 0x10 ≤ b ∧ b ≤ 0x1B then srcSeq (b - 0x10) else srcOf 14 0
/-- SEQ_FAULT: a fault that a program memory meets (R134), or a parity error inside another memory (R395, R397). -/
def seqFault (g : Nat) (parity : ParityAt) (c : Chip) : Chip :=
  match parity with
  | .nowhere => progFault g false c
  | .program => progFault g true c
  | .block b => c.raiseErr (srcBlock b.val) 0x0315 b.val 0

/-- The hold frames of group g pass, then the boundary that ends its SYNC (R125, R126). -/
def Chip.holdTo (c : Chip) (g : Nat) : Happen × Chip := (c.holdFrames g (c.group g).holdsLeft).boundary g
/-- SYNC_HOLD_END (R125). -/
def syncHoldEnd (g : Nat) (c : Chip) : Chip :=
  let x := c.group g
  if x.inSync && x.syncEnd.isSome then
    let r := c.holdTo g
    if r.1.edge then r.2 else c
  else c
/-- SYNC_TIMEOUT (R126). -/
def syncTimeout (g : Nat) (c : Chip) : Chip :=
  let x := c.group g
  if x.inSync && x.syncEnd.isNone then
    let r := c.holdTo g
    if r.1.late then r.2 else c
  else c

/-- When the condition of a WAITF pause became true, in fine units of the TM count: at once when the view already shows it,
else the first change that makes it true, 8 ns before it is seen (R123, R124). -/
def Ctx.waitMet (x : Ctx) (w : SeqWord) (now pause : Nat) : Option Nat :=
  go (x.viewPend.filter (fun e => pause < e.1)) (x.viewAt pause)
where
  go : List (Nat × Nat × Dword × Dword) → Dword → Option Nat
    | [], v => if w.waitTrue v then some now else none
    | e :: es, v =>
      let v := flagWrite v e.2.2.1 e.2.2.2
      if w.waitTrue v then some e.2.1 else go es v
/-- WAITF_RESUME (R124): 8 ns after the condition became true. -/
def waitfResume (g : Nat) (c : Chip) : Chip :=
  let x := c.group g
  match x.owner with
  | some n =>
    if x.st = 3 then
      match (c.ctx n).waitMet (x.word x.walk.pc) (512 * c.tm) (512 * x.epoch + x.pauseFrom) with
      | some t => (c.resume g (t + 65536 - 512 * x.epoch) false).2
      | none => c
    else c
  | none => c
/-- WAIT_TIMEOUT (R124): TIMEOUT µs after the pause began, and 8 ns as for a resume. -/
def waitTimeout (g : Nat) (c : Chip) : Chip :=
  let x := c.group g
  let us := (x.word x.walk.pc).w3
  if x.st = 3 ∧ us ≠ 0 then
    let fine := x.pauseFrom + us * 1000 * 8192
    let c := c.advanceTo (x.epoch + fine / 512)
    let c := (c.cntUp (seqB g + 0x48)).raise (srcSeq g) 0x8021 [] none x.walk.pc
    (c.resume g (fine + 128 * 512) false).2
  else c
/-- STALL_RESUME (R132): 16 ns after the missing frame is in Q-PLAY, which is now; nothing while it is still missing. -/
def stallResume (g : Nat) (c : Chip) : Chip :=
  let x := c.group g
  if x.st = 4 then
    let r := c.resume g (512 * (c.tm + 256 - x.epoch)) true
    if r.1.beat = .stalls then c else r.2
  else c

/-! ### Rows -/

def execSeg (g : Grp) (s : State) : Host.Outcome State Fault Refusal := s.onChip (segWord g)
def execFrames (g : Grp) (s : State) : Host.Outcome State Fault Refusal := s.onChip (framesWord g)
def execLoop (g : Grp) (s : State) : Host.Outcome State Fault Refusal := s.onChip (loopWord g)
def execEndl (g : Grp) (s : State) : Host.Outcome State Fault Refusal := s.onChip (endlWord g)
def execJmp (g : Grp) (s : State) : Host.Outcome State Fault Refusal := s.onChip (jmpWord g)
def execJcond (g : Grp) (s : State) : Host.Outcome State Fault Refusal := s.onChip (jcondWord g)
def execJcondTimeout (g : Grp) (s : State) : Host.Outcome State Fault Refusal := s.onChip (jcondTimeout g)
def execMode (g : Grp) (s : State) : Host.Outcome State Fault Refusal := s.onChip (modeWord g)
def execTset (g : Grp) (s : State) : Host.Outcome State Fault Refusal := s.onChip (tsetWordRow g)
def execPslot (g : Grp) (s : State) : Host.Outcome State Fault Refusal := s.onChip (pslotWord g)
def execArmt (g : Grp) (s : State) : Host.Outcome State Fault Refusal := s.onChip (armtWord g)
def execAdct (g : Grp) (s : State) : Host.Outcome State Fault Refusal := s.onChip (adctWord g)
def execSetf (g : Grp) (s : State) : Host.Outcome State Fault Refusal := s.onChip (setfWord g)
def execWaitf (g : Grp) (s : State) : Host.Outcome State Fault Refusal := s.onChip (waitfWord g)
def execWaitfResume (g : Grp) (s : State) : Host.Outcome State Fault Refusal := s.onChip (waitfResume g)
def execWaitTimeout (g : Grp) (s : State) : Host.Outcome State Fault Refusal := s.onChip (waitTimeout g)
def execCapm (g : Grp) (s : State) : Host.Outcome State Fault Refusal := s.onChip (capmWord g)
def execSync (g : Grp) (s : State) : Host.Outcome State Fault Refusal := s.onChip (syncWord g)
def execSyncHoldEnd (g : Grp) (s : State) : Host.Outcome State Fault Refusal := s.onChip (syncHoldEnd g)
def execSyncTimeout (g : Grp) (s : State) : Host.Outcome State Fault Refusal := s.onChip (syncTimeout g)
def execEndWord (g : Grp) (s : State) : Host.Outcome State Fault Refusal := s.onChip (endWordRow g)
def execFrameBoundary (g : Grp) (s : State) : Host.Outcome State Fault Refusal := s.onChip (frameBoundary g)
def execUnderrun (g : Grp) (s : State) : Host.Outcome State Fault Refusal := s.onChip (underrun g)
def execStall (g : Grp) (s : State) : Host.Outcome State Fault Refusal := s.onChip (stall g)
def execStallResume (g : Grp) (s : State) : Host.Outcome State Fault Refusal := s.onChip (stallResume g)
def execSeqFault (g : Grp) (parity : ParityAt) (s : State) : Host.Outcome State Fault Refusal := s.onChip (seqFault g parity)

end Sys2Proof.Machine
end

