-- ==== Sys2Proof/Machine/Dispatch.lean ====
section
/-! DEFINITION. Dispatch.lean: one arm per command, each a direct call of its meaning. -/

namespace Sys2Proof.Machine

def exec (i : Instr) (s : State) : Host.Outcome State Fault Refusal :=
  match i with
  | .powerOnReset lowNs straps pin => Sys2Proof.Machine.execPowerOnReset lowNs straps pin s
  | .systemReset lowNs straps => Sys2Proof.Machine.execSystemReset lowNs straps s
  | .devReset h => Sys2Proof.Machine.execDevReset h s
  | .commandResetStart => Sys2Proof.Machine.execCommandResetStart s
  | .masterPllLock draw => Sys2Proof.Machine.execMasterPllLock draw s
  | .pllLockTimeout => Sys2Proof.Machine.execPllLockTimeout s
  | .pllUnlock => Sys2Proof.Machine.execPllUnlock s
  | .refclkLoss => Sys2Proof.Machine.execRefclkLoss s
  | .refclkRange ppm => Sys2Proof.Machine.execRefclkRange ppm s
  | .tjHigh site deciC => Sys2Proof.Machine.execTjHigh site deciC s
  | .tjTrip site deciC => Sys2Proof.Machine.execTjTrip site deciC s
  | .flashReadyPoll sfdpOk quad densityMb => Sys2Proof.Machine.execFlashReadyPoll sfdpOk quad densityMb s
  | .nvmTimeout => Sys2Proof.Machine.execNvmTimeout s
  | .spiReadTimeout => Sys2Proof.Machine.execSpiReadTimeout s
  | .configImageApplied flash more => Sys2Proof.Machine.execConfigImageApplied flash more s
  | .calUnitDone unit r => Sys2Proof.Machine.execCalUnitDone unit r s
  | .calUnitTimeout unit => Sys2Proof.Machine.execCalUnitTimeout unit s
  | .calStepDone temps => Sys2Proof.Machine.execCalStepDone temps s
  | .calRun h steps groups hitsLog2 => Sys2Proof.Machine.execCalRun h steps groups hitsLog2 s
  | .calStore h => Sys2Proof.Machine.execCalStore h s
  | .calStoreCommit store => Sys2Proof.Machine.execCalStoreCommit store s
  | .calDrift temps => Sys2Proof.Machine.execCalDrift temps s
  | .trainFspDone fsp failed eyes => Sys2Proof.Machine.execTrainFspDone fsp failed eyes s
  | .memRetrain h mask => Sys2Proof.Machine.execMemRetrain h mask s
  | .clockCheckWindow q clockSeen ppm => Sys2Proof.Machine.execClockCheckWindow q clockSeen ppm s
  | .bringupStepDone q phases arrivals => Sys2Proof.Machine.execBringupStepDone q phases arrivals s
  | .bringupTimeout q => Sys2Proof.Machine.execBringupTimeout q s
  | .autoCodingSwitch q => Sys2Proof.Machine.execAutoCodingSwitch q s
  | .initReceived q cc0 cc1 cc2 tail => Sys2Proof.Machine.execInitReceived q cc0 cc1 cc2 tail s
  | .linkMarkerReceived q lane laneNum count => Sys2Proof.Machine.execLinkMarkerReceived q lane laneNum count s
  | .linkMarkerTimeout q lane => Sys2Proof.Machine.execLinkMarkerTimeout q lane s
  | .mfSweepDone q lane zeroError => Sys2Proof.Machine.execMfSweepDone q lane zeroError s
  | .dataFrameReceived q seq cls ack t => Sys2Proof.Machine.execDataFrameReceived q seq cls ack t s
  | .badFrameReceived q bad => Sys2Proof.Machine.execBadFrameReceived q bad s
  | .ackReceived q ack => Sys2Proof.Machine.execAckReceived q ack s
  | .nakReceived q ack => Sys2Proof.Machine.execNakReceived q ack s
  | .creditReceived head cc0 cc1 cc2 => Sys2Proof.Machine.execCreditReceived head cc0 cc1 cc2 s
  | .resumeReceived head lastRx rxValid => Sys2Proof.Machine.execResumeReceived head lastRx rxValid s
  | .replayTimeout q => Sys2Proof.Machine.execReplayTimeout q s
  | .nakResendTimeout q => Sys2Proof.Machine.execNakResendTimeout q s
  | .creditTimer q => Sys2Proof.Machine.execCreditTimer q s
  | .resumeTimeout => Sys2Proof.Machine.execResumeTimeout s
  | .dataFrameSend q => Sys2Proof.Machine.execDataFrameSend q s
  | .notifyHoldExpiry q => Sys2Proof.Machine.execNotifyHoldExpiry q s
  | .regWr q tag addr words => Sys2Proof.Machine.execRegWr q tag addr words s
  | .regRd q tag addr n => Sys2Proof.Machine.execRegRd q tag addr n s
  | .blkWr q tag addr bytes => Sys2Proof.Machine.execBlkWr q tag addr bytes s
  | .blkRd q tag addr lines => Sys2Proof.Machine.execBlkRd q tag addr lines s
  | .ringAck q tag k value => Sys2Proof.Machine.execRingAck q tag k value s
  | .ringAckWrite q tag k value => Sys2Proof.Machine.execRingAckWrite q tag k value s
  | .syncMessage q seqid route clean sub => Sys2Proof.Machine.execSyncMessage q seqid route clean sub s
  | .follow q seqid route t1 frac clean => Sys2Proof.Machine.execFollow q seqid route t1 frac clean s
  | .delayReq q now => Sys2Proof.Machine.execDelayReq q now s
  | .delayResp q seqid devnum t4 frac clean => Sys2Proof.Machine.execDelayResp q seqid devnum t4 frac clean s
  | .exchangeMissed => Sys2Proof.Machine.execExchangeMissed s
  | .rateFold => Sys2Proof.Machine.execRateFold s
  | .timeHoldEnd => Sys2Proof.Machine.execTimeHoldEnd s
  | .timeRearm h => Sys2Proof.Machine.execTimeRearm h s
  | .timeAlign h => Sys2Proof.Machine.execTimeAlign h s
  | .syncinEdge half high => Sys2Proof.Machine.execSyncinEdge half high s
  | .trigIn j half high => Sys2Proof.Machine.execTrigIn j half high s
  | .syncinLong j => Sys2Proof.Machine.execSyncinLong j s
  | .inputRearm j => Sys2Proof.Machine.execInputRearm j s
  | .trigFire j => Sys2Proof.Machine.execTrigFire j s
  | .timTrigArm q tag j value => Sys2Proof.Machine.execTimTrigArm q tag j value s
  | .syncoutPulse q tag value => Sys2Proof.Machine.execSyncoutPulse q tag value s
  | .asymUncertainClear q tag value => Sys2Proof.Machine.execAsymUncertainClear q tag value s
  | .eventAccept => Sys2Proof.Machine.execEventAccept s
  | .linkWrite => Sys2Proof.Machine.execLinkWrite s
  | .snapshot h => Sys2Proof.Machine.execSnapshot h s
  | .snapshotFrameWritten => Sys2Proof.Machine.execSnapshotFrameWritten s
  | .snapRelease h handle => Sys2Proof.Machine.execSnapRelease h handle s
  | .commandStart => Sys2Proof.Machine.execCommandStart s
  | .negotiateCommit h driverVer => Sys2Proof.Machine.execNegotiateCommit h driverVer s
  | .devQuiesce h => Sys2Proof.Machine.execDevQuiesce h s
  | .devResume h => Sys2Proof.Machine.execDevResume h s
  | .devLowpower h => Sys2Proof.Machine.execDevLowpower h s
  | .devWake h => Sys2Proof.Machine.execDevWake h s
  | .wakeDone => Sys2Proof.Machine.execWakeDone s
  | .imageLoad h base => Sys2Proof.Machine.execImageLoad h base s
  | .imageCheckDone uncorrectable => Sys2Proof.Machine.execImageCheckDone uncorrectable s
  | .imageUnload h handle => Sys2Proof.Machine.execImageUnload h handle s
  | .taskCreate h ops => Sys2Proof.Machine.execTaskCreate h ops s
  | .taskCancel h handle => Sys2Proof.Machine.execTaskCancel h handle s
  | .taskFlags h handle set clr => Sys2Proof.Machine.execTaskFlags h handle set clr s
  | .taskPrio h handle prio => Sys2Proof.Machine.execTaskPrio h handle prio s
  | .memFsp h target flags => Sys2Proof.Machine.execMemFsp h target flags s
  | .tickBoundary => Sys2Proof.Machine.execTickBoundary s
  | .tskAgeLimitWrite q tag value => Sys2Proof.Machine.execTskAgeLimitWrite q tag value s
  | .tskCtxSel q tag value => Sys2Proof.Machine.execTskCtxSel q tag value s
  | .admissionPass => Sys2Proof.Machine.execAdmissionPass s
  | .admitTimeout n => Sys2Proof.Machine.execAdmitTimeout n s
  | .freezeDone n => Sys2Proof.Machine.execFreezeDone n s
  | .thawDone n uncorrectable => Sys2Proof.Machine.execThawDone n uncorrectable s
  | .preloadEnd n => Sys2Proof.Machine.execPreloadEnd n s
  | .burstStart n => Sys2Proof.Machine.execBurstStart n s
  | .taskDrainDone n => Sys2Proof.Machine.execTaskDrainDone n s
  | .coreLoadWindow => Sys2Proof.Machine.execCoreLoadWindow s
  | .seg g => Sys2Proof.Machine.execSeg g s
  | .frames g => Sys2Proof.Machine.execFrames g s
  | .loop g => Sys2Proof.Machine.execLoop g s
  | .endl g => Sys2Proof.Machine.execEndl g s
  | .jmp g => Sys2Proof.Machine.execJmp g s
  | .jcond g => Sys2Proof.Machine.execJcond g s
  | .jcondTimeout g => Sys2Proof.Machine.execJcondTimeout g s
  | .mode g => Sys2Proof.Machine.execMode g s
  | .tset g => Sys2Proof.Machine.execTset g s
  | .pslot g => Sys2Proof.Machine.execPslot g s
  | .armt g => Sys2Proof.Machine.execArmt g s
  | .adct g => Sys2Proof.Machine.execAdct g s
  | .setf g => Sys2Proof.Machine.execSetf g s
  | .waitf g => Sys2Proof.Machine.execWaitf g s
  | .waitfResume g => Sys2Proof.Machine.execWaitfResume g s
  | .waitTimeout g => Sys2Proof.Machine.execWaitTimeout g s
  | .capm g => Sys2Proof.Machine.execCapm g s
  | .sync g => Sys2Proof.Machine.execSync g s
  | .syncHoldEnd g => Sys2Proof.Machine.execSyncHoldEnd g s
  | .syncTimeout g => Sys2Proof.Machine.execSyncTimeout g s
  | .endWord g => Sys2Proof.Machine.execEndWord g s
  | .frameBoundary g => Sys2Proof.Machine.execFrameBoundary g s
  | .underrun g => Sys2Proof.Machine.execUnderrun g s
  | .stall g => Sys2Proof.Machine.execStall g s
  | .stallResume g => Sys2Proof.Machine.execStallResume g s
  | .seqFault g parity => Sys2Proof.Machine.execSeqFault g parity s
  | .compareResultsComplete g obs => Sys2Proof.Machine.execCompareResultsComplete g obs s
  | .firnLineFilled g => Sys2Proof.Machine.execFirnLineFilled g s
  | .fckLock g phases => Sys2Proof.Machine.execFckLock g phases s
  | .fckUnlock g phases => Sys2Proof.Machine.execFckUnlock g phases s
  | .checkerSync p => Sys2Proof.Machine.execCheckerSync p s
  | .checkerSyncLost p => Sys2Proof.Machine.execCheckerSyncLost p s
  | .laneMarkerReceived p laneNum arrivalUi => Sys2Proof.Machine.execLaneMarkerReceived p laneNum arrivalUi s
  | .markerTimeout p => Sys2Proof.Machine.execMarkerTimeout p s
  | .pinChkClear q tag p value => Sys2Proof.Machine.execPinChkClear q tag p value s
  | .recordAdmission src => Sys2Proof.Machine.execRecordAdmission src s
  | .envelopeWindow n => Sys2Proof.Machine.execEnvelopeWindow n s
  | .ringLineWrite k => Sys2Proof.Machine.execRingLineWrite k s
  | .flushTimeout k => Sys2Proof.Machine.execFlushTimeout k s
  | .ringLineCommit k => Sys2Proof.Machine.execRingLineCommit k s
  | .pushMaxage k => Sys2Proof.Machine.execPushMaxage k s
  | .ringEnable q tag k value => Sys2Proof.Machine.execRingEnable q tag k value s
  | .ringDisable q tag k value => Sys2Proof.Machine.execRingDisable q tag k value s
  | .tdcStart start => Sys2Proof.Machine.execTdcStart start s
  | .tdcStop p coarse fine => Sys2Proof.Machine.execTdcStop p coarse fine s
  | .tdcResult p => Sys2Proof.Machine.execTdcResult p s
  | .tdcWindowClose p => Sys2Proof.Machine.execTdcWindowClose p s
  | .tdcDeadTimeEnd p => Sys2Proof.Machine.execTdcDeadTimeEnd p s
  | .tdcSnapGo q tag value => Sys2Proof.Machine.execTdcSnapGo q tag value s
  | .tdcSnapDone => Sys2Proof.Machine.execTdcSnapDone s
  | .adcSample k volts1 volts2 volts3 => Sys2Proof.Machine.execAdcSample k volts1 volts2 volts3 s
  | .adcSampleJudged k => Sys2Proof.Machine.execAdcSampleJudged k s
  | .xcmpCrossing x volts => Sys2Proof.Machine.execXcmpCrossing x volts s
  | .adcTimer k => Sys2Proof.Machine.execAdcTimer k s
  | .adcLaunch q tag k value => Sys2Proof.Machine.execAdcLaunch q tag k value s
  | .adcArm q tag k value => Sys2Proof.Machine.execAdcArm q tag k value s
  | .adcDisarm q tag k value => Sys2Proof.Machine.execAdcDisarm q tag k value s
  | .adcSequenceEnd k => Sys2Proof.Machine.execAdcSequenceEnd k s
  | .adcSnapGo q tag value => Sys2Proof.Machine.execAdcSnapGo q tag value s
  | .adcMuxselWrite q tag value => Sys2Proof.Machine.execAdcMuxselWrite q tag value s
  | .crcInit q tag u value => Sys2Proof.Machine.execCrcInit q tag u value s
  | .crcDmaGo q tag u value => Sys2Proof.Machine.execCrcDmaGo q tag u value s
  | .crcDone u uncorrectable => Sys2Proof.Machine.execCrcDone u uncorrectable s
  | .crcData32 q tag u value => Sys2Proof.Machine.execCrcData32 q tag u value s
  | .crcData8 q tag u value => Sys2Proof.Machine.execCrcData8 q tag u value s
  | .crcModeWrite q tag value => Sys2Proof.Machine.execCrcModeWrite q tag value s
  | .crcRestore q tag u bits value => Sys2Proof.Machine.execCrcRestore q tag u bits value s
  | .sbRead n edges => Sys2Proof.Machine.execSbRead n edges s
  | .sbWrite n head data => Sys2Proof.Machine.execSbWrite n head data s
  | .sbAbort n => Sys2Proof.Machine.execSbAbort n s
  | .sbFrameTimeout n => Sys2Proof.Machine.execSbFrameTimeout n s
  | .sbClockWindow n khz minPhasePs => Sys2Proof.Machine.execSbClockWindow n khz minPhasePs s
  | .sbrDisable q tag n value => Sys2Proof.Machine.execSbrDisable q tag n value s
  | .sbrHitClear q tag n j value => Sys2Proof.Machine.execSbrHitClear q tag n j value s
  | .sbrTableWrite q tag n e value => Sys2Proof.Machine.execSbrTableWrite q tag n e value s
  | .memSlot ch mr4 odecc => Sys2Proof.Machine.execMemSlot ch mr4 odecc s
  | .memReadData ch ecc => Sys2Proof.Machine.execMemReadData ch ecc s
  | .refresh ch => Sys2Proof.Machine.execRefresh ch s
  | .fspSwitchDone ns => Sys2Proof.Machine.execFspSwitchDone ns s
  | .autoFspTimer => Sys2Proof.Machine.execAutoFspTimer s
  | .selfRefreshEntry => Sys2Proof.Machine.execSelfRefreshEntry s
  | .selfRefreshExit latencyNs => Sys2Proof.Machine.execSelfRefreshExit latencyNs s
  | .memMitigWrite q tag value => Sys2Proof.Machine.execMemMitigWrite q tag value s
  | .evtCntCfgWrite q tag j value => Sys2Proof.Machine.execEvtCntCfgWrite q tag j value s
  | .counterFreeze q tag value => Sys2Proof.Machine.execCounterFreeze q tag value s
  | .clearAll q tag value => Sys2Proof.Machine.execClearAll q tag value s
  | .faultread => Sys2Proof.Machine.execFaultread s
  | .extest => Sys2Proof.Machine.execExtest s
  | .lossOfCommaAlignment q lane syms => Sys2Proof.Machine.execLossOfCommaAlignment q lane syms s
  | .tjHighRearm site deciC => Sys2Proof.Machine.execTjHighRearm site deciC s
  | .testLogicReset => Sys2Proof.Machine.execTestLogicReset s

end Sys2Proof.Machine
end

