-- ==== Sys2Proof/Machine/Step.lean ====
section
/-! DEFINITION. Step.lean: a step takes the command at the front of the queue; with none waiting, time passes. -/

namespace Sys2Proof.Machine

/-- One step: the front command runs on the state with the rest of the queue. On an empty queue 1 ns passes while the
device's clocks run (DESIGN CHOICE, log entry 6). -/
def step (s : State) : Host.Outcome State Fault Refusal :=
  match s.pending with
  | [] => .next { s with chip := s.chip.advance 16 }
  | c :: cs => exec c { s with pending := cs }

/-- The command that a table word spells is put at the front of the queue; the table's rows have no bits, so no word
spells one and the state is unchanged. -/
def State.withFetchWord (s : State) (nbits w : Nat) : State :=
  match decodeTableWord nbits w with
  | some c => { s with pending := c :: s.pending }
  | none => s

end Sys2Proof.Machine
end

