-- ==== Sys2Proof/Safety.lean ====
section
/-! DEFINITION. Safety.lean: what counts as a safe run of the block, and the terms that claims about it use. -/

namespace Sys2Proof.Machine

/-- The LPDDR5X is in its canonical form: addresses strictly rising, no byte listed that an unlisted address reads as. -/
def State.dramOk (s : State) : Prop := Memory.wf s.dram

/-- A step from s neither faults nor is refused. -/
def Safe (s : State) : Prop := ∃ t, step s = .next t

/-- n steps from s, none of which stops. -/
def SafeRun : Nat → State → Prop
  | 0, _ => True
  | n + 1, s => ∃ t, step s = .next t ∧ SafeRun n t

/-- An event of this SOURCE and TYPE waits for Cirque's acceptance (R20, R21). -/
def Chip.waits (c : Chip) (src typ : Nat) : Prop :=
  ∃ e : Event, e.src = src ∧ e.typ = typ ∧ (e ∈ c.cirque.staged ∨ e ∈ tabGet [] c.cirque.queues (srcPort src))

/-- A request of port q with this tag takes effect as it comes: the port is up, completions that wait do not hold every
request buffer, no accepted request waits before it, and the tag is free (R311, R314, R315). -/
abbrev Chip.takes (c : Chip) (q : Nat) (tag : Byte) : Prop :=
  (c.port q).up = true ∧ (c.port q).heldUp = false ∧ (c.port q).rxq = [] ∧ tag.toNat ∉ (c.port q).tags ∧
  (c.port q).redirect = false

/-- The last frame that port q made ready is the final completion of the request with this tag: status, the index of the
word it names, STATE and data (R314). -/
abbrev Chip.completed (c : Chip) (q : Nat) (tag : Byte) (status : Nat) (data : List Word := []) (word state : Nat := 0) :
    Prop :=
  ∃ fs s, (c.port q).ready = fs ++ [cplFrame tag true word state status s data]

/-- The words that a reset does not leave at their reset words: DEV_RESET_CAUSE, DEV_NUM, and those that read the fuse
shadow (R345, R357, R407). -/
def resetKeeps (a : Nat) : Prop :=
  a = 0x00010004 ∨ a = 0x00010008 ∨ a = 0x0000000C ∨ a = 0x00000018 ∨ a = 0x0000001C ∨
  ∃ k : Fin 4, a = 0x003300A0 + 4 * k.val

/-- d is the device as a complete reset leaves c (R345, R407): every register at its reset word but those of `resetKeeps`,
of which the fuse words read the fuse shadow; every block at its reset values; the fuse shadow and the flash kept. -/
def Chip.resetTo (c d : Chip) : Prop :=
  d.dev = { fuses := c.dev.fuses, early := d.dev.early, porst := d.dev.porst } ∧
  (∀ a, ¬ resetKeeps a → d.reg a = resetWord a) ∧
  d.reg 0x0000000C = c.dev.fuses.romVer ∧ d.reg64 0x00000018 = c.dev.fuses.dieId.toNat ∧
  (∀ k : Fin 4, d.reg (0x003300A0 + 4 * k.val) = c.dev.fuses.tempCoef.getD k.val (resetWord (0x003300A0 + 4 * k.val))) ∧
  d.flash = c.flash ∧ d.tm = 0 ∧ d.align = 0 ∧ d.led = [] ∧ d.epoch = [] ∧ d.staging = [] ∧ d.cirque = {} ∧
  d.counters = [] ∧ d.frozen = false ∧ d.cmd = {} ∧ d.ports = [] ∧ d.failover = none ∧ d.notes = [] ∧ d.notesDue = 0 ∧
  d.gap = 0 ∧ d.snap = {} ∧ d.mon = {} ∧ d.balls = {} ∧ d.time = {} ∧ d.mem = {} ∧ d.images = {} ∧ d.sched = {} ∧
  d.groups = [] ∧ d.mor = {} ∧ d.tdc = {} ∧ d.adc = {} ∧ d.cal = {} ∧ d.crcDma = [] ∧ d.sb = []

/-- The 32-bit counter at an address grew by n, saturating. -/
abbrev Chip.counted (c d : Chip) (a : Nat) (n : Nat := 1) : Prop :=
  d.reg a = BitVec.ofNat 32 (min ((c.reg a).toNat + n) 0xFFFFFFFF)

/-- Port q, which was up, went down (R304): UP is 0, bring-up stands at step 0, LNK_CNT_DOWN is one more, and a LINK_DOWN
record waits. -/
def Chip.portFell (c d : Chip) (q : Nat) : Prop :=
  (d.port q).up = false ∧ (d.port q).step = 0 ∧ c.counted d (portB q + 0x028) ∧ d.waits (srcRx q) 0x0306

/-- The command x of header h starts as its descriptor comes (R314, R368, R369, R371): it is legal now, its descriptor
is clean, no retrain refuses it, and no other command executes or waits. -/
abbrev Chip.hears (c : Chip) (h : CmdHdr) (x : Cmd) : Prop :=
  c.takes h.port h.tag ∧ c.cmdOk x = true ∧ h.dirty = false ∧ c.badOperand x = false ∧ c.busyTraining x = false ∧
  c.cmd.exec = none ∧ c.cmd.done = false ∧ c.cmd.queue = []

/-- An event of this SOURCE and TYPE waits for acceptance, and this is among what its acceptance changes (R21, R29). -/
def Chip.waitsTo (c : Chip) (src typ : Nat) (a : Act) : Prop :=
  ∃ e : Event, e.src = src ∧ e.typ = typ ∧ a ∈ e.acts ∧
    (e ∈ c.cirque.staged ∨ e ∈ tabGet [] c.cirque.queues (srcPort src))

/-- The command of header h has ended: its COMMAND_DONE waits for Cirque, whose acceptance issues the completion with
status, results and STATE (R29, R314, R369; what the acceptance does: EventEffects). -/
def Chip.ended (c : Chip) (h : CmdHdr) (status : Nat) (r : List Word := []) (state : Nat := 0) : Prop :=
  c.cmd.done = true ∧ c.waitsTo (srcOf 15 51) 0x80D1 (.cplt h.port h.tag status state (cmdResult h r) true)

/-- The command of header h executes on. -/
abbrev Chip.executes (c : Chip) (h : CmdHdr) (x : Cmd) : Prop := c.active = some (h, x)

/-- The command that a command row carries to the command processor (R370). -/
def rowCmd : Instr → Option (CmdHdr × Cmd)
  | .negotiateCommit h ver => some (h, .negotiateCommit ver.toNat)
  | .devReset h => some (h, .devReset)
  | .devQuiesce h => some (h, .devQuiesce)
  | .devResume h => some (h, .devResume)
  | .devLowpower h => some (h, .devLowpower)
  | .devWake h => some (h, .devWake)
  | .snapshot h => some (h, .snapshot)
  | .snapRelease h k => some (h, .snapRelease k.toNat)
  | .imageLoad h base => some (h, .imageLoad base.toNat)
  | .imageUnload h k => some (h, .imageUnload k.toNat)
  | .taskCreate h o => some (h, .taskCreate o)
  | .taskCancel h k => some (h, .taskCancel k.toNat)
  | .taskFlags h k set clr => some (h, .taskFlags k.toNat set clr)
  | .taskPrio h k p => some (h, .taskPrio k.toNat p.toNat)
  | .memRetrain h mask => some (h, .memRetrain mask.toNat)
  | .memFsp h target flags => some (h, .memFsp target.toNat flags.toNat)
  | .timeRearm h => some (h, .timeRearm)
  | .timeAlign h => some (h, .timeAlign)
  | .calRun h steps groups hits => some (h, .calRun steps.toNat groups.toNat hits.toNat)
  | .calStore h => some (h, .calStore)
  | _ => none

/-- A register write of port q takes effect as it comes: the device has committed (R11). -/
abbrev Chip.writable (c : Chip) (q : Nat) (tag : Byte) : Prop := c.takes q tag ∧ c.dev.committed = true

/-- Event e is the one that Cirque accepts next: no link write waits, and the first port after the one served last that has
an event waiting holds it at the front of its queue (R22). -/
abbrev Chip.front (c : Chip) (p : Nat) (e : Event) (es : List Event) : Prop :=
  c.cirque.linkWrite = [] ∧ tabGet [] c.cirque.queues p = e :: es ∧
  ∃ k, k < 16 ∧ p = (c.cirque.last + 1 + k) % 16 ∧
    ∀ j, j < k → tabGet [] c.cirque.queues ((c.cirque.last + 1 + j) % 16) = []

/-- The credit ledger of every port and class balances (R309): LIMIT is the sum of the three gauges. -/
def Chip.creditsBalance (c : Chip) : Prop :=
  ∀ (q : Port) (k : Fin 3),
    c.ledger (credLimit q k) = c.ledger (credAdv q k) + c.ledger (credOcc q k) + c.ledger (credFreed q k)

/-- The row of a sequence word, by its opcode (R110). -/
def wordRow : Nat → Option (Grp → Instr)
  | 1 => some .frames
  | 2 => some .seg
  | 3 => some .loop
  | 4 => some .endl
  | 5 => some .jmp
  | 6 => some .jcond
  | 7 => some .mode
  | 8 => some .tset
  | 9 => some .pslot
  | 0xA => some .armt
  | 0xB => some .adct
  | 0xC => some .setf
  | 0xD => some .waitf
  | 0xE => some .capm
  | 0xF => some .sync
  | 0x10 => some .endWord
  | _ => none

/-- Group g of c, which waits, begins its next frame in d: at the first UI start of its accumulator that falls at or after a
time after the epoch, and not before its boundary (R124, R132); where the word that begins changes the period, at the first
UI start of the new one from there (R57, R120). -/
def Chip.beginsAt (c d : Chip) (g fine : Nat) : Prop :=
  let x := c.group g
  let z := d.group g
  let p := c.period g x.pa
  let q := c.period g z.pa
  ∃ r u, z.pipe = x.pipe ++ [r] ∧ r.num = x.frame ∧ x.ui ≤ u ∧ fine ≤ uiStart p u ∧
    (∀ v, x.ui ≤ v → v < u → uiStart p v < fine) ∧ (z.pa = x.pa → r.start = uiStart p u) ∧
    (z.pa ≠ x.pa → 0 < q → ∃ w, r.start = uiStart q w ∧ uiStart p u ≤ uiStart q w ∧
      ∀ v, v < w → uiStart q v < uiStart p u)

/-- Nothing of the device outside the pin groups, the measurement and check-value units, records, events, counters and the
memory queues differs: the part that no frame of a burst reaches. -/
def Chip.hostSideKept (c d : Chip) : Prop :=
  d.dev = c.dev ∧ d.ports = c.ports ∧ d.failover = c.failover ∧ d.cmd = c.cmd ∧ d.notes = c.notes ∧ d.snap = c.snap ∧
  d.images = c.images ∧ d.flash = c.flash ∧ d.cal = c.cal ∧ d.time = c.time ∧ d.tap = c.tap ∧ d.staging = c.staging

end Sys2Proof.Machine
end

