-- ==== Sys2Proof/Certificates/Slice0/Obligations.lean ====
section
/-! DEFINITION. Obligations.lean: what is claimed of the block. `exec` is the command's effect on everything but the
queue; an effect is told by the fields and registers of the next state. -/

section Claims

open Sys2Proof Sys2Proof.Machine

/-! ### The machine as a whole -/

/-- A step takes the command at the front of the queue and runs it on the state with the rest of the queue. -/
def Obligations.StepRunsFront : Prop :=
  ∀ (s : State) (i : Instr) (is : List Instr), step { s with pending := i :: is } = exec i { s with pending := is }

/-- The model's choice (log entry 6): with no command waiting a step lets 1 ns pass. While the device's clocks run the
FRC grows by one, else the state stays as it is; the LPDDR5X and the queue are not touched. -/
def Obligations.IdleStep : Prop :=
  ∀ s : State, s.pending = [] →
    ∃ t, step s = .next t ∧ t.dram = s.dram ∧ t.pending = [] ∧
      (s.chip.clocked = true → t.chip.frc = s.chip.frc + 1) ∧ (s.chip.clocked = false → t = s)

/-- Reset leaves the device in BOOT with the FRC and the Cirque sequence at 0, no image loaded, no snapshot held, no
task context, no port up, nothing in the LPDDR5X and no command waiting (R345, R23, R325). Where the rules leave a
point open, the model's choice stands (log entries 2, 3). -/
def Obligations.ResetState : Prop :=
  let c := State.reset.chip
  c.dev.mode = .boot ∧ c.frc = 0 ∧ c.cirque.next = 0 ∧ c.images.loaded = [] ∧ c.snap.held = [] ∧ c.sched.ctxs = [] ∧
  (∀ q, (c.port q).up = false) ∧ c.reg 0x00010004 = 0x80000000 ∧ c.reg 0 = 0x9612 ∧ c.reg 4 = 0x21 ∧
  State.reset.dramOk ∧ State.reset.dram = [] ∧ State.reset.pending = []

/-- No command touches the queue of waiting commands. -/
def Obligations.QueueIsTheStepsOwn : Prop :=
  ∀ (s t : State) (i : Instr), exec i s = .next t → t.pending = s.pending

/-- The LPDDR5X keeps its canonical form through every step, in every state. -/
def Obligations.MemoryFormKept : Prop :=
  ∀ s t : State, s.dramOk → step s = .next t → t.dramOk

/-- Only resets, MEM_SLOT and the rows that let the slot tables run (log entry 10) change a byte of the LPDDR5X: every
other command leaves the whole of it as it was (R268 to R274). -/
def Obligations.MemoryFrame : Prop :=
  ∀ (s t : State) (i : Instr), exec i s = .next t →
    (match i with
      | .powerOnReset _ _ _ | .systemReset _ _ | .commandResetStart | .ringLineCommit _ | .freezeDone _
      | .snapshotFrameWritten | .memSlot _ _ _ | .thawDone _ _ | .preloadEnd _ | .firnLineFilled _
      | .imageCheckDone _ | .crcDone _ _ => False
      | _ => True) →
    t.dram = s.dram ∧ ∀ a, memRead t.dram a = memRead s.dram a

/-- No command is refused, and the one fault is the behaviour that R346 says the manual does not cover: a master PLL
that locks although PORST_N rose early. -/
def Obligations.OnlyStop : Prop :=
  ∀ (s : State) (i : Instr),
    (∃ t, exec i s = .next t) ∨
    (∃ draw, i = .masterPllLock draw ∧ s.chip.dev.early = true ∧ s.chip.dev.mode = .boot ∧
      s.chip.dev.pllLocked = false ∧ s.chip.dev.porst = false ∧ exec i s = .fault .outsideManual)

/-! ### Resets, clocks and start-up (R345 to R361, R397, R399, R422) -/

/-- The resets (R345 to R347, R357, R407, R422): each is complete, every register at its reset word and every block at
its reset values; DEV_RESET_CAUSE tells which came last, DEV_NUM takes the straps, which DEV_RESET does not sample
again; the TAP leaves EXTEST for BYPASS, and PORST_N alone resets it. DEV_RESET comes once its completion has left.
Where the rules leave a point open, the model's choice stands (log entries 3, 4). -/
def Obligations.Resets : Prop :=
  (∀ (s : State) (low : Nat) (straps : BitVec 4) (pin : PorstPin), 10000 ≤ low →
    ∃ t, exec (.powerOnReset low straps pin) s = .next t ∧ s.chip.resetTo t.chip ∧ t.dram = [] ∧
      t.chip.reg 0x00010004 = 0x80000000 ∧
      t.chip.reg 0x00010008 = BitVec.ofNat 32 (straps.toNat * 2 ^ 12 + straps.toNat) ∧
      t.chip.dev.early = pin.early ∧ t.chip.dev.porst = pin.held ∧ t.chip.tap = {}) ∧
  (∀ (s : State) (low : Nat) (straps : BitVec 4), 1000 ≤ low →
    ∃ t, exec (.systemReset low straps) s = .next t ∧ s.chip.resetTo t.chip ∧ t.dram = [] ∧
      t.chip.field 0x00010004 31 29 = 2 ∧
      t.chip.field 0x00010004 15 0 = min (s.chip.field 0x00010004 15 0 + 1) 0xFFFF ∧
      t.chip.reg 0x00010008 = BitVec.ofNat 32 (straps.toNat * 2 ^ 12 + straps.toNat) ∧
      t.chip.dev.early = s.chip.dev.early ∧ t.chip.dev.porst = s.chip.dev.porst ∧ t.chip.tap = s.chip.tap.inBoot) ∧
  (∀ (s : State) (w : CplWait), s.chip.dev.resetWait = some w → s.chip.cplWaits w = false →
    ∃ t, exec .commandResetStart s = .next t ∧ s.chip.resetTo t.chip ∧ t.dram = [] ∧
      t.chip.field 0x00010004 31 29 = 1 ∧
      t.chip.field 0x00010004 15 0 = min (s.chip.field 0x00010004 15 0 + 1) 0xFFFF ∧
      t.chip.field 0x00010008 15 12 = s.chip.field 0x00010008 15 12 ∧ t.chip.tap = s.chip.tap.inBoot)

/-- A pulse shorter than 100 ns never resets; one of 100 ns or more but under the minimum resets completely or not at
all (R345). Where the rules leave a point open, the model's choice stands (log entry 4). -/
def Obligations.NoPartialReset : Prop :=
  ∀ (s t : State) (i : Instr) (low : Nat) (straps : BitVec 4) (pin : PorstPin),
    (i = .powerOnReset low straps pin ∨ i = .systemReset low straps) → exec i s = .next t →
    (low < 100 → t = s) ∧
    ((t.dram = s.dram ∧ ∃ k, t.chip = { s.chip with free := k }) ∨ (t.dram = [] ∧ s.chip.resetTo t.chip))

/-- The master PLL and REFCLK (R348, R365, R397, R399): the PLL locks in BOOT, the FRC starts and DEV_RESET_TAG is
drawn, never 0; or FAULT with cause PLL_LOCK; later a PLL_UNLOCK record is raised, every port goes down and the time
base stops. The loss of REFCLK in BOOT is FAULT with cause REFCLK, later a REFCLK_LOSS record; a window more than 500
ppm off raises REFCLK_RANGE, not again before 16 windows in range: until then a window off counts as an input-guard
rejection alone, and the 16 windows begin anew. With PORST_N held low none of these does anything. -/
def Obligations.Clocks : Prop :=
  (∀ (s : State) (draw : Fin 4294967295), s.chip.dev.mode = .boot → s.chip.dev.pllLocked = false →
    s.chip.dev.early = false → s.chip.dev.porst = false →
    ∃ t, exec (.masterPllLock draw) s = .next t ∧ t.chip.clocked = !s.chip.dev.clocksLost ∧ t.chip.frc = 0 ∧
      (t.chip.reg 8).toNat = draw.val + 1) ∧
  (∀ s : State, s.chip.dev.mode = .boot → s.chip.dev.pllLocked = false → s.chip.dev.porst = false →
    s.chip.sched.ctxs = [] →
    ∃ t, exec .pllLockTimeout s = .next t ∧ t.chip.dev.mode = .fault ∧ t.chip.reg 0x0001000C = 0x01000000) ∧
  (∀ s : State, s.chip.clocked = true →
    ∃ t, exec .pllUnlock s = .next t ∧ t.chip.waits (srcOf 14 0) 0x0312 ∧ t.chip.clocked = false ∧
      ∀ q : Port, (t.chip.port q).up = false ∧ (t.chip.port q).running = false) ∧
  (∀ s : State, s.chip.dev.mode = .boot → s.chip.dev.porst = false → s.chip.sched.ctxs = [] →
    ∃ t, exec .refclkLoss s = .next t ∧ t.chip.dev.mode = .fault ∧ t.chip.reg 0x0001000C = 0x02000000 ∧
      t.chip.clocked = false ∧ ∀ q : Port, (t.chip.port q).up = false) ∧
  (∀ s : State, s.chip.dev.mode ≠ .boot → s.chip.dev.porst = false →
    ∃ t, exec .refclkLoss s = .next t ∧ t.chip.waits (srcOf 14 3) 0x0311 ∧ t.chip.clocked = false ∧
      ∀ q : Port, (t.chip.port q).up = false) ∧
  (∀ (s : State) (ppm : Int), 500 < ppm.natAbs → s.chip.mon.rangeBlocked = 0 → s.chip.dev.porst = false →
    ∃ t, exec (.refclkRange ppm) s = .next t ∧ t.chip.waits (srcOf 14 3) 0x0310 ∧ t.chip.mon.rangeBlocked = 16) ∧
  (∀ (s : State) (ppm : Int), 500 < ppm.natAbs → s.chip.mon.rangeBlocked ≠ 0 → s.chip.dev.porst = false →
    ∃ t, exec (.refclkRange ppm) s = .next t ∧
      t.chip = { s.chip.guardReject with mon := { s.chip.mon with rangeBlocked := 16 } }) ∧
  (∀ (s : State) (ppm : Int), ppm.natAbs ≤ 500 → s.chip.dev.porst = false →
    ∃ t, exec (.refclkRange ppm) s = .next t ∧ t.chip.mon.rangeBlocked = s.chip.mon.rangeBlocked - 1 ∧
      t.chip.cirque = s.chip.cirque) ∧
  (∀ (s : State) (draw : Fin 4294967295) (ppm : Int), s.chip.dev.porst = true →
    ∃ t, exec (.masterPllLock draw) s = .next t ∧ t = s ∧ exec .pllLockTimeout s = .next s ∧
      exec .refclkLoss s = .next s ∧ exec (.refclkRange ppm) s = .next s)

/-- The die temperature (R399, R397): TJ_HIGH above 110 °C, once until the site falls below 105 °C; TJ_TRIP above 120
°C, at each site that passes it, turns every driver off and opens every termination. -/
def Obligations.DieTemperature : Prop :=
  (∀ (s : State) (site : Fin 4) (x : Int), 1100 < x → site.val ∉ s.chip.mon.tjHigh → s.chip.dev.porst = false →
    ∃ t, exec (.tjHigh site x) s = .next t ∧ t.chip.waits (srcOf 14 0) 0x0313 ∧ site.val ∈ t.chip.mon.tjHigh) ∧
  (∀ (s : State) (site : Fin 4) (x : Int), site.val ∈ s.chip.mon.tjHigh →
    ∃ t, exec (.tjHigh site x) s = .next t ∧ t = s) ∧
  (∀ (s : State) (site : Fin 4) (x : Int), x < 1050 → s.chip.mon.tjHigh.Nodup →
    ∃ t, exec (.tjHighRearm site x) s = .next t ∧ site.val ∉ t.chip.mon.tjHigh) ∧
  (∀ (s : State) (site : Fin 4) (x : Int), 1200 < x → s.chip.dev.porst = false →
    ∃ t, exec (.tjTrip site x) s = .next t ∧ t.chip.waits (srcOf 14 0) 0x0314 ∧ t.chip.dev.tripped = true ∧
      (∀ g, ∀ l ∈ (t.chip.group g).drv, l.on = false ∧ l.toggles = false) ∧ ∀ l, t.chip.termOn l = false)

/-- The configuration flash in BOOT (R348, R350, R351, R365, R399): ready with an SFDP signature, a density of 64 Mb to
512 Mb and a quad read; without them FAULT NVM_GEOMETRY; not ready in time, or a read that times out, FAULT NVM_TIMEOUT.
A CAL_STORE whose read times out ends with NVM_TIMEOUT. A bad image header or directory is FAULT with cause
NVM_RECORD_BAD and DETAIL 0; otherwise, when no record stops BOOT, the device enters CALIBRATE at step SOURCE. -/
def Obligations.ConfigFlash : Prop :=
  (∀ (s : State) (mb : Nat), s.chip.dev.mode = .boot → s.chip.dev.pllLocked = true → s.chip.dev.flashReady = false →
    64 ≤ mb → mb ≤ 512 →
    ∃ t, exec (.flashReadyPoll true true mb) s = .next t ∧ t.chip.dev.flashReady = true ∧ t.chip.dev.flashMb = mb ∧
      t.chip.field 0x00350000 31 30 = 3 ∧ t.chip.field 0x00350000 15 0 = mb) ∧
  (∀ (s : State) (sfdp quad : Bool) (mb : Nat), s.chip.dev.mode = .boot → s.chip.dev.pllLocked = true →
    s.chip.dev.flashReady = false → s.chip.sched.ctxs = [] → (sfdp && quad) = false ∨ mb < 64 ∨ 512 < mb →
    ∃ t, exec (.flashReadyPoll sfdp quad mb) s = .next t ∧ t.chip.dev.mode = .fault ∧
      t.chip.reg 0x0001000C = 0x03000000 ∧ t.chip.dev.flashReady = false) ∧
  (∀ s : State, s.chip.dev.mode = .boot → s.chip.dev.pllLocked = true → s.chip.dev.flashReady = false →
    s.chip.sched.ctxs = [] →
    ∃ t, exec .nvmTimeout s = .next t ∧ t.chip.dev.mode = .fault ∧ t.chip.reg 0x0001000C = 0x04000000) ∧
  (∀ s : State, s.chip.dev.mode = .boot → s.chip.dev.pllLocked = true → s.chip.sched.ctxs = [] →
    ∃ t, exec .spiReadTimeout s = .next t ∧ t.chip.dev.mode = .fault ∧ t.chip.reg 0x0001000C = 0x04000000) ∧
  (∀ (s : State) (h : CmdHdr) (slot : Nat × Nat), s.chip.dev.mode ≠ .boot → s.chip.cal.storing = some slot →
    s.chip.executes h .calStore →
    ∃ t, exec .spiReadTimeout s = .next t ∧ t.chip.cal.storing = none ∧ t.chip.ended h 0x17) ∧
  (∀ (s : State) (flash more : List (Nat × List Byte)), s.chip.dev.mode = .boot →
    s.chip.dev.flashReady = true → s.chip.sched.ctxs = [] → (s.chip.loadHeader (flash ++ more)).nvmHeaderOk = false →
    ∃ t, exec (.configImageApplied flash more) s = .next t ∧ t.chip.dev.mode = .fault ∧
      t.chip.reg 0x0001000C = 0x05000000) ∧
  (∀ (s : State) (flash more : List (Nat × List Byte)), s.chip.dev.mode = .boot →
    s.chip.dev.flashReady = true → (s.chip.loadHeader (flash ++ more)).nvmHeaderOk = true →
    (s.chip.loadHeader (flash ++ more)).loadRecords.dev.mode = .boot →
    ∃ t, exec (.configImageApplied flash more) s = .next t ∧ t.chip.dev.mode = .calibrate ∧
      t.chip.field 0x00330000 31 27 = 16 ∧ ∃ r, t.chip.cal.run = some r ∧ r.step = 0 ∧ r.units = [(0, 0)])

/-- The test access port (R345, R422): FAULTREAD captures DEV_STATE and DEV_FAULT and shifts the 64 bits out on TDO, bit
0 first; EXTEST is taken in FAULT and while PORST_N is low, and is BYPASS elsewhere; Test-Logic-Reset resets the TAP.
Nothing of the device changes. Where the rules leave a point open, the model's choice stands (log entries 4, 24, 82). -/
def Obligations.TestAccessPort : Prop :=
  (∀ s : State, ∃ t, exec .faultread s = .next t ∧ t = { s with chip := { s.chip with tap := t.chip.tap } } ∧
    t.chip.tap.ir = .faultread ∧
    t.chip.tap.dr = (s.chip.reg 0x0001000C) ++ (s.chip.liveWord 0x00010000) ∧
    t.chip.tap.out = (List.range 64).map (fun i => t.chip.tap.dr.getLsbD i)) ∧
  (∀ s : State, ∃ t, exec .extest s = .next t ∧
    t = { s with chip := { s.chip with tap := t.chip.tap, free := t.chip.free } } ∧
    (s.chip.dev.mode = .fault ∨ s.chip.dev.porst = true → t.chip.tap.ir = .extest ∧ t.chip.tap.cells.length = 8) ∧
    (s.chip.dev.mode ≠ .fault → s.chip.dev.porst = false → t.chip.tap.ir = .bypass ∧ t.chip.free = s.chip.free)) ∧
  (∀ s : State, ∃ t, exec .testLogicReset s = .next t ∧ t = { s with chip := { s.chip with tap := {} } })

/-! ### The link: physical layer and bring-up (R293 to R305) -/

/-- The clock check, lane markers, margin and comma alignment (R294, R295, R297, R299 to R301, R304): a 20 µs window in
which the forwarded clock is absent or more than 300 ppm off takes an up port down, as do a wrong lane number, a marker
count that differs from another lane's of its column, three missing markers, a margin below DOWN twice and four code
violations within 16 symbols; every other violation counts in LNK_LANE_CODE alone. A lane that a compatibility port does
not use does nothing. Which markers make one column is the model's choice (log entry 76). -/
def Obligations.LinkLanes : Prop :=
  (∀ (s : State) (q : Port) (seen : Bool) (ppm : Int), (s.chip.port q).up = true → seen = false ∨ 300 < ppm.natAbs →
    ∃ t, exec (.clockCheckWindow q seen ppm) s = .next t ∧ s.chip.portFell t.chip q) ∧
  (∀ (s : State) (q : Port) (ppm : Int), (s.chip.port q).up = true → ppm.natAbs ≤ 300 →
    ∃ t, exec (.clockCheckWindow q true ppm) s = .next t ∧ t = s) ∧
  (∀ (s : State) (q : Port) (l : Fin 4) (n : Byte), (s.chip.port q).running = true →
    l.val < (s.chip.port q).laneCount →
    (∀ e ∈ (s.chip.port q).markers, e.1 ≠ l.val → s.chip.tm ≤ e.2.2 + (s.chip.port q).column → e.2.1 = n.toNat) →
    ∃ t, exec (.linkMarkerReceived q l (BitVec.ofNat 8 l) n) s = .next t ∧
      tabGet (0, 0) (t.chip.port q).markers l = (n.toNat, s.chip.tm) ∧ (t.chip.port q).up = (s.chip.port q).up) ∧
  (∀ (s : State) (q : Port) (l : Fin 4) (num n : Byte), (s.chip.port q).running = true → (s.chip.port q).up = true →
    l.val < (s.chip.port q).laneCount → num.toNat ≠ l.val ∨ (∃ e ∈ (s.chip.port q).markers, e.1 ≠ l.val ∧
      s.chip.tm ≤ e.2.2 + (s.chip.port q).column ∧ e.2.1 ≠ n.toNat) →
    ∃ t, exec (.linkMarkerReceived q l num n) s = .next t ∧ s.chip.portFell t.chip q) ∧
  (∀ (s : State) (q : Port) (l : Fin 4) (num n : Byte) (syms : List LaneSym), (s.chip.port q).laneCount ≤ l.val →
    (∃ t, exec (.linkMarkerReceived q l num n) s = .next t ∧ t = s) ∧
    (∃ t, exec (.lossOfCommaAlignment q l syms) s = .next t ∧ t = s)) ∧
  (∀ (s : State) (q : Port) (l : Fin 4), (s.chip.port q).up = true → l.val < (s.chip.port q).laneCount →
    ∃ t, exec (.linkMarkerTimeout q l) s = .next t ∧ s.chip.portFell t.chip q) ∧
  (∀ (s : State) (q : Port) (l : Fin 4) (z : BitVec 128), (s.chip.port q).up = true →
    l.val < (s.chip.port q).laneCount →
    ∃ t, exec (.mfSweepDone q l z) s = .next t ∧
      (s.chip.field 0x0031000C 14 8 ≤ marginOf z →
        t.chip.field (laneReg q l) 29 23 = marginOf z ∧ (t.chip.port q).up = true) ∧
      (marginOf z < s.chip.field 0x0031000C 6 0 → t.chip.waits (srcRx q) 0x8081) ∧
      (marginOf z < s.chip.field 0x0031000C 14 8 → l.val ∉ (s.chip.port q).mfLow →
        (t.chip.port q).up = true ∧ l.val ∈ (t.chip.port q).mfLow) ∧
      (marginOf z < s.chip.field 0x0031000C 14 8 → l.val ∈ (s.chip.port q).mfLow → s.chip.portFell t.chip q)) ∧
  (∀ (s : State) (q : Port) (l : Fin 4), (s.chip.port q).running = true → (s.chip.port q).up = true →
    l.val < (s.chip.port q).laneCount → tabGet [] (s.chip.port q).viols l = [] →
    ∃ t, exec (.lossOfCommaAlignment q l [.code, .code, .code, .code]) s = .next t ∧
      s.chip.portFell t.chip q ∧ s.chip.counted t.chip (laneReg q l + 0xC) 4) ∧
  (∀ (s : State) (q : Port) (l : Fin 4) (syms : List LaneSym), (s.chip.port q).running = true →
    l.val < (s.chip.port q).laneCount → tabGet [] (s.chip.port q).viols l = [] → .code ∉ syms →
    ∃ t, exec (.lossOfCommaAlignment q l syms) s = .next t ∧ (t.chip.port q).up = (s.chip.port q).up ∧
      s.chip.counted t.chip (laneReg q l + 0xC) (syms.countP (· != .good))) ∧
  (∀ (s : State) (q : Port) (l : Fin 4) (syms : List LaneSym), (s.chip.port q).running = true →
    (s.chip.port q).up = false → l.val < (s.chip.port q).laneCount →
    ∃ t, exec (.lossOfCommaAlignment q l syms) s = .next t ∧ (t.chip.port q).up = false ∧
      s.chip.counted t.chip (laneReg q l + 0xC) (syms.countP (· != .good)))

/-- Bring-up (R303, R305): a passed step leads to the next, CLK_LOCK, DESKEW_OK and the INIT frame coming with their
steps; lanes that spread by 49 UI or more do not pass the deskew step; a step that takes too long restarts bring-up, in
the other coding under AUTO; the INIT frames leave in step 6; the INIT exchange ends with the port up, sequence numbers
at 0 and LINK_UP, and the first port up ends LINKING. An INIT on an up port takes it down, and an AUTO port starts again
in native coding (R303, R304). Where the rules leave a point open, the model's choice stands (log entry 77). -/
def Obligations.BringUp : Prop :=
  (∀ (s : State) (q : Port) (phases arrivals : List Nat), (s.chip.port q).running = true →
    (s.chip.port q).up = false →
    s.chip.clocked = true → (s.chip.port q).step < 4 →
    ∃ t, exec (.bringupStepDone q phases arrivals) s = .next t ∧
      (t.chip.port q).step = (s.chip.port q).step + 1 ∧ (t.chip.port q).up = false ∧
      ((s.chip.port q).step = 1 → (t.chip.port q).clkLock = true) ∧
      ((s.chip.port q).step = 3 → ∀ l, l < (s.chip.port q).laneCount → t.chip.field (laneReg q l) 31 31 = 1)) ∧
  (∀ (s : State) (q : Port) (phases arrivals : List Nat), (s.chip.port q).running = true →
    (s.chip.port q).up = false →
    s.chip.clocked = true → (s.chip.port q).step = 4 →
    ∃ t, exec (.bringupStepDone q phases arrivals) s = .next t ∧
      ((∀ i j, i < (s.chip.port q).laneCount → j < (s.chip.port q).laneCount →
          arrivals.getD i 0 ≤ arrivals.getD j 0 + 48) →
        (t.chip.port q).step = 5 ∧ (t.chip.port q).deskewOk = true) ∧
      ((∃ i j, i < (s.chip.port q).laneCount ∧ j < (s.chip.port q).laneCount ∧
          arrivals.getD j 0 + 49 ≤ arrivals.getD i 0) → t = s)) ∧
  (∀ (s : State) (q : Port) (phases arrivals : List Nat), (s.chip.port q).running = true →
    (s.chip.port q).up = false →
    s.chip.clocked = true → (s.chip.port q).step = 5 →
    ∃ t, exec (.bringupStepDone q phases arrivals) s = .next t ∧ (t.chip.port q).step = 6 ∧
      ∃ cc, .init cc false (initWord q (s.chip.port q)) ∈ (t.chip.port q).ctrl) ∧
  (∀ (s : State) (q : Port), (s.chip.port q).running = true → (s.chip.port q).up = false → (s.chip.port q).step = 6 →
    s.chip.dev.dropCompat = none →
    ∃ t, exec (.dataFrameSend q) s = .next t ∧ (t.chip.port q).lastCtrl = (s.chip.port q).ctrl ∧
      (t.chip.port q).ctrl = [] ∧ (t.chip.port q).up = false ∧ (t.chip.port q).replay = (s.chip.port q).replay) ∧
  (∀ (s : State) (q : Port), (s.chip.port q).running = true → (s.chip.port q).up = false →
    (s.chip.port q).coding ≠ 2 →
    ∃ t, exec (.bringupTimeout q) s = .next t ∧ (t.chip.port q).step = 0 ∧
      (t.chip.port q).compat = (s.chip.port q).compat ∧ (t.chip.port q).running = true) ∧
  (∀ (s : State) (q : Port), (s.chip.port q).running = true → (s.chip.port q).up = false →
    (s.chip.port q).coding = 2 →
    ∃ t, exec (.autoCodingSwitch q) s = .next t ∧ (t.chip.port q).step = 0 ∧
      (t.chip.port q).compat = !(s.chip.port q).compat ∧ (t.chip.port q).running = true) ∧
  (∀ (s : State) (q : Port) (cc0 cc1 cc2 : BitVec 16) (w : BitVec 2), (s.chip.port q).running = true →
    (s.chip.port q).up = false → (s.chip.port q).step = 6 →
    (s.chip.port q).ccOk [cc0.toNat, cc1.toNat, cc2.toNat] = true →
    ∃ t, exec (.initReceived q cc0 cc1 cc2 ⟨true, w⟩) s = .next t ∧ (t.chip.port q).up = true ∧
      (t.chip.port q).lastCtrl =
        (s.chip.port q).ctrl ++ [.init (s.chip.port q).devCcs true (initWord q (s.chip.port q))] ∧
      (t.chip.port q).txSeq = 0 ∧ (t.chip.port q).rxSeq = 0 ∧ t.chip.waits (srcRx q) 0x8080 ∧
      (s.chip.dev.mode = .linking → t.chip.dev.mode = .negotiate) ∧
      (s.chip.dev.mode ≠ .linking → t.chip.dev.mode = s.chip.dev.mode)) ∧
  (∀ (s : State) (q : Port) (cc0 cc1 cc2 : BitVec 16) (v : Bool) (w : BitVec 2), (s.chip.port q).up = true →
    ∃ t, exec (.initReceived q cc0 cc1 cc2 ⟨v, w⟩) s = .next t ∧ s.chip.portFell t.chip q ∧
      (t.chip.port q).compat = ((s.chip.port q).coding == 1))

/-! ### The link: frames, acknowledgement and credit (R305 to R322) -/

/-- DATA frames (R306, R307, R309, R311, R313, R314, R318): the expected one with credit is accepted, its request
waits to start, in its buffer while completions hold every request buffer, and a time message is stamped; one of no
listed form is counted with the bad frames; without credit it
is an overrun and takes the port down; one that comes 1 to 64 behind is discarded and acknowledged; any other is
discarded with a NAK. A frame of class 3 or of more than 544 bytes is bad, and a bad frame is counted and answered
with a NAK; the code violations inside it count with those between frames, and those that take the port down discard
the frame. Where the rules leave a point open, the model's choice stands (log entries 7, 9, 81). -/
def Obligations.DataFrames : Prop :=
  (∀ (s : State) (q : Port) (x : Txn), (s.chip.port q).up = true → (s.chip.port q).rxSeq < 256 →
    s.chip.ledger (credAdv q 1) ≠ 0 → x.tag.toNat ∉ (s.chip.port q).tags → s.chip.txnFault x = none →
    unknownOpcode x = false → (s.chip.port q).unjudged = [] → (s.chip.port q).heldUp = false →
    ∃ t, exec (.dataFrameReceived q (BitVec.ofNat 8 (s.chip.port q).rxSeq) 1 none x) s = .next t ∧
      (t.chip.port q).rxq = (s.chip.port q).rxq ++ [x] ∧ (t.chip.port q).rxSeq = ((s.chip.port q).rxSeq + 1) % 256 ∧
      (t.chip.port q).tags = (s.chip.port q).tags ++ [x.tag.toNat] ∧
      t.chip.ledger (credAdv q 1) = s.chip.ledger (credAdv q 1) - 1 ∧
      t.chip.ledger (credOcc q 1) = s.chip.ledger (credOcc q 1) + 1) ∧
  (∀ (s : State) (q : Port) (x : Txn), (s.chip.port q).up = true → (s.chip.port q).rxSeq < 256 →
    s.chip.ledger (credAdv q 1) ≠ 0 → x.data.length ≤ 132 → (s.chip.port q).heldUp = true →
    ∃ t, exec (.dataFrameReceived q (BitVec.ofNat 8 (s.chip.port q).rxSeq) 1 none x) s = .next t ∧
      (t.chip.port q).unjudged = (s.chip.port q).unjudged ++ [(x, unknownOpcode x)] ∧
      (t.chip.port q).ready = (s.chip.port q).ready ∧ (t.chip.port q).tags = (s.chip.port q).tags ∧
      (t.chip.port q).rxSeq = ((s.chip.port q).rxSeq + 1) % 256 ∧
      t.chip.ledger (credOcc q 1) = s.chip.ledger (credOcc q 1) + 1) ∧
  (∀ (s : State) (q : Port) (k : BitVec 2) (x : Txn), (s.chip.port q).up = true → (s.chip.port q).rxSeq < 256 →
    k ≠ 3 →
    x.data.length ≤ 132 → s.chip.ledger (credAdv q k.toNat) = 0 →
    ∃ t, exec (.dataFrameReceived q (BitVec.ofNat 8 (s.chip.port q).rxSeq) k none x) s = .next t ∧
      s.chip.portFell t.chip q ∧ s.chip.counted t.chip (portB q + 0x020) ∧ t.chip.waits (srcRx q) 0x0309 ∧
      (t.chip.port q).rxq = (s.chip.port q).rxq) ∧
  (∀ (s : State) (q : Port) (k : BitVec 2) (b : Nat) (x : Txn), (s.chip.port q).up = true →
    (s.chip.port q).rxSeq < 256 → k ≠ 3 → x.data.length ≤ 132 → 1 ≤ b → b ≤ 64 →
    ∃ t, exec (.dataFrameReceived q (BitVec.ofNat 8 ((s.chip.port q).rxSeq + 256 - b)) k none x) s = .next t ∧
      s.chip.counted t.chip (portB q + 0x01C) ∧ (t.chip.port q).rxSeq = (s.chip.port q).rxSeq ∧
      (t.chip.port q).rxq = (s.chip.port q).rxq ∧ t.chip.led = s.chip.led ∧
      .ack (((s.chip.port q).rxSeq + 255) % 256) ∈ (t.chip.port q).ctrl) ∧
  (∀ (s : State) (q : Port) (k : BitVec 2) (a : Nat) (x : Txn), (s.chip.port q).up = true →
    (s.chip.port q).rxSeq < 256 → k ≠ 3 → x.data.length ≤ 132 → 1 ≤ a → a ≤ 191 → (s.chip.port q).nakOut = false →
    ∃ t, exec (.dataFrameReceived q (BitVec.ofNat 8 ((s.chip.port q).rxSeq + a)) k none x) s = .next t ∧
      s.chip.counted t.chip (portB q + 0x018) ∧ s.chip.counted t.chip (portB q + 0x00C) ∧
      (t.chip.port q).rxSeq = (s.chip.port q).rxSeq ∧ (t.chip.port q).rxq = (s.chip.port q).rxq ∧
      t.chip.led = s.chip.led ∧ .nak (((s.chip.port q).rxSeq + 255) % 256) ∈ (t.chip.port q).ctrl) ∧
  (∀ (s : State) (q : Port) (x : Txn), (s.chip.port q).up = true → (s.chip.port q).rxSeq < 256 →
    s.chip.ledger (credAdv q 0) ≠ 0 → x.data.length ≤ 132 →
    ∃ t, exec (.dataFrameReceived q (BitVec.ofNat 8 (s.chip.port q).rxSeq) 0 none x) s = .next t ∧
      (t.chip.port q).rxSeq = ((s.chip.port q).rxSeq + 1) % 256 ∧
      (timeForm x = true →
        (t.chip.port q).rxTime = (s.chip.port q).rxTime ++ [(x, s.chip.linkStamp q 0 false, s.chip.frc)]) ∧
      (timeForm x = false →
        (t.chip.port q).rxTime = (s.chip.port q).rxTime ∧ s.chip.counted t.chip (portB q + 0x008))) ∧
  (∀ (s : State) (q : Port) (k : BitVec 2) (n : Byte) (ack : Option Byte) (x : Txn), (s.chip.port q).up = true →
    k = 3 ∨ 132 < x.data.length → (s.chip.port q).nakOut = false →
    ∃ t, exec (.dataFrameReceived q n k ack x) s = .next t ∧ s.chip.counted t.chip (portB q + 0x008) ∧
      (t.chip.port q).rxSeq = (s.chip.port q).rxSeq ∧ (t.chip.port q).rxq = (s.chip.port q).rxq ∧
      .nak (((s.chip.port q).rxSeq + 255) % 256) ∈ (t.chip.port q).ctrl) ∧
  (∀ (s : State) (q : Port) (bad : Bool) (l : Fin 4) (syms : List LaneSym), (s.chip.port q).up = true →
    l.val < (s.chip.port q).laneCount → (s.chip.port q).viols = [] → .code ∉ syms →
    ∃ t, exec (.badFrameReceived q ⟨bad, [(l, syms)]⟩) s = .next t ∧
      s.chip.counted t.chip (laneReg q l + 0xC) (syms.countP (· == .stray)) ∧
      s.chip.counted t.chip (portB q + 0x008)) ∧
  (∀ (s : State) (q : Port) (bad : Bool) (l : Fin 4), (s.chip.port q).up = true → l.val < (s.chip.port q).laneCount →
    (s.chip.port q).viols = [] →
    ∃ t, exec (.badFrameReceived q ⟨bad, [(l, [.code, .code, .code, .code])]⟩) s = .next t ∧
      s.chip.portFell t.chip q ∧ s.chip.counted t.chip (laneReg q l + 0xC) 4 ∧
      t.chip.reg (portB q + 0x008) = s.chip.reg (portB q + 0x008) ∧ (t.chip.port q).rxq = (s.chip.port q).rxq) ∧
  (∀ (s : State) (q : Port) (bad : Bool) (ls : List (Fin 4 × List LaneSym)), (s.chip.port q).up = true →
    (s.chip.port q).nakOut = false → (s.chip.port q).viols = [] → (∀ e ∈ ls, .code ∉ e.2) →
    ∃ t, exec (.badFrameReceived q ⟨bad, ls⟩) s = .next t ∧ s.chip.counted t.chip (portB q + 0x008) ∧
      s.chip.counted t.chip (portB q + 0x00C) ∧ t.chip.waits (srcRx q) 0x0307 ∧
      (t.chip.port q).rxSeq = (s.chip.port q).rxSeq ∧ (t.chip.port q).rxq = (s.chip.port q).rxq ∧
      .nak (((s.chip.port q).rxSeq + 255) % 256) ∈ (t.chip.port q).ctrl)

/-- Acknowledgement and replay (R307, R308): an acknowledgement of SEQ n frees the frames up to and including n, one
whose ACK_VALID is 0 none; a NAK or a timeout resends every frame that remains, in order and unchanged; a fourth replay
from the same frame takes the port down; an outstanding NAK is sent again. -/
def Obligations.Replay : Prop :=
  (∀ (s : State) (q : Port) (n : Byte) (xs ys : List (Nat × Frame)) (f : Frame), (s.chip.port q).up = true →
    (s.chip.port q).replay = xs ++ (n.toNat, f) :: ys → (∀ e ∈ xs, e.1 ≠ n.toNat) →
    ∃ t, exec (.ackReceived q (some n)) s = .next t ∧ (t.chip.port q).replay = ys ∧ (t.chip.port q).replays = 0) ∧
  (∀ (s : State) (q : Port), (s.chip.port q).up = true →
    ∃ t, exec (.ackReceived q none) s = .next t ∧ (t.chip.port q).replay = (s.chip.port q).replay ∧
      (t.chip.port q).replays = (s.chip.port q).replays) ∧
  (∀ (s : State) (q : Port), (s.chip.port q).up = true → (s.chip.port q).replay ≠ [] → (s.chip.port q).replays < 3 →
    ∃ t, exec (.nakReceived q none) s = .next t ∧ (t.chip.port q).replay = (s.chip.port q).replay ∧
      (t.chip.port q).replays = (s.chip.port q).replays + 1) ∧
  (∀ (s : State) (q : Port) (n : Byte) (xs ys : List (Nat × Frame)) (f : Frame), (s.chip.port q).up = true →
    (s.chip.port q).replay = xs ++ (n.toNat, f) :: ys → (∀ e ∈ xs, e.1 ≠ n.toNat) → ys ≠ [] →
    ∃ t, exec (.nakReceived q (some n)) s = .next t ∧ (t.chip.port q).replay = ys ∧ (t.chip.port q).replays = 1 ∧
      s.chip.counted t.chip (portB q + 0x010) ∧ s.chip.counted t.chip (portB q + 0x014) ys.length) ∧
  (∀ (s : State) (q : Port), (s.chip.port q).up = true → (s.chip.port q).replay ≠ [] → (s.chip.port q).replays < 3 →
    ∃ t, exec (.replayTimeout q) s = .next t ∧ (t.chip.port q).replay = (s.chip.port q).replay ∧
      (t.chip.port q).replays = (s.chip.port q).replays + 1 ∧
      s.chip.counted t.chip (portB q + 0x014) (s.chip.port q).replay.length) ∧
  (∀ (s : State) (q : Port), (s.chip.port q).up = true → (s.chip.port q).replay ≠ [] → 3 ≤ (s.chip.port q).replays →
    ∃ t, exec (.replayTimeout q) s = .next t ∧ s.chip.portFell t.chip q) ∧
  (∀ (s : State) (q : Port), (s.chip.port q).up = true → (s.chip.port q).nakOut = true →
    ∃ t, exec (.nakResendTimeout q) s = .next t ∧ (t.chip.port q).nakOut = true ∧
      s.chip.counted t.chip (portB q + 0x00C) ∧ .nak (((s.chip.port q).rxSeq + 255) % 256) ∈ (t.chip.port q).ctrl)

/-- Credit (R305, R309, R310): a CREDIT in range sets what the device may send and acknowledges, one out of range is
ignored and counted; after 1 µs all freed buffers are granted again. -/
def Obligations.Credit : Prop :=
  (∀ (s : State) (q : Port) (cc0 cc1 cc2 : BitVec 16) (ack : Option Byte), (s.chip.port q).up = true →
    (s.chip.port q).ccOk [cc0.toNat, cc1.toNat, cc2.toNat] = true →
    ∃ t, exec (.creditReceived ⟨q, ack⟩ cc0 cc1 cc2) s = .next t ∧
      (t.chip.port q).replay = ((s.chip.port q).ackedBy (ack.map (·.toNat))).replay ∧
      (t.chip.port q).txCred 0 = (cc0.toNat + 65536 - tabGet 0 (s.chip.port q).sent 0) % 65536 ∧
      (t.chip.port q).txCred 1 = 0 ∧
      (t.chip.port q).txCred 2 = (cc2.toNat + 65536 - tabGet 0 (s.chip.port q).sent 2) % 65536) ∧
  (∀ (s : State) (q : Port) (cc0 cc1 cc2 : BitVec 16) (ack : Option Byte), (s.chip.port q).up = true →
    (s.chip.port q).ccOk [cc0.toNat, cc1.toNat, cc2.toNat] = false →
    ∃ t, exec (.creditReceived ⟨q, ack⟩ cc0 cc1 cc2) s = .next t ∧ (t.chip.port q).hostCc = (s.chip.port q).hostCc ∧
      s.chip.counted t.chip (portB q + 0x024) ∧ (t.chip.port q).credBad = true ∧
      ((s.chip.port q).credBad = false → t.chip.waits (srcRx q) 0x0308)) ∧
  (∀ (s : State) (q : Port) (k : Fin 3), (s.chip.port q).up = true → s.chip.ledger (credFreed q k) ≠ 0 →
    ∃ t, exec (.creditTimer q) s = .next t ∧
      (∀ j : Fin 3, t.chip.ledger (credFreed q j) = 0 ∧
        t.chip.ledger (credAdv q j) = s.chip.ledger (credAdv q j) + s.chip.ledger (credFreed q j)) ∧
      ∃ cc, .credit cc ∈ (t.chip.port q).ctrl)

/-- Failover (R320): a port that carries traffic and goes down while the other is up hands its unacknowledged frames
to a failover, and the device sends RESUME on the other; the host's RESUME on the surviving port makes the device
resend there, as new frames, what follows the host's LAST_RX; without it in 100 µs the frames are discarded with a
RESUME_FAIL record. Where the rules leave a point open, the model's choice stands (log entry 8). -/
def Obligations.FailOver : Prop :=
  (∀ (s : State) (q : Port) (ppm : Int), (s.chip.port q).up = true → (s.chip.port (1 - q.val)).up = true →
    s.chip.carries q = true → s.chip.failover = none →
    ∃ t, exec (.clockCheckWindow q false ppm) s = .next t ∧
      t.chip.failover = some { failed := q, held := (s.chip.port q).replay } ∧ (t.chip.port q).up = false ∧
      .resume (((s.chip.port q).rxSeq + 255) % 256) (s.chip.port q).rxAny ∈ (t.chip.port (1 - q.val)).ctrl) ∧
  (∀ (s : State) (q : Port) (ack : Option Byte) (n : Byte) (held ys xs : List (Nat × Frame)) (f : Frame) (r : Port),
    s.chip.failover = some { failed := r, held := held } → q ≠ r → (s.chip.port q).up = true →
    held = xs ++ (n.toNat, f) :: ys → (∀ e ∈ xs, e.1 ≠ n.toNat) → (s.chip.port r).unjudged = [] →
    ∃ t, exec (.resumeReceived ⟨q, ack⟩ n true) s = .next t ∧ t.chip.failover = none ∧
      s.chip.counted t.chip 0x00310014 ∧
      ∃ owed, (t.chip.port q).ready = (s.chip.port q).ready ++ ys.map (·.2) ++ owed ∧
        owed = (s.chip.port r).ready.filter (fun x => x.cls = 2)) ∧
  (∀ (s : State) (f : Failover), s.chip.failover = some f →
    ∃ t, exec .resumeTimeout s = .next t ∧ t.chip.failover = none ∧ t.chip.waits (srcRx f.failed) 0x030A ∧
      s.chip.counted t.chip 0x00310018 ((f.held.map (fun e => e.2.noteCount)).sum))

/-- Sending (R305, R307, R315, R317, R318): the next DATA frame with credit leaves with the next SEQ and stays in the
replay buffer, and what leaves carries the acknowledgement; a 65th unacknowledged frame waits; an owed acknowledgement
with nothing else to send leaves as an ACK frame; a DELAY_REQ is stamped as it leaves. When the hold expires the
events that wait are due: a NOTIFY frame takes its place among the ready frames, and takes up to 22 events as it leaves;
without posted credit it stays there. Where the
rules leave a point open, the model's choice stands (log entry 9). -/
def Obligations.Sending : Prop :=
  (∀ (s : State) (q : Port) (f : Frame), (s.chip.port q).up = true → (s.chip.port q).replay.length < 64 →
    (s.chip.port q).next = some f → f ≠ noteSlot → s.chip.dev.dropCompat = none →
    ∃ t, exec (.dataFrameSend q) s = .next t ∧ (t.chip.port q).lastSent = some f ∧
      (t.chip.port q).replay = (s.chip.port q).replay ++ [((s.chip.port q).txSeq, f)] ∧
      (t.chip.port q).txSeq = ((s.chip.port q).txSeq + 1) % 256 ∧ (t.chip.port q).ackOwed = false ∧
      (t.chip.port q).lastAck = (((s.chip.port q).rxSeq + 255) % 256, (s.chip.port q).rxAny)) ∧
  (∀ (s : State) (q : Port), (s.chip.port q).up = true → 64 ≤ (s.chip.port q).replay.length →
    s.chip.dev.dropCompat = none →
    ∃ t, exec (.dataFrameSend q) s = .next t ∧ (t.chip.port q).replay = (s.chip.port q).replay ∧
      (t.chip.port q).ready = (s.chip.port q).ready ∧ (t.chip.port q).txSeq = (s.chip.port q).txSeq) ∧
  (∀ (s : State) (q : Port), (s.chip.port q).up = true → (s.chip.port q).ackOwed = true → (s.chip.port q).ctrl = [] →
    (s.chip.port q).sends = none → s.chip.dev.dropCompat = none →
    ∃ t, exec (.dataFrameSend q) s = .next t ∧
      (t.chip.port q).lastCtrl = [.ack (((s.chip.port q).rxSeq + 255) % 256)] ∧
      (t.chip.port q).ackOwed = false ∧ (t.chip.port q).replay = (s.chip.port q).replay) ∧
  (∀ (s : State) (q : Port) (f : Frame) (e : Exch), (s.chip.port q).up = true → (s.chip.port q).sends = some f →
    f.txn.ttype = 0x22 → s.chip.exch q = some e → f.txn.param.toNat % 2 ^ 16 = e.seqid → e.t3 = none →
    s.chip.dev.dropCompat = none →
    ∃ t, exec (.dataFrameSend q) s = .next t ∧
      t.chip.exch q = some { e with t3 := some (s.chip.linkStamp q 0 true), at3 := s.chip.frc }) ∧
  (∀ (s : State) (q : Port), (s.chip.port q).up = true → (s.chip.port q).replay.length < 64 →
    (s.chip.port q).next = some noteSlot → s.chip.dev.dropCompat = none →
    ∃ t, exec (.dataFrameSend q) s = .next t ∧ (t.chip.port q).lastSent = some s.chip.noteFrame ∧
      t.chip.notes = s.chip.notes.drop 22 ∧ t.chip.gap = 0 ∧
      s.chip.noteFrame.txn.data = (s.chip.notes.take 22).flatMap Note.words ∧
      s.chip.noteFrame.txn.addr = BitVec.ofNat 64 s.chip.gap) ∧
  (∀ (s : State) (q : Port), s.chip.notifyPort = q → s.chip.notes ≠ [] → s.chip.notes.length ≤ 22 →
    s.chip.noteSlots = 0 →
    ∃ t, exec (.notifyHoldExpiry q) s = .next t ∧ t.chip.notes = s.chip.notes ∧
      t.chip.notesDue = s.chip.notes.length ∧ (t.chip.port q).ready = (s.chip.port q).ready ++ [noteSlot]) ∧
  (∀ (s : State) (q : Port), (s.chip.port q).up = true → (s.chip.port q).timeReady = [] →
    (s.chip.port q).ready = [noteSlot] → (s.chip.port q).txCred 0 = 0 → s.chip.dev.dropCompat = none →
    ∃ t, exec (.dataFrameSend q) s = .next t ∧ (t.chip.port q).ready = [noteSlot] ∧ t.chip.notes = s.chip.notes ∧
      t.chip.gap = s.chip.gap)

/-- No command of the link breaks the credit ledger (R309): in every state in which LIMIT is the sum of
ADVERTISED_UNUSED, OCCUPIED and FREED_UNADVERTISED, it is so afterwards. -/
def Obligations.CreditsBalance : Prop :=
  ∀ (s t : State) (i : Instr), s.chip.creditsBalance →
    (match i with
      | .clockCheckWindow _ _ _ | .bringupStepDone _ _ _ | .bringupTimeout _ | .autoCodingSwitch _
      | .initReceived _ _ _ _ _ | .linkMarkerReceived _ _ _ _ | .linkMarkerTimeout _ _ | .mfSweepDone _ _ _
      | .lossOfCommaAlignment _ _ _ | .dataFrameReceived _ _ _ _ _ | .badFrameReceived _ _ | .ackReceived _ _
      | .nakReceived _ _ | .creditReceived _ _ _ _ | .resumeReceived _ _ _ | .replayTimeout _ | .nakResendTimeout _
      | .creditTimer _ | .resumeTimeout | .dataFrameSend _ | .notifyHoldExpiry _ => True
      | _ => False) →
    exec i s = .next t → t.chip.creditsBalance

/-! ### Commands (R363 to R371) -/

/-- The commands that change the device state (R363, R366, R370): NEGOTIATE_COMMIT latches the agreed features and leads
to READY, DEV_RESET completes before the reset, DEV_QUIESCE with no task admitted completes at once in QUIESCE,
DEV_RESUME leads back and lets admission pass, DEV_LOWPOWER and DEV_WAKE lead into LOWPOWER and out of it with
WAKE_DONE. -/
def Obligations.DeviceStates : Prop :=
  (∀ (s : State) (h : CmdHdr) (ver : Word), s.chip.hears h (.negotiateCommit ver.toNat) →
    ∃ t, exec (.negotiateCommit h ver) s = .next t ∧ t.chip.dev.mode = .ready ∧ t.chip.dev.committed = true ∧
      (∀ i, i < 4 → t.chip.reg (0x40 + 4 * i) = s.chip.reg (0x20 + 4 * i) &&& s.chip.reg (0x30 + 4 * i)) ∧
      t.chip.ended h 0 ([0, 1, 2, 3].map (fun i => s.chip.reg (0x20 + 4 * i) &&& s.chip.reg (0x30 + 4 * i)))) ∧
  (∀ (s : State) (h : CmdHdr), s.chip.hears h .devReset →
    ∃ t, exec (.devReset h) s = .next t ∧ t.chip.dev.resetWait = some { port := h.port, tag := h.tag.toNat } ∧
      t.chip.ended h 0) ∧
  (∀ (s : State) (h : CmdHdr), s.chip.hears h .devQuiesce → s.chip.anyAdmitted = false →
    ∃ t, exec (.devQuiesce h) s = .next t ∧ t.chip.dev.mode = .quiesce ∧ t.chip.sched = s.chip.sched ∧
      t.chip.ended h 0) ∧
  (∀ (s : State) (h : CmdHdr), s.chip.hears h .devResume →
    ∃ t, exec (.devResume h) s = .next t ∧ t.chip.ended h 0 ∧ t.chip.sched.passDue = true ∧
      (s.chip.anyAdmitted = true → t.chip.dev.mode = .running) ∧
      (s.chip.anyAdmitted = false → t.chip.dev.mode = .ready)) ∧
  (∀ (s : State) (h : CmdHdr), s.chip.hears h .devLowpower →
    ∃ t, exec (.devLowpower h) s = .next t ∧ t.chip.dev.mode = .lowpower ∧ t.chip.ended h 0) ∧
  (∀ (s : State) (h : CmdHdr), s.chip.hears h .devWake →
    ∃ t, exec (.devWake h) s = .next t ∧ t.chip.executes h .devWake ∧ t.chip.dev.mode = .lowpower) ∧
  (∀ (s : State) (h : CmdHdr), s.chip.executes h .devWake → s.chip.dev.mode = .lowpower →
    ∃ t, exec .wakeDone s = .next t ∧ t.chip.dev.mode = .ready ∧ t.chip.sched.passDue = true ∧ t.chip.ended h 0)

/-- The judgement of a descriptor (R369, R371, R385, R408), for every command: a state in which it is illegal is
STATE_CONFLICT with the state, a reserved bit or an operand out of range BAD_OPERAND, what a retrain refuses
BUSY_TRAINING; a command that finds another waits its turn, and with 32 waiting, or completions that hold every
buffer, it stays in its buffer (R311). COMMAND_START judges the next again. Where the rules leave a point open, the
model's choice stands (log entry 7). -/
def Obligations.CommandJudgement : Prop :=
  (∀ (s : State) (i : Instr) (h : CmdHdr) (x : Cmd), rowCmd i = some (h, x) → s.chip.takes h.port h.tag →
    s.chip.cmd.queue.length < 32 → s.chip.cmdOk x = false →
    ∃ t, exec i s = .next t ∧ t.chip.completed h.port h.tag 1 (cmdResult h []) 0 s.chip.dev.mode.code ∧
      t.chip.cmd = s.chip.cmd ∧ t.chip.dev = s.chip.dev ∧ s.chip.counted t.chip 0x00010024) ∧
  (∀ (s : State) (i : Instr) (h : CmdHdr) (x : Cmd), rowCmd i = some (h, x) → s.chip.takes h.port h.tag →
    s.chip.cmd.queue.length < 32 → s.chip.cmdOk x = true → (h.dirty || s.chip.badOperand x) = true →
    ∃ t, exec i s = .next t ∧ t.chip.completed h.port h.tag 2 (cmdResult h []) ∧ t.chip.cmd = s.chip.cmd ∧
      t.chip.dev = s.chip.dev) ∧
  (∀ (s : State) (i : Instr) (h : CmdHdr) (x : Cmd), rowCmd i = some (h, x) → s.chip.takes h.port h.tag →
    s.chip.cmd.queue.length < 32 → s.chip.cmdOk x = true → (h.dirty || s.chip.badOperand x) = false →
    s.chip.busyTraining x = true →
    ∃ t, exec i s = .next t ∧ t.chip.completed h.port h.tag 9 (cmdResult h []) ∧ t.chip.cmd = s.chip.cmd ∧
      t.chip.dev = s.chip.dev) ∧
  (∀ (s : State) (i : Instr) (h : CmdHdr) (x : Cmd), rowCmd i = some (h, x) → s.chip.takes h.port h.tag →
    s.chip.cmd.queue.length < 32 → s.chip.cmdOk x = true → (h.dirty || s.chip.badOperand x) = false →
    s.chip.busyTraining x = false → s.chip.cmd.exec ≠ none ∨ s.chip.cmd.queue ≠ [] →
    ∃ t, exec i s = .next t ∧ t.chip.cmd.exec = s.chip.cmd.exec ∧ t.chip.cmd.queue = s.chip.cmd.queue ++ [(h, x)] ∧
      t.chip.reg 0x00010044 = s.chip.reg 0x00010044 + 1 ∧ (t.chip.port h.port).ready = (s.chip.port h.port).ready ∧
      t.chip.dev = s.chip.dev) ∧
  (∀ (s : State) (i : Instr) (h : CmdHdr) (x : Cmd), rowCmd i = some (h, x) →
    32 ≤ s.chip.cmd.queue.length ∨ (s.chip.port h.port).heldUp = true →
    ∃ t, exec i s = .next t ∧ t = s) ∧
  (∀ (s : State) (h : CmdHdr) (x : Cmd) (rest : List (CmdHdr × Cmd)), s.chip.cmd.exec = none →
    s.chip.cmd.done = false → s.chip.cmd.headDone = false → s.chip.cmd.queue = (h, x) :: rest →
      s.chip.cmdOk x = false →
    ∃ t, exec .commandStart s = .next t ∧ t.chip.cmd.queue = rest ∧ t.chip.ended h 1 [] s.chip.dev.mode.code) ∧
  (∀ (s : State) (h : CmdHdr) (k : Nat) (rest : List (CmdHdr × Cmd)), s.chip.cmd.exec = none →
    s.chip.cmd.done = false → s.chip.cmd.headDone = false → s.chip.cmd.queue = (h, .snapRelease k) :: rest →
    s.chip.cmdOk (.snapRelease k) = true → k ∈ s.chip.snap.held →
    ∃ t, exec .commandStart s = .next t ∧ t.chip.cmd.queue = rest ∧ t.chip.snap.held = s.chip.snap.held.erase k ∧
      t.chip.ended h 0) ∧
  (∀ s : State, s.chip.cmd.exec ≠ none ∨ s.chip.cmd.headDone = true → ∃ t, exec .commandStart s = .next t ∧ t = s)

/-- Snapshots (R30, R31, R33, R34, R370, R410): SNAPSHOT captures every ledger at one epoch, takes the lowest free
handle, and asks for the 128 lines of its frame to be written at the handle's place; its completion names handle,
sequence number and FRC once the frame is written, which needs the slot tables. A frame is 16 KiB: header, the
SNAP-class registers of the epoch in ascending address order, zeros. It ends with SNAPSHOT_LIMIT when no handle is free,
and with SNAP_REGS_ONLY, the epoch captured all the same, when memory has failed. SNAP_RELEASE frees a handle. Where the
rules leave a point open, the model's choice stands (log entries 10, 36, 69). -/
def Obligations.Snapshots : Prop :=
  (∀ (s : State) (h : CmdHdr) (k : Nat), s.chip.hears h .snapshot → (s.chip.dev.mode = .fault →
    s.chip.noMemory = false) →
    k < 64 → k ∉ s.chip.snap.held → (∀ j, j < k → j ∈ s.chip.snap.held) →
    ∃ t, exec (.snapshot h) s = .next t ∧ t.chip.executes h .snapshot ∧ t.chip.snap.held = k :: s.chip.snap.held ∧
      t.chip.snap.busy = some (k, s.chip.lastSeq, s.chip.frc, []) ∧ t.chip.snap.epochSeq = s.chip.lastSeq ∧
      (∀ a, a < 0x00340000 → t.chip.epochVal a = s.chip.ledger a) ∧
      ∀ i, i < 128 → ∃ r : Req, r ∈ (t.chip.memCh (chanOf r.addr)).host ∧
        r.addr = s.chip.snapBase + 0x4000 * k + 128 * i ∧ r.who = .snap i ∧
        r.data = some (((t.chip.snapFrame k s.chip.lastSeq s.chip.frc).drop (128 * i)).take 128)) ∧
  (∀ (c : Chip) (k sq frc : Nat),
    let f := c.snapFrame k sq frc
    let body := snapAddrs.flatMap (fun a => wordsToBytes (twoWords (c.epochVal a).toNat))
    f.length = 0x4000 ∧ body.length = 12416 ∧ snapAddrs.Pairwise (· < ·) ∧
    f.take 0x40 = toLe 8 sq ++ toLe 8 frc ++ toLe 4 (c.reg 8).toNat ++ toLe 4 (c.reg 0x00340004).toNat ++ toLe 2 k ++
      toLe 2 c.dev.mode.code ++ toLe 4 12416 ++ toLe 4 (crc32c body) ++ List.replicate 28 0 ∧
    (f.drop 0x40).take 12416 = body ∧ ∀ b ∈ f.drop 0x30C0, b = 0) ∧
  (∀ (s : State) (h : CmdHdr), s.chip.hears h .snapshot → (s.chip.dev.mode = .fault → s.chip.noMemory = false) →
    (∀ j, j < 64 → j ∈ s.chip.snap.held) →
    ∃ t, exec (.snapshot h) s = .next t ∧ t.chip.ended h 0xF ∧ t.chip.snap = s.chip.snap ∧
      t.chip.epoch = s.chip.epoch ∧
      s.chip.counted t.chip 0x0002002C) ∧
  (∀ (s : State) (h : CmdHdr), s.chip.hears h .snapshot → s.chip.dev.mode = .fault → s.chip.noMemory = true →
    ∃ t, exec (.snapshot h) s = .next t ∧ t.chip.ended h 0x10 ∧ t.chip.snap.held = s.chip.snap.held ∧
      ∀ a, a < 0x00340000 → t.chip.epochVal a = s.chip.ledger a) ∧
  (∀ (s : State) (h : CmdHdr) (k sq frc : Nat) (ws : List Word), s.chip.snap.busy = some (k, sq, frc, ws) →
    s.chip.executes h .snapshot → s.chip.memHas Who.isSnap = false →
    ∃ t, exec .snapshotFrameWritten s = .next t ∧ t.chip.snap.busy = none ∧ t.chip.waits (srcOf 15 50) 0x80D0 ∧
      t.chip.snap.held = s.chip.snap.held ∧ t.dram = s.dram ∧
      t.chip.ended h 0 ([BitVec.ofNat 32 k, 0] ++ twoWords sq ++ twoWords frc)) ∧
  (∀ s : State, s.chip.memHas Who.isSnap = true → s.chip.tableRuns = false →
    ∃ t, exec .snapshotFrameWritten s = .next t ∧ t = s) ∧
  (∀ (s : State) (h : CmdHdr) (k : BitVec 16), s.chip.hears h (.snapRelease k.toNat) → k.toNat ∈ s.chip.snap.held →
    ∃ t, exec (.snapRelease h k) s = .next t ∧ t.chip.snap.held = s.chip.snap.held.erase k.toNat ∧ t.chip.ended h 0) ∧
  (∀ (s : State) (h : CmdHdr) (k : BitVec 16), s.chip.hears h (.snapRelease k.toNat) → k.toNat ∉ s.chip.snap.held →
    ∃ t, exec (.snapRelease h k) s = .next t ∧ t.chip.snap = s.chip.snap ∧ t.chip.ended h 3 ∧
      s.chip.counted t.chip 0x0002002C)

/-- Images (R137 to R139): IMAGE_LOAD closes the header's range and asks for it; when every line that the check asks for
has come, an image without a breach gets the lowest free handle, and with one the completion names the first breach,
nothing is loaded, and the range stays closed until that completion is issued. A full table is NO_IMAGE_SLOT, a
misplaced base BAD_OPERAND before anything is queued or closed. IMAGE_UNLOAD forgets an image that no live task uses.
Where the rules leave a point open, the model's choice stands (log entries 10, 16, 48). -/
def Obligations.ImageCommands : Prop :=
  (∀ (s : State) (h : CmdHdr) (base : Dword), s.chip.hears h (.imageLoad base.toNat) →
    s.chip.images.loaded.length < 256 →
    ∃ t, exec (.imageLoad h base) s = .next t ∧ t.chip.executes h (.imageLoad base.toNat) ∧
      t.chip.images.loaded = s.chip.images.loaded ∧ t.chip.images.check = some (base.toNat, 256) ∧
      t.chip.images.grown = false ∧ t.chip.memHas (fun w => w == .check) = true) ∧
  (∀ (s : State) (h : CmdHdr) (base : Dword), s.chip.hears h (.imageLoad base.toNat) →
    256 ≤ s.chip.images.loaded.length →
    ∃ t, exec (.imageLoad h base) s = .next t ∧ t.chip.ended h 0xC ∧ t.chip.images = s.chip.images) ∧
  (∀ (s : State) (h : CmdHdr) (base : Dword), s.chip.takes h.port h.tag → s.chip.cmd.queue.length < 32 →
    s.chip.cmdOk (.imageLoad base.toNat) = true → base.toNat % 4096 ≠ 0 ∨ s.chip.memBytes < base.toNat + 256 →
    ∃ t, exec (.imageLoad h base) s = .next t ∧ t.chip.completed h.port h.tag 2 (cmdResult h []) ∧
      t.chip.images = s.chip.images ∧ t.chip.cmd = s.chip.cmd) ∧
  (∀ (s : State) (h : CmdHdr) (unc : Option Nat) (base len k : Nat), s.chip.images.check = some (base, len) →
    s.chip.checkComplete = true → s.chip.executes h (.imageLoad base) →
    k < 256 → s.chip.imageLoaded k = false → (∀ j, j < k → s.chip.imageLoaded j = true) →
    ∃ t, exec (.imageCheckDone unc) s = .next t ∧ t.dram = s.dram ∧
      ((s.chip.verdict s.dram s.chip.images.bad base).1 = none →
        t.chip.images.check = none ∧ t.chip.imageLoaded k = true ∧ t.chip.image k = imageOf s.dram base ∧
        t.chip.ended h 0 [BitVec.ofNat 32 k]) ∧
      ∀ b : Breach, (s.chip.verdict s.dram s.chip.images.bad base).1 = some b →
        t.chip.images.loaded = s.chip.images.loaded ∧ t.chip.images.check = some (base, len) ∧
        t.chip.ended h 0xE ([BitVec.ofNat 32 (b.code + b.record * 2 ^ 16), BitVec.ofNat 32 b.item] ++ twoWords b.off)) ∧
  (∀ (s : State) (unc : Option Nat), s.chip.checkComplete = false → s.chip.tableRuns = false →
    ∃ t, exec (.imageCheckDone unc) s = .next t ∧ t = s) ∧
  (∀ (s : State) (h : CmdHdr) (k : Byte), s.chip.hears h (.imageUnload k.toNat) → s.chip.imageLoaded k.toNat = true →
    s.chip.liveCtxs.any (fun e => e.2.image == k.toNat) = false →
    ∃ t, exec (.imageUnload h k) s = .next t ∧ t.chip.imageLoaded k.toNat = false ∧ t.chip.ended h 0) ∧
  (∀ (s : State) (h : CmdHdr) (k : Byte), s.chip.hears h (.imageUnload k.toNat) → s.chip.imageLoaded k.toNat = true →
    s.chip.liveCtxs.any (fun e => e.2.image == k.toNat) = true →
    ∃ t, exec (.imageUnload h k) s = .next t ∧ t.chip.images = s.chip.images ∧ t.chip.ended h 0xD) ∧
  (∀ (s : State) (h : CmdHdr) (k : Byte), s.chip.hears h (.imageUnload k.toNat) → s.chip.imageLoaded k.toNat = false →
    ∃ t, exec (.imageUnload h k) s = .next t ∧ t.chip.images = s.chip.images ∧ t.chip.ended h 3)

/-- TASK_CREATE (R160 to R165, R187): the lowest FREE context takes the operands with a new generation, its first state,
raised and entered when Cirque accepts it, is WAIT_FLAGS, DELAYED or READY by its flags and delay, and the completion
gives the handle; a priority, flags or link out of range is BAD_OPERAND before anything is queued. That the new context
shows its state from its event's acceptance on is R29 as log entry 75 reads it. -/
def Obligations.TaskCreation : Prop :=
  (∀ (s : State) (h : CmdHdr) (o : TaskOps) (n : Nat), s.chip.hears h (.taskCreate o) →
    s.chip.imageLoaded o.image.toNat = true →
    o.linkHandle.toNat = noTask ∨ (s.chip.findTask o.linkHandle.toNat).isSome = true →
    o.siteBase.toNat + (s.chip.image o.image.toNat).env.siteCount ≤ 128 → s.chip.freeCtx = some n →
    let gen := nextGen (tabGet 0 s.chip.sched.gens n)
    let met := if bitOf o.cflags.toNat 0 then o.flags &&& o.waitMask == o.waitMask else o.flags &&& o.waitMask != 0
    let st := if o.waitMask ≠ 0 ∧ met = false then 1 else if o.delay ≠ 0 then 2 else 3
    ∃ t, exec (.taskCreate h o) s = .next t ∧ t.chip.ended h 0 [BitVec.ofNat 32 (gen * 4096 + n)] ∧
      t.chip.ledger tskCreated = s.chip.ledger tskCreated + 1 ∧ t.chip.ledger tskLive = s.chip.ledger tskLive + 1 ∧
      t.chip.waits (srcTask n) (0x8000 + st) ∧
      (s.chip.slotsUsed < 256 →
        let x := t.chip.ctx n
        x.gen = gen ∧ x.st = 0 ∧ x.pend = some st ∧ x.resident = true ∧ x.prio = o.prio.toNat ∧
        x.image = o.image.toNat ∧ x.siteBase = o.siteBase.toNat ∧ x.flags = o.flags ∧ x.waitMask = o.waitMask ∧
        x.delay = o.delay.toNat ∧ x.userTag = o.userTag)) ∧
  (∀ (s : State) (h : CmdHdr) (o : TaskOps), s.chip.takes h.port h.tag → s.chip.cmd.queue.length < 32 →
    s.chip.cmdOk (.taskCreate o) = true →
    7 < o.prio.toNat ∨ 16 ≤ o.cflags.toNat ∨ bitsOf o.cflags.toNat 1 1 ≠ 0 ∨
      o.linkHandle.toNat = noTask ∧ o.linkMask ≠ 0 →
    ∃ t, exec (.taskCreate h o) s = .next t ∧ t.chip.completed h.port h.tag 2 (cmdResult h []) ∧
      t.chip.sched = s.chip.sched ∧ t.chip.cmd = s.chip.cmd) ∧
  (∀ (s : State) (h : CmdHdr) (o : TaskOps), s.chip.hears h (.taskCreate o) →
    s.chip.imageLoaded o.image.toNat = false ∨
      o.linkHandle.toNat ≠ noTask ∧ s.chip.findTask o.linkHandle.toNat = none →
    ∃ t, exec (.taskCreate h o) s = .next t ∧ t.chip.ended h 3 ∧ t.chip.sched = s.chip.sched) ∧
  (∀ (s : State) (h : CmdHdr) (o : TaskOps), s.chip.hears h (.taskCreate o) →
    o.linkHandle.toNat = noTask → s.chip.imageLoaded o.image.toNat = true →
    o.siteBase.toNat + (s.chip.image o.image.toNat).env.siteCount ≤ 128 → s.chip.freeCtx = none →
    ∃ t, exec (.taskCreate h o) s = .next t ∧ t.chip.ended h 0xB ∧ t.chip.sched = s.chip.sched ∧
      t.chip.ledger 0x00200078 = s.chip.ledger 0x00200078 + 1)

/-- TASK_CANCEL, TASK_FLAGS and TASK_PRIO (R160, R167, R178, R179): a cancel and a flag write are raised as events of
their task and complete when Cirque has accepted them, but a cancel that finds its task ending, or its terminal event
raised, ends at once; a priority changes at once before admission; an unknown handle is BAD_HANDLE. Where the rules
leave a point open, the model's choice stands (log entry 43). -/
def Obligations.TaskCommands : Prop :=
  (∀ (s : State) (h : CmdHdr) (k : Word) (n : Nat), s.chip.hears h (.taskCancel k.toNat) →
    s.chip.findTask k.toNat = some n → (s.chip.ctx n).st ≤ 5 → (s.chip.ctx n).pend = none →
    ∃ t, exec (.taskCancel h k) s = .next t ∧ t.chip.executes h (.taskCancel k.toNat) ∧
      t.chip.waits (srcTask n) 0x8009 ∧
      (t.chip.ctx n).cancelDue = true ∧ (t.chip.ctx n).st = (s.chip.ctx n).st) ∧
  (∀ (s : State) (h : CmdHdr) (k : Word) (n : Nat), s.chip.hears h (.taskCancel k.toNat) →
    s.chip.findTask k.toNat = some n → (s.chip.ctx n).st = 6 → (s.chip.ctx n).pend = none →
    ∃ t, exec (.taskCancel h k) s = .next t ∧ t.chip.executes h (.taskCancel k.toNat) ∧
      t.chip.waits (srcTask n) 0x8007 ∧
      (t.chip.ctx n).cancelDue = true ∧ (t.chip.ctx n).pend = some 7) ∧
  (∀ (s : State) (h : CmdHdr) (k : Word) (n : Nat), s.chip.hears h (.taskCancel k.toNat) →
    s.chip.findTask k.toNat = some n → (s.chip.ctx n).st = 7 → (s.chip.ctx n).pend = none →
    ∃ t, exec (.taskCancel h k) s = .next t ∧ t.chip.ended h 1 [] 7 ∧ t.chip.sched = s.chip.sched) ∧
  (∀ (s : State) (h : CmdHdr) (k : Word) (n e : Nat), s.chip.hears h (.taskCancel k.toNat) →
    s.chip.findTask k.toNat = some n → (s.chip.ctx n).pend = some e → 8 ≤ e → e ≤ 10 →
    ∃ t, exec (.taskCancel h k) s = .next t ∧ t.chip.ended h 3 ∧ t.chip.sched = s.chip.sched) ∧
  (∀ (s : State) (h : CmdHdr) (k : Word) (set clr : Dword) (n : Nat), s.chip.hears h (.taskFlags k.toNat set clr) →
    s.chip.findTask k.toNat = some n →
    ∃ t, exec (.taskFlags h k set clr) s = .next t ∧ t.chip.executes h (.taskFlags k.toNat set clr) ∧
      t.chip.waits (srcTask n) 0x8011 ∧ t.chip.sched = s.chip.sched) ∧
  (∀ (s : State) (h : CmdHdr) (k : Word) (p : Byte) (n : Nat), s.chip.hears h (.taskPrio k.toNat p.toNat) →
    s.chip.findTask k.toNat = some n → (s.chip.ctx n).st < 5 →
    ∃ t, exec (.taskPrio h k p) s = .next t ∧ t.chip.ended h 0 ∧
      t.chip.ctx n = { s.chip.ctx n with prio := p.toNat } ∧
      ∀ m, m ≠ n → t.chip.ctx m = s.chip.ctx m) ∧
  (∀ (s : State) (h : CmdHdr) (k : Word) (p : Byte) (n : Nat), s.chip.hears h (.taskPrio k.toNat p.toNat) →
    s.chip.findTask k.toNat = some n → 5 ≤ (s.chip.ctx n).st →
    ∃ t, exec (.taskPrio h k p) s = .next t ∧ t.chip.ended h 1 [] (s.chip.ctx n).st ∧ t.chip.sched = s.chip.sched) ∧
  (∀ (s : State) (h : CmdHdr) (k : Word) (p : Byte), s.chip.takes h.port h.tag → s.chip.cmd.queue.length < 32 →
    s.chip.cmdOk (.taskPrio k.toNat p.toNat) = true → 7 < p.toNat →
    ∃ t, exec (.taskPrio h k p) s = .next t ∧ t.chip.completed h.port h.tag 2 (cmdResult h []) ∧
      t.chip.sched = s.chip.sched ∧ t.chip.cmd = s.chip.cmd) ∧
  (∀ (s : State) (h : CmdHdr) (k : Word) (set clr : Dword) (p : Byte), s.chip.findTask k.toNat = none →
    (s.chip.hears h (.taskCancel k.toNat) →
      ∃ t, exec (.taskCancel h k) s = .next t ∧ t.chip.ended h 3 ∧ t.chip.sched = s.chip.sched) ∧
    (s.chip.hears h (.taskFlags k.toNat set clr) →
      ∃ t, exec (.taskFlags h k set clr) s = .next t ∧ t.chip.ended h 3 ∧ t.chip.sched = s.chip.sched) ∧
    (s.chip.hears h (.taskPrio k.toNat p.toNat) →
      ∃ t, exec (.taskPrio h k p) s = .next t ∧ t.chip.ended h 3 ∧ t.chip.sched = s.chip.sched))

/-- The memory commands (R285 to R287): MEM_RETRAIN stops the slot tables and trains the FSPs of its mask; MEM_FSP to
the current FSP completes at once, to a valid one starts the switch, to one that failed training ends with
NOT_TRAINED; the end of the switch restarts the tables at the new FSP and completes the command. The idle timer
switches to FSP1 of itself. Where the rules leave a point open, the model's choice stands (log entry 50). -/
def Obligations.MemoryCommands : Prop :=
  (∀ (s : State) (h : CmdHdr) (mask : Byte), s.chip.hears h (.memRetrain mask.toNat) → s.chip.anyAdmitted = false →
    ∃ t, exec (.memRetrain h mask) s = .next t ∧ t.chip.executes h (.memRetrain mask.toNat) ∧ t.chip.training = true ∧
      t.chip.tableRuns = false ∧ t.chip.mem.trainLeft = [1, 0].filter (fun f => mask.getLsbD f)) ∧
  (∀ (s : State) (h : CmdHdr) (mask : Byte), s.chip.hears h (.memRetrain mask.toNat) → s.chip.anyAdmitted = true →
    ∃ t, exec (.memRetrain h mask) s = .next t ∧ t.chip.ended h 1 [] s.chip.dev.mode.code ∧ t.chip.mem = s.chip.mem) ∧
  (∀ (s : State) (h : CmdHdr) (target flags : Byte), s.chip.hears h (.memFsp target.toNat flags.toNat) →
    s.chip.switching = false → s.chip.fsp = target.toNat →
    ∃ t, exec (.memFsp h target flags) s = .next t ∧ t.chip.ended h 0 ∧ t.chip.mem = s.chip.mem) ∧
  (∀ (s : State) (h : CmdHdr) (target flags : Byte), s.chip.hears h (.memFsp target.toNat flags.toNat) →
    s.chip.switching = false → s.chip.fsp ≠ target.toNat → s.chip.fspValid target.toNat = false →
    ∃ t, exec (.memFsp h target flags) s = .next t ∧ t.chip.ended h 0xA ∧ t.chip.mem = s.chip.mem) ∧
  (∀ (s : State) (h : CmdHdr) (target flags : Byte), s.chip.hears h (.memFsp target.toNat flags.toNat) →
    s.chip.switching = false → s.chip.fsp ≠ target.toNat → s.chip.fspValid target.toNat = true →
    (target = 1 → s.chip.anyAdmitted = false) →
    ∃ t, exec (.memFsp h target flags) s = .next t ∧ t.chip.executes h (.memFsp target.toNat flags.toNat) ∧
      t.chip.mem.switch = some (target.toNat, s.chip.frc) ∧ t.chip.switching = true ∧ t.chip.tableRuns = false) ∧
  (∀ (s : State) (h : CmdHdr) (flags target t0 ns : Nat), s.chip.mem.switch = some (target, t0) → target < 2 →
    s.chip.executes h (.memFsp target flags) → s.chip.mem.deferred = false → s.chip.holders = [] →
    s.chip.clocked = true → s.chip.frc ≤ t0 + ns →
    ∃ t, exec (.fspSwitchDone ns) s = .next t ∧ t.chip.mem.switch = none ∧ t.chip.fsp = target ∧
      t.chip.switching = false ∧ t.chip.frc = t0 + ns ∧ s.chip.counted t.chip 0x00300014 ∧ t.chip.ended h 0) ∧
  (∀ (s : State) (t0 : Nat), s.chip.mem.idleFrom = some t0 → s.chip.clocked = true → s.chip.training = false →
    s.chip.holders = [] → s.chip.switching = false → s.chip.fsp = 0 → s.chip.fspValid 1 = true →
    s.chip.frc ≤ t0 + 1000 * s.chip.field 0x00300008 15 0 →
    ∃ t, exec .autoFspTimer s = .next t ∧ t.chip.mem.idleFrom = none ∧ t.chip.switching = true ∧
      t.chip.mem.switch = some (1, t0 + 1000 * s.chip.field 0x00300008 15 0))

/-- Calibration (R373 to R387): CAL_RUN starts at step SOURCE; a unit passes, is retried up to three times, or is
flagged with its error record; OCTANT sets the octant widths; a delay line keeps the taps nearest its grid, is flagged
above 500 fs, and retried when a histogram is not uniform; a flagged unit takes the values of the slot in use; a
finished step is stamped in its CAL_STEP_TIME and leads to the next, and the last of a power-up calibration to TRAIN,
unless a FAULT has come; SOURCE out of range ends a CAL_RUN with CAL_TIMEOUT and BOOT in FAULT. CAL_STORE erases the
slot that does not hold the highest valid SEQ, writes header and body there with SEQ one higher, and COMMIT last where
the body reads back right; temperature drift is reported. Where the rules leave a point open, the model's choice stands
(log entries 53, 54, 83). -/
def Obligations.Calibration : Prop :=
  (∀ (s : State) (h : CmdHdr) (steps groups : BitVec 16) (hits : Byte),
    s.chip.hears h (.calRun steps.toNat groups.toNat hits.toNat) →
    ∃ t, exec (.calRun h steps groups hits) s = .next t ∧
      t.chip.executes h (.calRun steps.toNat groups.toNat hits.toNat) ∧
      t.chip.reg 0x00330000 = 0x80000000 ∧ ∃ r, t.chip.cal.run = some r ∧ r.byCmd = true ∧ r.step = 0 ∧
        r.units = [(0, 0)] ∧ r.groups = groups.toNat ∧
        r.steps = 1 :: (bitsIn steps.toNat 7).filter (fun x => 2 ≤ x)) ∧
  (∀ (s : State) (r : CalRun) (unit n khz : Nat), s.chip.cal.run = some r → r.step = 0 →
    r.units.find? (fun e => e.1 = unit) = some (unit, n) → 750000 ≤ khz → khz ≤ 1150000 →
    ∃ t, exec (.calUnitDone unit (.source khz true)) s = .next t ∧
      t.chip.reg 0x00330080 = BitVec.ofNat 32 khz ∧
      ∃ r', t.chip.cal.run = some r' ∧ r'.passed = r.passed + 1 ∧ ∀ e ∈ r'.units, e.1 ≠ unit) ∧
  (∀ (s : State) (r : CalRun) (h : CmdHdr) (x : Cmd) (unit n khz : Nat), s.chip.cal.run = some r → r.step = 0 →
    r.byCmd = true → r.units.find? (fun e => e.1 = unit) = some (unit, n) → khz < 750000 ∨ 1150000 < khz →
    s.chip.executes h x →
    ∃ t, exec (.calUnitDone unit (.source khz true)) s = .next t ∧ t.chip.cal.run = none ∧ t.chip.ended h 0x15) ∧
  (∀ (s : State) (r : CalRun) (unit n : Nat), s.chip.cal.run = some r → r.step < 2 → r.byCmd = false →
    r.units.find? (fun e => e.1 = unit) = some (unit, n) → s.chip.dev.mode = .calibrate → s.chip.sched.ctxs = [] →
    ∃ t, exec (.calUnitTimeout unit) s = .next t ∧ t.chip.cal.run = none ∧ t.chip.dev.mode = .fault ∧
      t.chip.reg 0x0001000C = BitVec.ofNat 32 (8 * 2 ^ 24 + r.step)) ∧
  (∀ (s : State) (r : CalRun) (unit n : Nat), s.chip.cal.run = some r → 2 ≤ r.step → n < 3 →
    r.units.find? (fun e => e.1 = unit) = some (unit, n) →
    ∃ t, exec (.calUnitTimeout unit) s = .next t ∧ s.chip.counted t.chip 0x00330010 ∧
      ∃ r', t.chip.cal.run = some r' ∧ (unit, n + 1) ∈ r'.units ∧ r'.flagged = r.flagged) ∧
  (∀ (s : State) (r : CalRun) (unit n : Nat), s.chip.cal.run = some r → 2 ≤ r.step → 3 ≤ n →
    r.units.find? (fun e => e.1 = unit) = some (unit, n) →
    ∃ t, exec (.calUnitTimeout unit) s = .next t ∧ t.chip.waits (srcOf 14 0) 0x0015 ∧ t.chip.dev.calFlagged = true ∧
      t.chip.cal.vals = s.chip.cal.vals.fallBack s.chip.cal.stored r.step unit [] ∧
      t.chip.cal.flags.head? = some (r.step, unit, 2) ∧
      ∃ r', t.chip.cal.run = some r' ∧ r'.flagged = r.flagged + 1 ∧ ∀ e ∈ r'.units, e.1 ≠ unit) ∧
  (∀ (s : State) (r : CalRun) (temps : List Int) (x : Nat) (xs : List Nat), s.chip.cal.run = some r → r.units = [] →
    r.step ≤ 7 → r.steps = x :: xs →
    ∃ t, exec (.calStepDone temps) s = .next t ∧ t.chip.reg64 (0x00330018 + 8 * r.step) = s.chip.frc % 2 ^ 64 ∧
      ∃ r', t.chip.cal.run = some r' ∧ r'.step = x ∧ r'.steps = xs ∧ r'.byCmd = r.byCmd) ∧
  (∀ (s : State) (r : CalRun) (temps : List Int), s.chip.cal.run = some r → r.units = [] → r.steps = [] →
    r.byCmd = false → r.step ≤ 7 → s.chip.dev.mode = .calibrate →
    ∃ t, exec (.calStepDone temps) s = .next t ∧ t.chip.reg64 (0x00330018 + 8 * r.step) = s.chip.frc % 2 ^ 64 ∧
      t.chip.cal.run = none ∧ t.chip.dev.mode = .train ∧
      t.chip.mem.trainLeft = [1, 0] ∧ t.chip.reg 0x00330000 = 0x78000000) ∧
  (∀ (s : State) (r : CalRun) (temps : List Int), s.chip.cal.run = some r → r.units = [] → r.steps = [] →
    r.byCmd = false → s.chip.dev.mode ≠ .calibrate →
    ∃ t, exec (.calStepDone temps) s = .next t ∧ t.chip.cal.run = none ∧ t.chip.dev.mode = s.chip.dev.mode) ∧
  (∀ c : Chip, c.slotValid 0 = true → c.slotValid 1 = true →
    (c.slotSeq 0 < c.slotSeq 1 → c.storeTarget 0 = (0, c.slotSeq 1 + 1)) ∧
    (c.slotSeq 1 < c.slotSeq 0 → c.storeTarget 0 = (1, c.slotSeq 0 + 1))) ∧
  (∀ c : Chip,
    (c.slotValid 0 = true → c.slotValid 1 = false → c.storeTarget 0 = (1, c.slotSeq 0 + 1)) ∧
    (c.slotValid 0 = false → c.slotValid 1 = true → c.storeTarget 0 = (0, c.slotSeq 1 + 1)) ∧
    (c.slotValid 0 = false → c.slotValid 1 = false → c.storeTarget 0 = (0, 1))) ∧
  (∀ (s : State) (h : CmdHdr), s.chip.hears h .calStore → s.chip.slotSeq 0 ≠ s.chip.slotSeq 1 →
    (s.chip.storeTarget 0).2 ≠ 0xFFFFFFFF →
    ∃ t, exec (.calStore h) s = .next t ∧ t.chip.executes h .calStore ∧
      t.chip.cal.storing = some (s.chip.storeTarget 0) ∧
      ∀ a, t.chip.flRead a = if s.chip.slotAt (s.chip.storeTarget 0).1 ≤ a ∧
        a < s.chip.slotAt (s.chip.storeTarget 0).1 + 2 ^ 20 then 0xFF else s.chip.flRead a) ∧
  (∀ (s : State) (h : CmdHdr), s.chip.hears h .calStore → s.chip.slotSeq 0 ≠ s.chip.slotSeq 1 →
    (s.chip.storeTarget 0).2 = 0xFFFFFFFF →
    ∃ t, exec (.calStore h) s = .next t ∧ t.chip.ended h 0x11 ∧ t.chip.flash = s.chip.flash) ∧
  (∀ (s : State) (h : CmdHdr) (temps : List Int) (k seq : Nat), s.chip.cal.storing = some (k, seq) →
    s.chip.executes h .calStore → k < 2 → 0x10 ≤ s.chip.slotAt k →
    let at0 := s.chip.slotAt k
    let body := s.chip.slotBytes temps
    ∃ t, exec (.calStoreCommit ⟨temps, none⟩) s = .next t ∧ t.chip.cal.storing = none ∧
      t.chip.cal.stored = s.chip.cal.vals ∧ t.chip.ended h 0 [BitVec.ofNat 32 seq, BitVec.ofNat 32 k] ∧
      t.chip.flBytes at0 0x40 = s.chip.slotHead seq body ++ toLe 4 0xA5C35A3C ∧
      t.chip.flBytes (at0 + 0x40) body.length = body ∧
      ∀ a, a < at0 ∨ at0 + 0x40 + body.length ≤ a → t.chip.flRead a = s.chip.flRead a) ∧
  (∀ (s : State) (h : CmdHdr) (temps : List Int) (back : List Byte) (k seq : Nat), s.chip.cal.storing = some (k, seq) →
    s.chip.executes h .calStore → crc32c back ≠ crc32c (s.chip.slotBytes temps) →
    ∃ t st, exec (.calStoreCommit ⟨temps, some back⟩) s = .next t ∧ t.chip.cal.storing = none ∧
      t.chip.cal.stored = s.chip.cal.stored ∧ t.chip.ended h st ∧
      t.chip.flBytes (s.chip.slotAt k + 0x3C) 4 = s.chip.flBytes (s.chip.slotAt k + 0x3C) 4) ∧
  (∀ (s : State) (temps : List Int) (e : Nat × List Int) (i : Nat), e ∈ s.chip.cal.tempAt → i < 4 →
    s.chip.field 0x0033000C 7 0 ≠ 0 → 10 * s.chip.field 0x0033000C 7 0 < (temps.getD i 0 - e.2.getD i 0).natAbs →
    ∃ t, exec (.calDrift temps) s = .next t ∧ t.chip.waits (srcOf 14 0) 0x80C0) ∧
  (∀ (s : State) (r : CalRun) (unit n : Nat) (hits : List Nat), s.chip.cal.run = some r → r.step = 1 →
    r.units.find? (fun e => e.1 = unit) = some (unit, n) → hits.countP (· == hits.foldl max 0) = 1 →
    s.chip.chiOk (2 ^ 20) hits (List.replicate 8 1) = true →
    (∀ w ∈ octantWidths hits 0, 15125 ≤ 2 * w ∧ 2 * w ≤ 16125) →
    ∃ t, exec (.calUnitDone unit (.octant hits)) s = .next t ∧
      (∀ j : Fin 8, t.chip.reg (0x00330060 + 4 * j.val) = BitVec.ofNat 32 ((octantWidths hits 0).getD j 0)) ∧
      ∃ r', t.chip.cal.run = some r' ∧ r'.passed = r.passed + 1) ∧
  (∀ (s : State) (r : CalRun) (unit n : Nat) (lines : List (List Nat)), s.chip.cal.run = some r → r.step = 4 →
    r.units.find? (fun e => e.1 = unit) = some (unit, n) →
    (∀ l ∈ lines, s.chip.chiOk (2 ^ r.hits) (lineOctants l) s.chip.octants = true) →
    (∀ l ∈ lines, lineOut (lineTaps s.chip.octants l).2 = false) →
    ∃ t, exec (.calUnitDone unit (.delay lines)) s = .next t ∧
      (tabGet {} t.chip.cal.vals.lanes unit).dropped = lines.flatMap (fun l => (lineTaps s.chip.octants l).1) ∧
      ∃ r', t.chip.cal.run = some r' ∧ r'.passed = r.passed + 1 ∧ ∀ e ∈ r'.units, e.1 ≠ unit) ∧
  (∀ (s : State) (r : CalRun) (unit n : Nat) (lines : List (List Nat)) (l : List Nat), s.chip.cal.run = some r →
    r.step = 4 → r.units.find? (fun e => e.1 = unit) = some (unit, n) →
    (∀ l ∈ lines, s.chip.chiOk (2 ^ r.hits) (lineOctants l) s.chip.octants = true) →
    l ∈ lines → lineOut (lineTaps s.chip.octants l).2 = true →
    ∃ t, exec (.calUnitDone unit (.delay lines)) s = .next t ∧
      (tabGet {} t.chip.cal.vals.lanes unit).dropped = (tabGet {} s.chip.cal.stored.lanes unit).dropped ∧
      t.chip.cal.flags.head? = some (4, unit, 3) ∧ t.chip.waits (srcOf 14 0) 0x0016 ∧
      ∃ r', t.chip.cal.run = some r' ∧ r'.flagged = r.flagged + 1 ∧ ∀ e ∈ r'.units, e.1 ≠ unit) ∧
  (∀ (s : State) (r : CalRun) (unit n : Nat) (lines : List (List Nat)) (l : List Nat), s.chip.cal.run = some r →
    r.step = 4 → r.units.find? (fun e => e.1 = unit) = some (unit, n) → n < 3 →
    l ∈ lines → s.chip.chiOk (2 ^ r.hits) (lineOctants l) s.chip.octants = false →
    ∃ t, exec (.calUnitDone unit (.delay lines)) s = .next t ∧ s.chip.counted t.chip 0x00330010 ∧
      t.chip.cal.vals = s.chip.cal.vals ∧ ∃ r', t.chip.cal.run = some r' ∧ (unit, n + 1) ∈ r'.units)

/-- Training (R284, R285): an FSP that trains becomes valid; FSP0 failing in TRAIN is FAULT with cause TRAIN_FAIL, and
FSP0 trained leads to LINKING; the last FSP of a retrain completes MEM_RETRAIN and lets admission pass. Where the
rules leave a point open, the model's choice stands (log entries 49, 50). -/
def Obligations.Training : Prop :=
  (∀ (s : State) (eyes : List Word), s.chip.dev.mode = .train → s.chip.training = true → s.chip.switching = false →
    s.chip.mem.trainLeft = [1, 0] →
    ∃ t, exec (.trainFspDone 1 0 eyes) s = .next t ∧ t.chip.fspValid 1 = true ∧ t.chip.mem.trainLeft = [0] ∧
      tabGet [] t.chip.mem.eyes 1 = eyes ∧ t.chip.dev.mode = .train) ∧
  (∀ (s : State) (eyes : List Word), s.chip.dev.mode = .train → s.chip.training = true → s.chip.switching = false →
    s.chip.mem.trainLeft = [0] →
    ∃ t, exec (.trainFspDone 0 0 eyes) s = .next t ∧ t.chip.fspValid 0 = true ∧ t.chip.mem.trainLeft = [] ∧
      t.chip.dev.mode = .linking ∧ t.chip.training = false ∧
      (s.chip.clocked = true → ∀ q : Port, (t.chip.port q).running = true)) ∧
  (∀ (s : State) (failed : Byte) (eyes : List Word), s.chip.dev.mode = .train → s.chip.training = true →
    s.chip.switching = false → s.chip.mem.trainLeft = [0] → s.chip.sched.ctxs = [] → failed ≠ 0 →
    ∃ t, exec (.trainFspDone 0 failed eyes) s = .next t ∧ t.chip.dev.mode = .fault ∧ t.chip.dev.memFailed = true ∧
      t.chip.waits (srcOf 12 0) 0x0013 ∧ t.chip.field 0x0001000C 31 24 = 7) ∧
  (∀ (s : State) (h : CmdHdr) (mask : Nat) (f : Fin 2) (eyes : List Word), s.chip.dev.mode ≠ .train →
    s.chip.training = true → s.chip.switching = false → s.chip.mem.trainLeft = [f.val] → s.chip.mem.trainBad = [] →
    s.chip.holders = [] → s.chip.executes h (.memRetrain mask) →
    ∃ t, exec (.trainFspDone f 0 eyes) s = .next t ∧ t.chip.fspValid f = true ∧ t.chip.training = false ∧
      t.chip.sched.passDue = true ∧ t.chip.ended h 0)

/-! ### Transactions and registers (R5 to R11, R313, R314, R396, R404 to R407) -/

/-- REG_RD (R5, R10, R11, R35, R313, R314): every word is read at one instant and then every RCL field clears, to 0 or,
a largest value, to what it starts from again, and nothing else changes; a read that is refused completes with
ADDR_ERROR or, before NEGOTIATE_COMMIT, STATE_CONFLICT, one of no word or of more than 64 with LENGTH_ERROR, and clears
nothing. Where the rules leave a point open, the model's choice stands (log entries 36, 60). -/
def Obligations.RegisterReads : Prop :=
  (∀ (s : State) (q : Port) (tag : Byte) (addr : Dword) (n : BitVec 16), s.chip.takes q tag → 1 ≤ n.toNat →
    n.toNat ≤ 64 →
    s.chip.readFault addr.toNat n.toNat = none →
    ∃ t, exec (.regRd q tag addr n) s = .next t ∧
      t.chip.completed q tag 0 ((wordAddrs addr.toNat n.toNat).map (fun a => s.chip.readWord a)) ∧ t.dram = s.dram) ∧
  (∀ (s : State) (q p : Port) (tag : Byte) (i : Fin 10), s.chip.takes q tag → s.chip.dev.committed = true →
    ∃ t, exec (.regRd q tag (BitVec.ofNat 64 (portB p + 8 + 4 * i)) 1) s = .next t ∧
      t.chip.completed q tag 0 [s.chip.reg (portB p + 8 + 4 * i)] ∧ t.chip.reg (portB p + 8 + 4 * i) = 0 ∧
      ∀ a, a ≠ portB p + 8 + 4 * i → t.chip.reg a = s.chip.reg a) ∧
  (∀ (s : State) (q : Port) (tag : Byte) (addr : Dword) (r : RegRow) (ix : List Nat) (w : Nat), s.chip.takes q tag →
    s.chip.readFault addr.toNat 1 = none → s.chip.findReg addr.toNat = some (r, ix, w) →
    let a := addr.toNat
    let m := wordOf r.rcl w
    ∃ t, exec (.regRd q tag addr 1) s = .next t ∧ t.chip.completed q tag 0 [s.chip.readWord a] ∧
      t.chip.reg a = (s.chip.reg a &&& ~~~m) ||| (s.chip.peakNow a &&& m) ∧
      ∀ b, b ≠ a → t.chip.reg b = s.chip.reg b) ∧
  (∀ (s : State) (q : Port) (tag : Byte) (addr : Dword) (n : BitVec 16), s.chip.takes q tag →
    n.toNat = 0 ∨ 64 < n.toNat →
    ∃ t, exec (.regRd q tag addr n) s = .next t ∧ t.chip.completed q tag 5 ∧ ∀ a, t.chip.reg a = s.chip.reg a) ∧
  (∀ (s : State) (q : Port) (tag : Byte) (addr : Dword) (n : BitVec 16) (st : Nat), s.chip.takes q tag → 1 ≤ n.toNat →
    n.toNat ≤ 64 → s.chip.readFault addr.toNat n.toNat = some st →
    ∃ t, exec (.regRd q tag addr n) s = .next t ∧ (st = 4 ∨ st = 1) ∧
      t.chip.completed q tag st (if n.toNat = 1 then [0] else []) ∧
      ∀ a, a ≠ 0x00010024 → t.chip.reg a = s.chip.reg a) ∧
  (∀ (s : State) (q : Port) (tag : Byte) (addr : Dword), s.chip.takes q tag →
    addr.toNat % 4 ≠ 0 ∨ s.chip.findReg addr.toNat = none →
    ∃ t, exec (.regRd q tag addr 1) s = .next t ∧ t.chip.completed q tag 4 [0]) ∧
  (∀ (s : State) (q : Port) (tag : Byte), s.chip.takes q tag → s.chip.dev.committed = false →
    ∃ t, exec (.regRd q tag 0x00320008 1) s = .next t ∧ t.chip.completed q tag 1 [0])

/-- REG_WR (R6, R11, R313, R405, R406): a misaligned or unlisted address is ADDR_ERROR, a register that does not
respond before NEGOTIATE_COMMIT is STATE_CONFLICT, and neither changes a register; MEM_POLL takes a value in its range
and refuses another with GUARD_REJECT; both halves of a pair in one transaction write it, and one half alone waits for
the other. Where the rules leave a point open, the model's choice stands (log entries 19, 60). -/
def Obligations.RegisterWrites : Prop :=
  (∀ (s : State) (q : Port) (tag : Byte) (addr : Dword) (v : Word), s.chip.takes q tag →
    addr.toNat % 4 ≠ 0 ∨ s.chip.findReg addr.toNat = none →
    ∃ t, exec (.regWr q tag addr [v]) s = .next t ∧ t.chip.completed q tag 4 ∧ ∀ a, t.chip.reg a = s.chip.reg a) ∧
  (∀ (s : State) (q : Port) (tag : Byte) (v : Word), s.chip.takes q tag → s.chip.dev.committed = false →
    ∃ t, exec (.regWr q tag 0x00300010 [v]) s = .next t ∧ t.chip.completed q tag 1 ∧
      ∀ a, a ≠ 0x00010024 → t.chip.reg a = s.chip.reg a) ∧
  (∀ (s : State) (q : Port) (tag : Byte) (v : Word), s.chip.writable q tag →
    ∃ t, exec (.regWr q tag 0x00300010 [v]) s = .next t ∧
      (100 ≤ v.toNat % 2 ^ 16 → v.toNat % 2 ^ 16 ≤ 10000 →
        t.chip.completed q tag 0 ∧ t.chip.field 0x00300010 15 0 = v.toNat % 2 ^ 16) ∧
      (v.toNat % 2 ^ 16 < 100 ∨ 10000 < v.toNat % 2 ^ 16 →
        t.chip.completed q tag 6 ∧ t.chip.reg 0x00300010 = s.chip.reg 0x00300010) ∧
      ∀ a, a ≠ 0x00300010 → t.chip.reg a = s.chip.reg a) ∧
  (∀ (s : State) (q : Port) (tag : Byte) (lo hi : Word), s.chip.writable q tag →
    ∃ t, exec (.regWr q tag 0x00230008 [lo, hi]) s = .next t ∧ t.chip.completed q tag 0 ∧
      t.chip.reg 0x00230008 = lo ∧ t.chip.reg 0x0023000C = hi ∧
      ∀ a, a ≠ 0x00230008 → a ≠ 0x0023000C → t.chip.reg a = s.chip.reg a) ∧
  (∀ (s : State) (q : Port) (tag : Byte) (lo : Word), s.chip.writable q tag → s.chip.staged 0x0023000C = none →
    ∃ t, exec (.regWr q tag 0x00230008 [lo]) s = .next t ∧ t.chip.completed q tag 0 ∧
      t.chip.staged 0x00230008 = some lo ∧ ∀ a, t.chip.reg a = s.chip.reg a) ∧
  (∀ (s : State) (q : Port) (tag : Byte) (lo hi : Word), s.chip.writable q tag → s.chip.staged 0x00230008 = some lo →
    ∃ t, exec (.regWr q tag 0x0023000C [hi]) s = .next t ∧ t.chip.completed q tag 0 ∧
      t.chip.reg 0x00230008 = lo ∧ t.chip.reg 0x0023000C = hi ∧ t.chip.staged 0x00230008 = none) ∧
  (∀ (s : State) (q : Port) (tag : Byte) (addr : Dword) (vs : List Word), s.chip.takes q tag → 64 < vs.length →
    vs.length < 65536 →
    ∃ t, exec (.regWr q tag addr vs) s = .next t ∧ t.chip.completed q tag 5 ∧ ∀ a, t.chip.reg a = s.chip.reg a) ∧
  (∀ (s : State) (q : Port) (tag : Byte) (addr : Dword) (vs : List Word), (s.chip.port q).up = true →
    (s.chip.port q).heldUp = false → (s.chip.port q).rxq = [] → tag.toNat ∈ (s.chip.port q).tags →
    (s.chip.port q).redirect = false →
    ∃ t, exec (.regWr q tag addr vs) s = .next t ∧ t.chip.completed q tag 8 ∧
      (t.chip.port q).tags = (s.chip.port q).tags ∧ s.chip.counted t.chip (portB q + 0x02C) ∧
      ∀ a, a ≠ portB q + 0x02C → t.chip.reg a = s.chip.reg a)

/-- Block transfers (R204, R274, R285, R313, R314): BLK_WR and BLK_RD of a legal length and place ask for every line of
their range in HOST slots of the lines' channels; a write completes as its last line is written, a read with the bytes
of its last lines, or with MEM_UNCORR for a poisoned one. A bad length is LENGTH_ERROR, a misaligned place BAD_OPERAND,
one past the LPDDR5X, or for a write one that the device keeps closed, ADDR_ERROR, and a retrain BUSY_TRAINING; a
refused one asks for nothing. -/
def Obligations.BlockTransfers : Prop :=
  (∀ (s : State) (q : Port) (tag : Byte) (addr : Dword) (bs : List Byte), s.chip.takes q tag →
    bs.length ∈ [128, 256, 384, 512] → addr.toNat % 128 = 0 → addr.toNat + bs.length ≤ s.chip.memBytes →
    s.chip.closed addr.toNat bs.length = false → s.chip.retraining = false →
    ∃ t, exec (.blkWr q tag addr bs) s = .next t ∧
      (s.chip.mem.nextId, { q := q.val, tag := tag, left := bs.length / 128 }) ∈ t.chip.mem.wrs ∧
      (∀ i, i < bs.length / 128 → ∃ r : Req, r ∈ (t.chip.memCh (chanOf r.addr)).host ∧ r.addr = addr.toNat + 128 * i ∧
        r.data = some ((bs.drop (128 * i)).take 128) ∧ r.who = .blkWr s.chip.mem.nextId) ∧
      (t.chip.port q).ready = (s.chip.port q).ready ∧ t.dram = s.dram) ∧
  (∀ (s : State) (q : Port) (tag : Byte) (addr : Dword) (bs : List Byte), s.chip.takes q tag →
    bs.length ∈ [128, 256, 384, 512] → addr.toNat % 128 = 0 →
    s.chip.memBytes < addr.toNat + bs.length ∨ s.chip.closed addr.toNat bs.length = true →
    ∃ t, exec (.blkWr q tag addr bs) s = .next t ∧ t.chip.completed q tag 4 ∧ t.chip.mem = s.chip.mem) ∧
  (∀ (s : State) (q : Port) (tag : Byte) (addr : Dword) (bs : List Byte), s.chip.takes q tag →
    bs.length ∈ [128, 256, 384, 512] → addr.toNat % 128 = 0 → addr.toNat + bs.length ≤ s.chip.memBytes →
    s.chip.closed addr.toNat bs.length = false → s.chip.retraining = true →
    ∃ t, exec (.blkWr q tag addr bs) s = .next t ∧ t.chip.completed q tag 9 ∧ t.chip.mem = s.chip.mem) ∧
  (∀ (s : State) (q : Port) (tag : Byte) (addr : Dword) (bs : List Byte), s.chip.takes q tag → bs.length < 65536 →
    bs.length ∉ [128, 256, 384, 512] →
    ∃ t, exec (.blkWr q tag addr bs) s = .next t ∧ t.chip.completed q tag 5 ∧ t.chip.mem = s.chip.mem) ∧
  (∀ (s : State) (q : Port) (tag : Byte) (addr : Dword) (bs : List Byte) (lines : BitVec 16), s.chip.takes q tag →
    addr.toNat % 128 ≠ 0 →
    (bs.length ∈ [128, 256, 384, 512] →
      ∃ t, exec (.blkWr q tag addr bs) s = .next t ∧ t.chip.completed q tag 2 ∧ t.chip.mem = s.chip.mem) ∧
    (1 ≤ lines.toNat → lines.toNat ≤ 8192 →
      ∃ t, exec (.blkRd q tag addr lines) s = .next t ∧ t.chip.completed q tag 2 ∧ t.chip.mem = s.chip.mem)) ∧
  (∀ (s : State) (q : Port) (tag : Byte) (addr : Dword) (lines : BitVec 16), s.chip.takes q tag → 1 ≤ lines.toNat →
    lines.toNat ≤ 8192 → addr.toNat % 128 = 0 → addr.toNat + 128 * lines.toNat ≤ s.chip.memBytes →
    s.chip.retraining = false →
    ∃ t, exec (.blkRd q tag addr lines) s = .next t ∧
      (s.chip.mem.nextId, { q := q.val, tag := tag, lines := lines.toNat }) ∈ t.chip.mem.rds ∧
      (∀ i, i < lines.toNat → ∃ r : Req, r ∈ (t.chip.memCh (chanOf r.addr)).host ∧ r.addr = addr.toNat + 128 * i ∧
        r.data = none ∧ r.who = .blkRd s.chip.mem.nextId i) ∧
      (t.chip.port q).ready = (s.chip.port q).ready ∧ t.dram = s.dram) ∧
  (∀ (s : State) (q : Port) (tag : Byte) (addr : Dword) (lines : BitVec 16), s.chip.takes q tag →
    lines.toNat = 0 ∨ 8192 < lines.toNat →
    ∃ t, exec (.blkRd q tag addr lines) s = .next t ∧ t.chip.completed q tag 5 ∧ t.chip.mem = s.chip.mem) ∧
  (∀ (s : State) (q : Port) (tag : Byte) (addr : Dword) (lines : BitVec 16), s.chip.takes q tag → 1 ≤ lines.toNat →
    lines.toNat ≤ 8192 → addr.toNat % 128 = 0 →
    (s.chip.memBytes < addr.toNat + 128 * lines.toNat →
      ∃ t, exec (.blkRd q tag addr lines) s = .next t ∧ t.chip.completed q tag 4 ∧ t.chip.mem = s.chip.mem) ∧
    (addr.toNat + 128 * lines.toNat ≤ s.chip.memBytes → s.chip.retraining = true →
      ∃ t, exec (.blkRd q tag addr lines) s = .next t ∧ t.chip.completed q tag 9 ∧ t.chip.mem = s.chip.mem)) ∧
  (∀ (c : Chip) (d : Memory) (ch : Chan) (mr4 od id : Nat) (r : Req) (rest : List Req) (bs : List Byte) (w : BlkWr),
    roundClass ((c.memCh ch).pos / 16) = .host → c.dataFull ch = false →
    takeReq (fun _ => true) ((c.memCh ch).pos % 16) (c.memCh ch).host = some (r, rest) → r.data = some bs →
    r.who = .blkWr id → c.mem.wrs.find? (fun e => e.1 = id) = some (id, w) →
    let t := slotOf ch mr4 od d c
    (∀ i, i < bs.length → memRead t.1 (r.addr + i) = bs.getD i 0) ∧ (t.2.memCh ch).host = rest ∧
    (w.left ≤ 1 → (c.port w.q).redirect = false → t.2.completed w.q w.tag 0) ∧
    (1 < w.left → t.2.ports = c.ports ∧ (id, { w with left := w.left - 1 }) ∈ t.2.mem.wrs)) ∧
  (∀ (s : State) (ch : Chan) (id i : Nat) (r : Req) (bs : List Byte) (rest : List (Req × List Byte)) (x : BlkRd),
    (s.chip.memCh ch).reads = (r, bs) :: rest → r.who = .blkRd id i →
    s.chip.mem.rds.find? (fun e => e.1 = id) = some (id, x) → (s.chip.port x.q).redirect = false →
    x.lines ≤ 4 * x.sent + 4 → 4 * x.sent ≤ i → i < x.lines →
    let n := x.lines - 4 * x.sent
    let line := fun j => tabGet [] (tabSet x.got i bs) (4 * x.sent + j)
    ((∀ j, j < n → line j ≠ []) →
      ∃ t, exec (.memReadData ch .good) s = .next t ∧
        t.chip.completed x.q x.tag 0 (bytesToWords ((List.range n).flatMap line))) ∧
    ((∀ j, j < n → line j ≠ []) → r.retry = true → s.chip.field 0x00300000 28 28 = 1 →
      ∃ t, exec (.memReadData ch .uncorrectable) s = .next t ∧ t.chip.completed x.q x.tag 0x12))

/-- Rings (R203, R204, R207, R406): RING_ACK and a write of MOR_RING_ACK move ACK to a committed line's end, refuse any
other value with GUARD_REJECT and ACK_ERR, and conflict with a ring that is off; enabling a ring checks its size and
its place and starts its pointers at 0; disabling waits until it holds no record and no admitted task's site; any other
write of the configuration of a ring that is on conflicts, whatever its value, as does
a write of the ring of a site that an admitted task holds. -/
def Obligations.RingControl : Prop :=
  (∀ (s : State) (q : Port) (tag : Byte) (k : Ring) (v : Dword), s.chip.takes q tag → s.chip.ringOn k = true →
    v.toNat % 128 = 0 → s.chip.reg64 (Machine.ringAck k) ≤ v.toNat → v.toNat ≤ s.chip.reg64 (ringWr k) →
    ∃ t, exec (.ringAck q tag k v) s = .next t ∧ t.chip.completed q tag 0 ∧
      t.chip.reg64 (Machine.ringAck k) = v.toNat ∧ t.chip.reg64 (ringWr k) = s.chip.reg64 (ringWr k)) ∧
  (∀ (s : State) (q : Port) (tag : Byte) (k : Ring) (v : Dword), s.chip.takes q tag → s.chip.ringOn k = true →
    v.toNat % 128 ≠ 0 ∨ v.toNat < s.chip.reg64 (Machine.ringAck k) ∨ s.chip.reg64 (ringWr k) < v.toNat →
    ∃ t, exec (.ringAck q tag k v) s = .next t ∧ t.chip.completed q tag 6 ∧
      t.chip.reg64 (Machine.ringAck k) = s.chip.reg64 (Machine.ringAck k) ∧ t.chip.field (ringStatus k) 30 30 = 1) ∧
  (∀ (s : State) (q : Port) (tag : Byte) (k : Ring) (v : Dword), s.chip.takes q tag → s.chip.ringOn k = false →
    ∃ t, exec (.ringAck q tag k v) s = .next t ∧ t.chip.completed q tag 1 ∧
      t.chip.reg64 (Machine.ringAck k) = s.chip.reg64 (Machine.ringAck k)) ∧
  (∀ (s : State) (q : Port) (tag : Byte) (k : Ring) (v : Dword), s.chip.writable q tag → s.chip.ringOn k = true →
    v.toNat % 128 = 0 → s.chip.reg64 (Machine.ringAck k) ≤ v.toNat → v.toNat ≤ s.chip.reg64 (ringWr k) →
    ∃ t, exec (.ringAckWrite q tag k v) s = .next t ∧ t.chip.completed q tag 0 ∧
      t.chip.reg64 (Machine.ringAck k) = v.toNat ∧ t.chip.reg64 (ringWr k) = s.chip.reg64 (ringWr k)) ∧
  (∀ (s : State) (q : Port) (tag : Byte) (k : Ring) (v : Dword), s.chip.writable q tag → s.chip.ringOn k = true →
    v.toNat % 128 ≠ 0 ∨ v.toNat < s.chip.reg64 (Machine.ringAck k) ∨ s.chip.reg64 (ringWr k) < v.toNat →
    ∃ t, exec (.ringAckWrite q tag k v) s = .next t ∧ t.chip.completed q tag 6 ∧
      t.chip.reg64 (Machine.ringAck k) = s.chip.reg64 (Machine.ringAck k) ∧ t.chip.field (ringStatus k) 30 30 = 1) ∧
  (∀ (s : State) (q : Port) (tag : Byte) (k : Ring) (v : Dword), s.chip.writable q tag → s.chip.ringOn k = false →
    ∃ t, exec (.ringAckWrite q tag k v) s = .next t ∧ t.chip.completed q tag 1 ∧
      t.chip.reg64 (Machine.ringAck k) = s.chip.reg64 (Machine.ringAck k)) ∧
  (∀ (s : State) (q : Port) (tag : Byte) (k : Ring) (v : Word), s.chip.writable q tag → s.chip.ringOn k = true →
    bitOf v.toNat 31 = true →
    ∃ t, exec (.ringEnable q tag k v) s = .next t ∧ t.chip.completed q tag 1 ∧ t.chip.mor = s.chip.mor ∧
      ∀ a, a ≠ 0x00010024 → t.chip.reg a = s.chip.reg a) ∧
  (∀ (s : State) (q : Port) (tag : Byte) (k : Ring) (v : Word), s.chip.writable q tag → s.chip.ringOn k = true →
    bitOf v.toNat 31 = false → bitsOf v.toNat 30 30 ≠ s.chip.field (ringCfg k) 30 30 ∨
      bitsOf v.toNat 21 16 ≠ s.chip.field (ringCfg k) 21 16 →
    ∃ t, exec (.ringDisable q tag k v) s = .next t ∧ t.chip.completed q tag 1 ∧ t.chip.mor = s.chip.mor ∧
      ∀ a, a ≠ 0x00010024 → t.chip.reg a = s.chip.reg a) ∧
  (∀ (s : State) (q : Port) (tag : Byte) (k : Ring) (lo hi : Word), s.chip.writable q tag → s.chip.ringOn k = true →
    ∃ t, exec (.regWr q tag (BitVec.ofNat 64 (Machine.ringB k)) [lo, hi]) s = .next t ∧ t.chip.completed q tag 1 ∧
      t.chip.mor = s.chip.mor ∧ ∀ a, a ≠ 0x00010024 → t.chip.reg a = s.chip.reg a) ∧
  (∀ (s : State) (q : Port) (tag : Byte) (k : Ring) (v : Word), s.chip.writable q tag → s.chip.ringOn k = false →
    bitsOf v.toNat 21 16 < 16 ∨ 32 < bitsOf v.toNat 21 16 →
    (bitOf v.toNat 31 = true → ∃ t, exec (.ringEnable q tag k v) s = .next t ∧ t.chip.completed q tag 6 ∧
      t.chip.mor = s.chip.mor ∧ ∀ a, t.chip.reg a = s.chip.reg a) ∧
    (bitOf v.toNat 31 = false → (s.chip.ring k).tags = 0 → s.chip.ringMapped k = false →
      ∃ t, exec (.ringDisable q tag k v) s = .next t ∧ t.chip.completed q tag 6 ∧
        t.chip.mor = s.chip.mor ∧ ∀ a, t.chip.reg a = s.chip.reg a)) ∧
  (∀ (s : State) (q : Port) (tag : Byte) (k : Ring) (v : Word), s.chip.writable q tag → s.chip.ringOn k = false →
    bitOf v.toNat 31 = true → 16 ≤ bitsOf v.toNat 21 16 → bitsOf v.toNat 21 16 ≤ 32 →
    s.chip.ringPlace k (2 ^ bitsOf v.toNat 21 16) = true →
    ∃ t, exec (.ringEnable q tag k v) s = .next t ∧ t.chip.completed q tag 0 ∧ t.chip.ringOn k = true ∧
      t.chip.ringSize k = 2 ^ bitsOf v.toNat 21 16 ∧ t.chip.reg64 (ringWr k) = 0 ∧
      t.chip.reg64 (Machine.ringAck k) = 0 ∧ t.chip.reg64 (ringPushed k) = 0 ∧ t.chip.ring k = {}) ∧
  (∀ (s : State) (q : Port) (tag : Byte) (k : Ring) (v : Word), s.chip.writable q tag → s.chip.ringOn k = false →
    bitOf v.toNat 31 = true → 16 ≤ bitsOf v.toNat 21 16 → bitsOf v.toNat 21 16 ≤ 32 →
    s.chip.ringPlace k (2 ^ bitsOf v.toNat 21 16) = false →
    ∃ t, exec (.ringEnable q tag k v) s = .next t ∧ t.chip.completed q tag 6 ∧ ∀ a, t.chip.reg a = s.chip.reg a) ∧
  (∀ (s : State) (q : Port) (tag : Byte) (k : Ring) (v : Word), s.chip.writable q tag →
    bitOf v.toNat 31 = false → bitsOf v.toNat 30 30 = s.chip.field (ringCfg k) 30 30 →
    bitsOf v.toNat 21 16 = s.chip.field (ringCfg k) 21 16 → 16 ≤ bitsOf v.toNat 21 16 → bitsOf v.toNat 21 16 ≤ 32 →
    (s.chip.ring k).tags = 0 → s.chip.ringMapped k = false →
    ∃ t, exec (.ringDisable q tag k v) s = .next t ∧ t.chip.completed q tag 0 ∧ t.chip.ringOn k = false ∧
      t.chip.mor = s.chip.mor) ∧
  (∀ (s : State) (q : Port) (tag : Byte) (k : Ring) (v : Word), s.chip.writable q tag →
    bitOf v.toNat 31 = false → bitsOf v.toNat 30 30 = s.chip.field (ringCfg k) 30 30 →
    bitsOf v.toNat 21 16 = s.chip.field (ringCfg k) 21 16 → 0 < (s.chip.ring k).tags ∨ s.chip.ringMapped k = true →
    ∃ t, exec (.ringDisable q tag k v) s = .next t ∧ t.chip.completed q tag 1 ∧ t.chip.mor = s.chip.mor ∧
      ∀ a, a ≠ 0x00010024 → t.chip.reg a = s.chip.reg a) ∧
  (∀ (s : State) (q : Port) (tag : Byte) (x : Fin 128) (v : Word), s.chip.writable q tag →
    (s.chip.siteOwner x = none →
      ∃ t, exec (.regWr q tag (BitVec.ofNat 64 (siteRingReg x)) [v]) s = .next t ∧ t.chip.completed q tag 0 ∧
        t.chip.field (siteRingReg x) 3 0 = v.toNat % 16) ∧
    (s.chip.siteOwner x ≠ none →
      ∃ t, exec (.regWr q tag (BitVec.ofNat 64 (siteRingReg x)) [v]) s = .next t ∧ t.chip.completed q tag 1 ∧
        t.chip.mor = s.chip.mor ∧ ∀ a, a ≠ 0x00010024 → t.chip.reg a = s.chip.reg a))

/-! ### Time (R325 to R342) -/

/-- Time messages (R328 to R331, R335): with no earlier message waiting, a clean SYNC begins an exchange, its FOLLOW
owes a DELAY_REQ on the time port, which is queued with the device number, or with nothing before it leaves at once and
is stamped; a DELAY_RESP in time ends the exchange; what does not fit is counted and ends the exchange that has its
SEQID, and no other. A missed exchange is counted; the fourth in LOCKED leads to HOLDOVER. Where the rules leave a point
open, the model's choice stands (log entries 9, 77). -/
def Obligations.TimeExchange : Prop :=
  (∀ (s : State) (q : Port) (seqid : BitVec 16) (route : Byte) (sub : BitVec 16), (s.chip.port q).up = true →
    (s.chip.port q).rxTime = [] →
    ∃ t, exec (.syncMessage q seqid route true sub) s = .next t ∧
      ∃ e, t.chip.exch q = some e ∧ e.seqid = seqid.toNat ∧ e.route = route.toNat ∧ e.at2 = s.chip.frc ∧ e.t1 = none ∧
        e.t2 = s.chip.timeAt (s.chip.frc * 65536 + sub.toNat - s.chip.tsDelay q)) ∧
  (∀ (s : State) (q : Port) (seqid : BitVec 16) (route : Byte) (sub : BitVec 16), (s.chip.port q).up = true →
    (s.chip.port q).rxTime = [] →
    ∃ t, exec (.syncMessage q seqid route false sub) s = .next t ∧
      t.chip.exch q = (s.chip.exch q).filter (fun e => e.seqid ≠ seqid.toNat) ∧ s.chip.counted t.chip 0x00320084) ∧
  (∀ (s : State) (q : Port) (seqid : BitVec 16) (route : Byte) (t1 : Dword) (frac : BitVec 16) (e : Exch),
    (s.chip.port q).up = true → (s.chip.port q).rxTime = [] → s.chip.exch q = some e → e.seqid = seqid.toNat →
    e.route = route.toNat → s.chip.frc ≤ e.at2 + 10000000 →
    ∃ t, exec (.follow q seqid route t1 frac true) s = .next t ∧
      t.chip.exch q = some { e with t1 := some ((t1.toNat * 65536 + frac.toNat : Nat) : Int) } ∧
      (s.chip.time.port = q → t.chip.time.reqOwed = some q.val)) ∧
  (∀ (s : State) (q : Port) (seqid : BitVec 16) (route : Byte) (t1 : Dword) (frac : BitVec 16) (e : Exch),
    (s.chip.port q).up = true → (s.chip.port q).rxTime = [] → s.chip.exch q = some e →
    e.seqid ≠ seqid.toNat ∨ e.route ≠ route.toNat ∨ e.at2 + 10000000 < s.chip.frc →
    ∃ t, exec (.follow q seqid route t1 frac true) s = .next t ∧
      t.chip.exch q = (if e.seqid = seqid.toNat then none else some e) ∧ s.chip.counted t.chip 0x00320084) ∧
  (∀ (s : State) (q : Port) (e : Exch), (s.chip.port q).up = true → s.chip.time.reqOwed = some q.val →
    s.chip.time.port = q → s.chip.exch q = some e →
    ∃ t, exec (.delayReq q false) s = .next t ∧ t.chip.time.reqOwed = none ∧ t.chip.exch q = some e ∧
      ∃ f : Frame, (t.chip.port q).timeReady = (s.chip.port q).timeReady ++ [f] ∧ f.cls = 0 ∧ f.txn.ttype = 0x22 ∧
        f.txn.param = BitVec.ofNat 32 (e.seqid + e.route * 2 ^ 16) ∧
        f.txn.data.head? = some (BitVec.ofNat 32 (s.chip.field 0x00010008 8 0 * 2 ^ 16))) ∧
  (∀ (s : State) (q : Port) (seqid : BitVec 16) (devnum : BitVec 9) (t4 : Dword) (frac : BitVec 16) (e : Exch)
    (t1 t3 : Int), (s.chip.port q).up = true → (s.chip.port q).rxTime = [] → s.chip.exch q = some e →
    e.t1 = some t1 → e.t3 = some t3 → e.seqid = seqid.toNat → devnum.toNat = s.chip.field 0x00010008 8 0 →
    s.chip.frc ≤ e.at3 + 10000000 → s.chip.time.port = q → s.chip.time.st = 0 → s.chip.time.any = false →
    let rtt := e.t2 - t1 + ((t4.toNat * 65536 + frac.toNat : Nat) - t3)
    0 ≤ rtt → rtt ≤ 100000 * 65536 →
    ∃ t, exec (.delayResp q seqid devnum t4 frac true) s = .next t ∧ t.chip.exch q = none ∧
      s.chip.counted t.chip 0x00320080 ∧ t.chip.time.st = 1 ∧ t.chip.time.rtts = (rtt :: s.chip.time.rtts).take 16 ∧
      t.chip.time.missed = 0 ∧ t.chip.time.lastValid = s.chip.frc) ∧
  (∀ (s : State) (q : Port) (seqid : BitVec 16) (devnum : BitVec 9) (t4 : Dword) (frac : BitVec 16),
    (s.chip.port q).up = true → (s.chip.port q).rxTime = [] → s.chip.exch q = none →
    ∃ t, exec (.delayResp q seqid devnum t4 frac true) s = .next t ∧ t.chip.exch q = none ∧
      s.chip.counted t.chip 0x00320084) ∧
  (∀ (s : State) (q : Port) (seqid : BitVec 16) (devnum : BitVec 9) (t4 : Dword) (frac : BitVec 16) (e : Exch),
    (s.chip.port q).up = true → (s.chip.port q).rxTime = [] → s.chip.exch q = some e →
    e.seqid ≠ seqid.toNat ∨ devnum.toNat ≠ s.chip.field 0x00010008 8 0 →
    ∃ t, exec (.delayResp q seqid devnum t4 frac true) s = .next t ∧ t.chip.exch q = some e ∧
      s.chip.counted t.chip 0x00320084) ∧
  (∀ s : State, ∃ t, exec .exchangeMissed s = .next t ∧ s.chip.counted t.chip 0x0032008C ∧
    t.chip.time.missed = s.chip.time.missed + 1 ∧
    (s.chip.time.st = 2 → s.chip.time.missed = 3 → t.chip.time.st = 3) ∧
    (s.chip.time.st = 2 → s.chip.time.missed ≠ 3 → t.chip.time.st = 2)) ∧
  (∀ (s : State) (q : Port) (e : Exch), (s.chip.port q).up = true → s.chip.time.reqOwed = some q.val →
    s.chip.time.port = q → s.chip.exch q = some e → (s.chip.port q).replay.length < 64 → (s.chip.port q).next = none →
    e.t3 = none → e.seqid < 65536 → 0 < (s.chip.port q).txCred 0 →
    ∃ t, exec (.delayReq q true) s = .next t ∧ t.chip.time.reqOwed = none ∧
      t.chip.exch q = some { e with t3 := some (s.chip.linkStamp q 0 true), at3 := s.chip.frc } ∧
      (t.chip.port q).timeReady = (s.chip.port q).timeReady ∧
      ∃ f : Frame, (t.chip.port q).replay = (s.chip.port q).replay ++ [((s.chip.port q).txSeq, f)] ∧
        f.txn.ttype = 0x22)

/-- The time base (R325, R326, R333, R336, R338, R340): a fold keeps T and moves ANCHOR to FRC; a held T ends at the
first ns at which the formula has passed it (rate within R325's clamp); TIME_REARM enters ACQUIRE; TIME_ALIGN arms for
the next SYNCIN edge, which, rounded down to the REFCLK edge that precedes it, aligns the master count; an accepted
SYNCIN or trigger edge is stamped, and a level under 2 ns or
under 8 ns is counted and has no other effect. Where the rules leave a point open, the model's choice stands (log
entries 58, 66). -/
def Obligations.TimeBase : Prop :=
  (∀ s : State, s.chip.clocked = true →
    ∃ t, exec .rateFold s = .next t ∧ t.chip.time.anchor = t.chip.frc ∧ t.chip.frc % 2 ^ 32 = 0 ∧
      s.chip.frc < t.chip.frc ∧ t.chip.frc ≤ s.chip.frc + 2 ^ 32 ∧
      t.chip.formula (t.chip.frc * 65536) = s.chip.formula (t.chip.frc * 65536)) ∧
  (∀ (s : State) (x : Int), s.chip.time.hold = some x → -(2 ^ 40) ≤ s.chip.time.rate →
    x < s.chip.formula (s.chip.frc * 65536) →
    ∃ t, exec .timeHoldEnd s = .next t ∧ t.chip.time.hold = none ∧ t.chip.frc = s.chip.frc ∧
      t.chip.field 0x00320004 23 23 = 0) ∧
  (∀ (s : State) (x : Int), s.chip.clocked = true → s.chip.time.hold = some x → -(2 ^ 40) ≤ s.chip.time.rate →
    x < s.chip.formula ((s.chip.frc + 2 ^ 32 - 1 : Nat) * 65536) →
    ∃ t, exec .timeHoldEnd s = .next t ∧ t.chip.time.hold = none ∧ s.chip.frc ≤ t.chip.frc ∧
      x < s.chip.formula (t.chip.frc * 65536) ∧
      ∀ n, s.chip.frc ≤ n → n < t.chip.frc → s.chip.formula (n * 65536) ≤ x) ∧
  (∀ (s : State) (h : CmdHdr), s.chip.hears h .timeRearm →
    ∃ t, exec (.timeRearm h) s = .next t ∧ t.chip.time.st = 1 ∧ t.chip.time.rtts = s.chip.time.rtts ∧
      t.chip.time.inState = 0 ∧ t.chip.field 0x00320004 31 29 = 1 ∧ t.chip.field 0x00320004 28 28 = 0 ∧
      t.chip.ended h 0) ∧
  (∀ (s : State) (h : CmdHdr), s.chip.hears h .timeAlign →
    ∃ t, exec (.timeAlign h) s = .next t ∧
      (s.chip.anyAdmitted = false → s.chip.agreed 13 = true → t.chip.time.alignArmed = true ∧ t.chip.ended h 0) ∧
      (s.chip.anyAdmitted = false → s.chip.agreed 13 = false →
        t.chip.time.alignArmed = s.chip.time.alignArmed ∧ t.chip.ended h 7) ∧
      (s.chip.anyAdmitted = true →
        t.chip.time.alignArmed = s.chip.time.alignArmed ∧ t.chip.ended h 1 [] s.chip.dev.mode.code)) ∧
  (∀ (s : State) (half : Bool) (n : Nat), s.chip.clocked = true → 0 ∉ s.chip.time.blocked → 16 ≤ n →
    s.chip.time.alignArmed = true → s.chip.field 0x00320000 31 30 = 1 →
      bitOf (s.chip.reg 0x00320000).toNat 29 = true →
    let e := (s.chip.frc - 8) * 65536 + (if half then 32768 else 0)
    let d := ofPs (s.chip.reg 0x00320068).toInt
    let te := s.chip.quantEdge e
    d ≤ e →
    ∃ t, exec (.syncinEdge half n) s = .next t ∧ t.chip.time.alignArmed = false ∧
      te % (10 * 65536) = 0 ∧ te ≤ e - d ∧ e - d < te + 10 * 65536 ∧ t.chip.waits (srcTrigIn 0) 0x80A3 ∧
      t.chip.field 0x00320004 24 24 = 1 ∧ t.chip.reg64 0x00320070 = nsOf (s.chip.timeAt te) ∧
      t.chip.mtc ((te + 20 * 65536) / 4096) = s.chip.reg64 0x00320078) ∧
  (∀ (s : State) (half : Bool) (n : Nat), s.chip.clocked = true → 0 ∉ s.chip.time.blocked → 16 ≤ n →
    s.chip.time.alignArmed = false → s.chip.field 0x00320000 31 30 = 1 →
      bitOf (s.chip.reg 0x00320000).toNat 29 = false →
    let te := (s.chip.frc - 8) * 65536 + (if half then 32768 else 0)
    ∃ t, exec (.syncinEdge half n) s = .next t ∧ t.chip.reg64 0x00320070 = nsOf (s.chip.timeAt te) ∧
      t.chip.time = s.chip.time ∧ t.chip.align = s.chip.align) ∧
  (∀ (s : State) (j : Fin 4) (half : Bool) (n : Nat), s.chip.clocked = true → j.val + 1 ∉ s.chip.time.blocked →
    16 ≤ n →
    let te := (s.chip.frc - 8) * 65536 + (if half then 32768 else 0)
    ∃ t, exec (.trigIn j half n) s = .next t ∧ t.chip.waits (srcTrigIn (j + 1)) 0x80A1 ∧
      t.chip.reg64 (0x00320140 + 8 * j) = nsOf (s.chip.timeAt te) ∧ t.chip.time = s.chip.time) ∧
  (∀ (s : State) (j : Fin 4) (half : Bool) (n : Nat), s.chip.clocked = true → n < 16 →
    let a := if n < 4 then 0x00320094 else 0x00320098
    (0 ∉ s.chip.time.blocked → ∃ t, exec (.syncinEdge half n) s = .next t ∧ s.chip.counted t.chip a ∧
      t.chip.time = s.chip.time ∧ ∀ b, b ≠ a → t.chip.reg b = s.chip.reg b) ∧
    (j.val + 1 ∉ s.chip.time.blocked → ∃ t, exec (.trigIn j half n) s = .next t ∧ s.chip.counted t.chip a ∧
      t.chip.time = s.chip.time ∧ ∀ b, b ≠ a → t.chip.reg b = s.chip.reg b)) ∧
  (∀ (s : State) (i : Fin 5), s.chip.clocked = true → i.val ∉ s.chip.time.blocked →
    ∃ t, exec (.syncinLong i) s = .next t ∧ i.val ∈ t.chip.time.blocked ∧ t.chip.waits (srcTrigIn i) 0x030D ∧
      s.chip.counted t.chip 0x0032009C) ∧
  (∀ (s : State) (i : Fin 5), s.chip.time.blocked.Nodup →
    ∃ t, exec (.inputRearm i) s = .next t ∧ i.val ∉ t.chip.time.blocked ∧
      ∀ j, j ≠ i.val → (j ∈ t.chip.time.blocked ↔ j ∈ s.chip.time.blocked))

/-- Timed triggers, SYNCOUT and TIM_STATUS (R335, R341, R342): an armed trigger fires at the first 0.5 ns tick at which
T has reached its time, one armed with a time that has passed fires at once with TRIGLATE; a PULSE, or a trigger whose
DEST names SYNCOUT, begins its pulse 5 ns after the next REFCLK edge, and one asked for during a pulse is ignored and
counted as busy; one whose DEST names TRIGOUT0 begins its pulse 3.0 to 4.0 ns after it fires (R431); clearing
ASYM_UNCERTAIN clears TIM_ASYM_BOUND. The phase of REFCLK against the TM count, and a T equal to the trigger's time, are
the model's choices (log entries 20, 59); where in its 1 ns a TRIGOUT0 pulse begins is a free value (log entry 4). -/
def Obligations.TimedOutputs : Prop :=
  (∀ (s : State) (q : Port) (tag : Byte) (i : Fin 4) (v : Word), s.chip.writable q tag → bitOf v.toNat 31 = true →
    s.chip.field (trigCtrl i) 31 31 = 0 → s.chip.agreed 14 = true → s.chip.clocked = true →
    s.chip.timeNow ≤ (s.chip.reg64 (trigTime i) : Int) * 65536 →
    ∃ t, exec (.timTrigArm q tag i v) s = .next t ∧ t.chip.completed q tag 0 ∧ t.chip.field (trigCtrl i) 31 31 = 1 ∧
      t.chip.field (trigCtrl i) 3 0 = bitsOf v.toNat 3 0 ∧ t.chip.time = s.chip.time) ∧
  (∀ (s : State) (q : Port) (tag : Byte) (i : Fin 4) (v : Word), s.chip.writable q tag → bitOf v.toNat 31 = true →
    s.chip.field (trigCtrl i) 31 31 = 0 → s.chip.agreed 14 = true → s.chip.clocked = true → bitsOf v.toNat 3 0 = 0 →
    (s.chip.reg64 (trigTime i) : Int) * 65536 < s.chip.timeNow →
    ∃ t, exec (.timTrigArm q tag i v) s = .next t ∧ t.chip.completed q tag 0 ∧ t.chip.field (trigCtrl i) 31 31 = 0 ∧
      t.chip.waits (srcTrig i) 0x80A2 ∧ s.chip.counted t.chip 0x003200A8) ∧
  (∀ (s : State) (q : Port) (tag : Byte) (i : Fin 4) (v : Word), s.chip.writable q tag → bitOf v.toNat 31 = true →
    s.chip.field (trigCtrl i) 31 31 = 1 →
    ∃ t, exec (.timTrigArm q tag i v) s = .next t ∧ t.chip.completed q tag 1 ∧
      t.chip.reg (trigCtrl i) = s.chip.reg (trigCtrl i)) ∧
  (∀ (s : State) (i : Fin 4), s.chip.clocked = true → s.chip.field (trigCtrl i) 31 31 = 1 →
    s.chip.field (trigCtrl i) 3 0 = 0 → -(2 ^ 40) ≤ s.chip.time.rate →
    (s.chip.reg64 (trigTime i) * 65536 : Nat) ≤ s.chip.timeAtTm (8 * ((s.chip.tm + 7) / 8 + 2 ^ 64 - 1)) →
    ∃ t, exec (.trigFire i) s = .next t ∧ t.chip.field (trigCtrl i) 31 31 = 0 ∧ t.chip.waits (srcTrig i) 0x80A2 ∧
      t.chip.time = s.chip.time ∧ s.chip.tm ≤ t.chip.tm ∧
      (s.chip.reg64 (trigTime i) * 65536 : Nat) ≤ s.chip.timeAtTm t.chip.tm ∧
      ∀ n, s.chip.tm ≤ 8 * n → 8 * n < t.chip.tm →
        s.chip.timeAtTm (8 * n) < (s.chip.reg64 (trigTime i) * 65536 : Nat)) ∧
  (∀ (s : State) (i : Fin 4), s.chip.clocked = true → s.chip.field (trigCtrl i) 31 31 = 1 →
    bitOf (s.chip.field (trigCtrl i) 3 0) 1 = true → -(2 ^ 40) ≤ s.chip.time.rate →
    (s.chip.reg64 (trigTime i) : Int) * 65536 ≤ s.chip.timeNow →
    ∃ t, exec (.trigFire i) s = .next t ∧ t.chip.field (trigCtrl i) 31 31 = 0 ∧ t.chip.waits (srcTrig i) 0x80A2 ∧
      t.chip.tm = (s.chip.tm + 7) / 8 * 8 ∧
      (tabGet 0 s.chip.time.pulses 0 ≤ t.chip.tm →
        tabGet 0 t.chip.time.pulses 0 = (t.chip.tm / 160 + 1) * 160 + 80 + 16 * s.chip.field 0x003200A0 7 0) ∧
      (t.chip.tm < tabGet 0 s.chip.time.pulses 0 →
        tabGet 0 t.chip.time.pulses 0 = tabGet 0 s.chip.time.pulses 0 ∧ s.chip.counted t.chip 0x003200A4)) ∧
  (∀ (s : State) (i : Fin 4), s.chip.clocked = true → s.chip.field (trigCtrl i) 31 31 = 1 →
    bitOf (s.chip.field (trigCtrl i) 3 0) 2 = true → -(2 ^ 40) ≤ s.chip.time.rate →
    (s.chip.reg64 (trigTime i) : Int) * 65536 ≤ s.chip.timeNow → tabGet 0 s.chip.time.pulses 1 ≤ s.chip.tm →
    ∃ t, exec (.trigFire i) s = .next t ∧ t.chip.tm = (s.chip.tm + 7) / 8 * 8 ∧
      t.chip.tm + 48 + 16 * s.chip.field 0x003200A0 7 0 ≤ tabGet 0 t.chip.time.pulses 1 ∧
      tabGet 0 t.chip.time.pulses 1 ≤ t.chip.tm + 64 + 16 * s.chip.field 0x003200A0 7 0) ∧
  (∀ (s : State) (q : Port) (tag : Byte) (v : Word), s.chip.writable q tag → bitOf v.toNat 31 = true →
    8 ≤ v.toNat % 256 → v.toNat % 256 ≤ 200 → tabGet 0 s.chip.time.pulses 0 ≤ s.chip.tm →
    ∃ t, exec (.syncoutPulse q tag v) s = .next t ∧ t.chip.completed q tag 0 ∧
      t.chip.field 0x003200A0 7 0 = v.toNat % 256 ∧
      tabGet 0 t.chip.time.pulses 0 = (s.chip.tm / 160 + 1) * 160 + 80 + 16 * (v.toNat % 256)) ∧
  (∀ (s : State) (q : Port) (tag : Byte) (v : Word), s.chip.writable q tag → bitOf v.toNat 31 = true →
    8 ≤ v.toNat % 256 → v.toNat % 256 ≤ 200 → s.chip.tm < tabGet 0 s.chip.time.pulses 0 →
    ∃ t, exec (.syncoutPulse q tag v) s = .next t ∧ t.chip.completed q tag 0 ∧ t.chip.time = s.chip.time ∧
      s.chip.counted t.chip 0x003200A4) ∧
  (∀ (s : State) (q : Port) (tag : Byte) (v : Word), s.chip.writable q tag → v.toNat % 256 < 8 ∨ 200 < v.toNat % 256 →
    ∃ t, exec (.syncoutPulse q tag v) s = .next t ∧ t.chip.completed q tag 6 ∧ t.chip.time = s.chip.time ∧
      ∀ a, t.chip.reg a = s.chip.reg a) ∧
  (∀ (s : State) (q : Port) (tag : Byte) (v : Word), s.chip.writable q tag → bitOf v.toNat 27 = true →
    ∃ t, exec (.asymUncertainClear q tag v) s = .next t ∧ t.chip.completed q tag 0 ∧
      t.chip.field 0x00320004 27 27 = 0 ∧ t.chip.reg 0x00320058 = 0 ∧
      ∀ a, a ≠ 0x00320004 → a ≠ 0x00320058 → t.chip.reg a = s.chip.reg a)

/-! ### Cirque (R20 to R29, R393 to R397) -/

/-- Cirque accepts one event at a time, by round robin over the ports (R22, R23, R29, R169, R317). A link write that
waits is accepted before any port's event: it takes the next sequence number, and that event the one after it. An event
gets the next sequence number, its port is the one served last, its coalescing count joins EVT_COALESCED,
and a SOURCE whose port the notify mask selects joins the notify queue. A link write on a context that is gone is
dropped and counted. Where the rules leave a point open, the model's choice stands (log entry 46). -/
def Obligations.EventOrder : Prop :=
  (∀ (s : State) (p : Nat) (e : Event) (es : List Event), s.chip.front p e es → e.acts = [] → e.err = none →
    e.always = false → bitOf (s.chip.field 0x00310004 31 16) (srcPort e.src) = false →
    ∃ t, exec .eventAccept s = .next t ∧ t.chip.cirque.next = (s.chip.cirque.next + 1) % 2 ^ 64 ∧
      t.chip.cirque.last = p ∧ es <+: tabGet [] t.chip.cirque.queues p ∧ t.chip.notes = s.chip.notes ∧
      t.chip.reg64 0x00020010 = (s.chip.reg64 0x00020010 + e.count) % 2 ^ 64) ∧
  (∀ (s : State) (p : Nat) (e : Event) (es : List Event), s.chip.front p e es → e.acts = [] → e.err = none →
    bitOf (s.chip.field 0x00310004 31 16) (srcPort e.src) = true → s.chip.notes.length < 21 →
    s.chip.field 0x00310004 15 0 ≠ 0 → s.chip.notesDue = 0 →
    ∃ t, exec .eventAccept s = .next t ∧ t.chip.notes = s.chip.notes ++
      [{ seq := s.chip.cirque.next, frc := s.chip.frc, src := e.src, typ := e.typ, count := e.count }]) ∧
  (∀ (s : State) (p : Nat) (w e : Event) (es : List Event) (m gen : Nat) (set clr : Dword),
    s.chip.cirque.linkWrite = [w] → { s.chip with cirque := { s.chip.cirque with linkWrite := [] } }.front p e es →
    w.acts = [.flags m gen 2 set clr] → w.err = none → w.always = false →
    bitOf (s.chip.field 0x00310004 31 16) (srcPort w.src) = false → (s.chip.ctx m).live = true →
    (s.chip.ctx m).gen = gen → (s.chip.ctx m).st ≠ 1 → (s.chip.ctx m).startTm = 0 → (s.chip.ctx m).resident = true →
    e.acts = [] → e.err = none → bitOf (s.chip.field 0x00310004 31 16) (srcPort e.src) = true →
    s.chip.notes.length < 21 → s.chip.field 0x00310004 15 0 ≠ 0 → s.chip.notesDue = 0 →
    ∃ t, exec .eventAccept s = .next t ∧ t.chip.cirque.linkWrite = [] ∧
      (t.chip.ctx m).flags = ((s.chip.ctx m).flags &&& ~~~clr) ||| set ∧
      t.chip.cirque.next = ((s.chip.cirque.next + 1) % 2 ^ 64 + 1) % 2 ^ 64 ∧ t.chip.cirque.last = p ∧
      es <+: tabGet [] t.chip.cirque.queues p ∧ t.chip.notes = s.chip.notes ++
        [{ seq := (s.chip.cirque.next + 1) % 2 ^ 64, frc := s.chip.frc, src := e.src, typ := e.typ
           count := e.count }]) ∧
  (∀ s : State, s.chip.cirque.linkWrite = [] → (∀ p, p < 16 → tabGet [] s.chip.cirque.queues p = []) →
    ∃ t, exec .eventAccept s = .next t ∧ t = s) ∧
  (∀ (s : State) (e : Event) (m gen : Nat) (set clr : Dword), s.chip.cirque.linkWrite = [e] →
    e.acts = [.flags m gen 2 set clr] → e.err = none → (s.chip.ctx m).live = true → (s.chip.ctx m).gen = gen →
    (s.chip.ctx m).st ≠ 1 → (s.chip.ctx m).startTm = 0 → (s.chip.ctx m).resident = true →
    ∃ t, exec .linkWrite s = .next t ∧ t.chip.cirque.next = (s.chip.cirque.next + 1) % 2 ^ 64 ∧
      t.chip.cirque.linkWrite = [] ∧ (t.chip.ctx m).flags = ((s.chip.ctx m).flags &&& ~~~clr) ||| set ∧
      (t.chip.ctx m).st = (s.chip.ctx m).st) ∧
  (∀ (s : State) (e : Event) (m gen : Nat) (set clr : Dword), s.chip.cirque.linkWrite = [e] →
    e.acts = [.flags m gen 2 set clr] → e.err = none → (s.chip.ctx m).live = false →
    ∃ t, exec .linkWrite s = .next t ∧ t.chip.cirque.linkWrite = [] ∧ t.chip.sched = s.chip.sched ∧
      s.chip.counted t.chip 0x00200094)

/-- What acceptance of an event changes (R29, R165, R168, R178, R187, R393, R394, R397): a task enters the state it was
moved to; a terminal state frees its context, logs it in TSK_END with its status and counts it; a TASK_FLAGS write
completes with the new flags; a cancel of a task that holds nothing ends it; an error record is logged and counted, and
a FATAL one is FAULT with cause RUNTIME; a COMMAND_DONE issues its command's completion, which names the sequence number
given last before it, the command has left the processor, and the range that the check of a refused image closed is open
(R137). Where the rules leave a point open, the model's choice stands (log entries 43, 45, 75). -/
def Obligations.EventEffects : Prop :=
  (∀ (s : State) (p n gen : Nat) (e : Event) (es : List Event), s.chip.front p e es → e.acts = [.task n gen 3] →
    e.err = none → (s.chip.ctx n).live = true → (s.chip.ctx n).gen = gen → (s.chip.ctx n).pend = some 3 →
    (s.chip.ctx n).cancelDue = false → (s.chip.ctx n).freezing = false →
    ∃ t, exec .eventAccept s = .next t ∧ (t.chip.ctx n).st = 3 ∧ (t.chip.ctx n).pend = none ∧
      (t.chip.ctx n).readyFrc = s.chip.frc ∧ t.chip.sched.passDue = true ∧
      ∀ m, m ≠ n → t.chip.ctx m = s.chip.ctx m) ∧
  (∀ (s : State) (p n gen : Nat) (st : Fin 3) (e : Event) (es : List Event), s.chip.front p e es →
    e.acts = [.task n gen (8 + st)] → e.err = none → (s.chip.ctx n).live = true → (s.chip.ctx n).gen = gen →
    (s.chip.ctx n).pend = some (8 + st.val) → (s.chip.ctx n).held = false → (s.chip.ctx n).resident = true →
    (∀ x ∈ s.chip.sched.ctxs, x.2.wantSlot = none) →
    ∃ t, exec .eventAccept s = .next t ∧ (t.chip.ctx n).live = false ∧
      t.chip.ledger (tskCreated + 8 * (1 + st)) = s.chip.ledger (tskCreated + 8 * (1 + st)) + 1 ∧
      t.chip.ledger tskLive = s.chip.ledger tskLive - 1 ∧ t.chip.ledger tskResident = s.chip.ledger tskResident - 1 ∧
      t.chip.reg 0x0020009C = s.chip.reg 0x0020009C + 1 ∧
      (let k := 0x00200800 + 16 * ((s.chip.reg 0x0020009C).toNat % 512)
       t.chip.reg k = BitVec.ofNat 32 (gen * 4096 + n) ∧
       t.chip.reg (k + 4) = BitVec.ofNat 32 ((s.chip.ctx n).due * 2 ^ 16 + min (s.chip.ctx n).breach 0xFFFF))) ∧
  (∀ (s : State) (p n gen : Nat) (set clr : Dword) (h : CmdHdr) (e : Event) (es : List Event), s.chip.front p e es →
    e.acts = [.flags n gen 1 set clr] → e.err = none → (s.chip.ctx n).live = true → (s.chip.ctx n).gen = gen →
    (s.chip.ctx n).st ≠ 1 → (s.chip.ctx n).startTm = 0 → (s.chip.ctx n).resident = true →
    s.chip.executes h (.taskFlags (gen * 4096 + n) set clr) →
    let flags := ((s.chip.ctx n).flags &&& ~~~clr) ||| set
    ∃ t, exec .eventAccept s = .next t ∧ (t.chip.ctx n).flags = flags ∧ t.chip.ended h 0 (twoWords flags.toNat)) ∧
  (∀ (s : State) (p n gen : Nat) (h : CmdHdr) (e : Event) (es : List Event), s.chip.front p e es →
    e.acts = [.cancel n gen] → e.err = none → e.typ = 0x8009 → (s.chip.ctx n).live = true → (s.chip.ctx n).st ≤ 5 →
    (s.chip.ctx n).gen = gen → (s.chip.ctx n).held = false → (∀ x ∈ s.chip.sched.ctxs, x.2.wantSlot = none) →
    s.chip.executes h (.taskCancel (gen * 4096 + n)) →
    ∃ t, exec .eventAccept s = .next t ∧ (t.chip.ctx n).live = false ∧ t.chip.ended h 0 ∧
      t.chip.ledger (tskCreated + 16) = s.chip.ledger (tskCreated + 16) + 1) ∧
  (∀ (s : State) (p : Nat) (e : Event) (r : ErrInfo) (es : List Event), s.chip.front p e es → e.acts = [] →
    e.err = some r → r.cls ≤ 2 →
    let a := 0x00342000 + 32 * ((s.chip.reg 0x00340008).toNat % 256)
    ∃ t, exec .eventAccept s = .next t ∧ t.chip.reg 0x00340008 = s.chip.reg 0x00340008 + 1 ∧
      s.chip.counted t.chip (0x00340010 + 4 * r.cls) ∧
      (∀ i, i < 8 → t.chip.reg (a + 4 * i) = (e.record r s.chip.cirque.next s.chip.frc).getD i 0) ∧
      (r.cls = 2 → s.chip.counted t.chip 0x00340004) ∧ t.chip.dev.mode = s.chip.dev.mode) ∧
  (∀ (s : State) (p : Nat) (e : Event) (r : ErrInfo) (es : List Event), s.chip.front p e es → e.acts = [] →
    e.err = some r → r.cls = 3 → s.chip.dev.mode ≠ .fault → s.chip.sched.ctxs = [] →
    ∃ t, exec .eventAccept s = .next t ∧ t.chip.dev.mode = .fault ∧
      t.chip.reg 0x0001000C = BitVec.ofNat 32 (9 * 2 ^ 24 + s.chip.cirque.next % 2 ^ 24)) ∧
  (∀ (s : State) (p : Nat) (q : Port) (tag : Byte) (status state : Nat) (data : List Word) (e : Event)
    (es : List Event),
    s.chip.front p e es → e.acts = [.cplt q tag status state data true] → e.err = none → e.always = false →
    bitOf (s.chip.field 0x00310004 31 16) (srcPort e.src) = false → (s.chip.port q).redirect = false →
    ∃ t, exec .eventAccept s = .next t ∧ t.chip.cmd.exec = none ∧ t.chip.cmd.done = false ∧
      t.chip.images.check = none ∧ t.chip.cmd.queue = s.chip.cmd.queue ∧
      t.chip.reg 0x00010048 = s.chip.reg 0x00010048 + 1 ∧
      ∃ fs, (t.chip.port q).ready = fs ++ [cplFrame tag true 0 status state s.chip.lastSeq data])

/-! ### Task scheduler (R160 to R188) -/

/-- Delay lists, timeouts and core load (R170, R171, R180, R183, R172): a tick boundary adds one to every list clock and
makes READY the delayed tasks that are due on the lists that run; an admission that takes too long ends the task with
ADMIT_TIMEOUT, which its STATUS shows only from the acceptance of its event on (R29), unless a pass that is due at that
instant admits it; a window's end shows each core's busy share; a write
of TSK_AGE_LIMIT brings a pass. -/
def Obligations.SchedulerTime : Prop :=
  (∀ s : State, ∃ t, exec .tickBoundary s = .next t ∧
    t.chip.sched.tickNext = s.chip.sched.tickNext + (s.chip.reg 0x00200000).toNat ∧
    (∀ l : Fin 4, t.chip.reg64 (listClock l) = (s.chip.reg64 (listClock l) + 1) % 2 ^ 64) ∧
    ∀ (n : Nat) (l : Fin 4) (x : Ctx), (n, x) ∈ s.chip.sched.ctxs → s.chip.ctx n = x → x.live = true → x.st = 2 →
      x.dlist = l →
      x.pend = none → x.cancelDue = false → bitOf (s.chip.reg 0x00200008).toNat l = false →
      x.expiry ≤ (s.chip.reg64 (listClock l) + 1) % 2 ^ 64 → t.chip.waits (srcTask n) 0x8003) ∧
  (∀ (s : State) (n : CtxNo), s.chip.sched.passDue = false → (s.chip.ctx n).st = 3 ∨ (s.chip.ctx n).st = 4 →
    (s.chip.ctx n).pend = none ∨ (s.chip.ctx n).pend = some 4 → (s.chip.ctx n).admitTimeout ≠ 0 →
    (s.chip.ctx n).cancelDue = false →
    ∃ t, exec (.admitTimeout n) s = .next t ∧ t.chip.waits (srcTask n) 0x800A ∧ (t.chip.ctx n).due = 0x0104 ∧
      (t.chip.ctx n).status = (s.chip.ctx n).status ∧ (t.chip.ctx n).st = (s.chip.ctx n).st ∧
      (t.chip.ctx n).pend = some 10 ∧ ∀ m, m ≠ n.val → t.chip.ctx m = s.chip.ctx m) ∧
  (∀ (s : State) (n : CtxNo), s.chip.sched.passDue = false → 5 ≤ (s.chip.ctx n).st →
    ∃ t, exec (.admitTimeout n) s = .next t ∧ t = s) ∧
  (∀ (s : State) (n : CtxNo) (x : Ctx), s.chip.sched.passDue = true →
    s.chip.dev.mode = .ready ∨ s.chip.dev.mode = .running → s.chip.candidates = [(n.val, x)] →
    s.chip.retraining = false → (s.chip.env n).neverFits = false →
    (s.chip.calHolds s.chip.freeRes).fits (s.chip.env n) x.siteBase = true →
    ∃ t, exec (.admitTimeout n) s = .next t ∧ (t.chip.ctx n).held = true ∧ (t.chip.ctx n).pend = some 5) ∧
  (∀ s : State, s.chip.clocked = true →
    ∃ t, exec .coreLoadWindow s = .next t ∧ t.chip.frc = (s.chip.frc / 2 ^ 20 + 1) * 2 ^ 20 ∧
      ∀ g : Grp,
        let part := if s.chip.grpOwned g then 2 ^ 20 - s.chip.frc % 2 ^ 20 else 0
        t.chip.reg (0x00200280 + 4 * g) = BitVec.ofNat 32 ((tabGet 0 s.chip.sched.busyNow g + part) / 16) ∧
        t.chip.ledger (0x00200200 + 8 * g) = s.chip.ledger (0x00200200 + 8 * g) + BitVec.ofNat 64 part) ∧
  (∀ (s : State) (q : Port) (tag : Byte) (v : Word), s.chip.writable q tag →
    ∃ t, exec (.tskAgeLimitWrite q tag v) s = .next t ∧ t.chip.completed q tag 0 ∧ t.chip.reg 0x00200004 = v ∧
      t.chip.sched.passDue = true ∧ t.chip.sched.ctxs = s.chip.sched.ctxs)

/-- Admission (R155, R172 to R174, R180, R365): a pass that is due admits a task that fits, gives it its groups and
makes the device RUNNING; a task that never fits any device is to end with NEVER_FITS, its STATUS from the acceptance of
its event on (R29); one that does not fit now waits.
Where the rules leave a point open, the model's choice stands (log entry 49). -/
def Obligations.Admission : Prop :=
  (∀ (s : State) (n : Nat) (x : Ctx), s.chip.sched.passDue = true →
    s.chip.dev.mode = .ready ∨ s.chip.dev.mode = .running → s.chip.candidates = [(n, x)] → s.chip.retraining = false →
    (s.chip.env n).neverFits = false → (s.chip.calHolds s.chip.freeRes).fits (s.chip.env n) x.siteBase = true →
    ∃ t, exec .admissionPass s = .next t ∧ t.chip.sched.passDue = false ∧ (t.chip.ctx n).held = true ∧
      (t.chip.ctx n).admitFrc = s.chip.frc ∧ (t.chip.ctx n).pend = some 5 ∧ t.chip.waits (srcTask n) 0x8005 ∧
      t.chip.dev.mode = .running ∧ ∀ g ∈ bitsIn (s.chip.env n).groups 12, (t.chip.group g).owner = some n) ∧
  (∀ (s : State) (n : Nat) (x : Ctx), s.chip.sched.passDue = true →
    s.chip.dev.mode = .ready ∨ s.chip.dev.mode = .running → s.chip.candidates = [(n, x)] →
    (s.chip.env n).neverFits = true →
    ∃ t, exec .admissionPass s = .next t ∧ t.chip.waits (srcTask n) 0x800A ∧ (t.chip.ctx n).due = 0x0103 ∧
      (t.chip.ctx n).status = (s.chip.ctx n).status ∧
      (t.chip.ctx n).held = (s.chip.ctx n).held ∧ t.chip.groups = s.chip.groups) ∧
  (∀ (s : State) (n : Nat) (x : Ctx), s.chip.sched.passDue = true →
    s.chip.dev.mode = .ready ∨ s.chip.dev.mode = .running → s.chip.candidates = [(n, x)] → s.chip.retraining = false →
    (s.chip.env n).neverFits = false → (s.chip.calHolds s.chip.freeRes).fits (s.chip.env n) x.siteBase = false →
    (s.chip.ctx n).st = 3 → (s.chip.ctx n).pend = none →
    ∃ t, exec .admissionPass s = .next t ∧ t.chip.waits (srcTask n) 0x8004 ∧ (t.chip.ctx n).pend = some 4 ∧
      (t.chip.ctx n).held = (s.chip.ctx n).held ∧ t.chip.dev.mode = s.chip.dev.mode ∧ t.chip.groups = s.chip.groups) ∧
  (∀ s : State, s.chip.sched.passDue = false → ∃ t, exec .admissionPass s = .next t ∧ t = s)

/-- Freeze, thaw and TSK_CTX_SEL (R39, R164, R166, R181, R182, R186, R187): a freeze whose copy is written leaves its
slot; a thaw, which counts as RESIDENT from its start, ends in its slot, or leaves the context frozen when its copy
could not be read, which a later admission finds (R186); neither ends while an access of the copy waits and no slot
runs. TSK_CTX_SEL shows a resident context at once and a frozen one with its thaw, and an unknown handle is BAD_HANDLE.
Where the rules leave a point open, the model's choice stands (log entries 10, 17, 41, 44, 68). -/
def Obligations.FreezeThaw : Prop :=
  (∀ (s : State) (n : CtxNo), (s.chip.ctx n).freezing = true → s.chip.memHas (Who.isFreeze n) = false →
    (∀ x ∈ s.chip.sched.ctxs, x.2.wantSlot = none) →
    ∃ t, exec (.freezeDone n) s = .next t ∧ t.dram = s.dram ∧ (t.chip.ctx n).move = none ∧
      (t.chip.ctx n).resident = false ∧ t.chip.ledger tskFrozen = s.chip.ledger tskFrozen + 1 ∧
      t.chip.ledger tskResident = s.chip.ledger tskResident - 1 ∧ s.chip.counted t.chip 0x00200084 ∧
      ∀ m, m ≠ n.val → (s.chip.ctx m).st ≠ 5 → t.chip.ctx m = s.chip.ctx m) ∧
  (∀ (s : State) (n : CtxNo), (s.chip.ctx n).freezing = false ∨
      s.chip.memHas (Who.isFreeze n) = true ∧ s.chip.tableRuns = false →
    ∃ t, exec (.freezeDone n) s = .next t ∧ t = s) ∧
  (∀ (s : State) (n : CtxNo) (bad : Bool) (since : Nat), (s.chip.ctx n).move = some (true, since) →
    s.chip.memHas (Who.isThaw n) = false → (s.chip.ctx n).thawBad = false →
    ∃ t, exec (.thawDone n bad) s = .next t ∧ t.dram = s.dram ∧ (t.chip.ctx n).move = none ∧
      (t.chip.ctx n).resident = (s.chip.ctx n).resident ∧ t.chip.ledger tskResident = s.chip.ledger tskResident ∧
      t.chip.ledger tskFrozen = s.chip.ledger tskFrozen ∧ s.chip.counted t.chip 0x00200088 ∧
      (t.chip.reg 0x0020008C).toNat % 2 ^ 32 =
        (if (s.chip.reg 0x0020008C).toNat < s.chip.frc - since then s.chip.frc - since
          else (s.chip.reg 0x0020008C).toNat) % 2 ^ 32) ∧
  (∀ (s : State) (n : CtxNo) (since : Nat) (w : SelWait), (s.chip.ctx n).move = some (true, since) →
    s.chip.memHas (Who.isThaw n) = false → (s.chip.ctx n).thawBad = false → s.chip.sched.selWait = [w] → w.n = n →
    w.bad = none → (s.chip.port w.q).redirect = false →
    ∃ t, exec (.thawDone n false) s = .next t ∧ t.chip.sched.selWait = [] ∧
      t.chip.sched.sel = some (n.val, (s.chip.ctx n).gen) ∧
      ∃ fs, (t.chip.port w.q).ready = fs ++ [cplFrame w.tag true 0 0 0 w.s []]) ∧
  (∀ (s : State) (n : CtxNo) (bad : Bool) (since : Nat), (s.chip.ctx n).move = some (true, since) →
    s.chip.memHas (Who.isThaw n) = false → (s.chip.ctx n).thawBad = true →
    (∀ x ∈ s.chip.sched.ctxs, x.2.wantSlot = none) →
    ∃ t, exec (.thawDone n bad) s = .next t ∧ (t.chip.ctx n).move = none ∧ (t.chip.ctx n).resident = false ∧
      t.chip.ledger tskFrozen = s.chip.ledger tskFrozen + 1 ∧
      t.chip.ledger tskResident = s.chip.ledger tskResident - 1 ∧
      t.chip.reg 0x00200088 = s.chip.reg 0x00200088 ∧
      ((s.chip.ctx n).st = 5 → (s.chip.ctx n).pend = none → (s.chip.ctx n).cancelDue = false →
        t.chip.waits (srcTask n) 0x800A ∧ (t.chip.ctx n).due = 0x0105) ∧
      ((s.chip.ctx n).st ≠ 5 → (t.chip.ctx n).thawBad = true ∧ (t.chip.ctx n).pend = (s.chip.ctx n).pend)) ∧
  (∀ (s : State) (n : CtxNo) (bad : Bool), s.chip.memHas (Who.isThaw n) = true → s.chip.tableRuns = false →
    ∃ t, exec (.thawDone n bad) s = .next t ∧ t = s) ∧
  (∀ (s : State) (q : Port) (tag : Byte) (v : Word) (n : Nat), s.chip.writable q tag →
    s.chip.findTask v.toNat = some n → (s.chip.ctx n).onChip = true →
    ∃ t, exec (.tskCtxSel q tag v) s = .next t ∧ t.chip.completed q tag 0 ∧
      t.chip.sched.sel = some (n, (s.chip.ctx n).gen) ∧
      t.chip.reg 0x00200098 = BitVec.ofNat 32 ((s.chip.ctx n).handle n)) ∧
  (∀ (s : State) (q : Port) (tag : Byte) (v : Word) (n : Nat), s.chip.writable q tag →
    s.chip.findTask v.toNat = some n → (s.chip.ctx n).onChip = false → s.chip.sched.selWait = [] →
    ((s.chip.ctx n).arriving = true → (s.chip.ctx n).wantSlot ≠ none) →
    ∃ t, exec (.tskCtxSel q tag v) s = .next t ∧ (t.chip.port q).ready = (s.chip.port q).ready ∧
      t.chip.reg 0x00200098 = s.chip.reg 0x00200098 ∧
      (∃ w, t.chip.sched.selWait = [w] ∧ w.q = q ∧ w.tag = tag ∧ w.n = n ∧ w.s = s.chip.lastSeq) ∧
      ((t.chip.ctx n).wantSlot ≠ none ∨ (t.chip.ctx n).move ≠ none)) ∧
  (∀ (s : State) (q : Port) (tag : Byte) (v : Word), s.chip.writable q tag → s.chip.findTask v.toNat = none →
    ∃ t, exec (.tskCtxSel q tag v) s = .next t ∧ t.chip.completed q tag 3 ∧ t.chip.sched = s.chip.sched)

/-- The life of a burst (R13, R14, R144, R166, R175, R177): preload ends when every group holds what R13 lists, and
fixes a start count at least 4,096 TM ahead; at that count every group begins and the task runs; an envelope window
counts anew from its boundary; an ended task that has drained is to be COMPLETED, or CANCELLED, or to end with the error
its bursts met, with the status that its context takes as the event is accepted (R29). Where the rules leave a point
open, the model's choice stands (log entry 10). -/
def Obligations.BurstLife : Prop :=
  (∀ (s : State) (n : CtxNo), (s.chip.ctx n).st = 5 → (s.chip.ctx n).preloading = true → (s.chip.ctx n).startTm = 0 →
    (s.chip.ctx n).cancelDue = false →
    (∀ g ∈ s.chip.taskGroups n, (s.chip.group g).loaded = true ∧ (s.chip.group g).arrived = []) →
    ∃ t, exec (.preloadEnd n) s = .next t ∧ t.dram = s.dram ∧ (t.chip.ctx n).preloading = false ∧
      s.chip.mtc s.chip.tm + 4096 ≤ (t.chip.ctx n).startCount ∧
      (t.chip.ctx n).startTm = s.chip.tm + ((t.chip.ctx n).startCount - s.chip.mtc s.chip.tm) ∧
      (t.chip.ctx n).view = (s.chip.ctx n).flags ∧
      ∀ g ∈ s.chip.taskGroups n, (t.chip.group g).epoch = (t.chip.ctx n).startTm) ∧
  (∀ (s : State) (n : CtxNo) (g : Nat), g ∈ s.chip.taskGroups n → (s.chip.group g).loaded = false →
    (∀ g ∈ s.chip.taskGroups n, (s.chip.group g).arrived = []) → s.chip.tableRuns = false →
    ∃ t, exec (.preloadEnd n) s = .next t ∧ t = s) ∧
  (∀ (s : State) (n : CtxNo), (s.chip.ctx n).st = 5 → (s.chip.ctx n).startTm ≠ 0 → (s.chip.ctx n).pend = none →
    (s.chip.ctx n).cancelDue = false → s.chip.clocked = true → s.chip.tm ≤ (s.chip.ctx n).startTm →
    ∃ t, exec (.burstStart n) s = .next t ∧ t.chip.tm = (s.chip.ctx n).startTm ∧ t.chip.waits (srcTask n) 0x8006 ∧
      (t.chip.ctx n).pend = some 6 ∧ ∀ g ∈ s.chip.taskGroups n, (t.chip.group g).st = 1) ∧
  (∀ (s : State) (n : CtxNo), (s.chip.ctx n).st = 6 → s.chip.clocked = true → 2 ^ 39 ≤ (s.chip.env n).refPeriod →
    s.chip.tm ≤ (s.chip.ctx n).startTm +
      (((s.chip.ctx n).window + 1) * (4096 * 64 * (s.chip.env n).refPeriod) + 2 ^ 40 - 1) / 2 ^ 40 →
    ∃ t, exec (.envelopeWindow n) s = .next t ∧ (t.chip.ctx n).window = (s.chip.ctx n).window + 1 ∧
      (t.chip.ctx n).siteWin = [] ∧ ∀ ch : Chan, tabGet 0 t.chip.mem.streamUsed (8 * n + ch) = 0) ∧
  (∀ (s : State) (n : CtxNo), (s.chip.ctx n).st = 7 → (s.chip.ctx n).pend = none →
    (∀ g ∈ s.chip.taskGroups n, (s.chip.group g).pipe = [] ∧
      ∀ r ∈ tabGet [] s.chip.mor.queues g, r.ctx ≠ some n.val) →
    ∃ t, exec (.taskDrainDone n) s = .next t ∧
      ((∃ g ∈ s.chip.taskGroups n, (s.chip.group g).cause = 5 ∨ (s.chip.group g).cause = 6) →
        t.chip.waits (srcTask n) 0x800A ∧ (t.chip.ctx n).due = 0x0101) ∧
      ((∀ g ∈ s.chip.taskGroups n, (s.chip.group g).cause ≠ 5 ∧ (s.chip.group g).cause ≠ 6) →
        (∃ g ∈ s.chip.taskGroups n, (s.chip.group g).cause = 2 ∨ (s.chip.group g).cause = 3) →
        t.chip.waits (srcTask n) 0x800A ∧ (t.chip.ctx n).due = 0x0100) ∧
      ((∀ g ∈ s.chip.taskGroups n, (s.chip.group g).cause = 1 ∨ (s.chip.group g).cause = 4) →
        (∃ g ∈ s.chip.taskGroups n, (s.chip.group g).cause = 4) →
        t.chip.waits (srcTask n) 0x8009 ∧ (t.chip.ctx n).due = 0x0102) ∧
      ((∀ g ∈ s.chip.taskGroups n, (s.chip.group g).cause = 1) →
        t.chip.waits (srcTask n) 0x8008 ∧ (t.chip.ctx n).due = 0)) ∧
  (∀ (s : State) (n : CtxNo) (g : Nat), (s.chip.ctx n).st = 7 → g ∈ s.chip.taskGroups n → (s.chip.group g).pipe ≠ [] →
    ∃ t, exec (.taskDrainDone n) s = .next t ∧ t = s)

/-! ### Sequence words and the frame boundary (R105 to R136) -/

/-- Sequence words (R86, R106 to R113, R120 to R125): at the boundary at which a word's frame begins, its row plays that
frame, whose compares are to be judged by the levels set then (R45, R59), and the word takes its effect, an ARMT that
names a pin outside the envelope none but one breach; at another boundary the row changes nothing. Unless the boundary
ends another group of the task at that time, no other group changes. Where the rules leave a point open, the model's
choice stands (log entries 14, 32). -/
def Obligations.ProgramWords : Prop :=
  (∀ (s : State) (g : Grp) (k n : Nat) (row : Grp → Instr), wordRow k = some row → (s.chip.group g).owner = some n →
    (s.chip.boundary g).1.op = some k → (s.chip.boundary g).1.beat = .plays →
    let x := s.chip.group g
    let alone := ∀ h ∈ s.chip.peers n g, s.chip.turnAt h = uiStart (s.chip.period g x.pa) x.ui →
      s.chip.peerEnds h = s.chip
    ∃ t, exec (row g) s = .next t ∧
      let z := t.chip.group g
      let y := z.word z.walk.pc
      let sg := z.seg y.id
      let good := k = 8 ∧ bitOf (s.chip.reg (tsetWord g y.b2 0)).toNat 31 = true
      y.op = k ∧ z.frame = x.frame + 1 ∧ z.st = 1 ∧ (∃ r, z.pipe = x.pipe ++ [r] ∧ r.num = x.frame ∧
      r.modes = z.modes ∧ r.judge = s.chip.judges g) ∧
      z.judged = !([5, 6, 0xD, 0xF, 0x10].contains k) ∧
      (k = 1 → z.walk.left = y.w1 - 1) ∧
      (k = 2 → z.walk.seg = some y.id ∧ z.walk.pos = (if sg.total ≤ y.w1 then 0 else y.w1) + 1) ∧
      (k = 3 → z.walk.loops.head? = some (z.walk.pc + 1, y.w1)) ∧
      z.modes = (if k = 7 then (x.modes &&& (255 - y.b3)) ||| (y.b2 &&& y.b3)
        else if k = 2 ∧ sg.enc = 1 ∧ sg.modeLoad = true then sg.modeInit else x.modes) ∧
      (k = 8 → y.b2 < 64 → (good → z.tset = y.b2 ∧ z.pa = s.chip.field (tsetWord g y.b2 0) 1 0) ∧
        (¬ good → z.tset = x.tset ∧ z.pa = x.pa ∧ z.faultDue = true)) ∧
      (k = 9 → z.pa = y.b2) ∧ (k ≠ 8 → z.tset = x.tset) ∧ (k ≠ 8 → k ≠ 9 → z.pa = x.pa) ∧
      z.cmode = (if k = 0xE then y.b2 else x.cmode) ∧ z.cparam = (if k = 0xE then y.w1 else x.cparam) ∧
      (k = 0xA →
        let pins := (bitsIn y.w2 8).map (fun j => 8 * g.val + j)
        let all := pins ++ tdcPlanPins g ((s.chip.ctx n).tdcPlan.getD y.id [])
        ((∀ p ∈ all, bitOf (s.chip.env n).tdcPins p = true) → ∀ p ∈ pins,
          (t.chip.tdcPin p).armed = true ∧ (t.chip.tdcPin p).opened = true ∧ (t.chip.tdcPin p).plan = y.id) ∧
        ((∃ p ∈ all, bitOf (s.chip.env n).tdcPins p = false) →
          (t.chip.ctx n).breach = min ((s.chip.ctx n).breach + 1) 0xFFFFFFFF ∧ (alone → t.chip.tdc = s.chip.tdc))) ∧
      (k = 0xB → let p := (s.chip.ctx n).adcPlan.getD y.id []
        adcInside p (s.chip.env n) = true → adcKind p = 0 → (t.chip.conv (adcConvOf p)).run.isSome = true) ∧
      (k = 0xC → t.chip.waitsTo (srcSeq g) 0x8010
        (.flags n (s.chip.ctx n).gen 0 (if y.b2 % 2 = 0 then y.mask else 0) (if y.b2 % 2 = 0 then 0 else y.mask))) ∧
      (k = 0xF → z.syncFrame = x.frame ∧ z.syncEnd = none) ∧
      t.dram = s.dram ∧ s.chip.hostSideKept t.chip ∧
      (alone → ∀ h : Nat, h ≠ g → t.chip.group h = s.chip.group h)) ∧
  (∀ (s : State) (g : Grp) (k : Nat) (row : Grp → Instr), wordRow k = some row → (s.chip.boundary g).1.op ≠ some k →
    ∃ t, exec (row g) s = .next t ∧ t = s) ∧
  (∀ (s : State) (g : Grp) (n : Nat), (s.chip.group g).owner = some n → (s.chip.group g).judged = true →
    (s.chip.boundary g).1.op = some 4 → (s.chip.boundary g).1.beat = .plays →
    let w := (s.chip.group g).walk
    ∃ t, exec (.endl g) s = .next t ∧ (t.chip.group g).walk.pc = w.npc ∧
      (∀ b r l, w.loops = (b, r) :: l → 1 < r →
        (t.chip.group g).walk.npc = b ∧ (t.chip.group g).walk.loops = (b, r - 1) :: l) ∧
      (∀ b r l, w.loops = (b, r) :: l → r ≤ 1 →
        (t.chip.group g).walk.npc = w.npc + 1 ∧ (t.chip.group g).walk.loops = l)) ∧
  (∀ (s : State) (g : Grp) (n : Nat), (s.chip.group g).owner = some n → (s.chip.boundary g).1.op = some 0x10 →
    (s.chip.boundary g).1.beat = .ended →
    ∃ t, exec (.endWord g) s = .next t ∧ (t.chip.group g).st = 5 ∧ (t.chip.group g).cause = 1)

/-- The frame boundary (R106, R115 to R119, R124, R125, R130 to R134, R136): what each end of a boundary leaves in the
group, taken jumps, a JCOND's timeout, underrun, stall and sequencer fault with their counts and records; a fault met in
a pause waits for its end; a parity error inside another memory is INTERNAL_PARITY (R395; its SOURCE: log entry 79).
Where the rules leave a point open, the model's choice stands (log entries 14, 34). -/
def Obligations.FrameBoundaries : Prop :=
  (∀ (s : State) (g : Grp),
    let x := s.chip.group g
    let b := (s.chip.boundary g).1.beat
    ∃ t, exec (.frameBoundary g) s = .next t ∧
      let z := t.chip.group g
      (b = .nothing → t = s) ∧ (b = .plays → z.st = 1 ∧ z.frame = x.frame + 1) ∧
      (b = .holds → z.st = 2 ∧ z.frame = x.frame + 1 ∧
        t.chip.reg64 (seqB g + 0x58) = (s.chip.reg64 (seqB g + 0x58) + 1) % 2 ^ 64) ∧
      (b = .pauses → z.st = 3 ∧ z.frame = x.frame ∧ z.walk = x.walk) ∧
      (b = .stalls → z.st = 4 ∧ z.frame = x.frame) ∧ (b = .ended → z.st = 5) ∧ (b = .underran → z.st = 5 ∧
      z.cause = 2)) ∧
  (∀ (s : State) (g : Grp) (n : Nat),
    let x := s.chip.group g
    let y := x.word x.walk.pc
    let per := s.chip.period g x.pa
    let c := s.chip.advanceTo (x.epoch + uiStart per x.ui / 512)
    x.owner = some n → x.judged = false →
    (∀ h ∈ s.chip.peers n g, s.chip.turnAt h = uiStart per x.ui → s.chip.peerEnds h = s.chip) →
    y.op = 5 ∨ y.op = 6 ∧ (c.jcond x n (c.frameStart g) y).1 = true →
    (s.chip.boundary g).1.beat = .plays →
    ∃ t, exec (.frameBoundary g) s = .next t ∧ (t.chip.group g).walk.pc = y.w1 ∧
      s.chip.counted t.chip (seqB g + 0x40)) ∧
  (∀ (s : State) (g : Grp), (s.chip.boundary g).1.fell = true →
    ∃ t, exec (.jcondTimeout g) s = .next t ∧ s.chip.counted t.chip (seqB g + 0x44)) ∧
  (∀ (s : State) (g : Grp), (s.chip.boundary g).1.fell = false →
    ∃ t, exec (.jcondTimeout g) s = .next t ∧ t = s) ∧
  (∀ (s : State) (g : Grp), (s.chip.boundary g).1.beat = .underran →
    ∃ t, exec (.underrun g) s = .next t ∧ (t.chip.group g).st = 5 ∧ (t.chip.group g).cause = 2 ∧
      t.chip.reg (seqB g + 0x68) = BitVec.ofNat 32 (s.chip.group g).frame ∧ t.chip.waits (srcSeq g) 0x0100) ∧
  (∀ (s : State) (g : Grp), (s.chip.boundary g).1.beat = .stalls →
    ∃ t, exec (.stall g) s = .next t ∧ (t.chip.group g).st = 4 ∧ (t.chip.group g).frame = (s.chip.group g).frame ∧
      t.chip.field (firnB g + 4) 31 31 = 1 ∧ s.chip.counted t.chip (seqB g + 0x54)) ∧
  (∀ (s : State) (g : Grp), (s.chip.boundary g).1.beat = .plays →
    (∃ t, exec (.underrun g) s = .next t ∧ t = s) ∧ (∃ t, exec (.stall g) s = .next t ∧ t = s)) ∧
  (∀ (s : State) (g : Grp) (n : Nat) (f : ParityAt),
    let x := s.chip.group g
    x.owner = some n → x.st = 1 ∨ x.st = 2 → x.awaitsResults = false →
    (∀ h ∈ s.chip.peers n g, uiStart (s.chip.period g x.pa) x.ui < s.chip.turnAt h) →
    f = .program ∧ s.chip.begun n g = false ∨ (f = .program ∨ f = .nowhere) ∧ x.faultDue = true →
    ∃ t, exec (.seqFault g f) s = .next t ∧ (t.chip.group g).st = 5 ∧ (t.chip.group g).cause = 5 ∧
      t.chip.waits (srcSeq g) 0x0101) ∧
  (∀ (s : State) (g : Grp),
    let x := s.chip.group g
    x.owner ≠ none → x.st = 3 ∨ x.st = 4 →
    ∃ t, exec (.seqFault g .program) s = .next t ∧ (t.chip.group g).st = x.st ∧ (t.chip.group g).faultDue = true) ∧
  (∀ (s : State) (g : Grp), (s.chip.group g).faultDue = false →
    ∃ t, exec (.seqFault g .nowhere) s = .next t ∧ t = s) ∧
  (∀ (s : State) (g : Grp) (b : Fin 65536),
    ∃ t, exec (.seqFault g (.block b)) s = .next t ∧ t.chip.waits (srcBlock b) 0x0315 ∧
      t.chip.groups = s.chip.groups ∧
      t.chip.sched = s.chip.sched)

/-- Pauses and SYNC holds (R124 to R126, R132, R136): after a WAITF pause the next frame starts at the first UI start at
least 8 ns after its condition came true, which is when the first change that makes it true was written, or 8 ns after
its timeout, which is counted and raised; a stalled group plays on at the first UI start 16 ns after the missing frame
is in; a SYNC word's hold ends at its edge, or at its timeout with SYNC_TIMEOUT. Where the rules leave a point open, the
model's choice stands (log entries 34, 35). -/
def Obligations.PausesAndHolds : Prop :=
  (∀ (s : State) (g : Grp) (n at0 : Nat),
    let x := s.chip.group g
    x.owner = some n → x.st = 3 → 0 < s.chip.period g x.pa →
    (s.chip.ctx n).waitMet (x.word x.walk.pc) (512 * s.chip.tm) (512 * x.epoch + x.pauseFrom) = some at0 →
    (s.chip.resume g (at0 + 65536 - 512 * x.epoch) false).1.beat = .plays →
    ∃ t, exec (.waitfResume g) s = .next t ∧ (t.chip.group g).st = 1 ∧ (t.chip.group g).frame = x.frame + 1 ∧
      s.chip.beginsAt t.chip g (at0 + 65536 - 512 * x.epoch)) ∧
  (∀ (s : State) (g : Grp) (n seen at0 : Nat) (set clr : Dword) (es : List (Nat × Nat × Dword × Dword)),
    let x := s.chip.group g
    let y := s.chip.ctx n
    let w := x.word x.walk.pc
    let v := y.viewAt (512 * x.epoch + x.pauseFrom)
    x.owner = some n → x.st = 3 → 0 < s.chip.period g x.pa →
    y.viewPend.filter (fun e => 512 * x.epoch + x.pauseFrom < e.1) = (seen, at0, set, clr) :: es →
    w.waitTrue v = false → w.waitTrue ((v &&& ~~~clr) ||| set) = true →
    (s.chip.resume g (at0 + 65536 - 512 * x.epoch) false).1.beat = .plays →
    ∃ t, exec (.waitfResume g) s = .next t ∧ s.chip.beginsAt t.chip g (at0 + 65536 - 512 * x.epoch)) ∧
  (∀ (s : State) (g : Grp) (n : Nat),
    let x := s.chip.group g
    x.owner = some n →
      (s.chip.ctx n).waitMet (x.word x.walk.pc) (512 * s.chip.tm) (512 * x.epoch + x.pauseFrom) = none →
    ∃ t, exec (.waitfResume g) s = .next t ∧ t = s) ∧
  (∀ (s : State) (g : Grp) (n : Nat),
    let x := s.chip.group g
    x.owner = some n → x.st = 3 → (x.word x.walk.pc).w3 ≠ 0 →
    ∃ t, exec (.waitTimeout g) s = .next t ∧ (t.chip.group g).st ≠ 3 ∧ s.chip.counted t.chip (seqB g + 0x48) ∧
      t.chip.waits (srcSeq g) 0x8021 ∧
      (0 < s.chip.period g x.pa → (t.chip.group g).st = 1 →
        s.chip.beginsAt t.chip g (x.pauseFrom + (x.word x.walk.pc).w3 * 1000 * 8192 + 65536))) ∧
  (∀ (s : State) (g : Grp), (s.chip.group g).st ≠ 3 ∨ ((s.chip.group g).word (s.chip.group g).walk.pc).w3 = 0 →
    ∃ t, exec (.waitTimeout g) s = .next t ∧ t = s) ∧
  (∀ (s : State) (g : Grp),
    let x := s.chip.group g
    x.st = 4 → 0 < s.chip.period g x.pa → (s.chip.resume g (512 * (s.chip.tm + 256 - x.epoch)) true).1.beat = .plays →
    ∃ t, exec (.stallResume g) s = .next t ∧ (t.chip.group g).st = 1 ∧ (t.chip.group g).frame = x.frame + 1 ∧
      t.chip.field (firnB g + 4) 31 31 = 0 ∧ s.chip.beginsAt t.chip g (512 * (s.chip.tm + 256 - x.epoch))) ∧
  (∀ (s : State) (g : Grp), (s.chip.group g).st = 4 →
    (s.chip.resume g (512 * (s.chip.tm + 256 - (s.chip.group g).epoch)) true).1.beat = .stalls →
    ∃ t, exec (.stallResume g) s = .next t ∧ t = s) ∧
  (∀ (s : State) (g : Grp) (n e : Nat),
    let x := s.chip.group g
    x.owner = some n → x.inSync = true → x.syncEnd = some e → x.faultDue = false → x.endDue = none →
    x.pipe.any (fun r => decide (r.num + 4 ≤ max e x.frame)) = false →
    (∀ h ∈ s.chip.peers n g, s.chip.turnAt g < s.chip.turnAt h) →
    ∃ t, exec (.syncHoldEnd g) s = .next t ∧ (t.chip.group g).st ≠ 2 ∧ e ≤ (t.chip.group g).frame ∧
      t.chip.reg64 (seqB g + 0x58) = (s.chip.reg64 (seqB g + 0x58) + (e - x.frame)) % 2 ^ 64) ∧
  (∀ (s : State) (g : Grp) (n : Nat),
    let x := s.chip.group g
    let f := x.syncFrame + (x.word x.walk.pc).w3 + 1
    x.owner = some n → x.inSync = true → x.syncEnd = none → x.faultDue = false → x.endDue = none →
    x.pipe.any (fun r => decide (r.num + 4 ≤ max f x.frame)) = false →
    (∀ h ∈ s.chip.peers n g, s.chip.turnAt g < s.chip.turnAt h) →
    ∃ t, exec (.syncTimeout g) s = .next t ∧ (t.chip.group g).st ≠ 2 ∧ s.chip.counted t.chip (seqB g + 0x4C) ∧
      t.chip.waits (srcSeq g) 0x0304 ∧
      t.chip.reg64 (seqB g + 0x58) = (s.chip.reg64 (seqB g + 0x58) + (f - x.frame)) % 2 ^ 64) ∧
  (∀ (s : State) (g : Grp), (s.chip.group g).inSync = false →
    (∃ t, exec (.syncHoldEnd g) s = .next t ∧ t = s) ∧ (∃ t, exec (.syncTimeout g) s = .next t ∧ t = s))

/-! ### Compare results, Firn, lane mode (R45, R67, R73 to R79, R98, R116, R189 to R191) -/

/-- Compare results of a frame (R45, R116, R189 to R191): once the frame has ended it leaves the pipe, its fails and
judged lanes are what a JCOND tests, and each lane's counters and first-fail register follow its results (the results
of a frame of a SOURCE segment are those of its checkers), judged by the levels that the frame recorded as it played,
whatever the registers read since. Where the rules leave a point open, the model's choice
stands (log entries 37, 38). -/
def Obligations.CompareResults : Prop :=
  (∀ (s : State) (g : Grp) (n : Nat) (obs : List LaneObs) (r : FrameRec) (rs : List FrameRec),
    let x := s.chip.group g
    x.owner = some n → x.pipe = r :: rs → x.st ≠ 1 ∨ r.num + 1 < x.frame → r.enc ≠ 3 →
    let lane (j : Nat) : Nat := if j = 8 then 96 + g else 8 * g + j
    let res (j : Nat) : LaneRes :=
      s.chip.laneRes g r (delayed 0 r.uis [] (obs.getD j { volts := [], changed := 0 })).2.1 0 none j
    ∃ t, exec (.compareResultsComplete g obs) s = .next t ∧ (t.chip.group g).pipe = rs ∧
      (∃ f m, (t.chip.group g).results.head? = some (r.num, f, m) ∧
        ∀ j, j < 9 → (f.testBit j = true ↔ (res j).failed ≠ 0) ∧ (m.testBit j = true ↔ (res j).judged ≠ 0)) ∧
      (∀ j, j < 9 → (res j).judged ≠ 0 →
        t.chip.reg64 (laneReg8 (lane j)) =
          min (s.chip.reg64 (laneReg8 (lane j)) + uiCount (res j).failed) (2 ^ 48 - 1) ∧
        t.chip.reg64 (laneReg8 (lane j) + 8) =
          min (s.chip.reg64 (laneReg8 (lane j) + 8) + uiCount (res j).judged) (2 ^ 48 - 1)) ∧
      (∀ j, j < 9 → (res j).judged = 0 →
        t.chip.reg64 (laneReg8 (lane j)) = s.chip.reg64 (laneReg8 (lane j)) ∧
        t.chip.reg64 (laneReg8 (lane j) + 8) = s.chip.reg64 (laneReg8 (lane j) + 8)) ∧
      (∀ (c : Chip) (j : Nat), res j =
        c.laneRes g r (delayed 0 r.uis [] (obs.getD j { volts := [], changed := 0 })).2.1 0 none j) ∧
      (∀ j, j < 9 → (res j).failed ≠ 0 → s.chip.laneFirst (lane j) = none →
        t.chip.laneFirst (lane j) = some (r.num % 2 ^ 40)) ∧
      t.dram = s.dram ∧ s.chip.hostSideKept t.chip ∧ ∀ h : Nat, h ≠ g → t.chip.group h = s.chip.group h) ∧
  (∀ (s : State) (g : Grp) (n : Nat) (obs : List LaneObs) (r : FrameRec) (rs : List FrameRec),
    let x := s.chip.group g
    x.owner = some n → x.pipe = r :: rs → x.st ≠ 1 ∨ r.num + 1 < x.frame →
    ∃ t, exec (.compareResultsComplete g obs) s = .next t ∧ (t.chip.group g).pipe = rs ∧
      (∃ f m, (t.chip.group g).results = ((r.num, f, m) :: x.results).take 8) ∧ t.dram = s.dram ∧
      s.chip.hostSideKept t.chip ∧ ∀ h : Nat, h ≠ g → t.chip.group h = s.chip.group h) ∧
  (∀ (s : State) (g : Grp) (obs : List LaneObs),
    let x := s.chip.group g
    x.owner = none ∨ x.pipe = [] ∨ (x.st = 1 ∧ ∀ r ∈ x.pipe, x.frame ≤ r.num + 1) →
    ∃ t, exec (.compareResultsComplete g obs) s = .next t ∧ t = s) ∧
  ∀ vcl vch v : Nat, (v < 3 * vcl → compareLevel vcl vch v = .L) ∧
    (3 * vcl ≤ v → 3 * vch < v → compareLevel vcl vch v = .H) ∧ (3 * vcl ≤ v → v ≤ 3 * vch →
    compareLevel vcl vch v = .M)

/-- Firn's ring (R98, R100, R119): a line whose data arrived is READY, and an abandoned one is discarded; the ledger
follows. Where the rules leave a point open, the model's choice stands (log entry 10). -/
def Obligations.RingLines : Prop :=
  (∀ (s : State) (g : Grp) (i : Nat) (bad : Bool) (data : List Byte) (rest : List (Nat × Bool × List Byte)),
    let x := s.chip.group g
    x.arrived = (i, bad, data) :: rest → i ∉ x.orphans →
    ∃ t, exec (.firnLineFilled g) s = .next t ∧ (t.chip.group g).arrived = rest ∧
      (∀ l ∈ x.ring, l.id = i →
        ∃ m ∈ (t.chip.group g).ring, m.id = i ∧ m.st = 2 ∧ m.bad = bad ∧ m.data = data ∧ m.idx = l.idx ∧
          m.play = l.play) ∧
      t.chip.ledger (ringLed g 1) = s.chip.ledger (ringLed g 1) - 1 ∧
      t.chip.ledger (ringLed g 2) = s.chip.ledger (ringLed g 2) + 1 ∧
      t.chip.ledger (ringLed g 3) = s.chip.ledger (ringLed g 3) + 1 ∧
      t.dram = s.dram ∧ s.chip.hostSideKept t.chip ∧ ∀ h : Nat, h ≠ g → t.chip.group h = s.chip.group h) ∧
  (∀ (s : State) (g : Grp) (i : Nat) (bad : Bool) (data : List Byte) (rest : List (Nat × Bool × List Byte)),
    let x := s.chip.group g
    x.arrived = (i, bad, data) :: rest → i ∈ x.orphans →
    ∃ t, exec (.firnLineFilled g) s = .next t ∧ (t.chip.group g).arrived = rest ∧
      (t.chip.group g).orphans = x.orphans.erase i ∧
      t.chip.ledger (ringLed g 0) = s.chip.ledger (ringLed g 0) + 1 ∧
      t.chip.ledger (ringLed g 1) = s.chip.ledger (ringLed g 1) - 1 ∧
      t.chip.ledger (ringLed g 3) = s.chip.ledger (ringLed g 3) + 1 ∧
      t.chip.ledger (ringLed g 5) = s.chip.ledger (ringLed g 5) + 1) ∧
  (∀ (s : State) (g : Grp), (s.chip.group g).arrived = [] →
    s.chip.memHas (Who.isFill g) = false ∨ s.chip.tableRuns = false →
    ∃ t, exec (.firnLineFilled g) s = .next t ∧ t = s)

/-- Lane mode (R67, R73 to R79): the receive reference locks and unlocks, a checker's SYNC and its loss show in
PIN_CHK_STATUS, a marker is counted and its lane number checked, a pin without a marker for three intervals loses
MARKER_OK and, deskewed, is MARKER_TIMEOUT, and CLEAR of PIN_CHK_CTRL zeroes the checker's counters and status. Where
the rules leave a point open, the model's choice stands (log entries 38, 40, 64). -/
def Obligations.LaneMode : Prop :=
  (∀ (s : State) (g : Grp) (ps : List Int),
    let x := s.chip.group g
    s.chip.fckRef g = true → ps.length = 16 → x.fckFrozen = false →
    (∃ p ∈ ps, beyondUi (s.chip.period g x.pa) 2 p = false) →
    ∃ t, exec (.fckLock g ps) s = .next t ∧ t.chip = s.chip.setGroup g { x with
      fckLock := x.fckLock || !beyondUi (s.chip.period g x.pa) 4 (meanPhase ps), fckPhases := ps }) ∧
  (∀ (s : State) (g : Grp) (ps : List Int), s.chip.fckRef g = false ∨ (s.chip.group g).fckFrozen = true →
    (∃ t, exec (.fckLock g ps) s = .next t ∧ t = s) ∧ ∃ t, exec (.fckUnlock g ps) s = .next t ∧ t = s) ∧
  (∀ (s : State) (g : Grp) (ps : List Int),
    let x := s.chip.group g
    s.chip.fckRef g = true → ps.length = 16 → x.fckFrozen = false →
    (∀ p ∈ ps, beyondUi (s.chip.period g x.pa) 2 p = true) →
    ∃ t, exec (.fckUnlock g ps) s = .next t ∧
      t.chip.group g = { x with fckLock := false, fckFrozen := true } ∧
      t.chip.waits (srcFck g) 0x0301) ∧
  (∀ (s : State) (p : Pin),
    let k := (s.chip.group (p / 8)).chk (p % 8)
    k.synced = true → k.lossDue = false → (s.chip.group (p / 8)).laneMode = true →
    ∃ t, exec (.checkerSync p) s = .next t ∧ t.chip.field (chkStatus p) 31 31 = 1 ∧
      ∀ a, a ≠ chkStatus p → t.chip.reg a = s.chip.reg a) ∧
  (∀ (s : State) (p : Pin), ((s.chip.group (p / 8)).chk (p % 8)).lossDue = true →
    ∃ t, exec (.checkerSyncLost p) s = .next t ∧ t.chip.field (chkStatus p) 31 31 = 0 ∧
      t.chip.field (chkStatus p) 29 29 = 1 ∧
      t.chip.field (chkStatus p) 7 0 = min (s.chip.field (chkStatus p) 7 0 + 1) 255 ∧
      ∀ a, a ≠ chkStatus p → t.chip.reg a = s.chip.reg a) ∧
  (∀ (s : State) (p : Pin) (num : Byte) (at0 : Nat), (s.chip.group (p / 8)).laneMode = true → s.chip.pinDir p = 1 →
    s.chip.cmpEn p = true → s.chip.chkType p = 2 ∨ s.chip.chkType p = 3 →
    ∃ t, exec (.laneMarkerReceived p num at0) s = .next t ∧
      t.chip.field (pinB p + 0x7C) 15 0 = (s.chip.field (pinB p + 0x7C) 15 0 + 1) % 2 ^ 16 ∧
      (num.toNat = s.chip.field (pinB p + 0x60) 15 8 → t.chip.field (chkStatus p) 30 30 = 1) ∧
      (num.toNat ≠ s.chip.field (pinB p + 0x60) 15 8 →
        t.chip.field (chkStatus p) 15 8 = min (s.chip.field (chkStatus p) 15 8 + 1) 255 ∧
        t.chip.field (chkStatus p) 30 30 = s.chip.field (chkStatus p) 30 30)) ∧
  (∀ (s : State) (p : Pin), (s.chip.group (p / 8)).laneMode = true →
    bitOf (s.chip.reg (pinB p + 0x7C)).toNat 31 = true →
    ∃ t, exec (.markerTimeout p) s = .next t ∧ t.chip.field (chkStatus p) 30 30 = 0 ∧
      t.chip.waits (srcChk p) 0x0303 ∧ (t.chip.group (p / 8)).deskewOk = false) ∧
  (∀ (s : State) (p : Pin), (s.chip.group (p / 8)).laneMode = true →
    bitOf (s.chip.reg (pinB p + 0x7C)).toNat 31 = false →
    ∃ t, exec (.markerTimeout p) s = .next t ∧ t.chip.field (chkStatus p) 30 30 = 0 ∧
      t.chip.cirque = s.chip.cirque ∧ t.chip.groups = s.chip.groups ∧
      ∀ a, a ≠ chkStatus p → t.chip.reg a = s.chip.reg a) ∧
  (∀ (s : State) (p : Pin), (s.chip.group (p / 8)).laneMode = false →
    ∃ t, exec (.markerTimeout p) s = .next t ∧ t = s) ∧
  (∀ (s : State) (q : Port) (tag : Byte) (p : Pin) (v : Word), s.chip.writable q tag →
    s.chip.grpOwned (p / 8) = false →
    bitOf v.toNat 0 = true → bitsOf v.toNat 31 28 ≤ 3 → bitsOf v.toNat 26 24 ≤ 4 →
    bitsOf v.toNat 31 28 = 0 ∨ s.chip.agreed 3 = true →
    ∃ t, exec (.pinChkClear q tag p v) s = .next t ∧ t.chip.completed q tag 0 ∧
      t.chip.chkType p = bitsOf v.toNat 31 28 ∧
      t.chip.reg64 (pinB p + 0x68) = 0 ∧ t.chip.reg64 (pinB p + 0x70) = 0 ∧ t.chip.reg (pinB p + 0x78) = 0 ∧
      t.chip.reg (chkStatus p) = 0) ∧
  (∀ (s : State) (q : Port) (tag : Byte) (p : Pin) (v : Word), s.chip.writable q tag →
    s.chip.grpOwned (p / 8) = true →
    ∃ t, exec (.pinChkClear q tag p v) s = .next t ∧ t.chip.completed q tag 1 ∧
      ∀ a, a ≠ 0x00010024 → t.chip.reg a = s.chip.reg a)

/-! ### Result records (R39, R199 to R206) -/

/-- Records (R157, R200, R201, R205, R206): admission takes a tag of the ring that the site is mapped to and, for a
running task's site, counts the units in its window; or it drops the record: for the quota, for the rate, which is a
breach, for a ring that is off or full, or where no tag is free. A dropped record adds nothing to the site's counts. A
line is written to its place in the ring and commits in order; a flush timeout pads the partial line; a push follows
MAXAGE, enough committed lines, or a write of MOR_RING_PUSH that makes them enough. Where the rules leave a point open,
the model's choice stands (log entry 10). -/
def Obligations.Records : Prop :=
  (∀ (s : State) (i : Fin 15) (r : Rec) (rs : List Rec),
    let k := s.chip.field (siteRingReg r.site) 3 0
    tabGet [] s.chip.mor.queues i = r :: rs → r.site < 128 → s.chip.siteOwner r.site = none → s.chip.ringOn k = true →
    (s.chip.ring k).tags < s.chip.field (ringB k + 0xC) 17 0 → s.chip.ledger (morLed 0) ≠ 0 →
    ∃ t, exec (.recordAdmission i) s = .next t ∧ tabGet [] t.chip.mor.queues i = rs ∧
      (t.chip.ring k).held = (s.chip.ring k).held ++ [(r, s.chip.frc)] ∧
      t.chip.ledger (morLed 0) = s.chip.ledger (morLed 0) - 1 ∧
      t.chip.ledger (morLed 1) = s.chip.ledger (morLed 1) + 1 ∧
      t.chip.ledger (morLed 2) = s.chip.ledger (morLed 2) + 1 ∧
      t.chip.ledger (morLed 8) = s.chip.ledger (morLed 8) - 1 ∧
      t.chip.reg (siteUsed r.site) = BitVec.ofNat 32 ((s.chip.reg (siteUsed r.site)).toNat + r.units) ∧
      t.dram = s.dram ∧ s.chip.hostSideKept t.chip ∧ t.chip.groups = s.chip.groups) ∧
  (∀ (s : State) (i : Fin 15) (r : Rec) (rs : List Rec) (n : Nat),
    let k := s.chip.field (siteRingReg r.site) 3 0
    let rel := r.site - (s.chip.ctx n).siteBase
    let used := (s.chip.reg (siteUsed r.site)).toNat
    let win := tabGet 0 ((s.chip.rollWindow n).ctx n).siteWin rel
    tabGet [] s.chip.mor.queues i = r :: rs → r.site < 128 → s.chip.siteOwner r.site = some n →
    (s.chip.env n).siteQuota.getD rel 0 = 0xFFFFFFFF ∨ used + r.units ≤ (s.chip.env n).siteQuota.getD rel 0 →
    win + r.units ≤ (s.chip.env n).siteRate.getD rel 0 → s.chip.ringOn k = true →
    (s.chip.ring k).tags < s.chip.field (ringB k + 0xC) 17 0 → s.chip.ledger (morLed 0) ≠ 0 →
    ∃ t, exec (.recordAdmission i) s = .next t ∧ tabGet [] t.chip.mor.queues i = rs ∧
      (t.chip.ring k).held = (s.chip.ring k).held ++ [(r, s.chip.frc)] ∧
      t.chip.ledger (morLed 0) = s.chip.ledger (morLed 0) - 1 ∧
      t.chip.ledger (morLed 1) = s.chip.ledger (morLed 1) + 1 ∧
      t.chip.ledger (morLed 2) = s.chip.ledger (morLed 2) + 1 ∧
      t.chip.ledger (morLed 8) = s.chip.ledger (morLed 8) - 1 ∧
      t.chip.reg (siteUsed r.site) = BitVec.ofNat 32 (used + r.units) ∧
      tabGet 0 (t.chip.ctx n).siteWin rel = win + r.units ∧ (t.chip.ctx n).breach = (s.chip.ctx n).breach) ∧
  (∀ (s : State) (i : Fin 15) (r : Rec) (rs : List Rec) (n : Nat),
    let rel := r.site - (s.chip.ctx n).siteBase
    let used := (s.chip.reg (siteUsed r.site)).toNat
    let x := (s.chip.rollWindow n).ctx n
    let win := tabGet 0 x.siteWin rel
    tabGet [] s.chip.mor.queues i = r :: rs → r.site < 128 → s.chip.siteOwner r.site = some n →
    (s.chip.env n).siteQuota.getD rel 0 = 0xFFFFFFFF ∨ used + r.units ≤ (s.chip.env n).siteQuota.getD rel 0 →
    (s.chip.env n).siteRate.getD rel 0 < win + r.units →
    ∃ t, exec (.recordAdmission i) s = .next t ∧ tabGet [] t.chip.mor.queues i = rs ∧
      t.chip.mor.rings = s.chip.mor.rings ∧
      t.chip.ledger (morLed 6) = s.chip.ledger (morLed 6) + 1 ∧
      t.chip.ledger (morLed 9) = s.chip.ledger (morLed 9) + 1 ∧
      t.chip.ledger (siteLed r.site 2) = s.chip.ledger (siteLed r.site 2) + 1 ∧
      t.chip.ledger (siteLed r.site 5) = s.chip.ledger (siteLed r.site 5) + 1 ∧
      t.chip.ledger (siteLed r.site 4) = s.chip.ledger (siteLed r.site 4) - 1 ∧
      t.chip.reg (siteUsed r.site) = s.chip.reg (siteUsed r.site) ∧ (t.chip.ctx n).siteWin = x.siteWin ∧
      (t.chip.ctx n).breach = min ((s.chip.ctx n).breach + 1) 0xFFFFFFFF ∧
      (0x0100 + rel ∉ (s.chip.ctx n).fired → t.chip.waits srcMor 0x0300)) ∧
  (∀ (s : State) (i : Fin 15) (r : Rec) (rs : List Rec),
    let k := s.chip.field (siteRingReg r.site) 3 0
    tabGet [] s.chip.mor.queues i = r :: rs → r.site < 128 → s.chip.siteOwner r.site = none → s.chip.ringOn k = true →
    (s.chip.ring k).tags < s.chip.field (ringB k + 0xC) 17 0 → s.chip.ledger (morLed 0) = 0 →
    ∃ t, exec (.recordAdmission i) s = .next t ∧ tabGet [] t.chip.mor.queues i = rs ∧
      t.chip.mor.rings = s.chip.mor.rings ∧
      t.chip.ledger (morLed 7) = s.chip.ledger (morLed 7) + 1 ∧
      t.chip.ledger (morLed 11) = s.chip.ledger (morLed 11) ∧
      t.chip.ledger (siteLed r.site 3) = s.chip.ledger (siteLed r.site 3) + 1 ∧
      t.chip.ledger (siteLed r.site 4) = s.chip.ledger (siteLed r.site 4) - 1 ∧
      t.chip.reg (siteUsed r.site) = s.chip.reg (siteUsed r.site)) ∧
  (∀ (s : State) (i : Fin 15) (r : Rec) (rs : List Rec),
    let k := s.chip.field (siteRingReg r.site) 3 0
    tabGet [] s.chip.mor.queues i = r :: rs → r.site < 128 → s.chip.siteOwner r.site = none →
    s.chip.ringOn k = false ∨ s.chip.field (ringB k + 0xC) 17 0 ≤ (s.chip.ring k).tags →
    ∃ t, exec (.recordAdmission i) s = .next t ∧ t.chip.mor.rings = s.chip.mor.rings ∧
      t.chip.reg (siteUsed r.site) = s.chip.reg (siteUsed r.site) ∧
      t.chip.ledger (morLed 7) = s.chip.ledger (morLed 7) + 1 ∧
      t.chip.ledger (morLed 11) = s.chip.ledger (morLed 11) + 1 ∧
      t.chip.ledger (siteLed r.site 3) = s.chip.ledger (siteLed r.site 3) + 1 ∧
      t.chip.ledger (siteLed r.site 4) = s.chip.ledger (siteLed r.site 4) - 1) ∧
  (∀ (s : State) (i : Fin 15) (r : Rec) (rs : List Rec) (n : Nat),
    let quota := (s.chip.env n).siteQuota.getD (r.site - (s.chip.ctx n).siteBase) 0
    tabGet [] s.chip.mor.queues i = r :: rs → r.site < 128 → s.chip.siteOwner r.site = some n → quota ≠ 0xFFFFFFFF →
    quota < (s.chip.reg (siteUsed r.site)).toNat + r.units →
    ∃ t, exec (.recordAdmission i) s = .next t ∧ t.chip.mor.rings = s.chip.mor.rings ∧
      t.chip.ledger (morLed 6) = s.chip.ledger (morLed 6) + 1 ∧
      t.chip.ledger (siteLed r.site 2) = s.chip.ledger (siteLed r.site 2) + 1 ∧
      t.chip.reg (siteUsed r.site) = s.chip.reg (siteUsed r.site)) ∧
  (∀ (s : State) (k : Ring), s.chip.ringTurn = some k.val →
    let g := s.chip.ring k
    let p := packLine g.held 0 []
    let off := s.chip.reg64 (ringWr k) + 128 * g.lines.length
    let a := s.chip.reg64 (ringB k) + off % s.chip.ringSize k
    ∃ t, exec (.ringLineWrite k) s = .next t ∧ t.chip.mor.lastRing = k ∧
      (t.chip.ring k).lines = g.lines ++ [{ off := off, sites := (p.1.filterMap id).map (·.site) }] ∧
      (t.chip.memCh (chanOf a)).capture = (s.chip.memCh (chanOf a)).capture ++
        [{ addr := a, data := some (lineBytes p.1), who := .ring k (off / 128) }] ∧
      t.chip.reg64 (ringWr k) = s.chip.reg64 (ringWr k) ∧ t.dram = s.dram) ∧
  (∀ (s : State) (k : Ring), s.chip.ringTurn ≠ some k.val → ∃ t, exec (.ringLineWrite k) s = .next t ∧ t = s) ∧
  (∀ (s : State) (k : Ring), (s.chip.ring k).held ≠ [] → (packLine (s.chip.ring k).held 0 []).2.2 = false →
    ∃ t, exec (.flushTimeout k) s = .next t ∧ t.chip.ring k = { s.chip.ring k with flushDue := true } ∧
      t.dram = s.dram) ∧
  (∀ (s : State) (k : Ring) (l : DrainLine) (ls : List DrainLine), (s.chip.ring k).lines = l :: ls →
    l.written = true →
    let n := l.sites.length
    let wr := (s.chip.reg64 (ringWr k) + 128) % 2 ^ 64
    ∃ t, exec (.ringLineCommit k) s = .next t ∧ t.chip.reg64 (ringWr k) = wr ∧
      (t.chip.ring k).lines = ls ∧ t.dram = s.dram ∧
      t.chip.ledger (morLed 0) = s.chip.ledger (morLed 0) + BitVec.ofNat 64 n ∧
      t.chip.ledger (morLed 1) = s.chip.ledger (morLed 1) - BitVec.ofNat 64 n ∧
      t.chip.ledger (morLed 5) = s.chip.ledger (morLed 5) + BitVec.ofNat 64 n ∧
      (s.chip.field (ringB k + 0x28) 31 16 * 128 ≤ wr - (s.chip.ring k).mark →
        t.chip.waitsTo (srcRing k) 0x8070 (.push k wr) ∧ (t.chip.ring k).mark = wr)) ∧
  (∀ (s : State) (k : Ring) (l : DrainLine) (ls : List DrainLine), (s.chip.ring k).lines = l :: ls →
    l.written = false →
    s.chip.tableRuns = false →
    ∃ t, exec (.ringLineCommit k) s = .next t ∧ t = s) ∧
  (∀ (s : State) (q : Port) (tag : Byte) (k : Ring) (v : Word), s.chip.writable q tag → s.chip.ringOn k = true →
    bitsOf v.toNat 31 16 ≠ 0 → bitsOf v.toNat 15 0 ≠ 0 →
    bitsOf v.toNat 31 16 * 128 ≤ s.chip.reg64 (ringWr k) - (s.chip.ring k).mark →
    ∃ t, exec (.regWr q tag (BitVec.ofNat 64 (ringB k + 0x28)) [v]) s = .next t ∧ t.chip.completed q tag 0 ∧
      t.chip.waitsTo (srcRing k) 0x8070 (.push k (s.chip.reg64 (ringWr k))) ∧
      (t.chip.ring k).mark = s.chip.reg64 (ringWr k)) ∧
  (∀ (s : State) (k : Ring) (a : Nat) (as : List Nat), (s.chip.ring k).ages = a :: as →
    ∃ t, exec (.pushMaxage k) s = .next t ∧ t.chip.waitsTo (srcRing k) 0x8070 (.push k (s.chip.reg64 (ringWr k))) ∧
      (t.chip.ring k).mark = s.chip.reg64 (ringWr k) ∧ (t.chip.ring k).ages = [])

/-! ### Time-interval measurement (R40, R211 to R228) -/

/-- TDC attempts and snapshots (R40, R62, R213 to R217, R220, R223, R225): events of a source that is off change
nothing; a start opens the measurement, a stop in the window is accepted, one before it is early and leaves the attempt
open, and early stops less than 0.5 ns apart count as one; one after it or none ends the attempt NO_STOP; a result joins
the statistics; after the dead time an armed pin opens again; TDC_SNAP_CMD copies the accumulators of the mask, and the
results stand once TDC_SNAP_DONE is accepted. Where the rules leave a point open, the model's choice stands (log entries
74, 75). -/
def Obligations.TdcAttempts : Prop :=
  (∀ (s : State) (p : Pin) (u : Fin 64),
    let x := s.chip.tdcPin p
    s.chip.tdcStartLive p u = true → x.dead = true →
    ∃ t, exec (.tdcStart ⟨p, u⟩) s = .next t ∧ s.chip.counted t.chip (tdcB p + 0x74) ∧ t.chip.tdc = s.chip.tdc) ∧
  (∀ (s : State) (p : Pin) (u : Fin 64),
    let x := s.chip.tdcPin p
    s.chip.tdcStartLive p u = true → x.dead = false → x.opened = true → x.started = false →
    ∃ t, exec (.tdcStart ⟨p, u⟩) s = .next t ∧ (t.chip.tdcPin p).started = true ∧
      (t.chip.tdcPin p).startFrame = (s.chip.group (p / 8)).frame - 1 ∧
      (t.chip.tdcPin p).startNs = stampNs (s.chip.timeAtTm s.chip.tm) ∧
      (t.chip.tdcPin p).startFrac = stampFrac (s.chip.timeAtTm s.chip.tm) ∧ t.chip.regs = s.chip.regs ∧
      t.chip.led = s.chip.led) ∧
  (∀ (s : State) (p : Pin) (coarse k : Nat),
    let x := s.chip.tdcPin p
    let raw := coarse * 62500 + s.chip.fine p x.lsb k
    s.chip.tdcStopLive p = true → x.dead = false → x.opened = true → x.started = true → x.openFs ≤ raw →
    raw ≤ x.closeFs →
    ∃ t, exec (.tdcStop p coarse k) s = .next t ∧ (t.chip.tdcPin p).opened = false ∧ (t.chip.tdcPin p).dead = true ∧
      (t.chip.tdcPin p).conv = some ((raw : Int), decide (raw < 500 * (x.lsb + 1))) ∧
      t.chip.ledger (tdcLed p 1) = s.chip.ledger (tdcLed p 1) + 1 ∧
      t.chip.ledger (tdcLed p 4) = s.chip.ledger (tdcLed p 4) - 1) ∧
  (∀ (s : State) (p : Pin) (coarse k : Nat),
    let x := s.chip.tdcPin p
    s.chip.tdcStopLive p = true → x.dead = false → x.opened = true →
    x.started = false ∨ coarse * 62500 + s.chip.fine p x.lsb k < x.openFs →
    let now := x.refAt * 62500 + (coarse * 62500 + s.chip.fine p x.lsb k)
    ((∀ m, x.earlyAt = some m → m + 500000 ≤ now ∨ now + 500000 ≤ m) →
      ∃ t, exec (.tdcStop p coarse k) s = .next t ∧
        t.chip.tdcPin p = { x with early := x.early + 1, earlyAt := some now } ∧
        t.chip.ledger (tdcLed p 0) = s.chip.ledger (tdcLed p 0) + 1 ∧
        t.chip.ledger (tdcLed p 3) = s.chip.ledger (tdcLed p 3) + 1 ∧
        t.chip.ledger (tdcLed p 4) = s.chip.ledger (tdcLed p 4)) ∧
    (∀ m, x.earlyAt = some m → now < m + 500000 → m < now + 500000 → ∃ t, exec (.tdcStop p coarse k) s = .next t ∧
      t = s)) ∧
  (∀ (s : State) (p : Pin) (coarse k : Nat),
    let x := s.chip.tdcPin p
    let raw := coarse * 62500 + s.chip.fine p x.lsb k
    s.chip.tdcStopLive p = true → x.dead = false → x.opened = true → x.started = true → x.openFs ≤ raw →
    x.closeFs < raw →
    ∃ t, exec (.tdcStop p coarse k) s = .next t ∧ (t.chip.tdcPin p).opened = false ∧
      t.chip.ledger (tdcLed p 2) = s.chip.ledger (tdcLed p 2) + 1 ∧
      t.chip.ledger (tdcLed p 4) = s.chip.ledger (tdcLed p 4) - 1 ∧ t.chip.reg64 (tdcB p + 8) = 2 ^ 62) ∧
  (∀ (s : State) (p : Pin) (u : Fin 64) (coarse k : Nat),
    (s.chip.tdcStartLive p u = false → ∃ t, exec (.tdcStart ⟨p, u⟩) s = .next t ∧ t = s) ∧
    (s.chip.tdcStopLive p = false → ∃ t, exec (.tdcStop p coarse k) s = .next t ∧ t = s)) ∧
  (∀ (s : State) (p : Pin), (s.chip.tdcPin p).opened = true → (s.chip.tdcPin p).started = true →
    ∃ t, exec (.tdcWindowClose p) s = .next t ∧ (t.chip.tdcPin p).opened = false ∧
      t.chip.ledger (tdcLed p 2) = s.chip.ledger (tdcLed p 2) + 1 ∧
      t.chip.ledger (tdcLed p 4) = s.chip.ledger (tdcLed p 4) - 1 ∧ t.chip.reg64 (tdcB p + 8) = 2 ^ 62) ∧
  (∀ (s : State) (p : Pin) (raw : Int) (atRes : Bool),
    let x := s.chip.tdcPin p
    let res : Int := if atRes then 0 else raw - s.chip.tdcZero p x.startSrc x.stopSrc
    (s.chip.tdcPin p).conv = some (raw, atRes) → x.acc.count < 2 ^ 32 →
    ∃ t, exec (.tdcResult p) s = .next t ∧ (t.chip.tdcPin p).conv = none ∧
      (t.chip.tdcPin p).acc.count = x.acc.count + 1 ∧
      (t.chip.tdcPin p).acc.sum = x.acc.sum + res ∧ (t.chip.tdcPin p).acc.sumsq = x.acc.sumsq + (res * res).toNat ∧
      (t.chip.tdcPin p).acc.atRes = (x.acc.atRes || atRes) ∧
      t.chip.reg64 (tdcB p + 8) = b2n atRes * 2 ^ 61 + codeOf 48 res) ∧
  (∀ (s : State) (p : Pin), (s.chip.tdcPin p).conv = none → ∃ t, exec (.tdcResult p) s = .next t ∧ t = s) ∧
  (∀ (s : State) (p : Pin),
    let x := s.chip.tdcPin p
    x.dead = true → x.conv = none → x.armed = true →
    ∃ t, exec (.tdcDeadTimeEnd p) s = .next t ∧
      t.chip.tdcPin p =
        { x with dead := false, opened := true, started := false, refAt := s.chip.tm, earlyAt := none } ∧
      t.chip.ledger (tdcLed p 0) = s.chip.ledger (tdcLed p 0) + 1 ∧
      t.chip.ledger (tdcLed p 4) = s.chip.ledger (tdcLed p 4) + 1) ∧
  (∀ (s : State) (q : Port) (tag : Byte) (v : Word), s.chip.writable q tag → bitOf v.toNat 0 = true →
    s.chip.tdc.busy = none →
    bitOf v.toNat 1 = false ∨ s.chip.tdcMask.any (fun p => s.chip.unitOwned (·.tdcPins) p) = false →
    ∃ t, exec (.tdcSnapGo q tag v) s = .next t ∧ t.chip.completed q tag 0 ∧
      t.chip.tdc.busy = some
        { seq := s.chip.lastSeq, byGo := true, copies := s.chip.tdcMask.map (fun p => (p, (s.chip.tdcPin p).acc)) } ∧
      (bitOf v.toNat 1 = true → ∀ p ∈ s.chip.tdcMask, (t.chip.tdcPin p).acc = {}) ∧
      (bitOf v.toNat 1 = false → t.chip.tdc.pins = s.chip.tdc.pins)) ∧
  (∀ (s : State) (q : Port) (tag : Byte) (v : Word), s.chip.writable q tag → bitOf v.toNat 0 = true →
    s.chip.tdc.busy ≠ none →
    ∃ t, exec (.tdcSnapGo q tag v) s = .next t ∧ t.chip.completed q tag 1 ∧ t.chip.tdc = s.chip.tdc) ∧
  (∀ (s : State) (sn : TdcSnap), s.chip.tdc.busy = some sn → sn.done = false →
    ∃ t, exec .tdcSnapDone s = .next t ∧ t.chip.tdc.busy = some { sn with done := true } ∧
      t.chip.waitsTo (srcOf 15 56) 0x8031 .tdcResults ∧ t.chip.regs = s.chip.regs) ∧
  (∀ s : State, s.chip.tdc.busy = none → ∃ t, exec .tdcSnapDone s = .next t ∧ t = s) ∧
  (∀ (s : State) (n : Nat) (e : Event) (es : List Event) (sn : TdcSnap), s.chip.front n e es →
    e.acts = [.tdcResults] →
    e.err = none → s.chip.tdc.busy = some sn → sn.done = true → s.chip.tdc.waiting = [] →
      (sn.copies.map (·.1)).Nodup →
    ∃ t, exec .eventAccept s = .next t ∧ t.chip.tdc.busy = none ∧
      (∀ e ∈ sn.copies, t.chip.reg64 (tdcB e.1 + 0x40) = e.2.count % 2 ^ 64 ∧
        t.chip.reg64 (tdcB e.1 + 0x48) = codeOf 64 e.2.mean ∧ t.chip.reg64 (tdcB e.1 + 0x68) = sn.seq % 2 ^ 64) ∧
      (sn.byGo = true → t.chip.reg64 0x00220018 = sn.seq % 2 ^ 64))

/-! ### Parametric monitor (R232 to R246) -/

/-- Samples and launches (R232 to R235, R238, R241 to R243): a sample of a running sequence is CONVERTED and waits; a
sequence that is to stop does so at the end of its conversion, which may complete a sample (R240); judged, a sample
joins its unit's accumulator, or is discarded as settling, or excluded as suspect; crossings, each of which needs the
hysteresis to have been passed since the one before, and timers launch their plan, but not on a converter that is BUSY;
the last sample judged, the sequence ends. Where the rules leave a point open, the model's choice stands (log entries
25, 27). -/
def Obligations.AdcSequences : Prop :=
  (∀ (s : State) (k : Conv) (v1 v2 v3 : List Int) (r : AdcRun),
    let volts := v1 ++ v2 ++ v3
    let e := adcEntry r.plan r.entry
    let n := 2 ^ entOsr e - r.made
    let hist := (((volts.take n).reverse.map (adcConvert e)) ++ (s.chip.conv k).hist).take 3072
    let y := adcCode (entDiff e) (adcFlag r.plan 0) (entOsr e) hist
    (s.chip.conv k).run = some r → r.stopping = false → r.entry < adcLen r.plan → r.made < 2 ^ entOsr e →
    n ≤ volts.length →
    ∃ t, exec (.adcSample k v1 v2 v3) s = .next t ∧
      (∃ x : Samp, (t.chip.conv k).samples = (s.chip.conv k).samples ++ [x] ∧ x.unit = entUnit e ∧
        x.value = y.1 ∧ x.ovr = y.2.isSome ∧ (r.disc ≠ 0 → x.kind = 1) ∧ (r.disc = 0 → y.2 ≠ none → x.kind = 0)) ∧
      (∃ z, (t.chip.conv k).run = some z ∧ z.clock = r.clock + 100 * n ∧ z.made = 0 ∧
        (r.disc ≠ 0 → z.disc = r.disc - 1 ∧ z.entry = r.entry ∧ z.taken = r.taken)) ∧
      t.chip.ledger (convLed k 0) = s.chip.ledger (convLed k 0) + 1 ∧
      t.chip.ledger (convLed k 4) = s.chip.ledger (convLed k 4) + 1) ∧
  (∀ (s : State) (k : Conv) (v1 v2 v3 : List Int) (r : AdcRun),
    let volts := v1 ++ v2 ++ v3
    (s.chip.conv k).run = some r → r.stopping = false → r.entry < adcLen r.plan →
    r.made + volts.length < 2 ^ entOsr (adcEntry r.plan r.entry) →
    ∃ t, exec (.adcSample k v1 v2 v3) s = .next t ∧ (t.chip.conv k).samples = (s.chip.conv k).samples ∧
      (t.chip.conv k).run = some { r with made := r.made + volts.length, clock := r.clock + 100 * volts.length } ∧
      t.chip.ledger (convLed k 0) = s.chip.ledger (convLed k 0) ∧
      t.chip.ledger (convLed k 4) = s.chip.ledger (convLed k 4)) ∧
  (∀ (s : State) (k : Conv) (v1 v2 v3 : List Int) (r : AdcRun),
    let e := adcEntry r.plan r.entry
    (s.chip.conv k).run = some r → r.stopping = true → r.entry < adcLen r.plan → r.made < 2 ^ entOsr e →
    v1 ++ v2 ++ v3 ≠ [] →
    ∃ t, exec (.adcSample k v1 v2 v3) s = .next t ∧ (t.chip.conv k).run = none ∧
      (t.chip.conv k).hist = (adcConvert e ((v1 ++ v2 ++ v3).headD 0) :: (s.chip.conv k).hist).take 3072 ∧
      (r.made + 1 < 2 ^ entOsr e → (t.chip.conv k).samples = (s.chip.conv k).samples) ∧
      (r.made + 1 = 2 ^ entOsr e → ∃ x : Samp, (t.chip.conv k).samples = (s.chip.conv k).samples ++ [x] ∧
        x.unit = entUnit e ∧
        x.value = (adcCode (entDiff e) (adcFlag r.plan 0) (entOsr e) (t.chip.conv k).hist).1)) ∧
  (∀ (s : State) (k : Conv) (v1 v2 v3 : List Int),
    (∀ r, (s.chip.conv k).run = some r → adcLen r.plan ≤ r.entry) →
    ∃ t, exec (.adcSample k v1 v2 v3) s = .next t ∧ t = s) ∧
  (∀ (s : State) (k : Conv) (x : Samp) (xs : List Samp),
    let a := s.chip.acc x.unit
    (s.chip.conv k).samples = x :: xs →
    ∃ t, exec (.adcSampleJudged k) s = .next t ∧ (t.chip.conv k).samples = xs ∧
      t.chip.ledger (convLed k 4) = s.chip.ledger (convLed k 4) - 1 ∧
      (x.kind = 1 → t.chip.acc x.unit = { a with discard := min (a.discard + 1) 0xFFFFFFFF, settled := false } ∧
        t.chip.ledger (convLed k 2) = s.chip.ledger (convLed k 2) + 1) ∧
      (x.kind = 2 → t.chip.acc x.unit = { a with exclude := min (a.exclude + 1) 0xFFFFFFFF } ∧
        s.chip.counted t.chip (convB k + 0x4C) ∧ t.chip.ledger (convLed k 3) = s.chip.ledger (convLed k 3) + 1) ∧
      (x.kind = 0 → a.count < 2 ^ 31 → (t.chip.acc x.unit).sum = a.sum + x.value ∧
        (t.chip.acc x.unit).count = a.count + 1 ∧ (t.chip.acc x.unit).settled = true ∧
        t.chip.ledger (convLed k 1) = s.chip.ledger (convLed k 1) + 1 ∧
        (x.ovr = true → t.chip.waits (srcConv k) 0x8042)) ∧
      (x.kind = 0 → 2 ^ 31 ≤ a.count → (t.chip.acc x.unit).full = true ∧ (t.chip.acc x.unit).sum = a.sum ∧
        t.chip.ledger (convLed k 3) = s.chip.ledger (convLed k 3) + 1) ∧
      ∀ u, u ≠ x.unit → t.chip.acc u = s.chip.acc u) ∧
  (∀ (s : State) (x : Fin 16) (v : Int),
    let a := s.chip.xcmp x
    let p := a.watch
    let thr := xcmpThresh p
    let hyst : Int := planByte p 0x0A % 64
    let rises := bitOf (adcEdge p) 0 = true ∧ a.low = true ∧ 0 < xcmpAgainst p v thr
    let falls := bitOf (adcEdge p) 1 = true ∧ a.high = true ∧ xcmpAgainst p v thr < 0
    p ≠ [] →
    (rises ∨ falls →
      ∃ t, exec (.xcmpCrossing x v) s = .next t ∧ s.chip.counted t.chip (0x00230604 + 16 * x) ∧
        (rises → (t.chip.xcmp x).above = true ∧ (t.chip.xcmp x).low = decide (xcmpAgainst p v (thr - hyst) < 0)) ∧
        (falls → (t.chip.xcmp x).above = false ∧ (t.chip.xcmp x).high = decide (0 < xcmpAgainst p v (thr + hyst))) ∧
        (a.armed = none → t.chip.adc.conv = s.chip.adc.conv) ∧
        ∀ b i task, a.armed = some (b, i, task) →
          (s.chip.adcBusy (adcConvOf b) = false → (t.chip.conv (adcConvOf b)).run.any (fun r => r.plan == b) = true) ∧
          (s.chip.adcBusy (adcConvOf b) = true → t.chip.adc.conv = s.chip.adc.conv ∧
            s.chip.counted t.chip (convB (adcConvOf b) + 0x48) ∧ t.chip.waits (srcConv (adcConvOf b)) 0x8041) ∧
          (adcLimit b ≠ 0 → a.left ≤ 1 → (t.chip.xcmp x).armed = none)) ∧
    (¬ (rises ∨ falls) →
      ∃ t, exec (.xcmpCrossing x v) s = .next t ∧ (t.chip.xcmp x).armed = a.armed ∧ (t.chip.xcmp x).left = a.left ∧
        t.chip.adc.conv = s.chip.adc.conv ∧ t.chip.regs = s.chip.regs)) ∧
  (∀ (s : State) (x : Fin 16) (v : Int), (s.chip.xcmp x).watch = [] →
    ∃ t, exec (.xcmpCrossing x v) s = .next t ∧ t = s) ∧
  (∀ (s : State) (k : Conv) (p : List Byte) (i due : Nat) (task : Option Nat),
    (s.chip.conv k).timer = some (p, i, task, due) →
    ∃ t, exec (.adcTimer k) s = .next t ∧ (t.chip.conv k).timer = some (p, i, task, due + 100 * adcLimit p) ∧
      ((s.chip.conv (adcConvOf p)).run = none → (s.chip.conv (adcConvOf p)).ending = false →
        (t.chip.conv (adcConvOf p)).run.any (fun r => r.plan == p) = true) ∧
      (((s.chip.conv (adcConvOf p)).run.any (fun r => !r.stopping)) = true ∨ (s.chip.conv (adcConvOf p)).ending = true →
        (t.chip.conv (adcConvOf p)).run = (s.chip.conv (adcConvOf p)).run ∧
        s.chip.counted t.chip (convB (adcConvOf p) + 0x48) ∧ t.chip.waits (srcConv (adcConvOf p)) 0x8041)) ∧
  (∀ (s : State) (k : Conv) (r : AdcRun), (s.chip.conv k).run = some r → adcLen r.plan ≤ r.entry →
    ∃ t, exec (.adcSequenceEnd k) s = .next t ∧ (t.chip.conv k).run = none ∧
      (adcFlag r.plan 1 = true → t.chip.waitsTo (srcConv k) 0x8040 (.adcDone k)) ∧
      (adcFlag r.plan 5 = true → s.chip.adc.snap = none → t.chip.waitsTo (srcOf 14 8) 0x8043 .adcResults) ∧
      (adcFlag r.plan 5 = true → s.chip.adc.snap ≠ none →
        t.chip.adc.snapWait = s.chip.adc.snapWait ++ [adcUnits r.plan])) ∧
  (∀ (s : State) (k : Conv) (r : AdcRun), (s.chip.conv k).run = some r → r.entry < adcLen r.plan →
    ∃ t, exec (.adcSequenceEnd k) s = .next t ∧ t = s)

/-- Writes of the parametric monitor (R231, R237 to R240, R244, R246): LAUNCH and ARM of a legal plan whose units are
the driver's, DISARM, a snapshot, its clear and its results, ADC_MUXSEL; a unit that a task owns is STATE_CONFLICT, a
plan that breaks R237 GUARD_REJECT. Where the rules leave a point open, the model's choice stands (log entries 11,
26). -/
def Obligations.AdcWrites : Prop :=
  (∀ (s : State) (q : Port) (tag : Byte) (k : Conv),
    let p := s.chip.rplan k
    s.chip.writable q tag → s.chip.convOwned k = false → s.chip.planOwned p = false → adcPlanOk p = true →
    adcKind p = 0 → s.chip.agreed 10 = true →
    ∃ t, exec (.adcLaunch q tag k 1) s = .next t ∧ t.chip.completed q tag 0 ∧
      (s.chip.adcBusy (adcConvOf p) = false →
        ∃ r, (t.chip.conv (adcConvOf p)).run = some r ∧ r.plan = p ∧ r.src = 3 ∧ r.task = none ∧ r.entry = 0) ∧
      (s.chip.adcBusy (adcConvOf p) = true → t.chip.adc = s.chip.adc ∧
        s.chip.counted t.chip (convB (adcConvOf p) + 0x48) ∧ t.chip.waits (srcConv (adcConvOf p)) 0x8041)) ∧
  (∀ (s : State) (q : Port) (tag : Byte) (k : Conv),
    let p := s.chip.rplan k
    s.chip.writable q tag → s.chip.convOwned k = false → s.chip.planOwned p = false → adcPlanOk p = true →
    s.chip.agreed 10 = true →
    (adcKind p = 1 → ∃ t, exec (.adcArm q tag k 2) s = .next t ∧ t.chip.completed q tag 0 ∧
      (t.chip.xcmp (adcCmp p)).armed = some (p, 0, none) ∧ (t.chip.xcmp (adcCmp p)).left = adcLimit p) ∧
    (adcKind p = 2 → ∃ t, exec (.adcArm q tag k 2) s = .next t ∧ t.chip.completed q tag 0 ∧
      (t.chip.conv (adcConvOf p)).timer = some (p, 0, none, s.chip.frc + 100 * adcLimit p) ∧
      (s.chip.adcBusy (adcConvOf p) = false →
        (t.chip.conv (adcConvOf p)).run.any (fun r => r.plan == p) = true))) ∧
  (∀ (s : State) (q : Port) (tag : Byte) (k : Conv), s.chip.writable q tag → s.chip.convOwned k = false →
    ∃ t, exec (.adcDisarm q tag k 4) s = .next t ∧ t.chip.completed q tag 0 ∧ (t.chip.conv k).timer = none ∧
      (t.chip.conv k).run = (s.chip.conv k).run ∧
      ∀ (x : Fin 16) (p : List Byte) (i : Nat), (s.chip.xcmp x).armed = some (p, i, none) → adcConvOf p = k →
        (t.chip.xcmp x).armed = none) ∧
  (∀ (s : State) (q : Port) (tag : Byte) (k : Conv) (v : Word), s.chip.writable q tag → s.chip.convOwned k = true →
    (∃ t, exec (.adcLaunch q tag k v) s = .next t ∧ t.chip.completed q tag 1 ∧ t.chip.adc = s.chip.adc) ∧
    (∃ t, exec (.adcArm q tag k v) s = .next t ∧ t.chip.completed q tag 1 ∧ t.chip.adc = s.chip.adc) ∧
    ∃ t, exec (.adcDisarm q tag k v) s = .next t ∧ t.chip.completed q tag 1 ∧ t.chip.adc = s.chip.adc) ∧
  (∀ (s : State) (q : Port) (tag : Byte) (k : Conv), s.chip.writable q tag → s.chip.convOwned k = false →
    s.chip.planOwned (s.chip.rplan k) = false → adcPlanOk (s.chip.rplan k) = false →
    ∃ t, exec (.adcLaunch q tag k 1) s = .next t ∧ t.chip.completed q tag 6 ∧ t.chip.adc = s.chip.adc) ∧
  (∀ (s : State) (q : Port) (tag : Byte) (v : Word),
    let us := bitsIn (s.chip.reg64 0x00230008) 64
    s.chip.writable q tag → bitOf v.toNat 0 = true → s.chip.adc.snap = none →
    bitOf v.toNat 1 = false ∨ us.any (fun u => s.chip.unitOwned (·.adcAcc) u) = false →
    ∃ t, exec (.adcSnapGo q tag v) s = .next t ∧ t.chip.completed q tag 0 ∧
      t.chip.waitsTo (srcOf 14 8) 0x8043 .adcResults ∧
      t.chip.adc.snap = some (s.chip.lastSeq, us.map (fun u => (u, s.chip.acc u))) ∧
      t.chip.reg64 0x00230018 = s.chip.lastSeq % 2 ^ 64 ∧
      (∀ u ∈ us, t.chip.reg64 (0x00231000 + 0x40 * u) = codeOf 64 (s.chip.acc u).sum ∧
        t.chip.reg (0x00231000 + 0x40 * u + 8) = BitVec.ofNat 32 (s.chip.acc u).count ∧
        t.chip.reg64 (0x00231000 + 0x40 * u + 0x30) = s.chip.lastSeq % 2 ^ 64) ∧
      ∀ u ∈ us, t.chip.acc u = (if bitOf v.toNat 1 then (s.chip.acc u).clear else s.chip.acc u)) ∧
  (∀ (s : State) (q : Port) (tag : Byte) (v : Word), s.chip.writable q tag → bitOf v.toNat 0 = true →
    s.chip.adc.snap ≠ none →
    ∃ t, exec (.adcSnapGo q tag v) s = .next t ∧ t.chip.completed q tag 1 ∧ t.chip.adc = s.chip.adc) ∧
  (∀ (s : State) (n : Nat) (e : Event) (es : List Event) (sq : Nat) (us : List (Nat × Acc)), s.chip.front n e es →
    e.acts = [.adcResults] → e.err = none → s.chip.adc.snap = some (sq, us) → s.chip.adc.snapWait = [] →
    ∃ t, exec .eventAccept s = .next t ∧ t.chip.adc.snap = none ∧ ∀ u, t.chip.acc u = s.chip.acc u) ∧
  (∀ (s : State) (q : Port) (tag : Byte) (v : Word), s.chip.writable q tag →
    (List.range 4).any (fun k => s.chip.convOwned k) = false →
    (bitsOf v.toNat 27 24 < 12 → bitsOf v.toNat 20 16 < 24 → bitsOf v.toNat 20 16 < 5 ∨ 7 < bitsOf v.toNat 20 16 →
      bitsOf v.toNat 2 0 < 6 →
      ∃ t, exec (.adcMuxselWrite q tag v) s = .next t ∧ t.chip.completed q tag 0 ∧
        t.chip.reg 0x00230000 = v &&& 0xFF1F0007) ∧
    (12 ≤ bitsOf v.toNat 27 24 ∨ 5 ≤ bitsOf v.toNat 20 16 ∧ bitsOf v.toNat 20 16 ≤ 7 ∨ 24 ≤ bitsOf v.toNat 20 16 ∨
        6 ≤ bitsOf v.toNat 2 0 →
      ∃ t, exec (.adcMuxselWrite q tag v) s = .next t ∧ t.chip.completed q tag 6 ∧
        t.chip.reg 0x00230000 = s.chip.reg 0x00230000 ∧ t.chip.adc = s.chip.adc)) ∧
  (∀ (s : State) (q : Port) (tag : Byte) (v : Word), s.chip.writable q tag →
    (List.range 4).any (fun k => s.chip.convOwned k) = true →
    ∃ t, exec (.adcMuxselWrite q tag v) s = .next t ∧ t.chip.completed q tag 1 ∧
      t.chip.reg 0x00230000 = s.chip.reg 0x00230000 ∧ t.chip.adc = s.chip.adc)

/-! ### Check values (R249 to R257) -/

/-- Check-value units (R249 to R257): INIT starts the CRC anew, data words and bytes enter it, DMA_GO and CRC_DONE run
it over LPDDR5X bytes, though not during a retrain (R285), CRC_MODE is written before NEGOTIATE_COMMIT only, and in
context mode an idle unit's RUN and BITS can be restored. Where the rules leave a point open, the model's choice
stands (log entries 10, 29). -/
def Obligations.CheckValues : Prop :=
  (∀ (s : State) (q : Port) (tag : Byte) (u : Fin 32),
    let i := s.chip.reg64 (crcB u + 0x10) % 2 ^ s.chip.crcWidth u
    s.chip.writable q tag → s.chip.crcExists u = true → s.chip.crcIdle u = true →
    ∃ t, exec (.crcInit q tag u 1) s = .next t ∧ t.chip.completed q tag 0 ∧ t.chip.reg64 (crcB u + 0x50) = 0 ∧
      t.chip.reg64 (crcB u + 0x40) = (if s.chip.crcReflect u then revBits (s.chip.crcWidth u) i else i)) ∧
  (∀ (s : State) (q : Port) (tag : Byte) (u : Fin 32) (v : Word), s.chip.writable q tag → s.chip.crcExists u = true →
    s.chip.crcOwned u = false → s.chip.crcSrc u = 5 →
    let bs (n : Nat) : List Bool := (toLe n v.toNat).flatMap (byteBits (s.chip.crcReflect u))
    let run (n : Nat) : Nat :=
      (bs n).foldl (crcStep (s.chip.crcWidth u) (s.chip.reg64 (crcB u + 8)) (s.chip.crcReflect u))
        (s.chip.reg64 (crcB u + 0x40) % 2 ^ s.chip.crcWidth u)
    (∃ t, exec (.crcData32 q tag u v) s = .next t ∧ t.chip.completed q tag 0 ∧ t.chip.reg64 (crcB u + 0x40) = run 4 ∧
      t.chip.reg64 (crcB u + 0x50) = (s.chip.reg64 (crcB u + 0x50) + 32) % 2 ^ 64) ∧
    ∃ t, exec (.crcData8 q tag u v) s = .next t ∧ t.chip.completed q tag 0 ∧ t.chip.reg64 (crcB u + 0x40) = run 1 ∧
      t.chip.reg64 (crcB u + 0x50) = (s.chip.reg64 (crcB u + 0x50) + 8) % 2 ^ 64) ∧
  (∀ (s : State) (q : Port) (tag : Byte) (u : Fin 32) (v : Word), s.chip.writable q tag → s.chip.crcExists u = true →
    s.chip.crcOwned u = true ∨ s.chip.crcSrc u ≠ 5 →
    (∃ t, exec (.crcData32 q tag u v) s = .next t ∧ t.chip.completed q tag 1 ∧
      ∀ a, a ≠ 0x00010024 → t.chip.reg a = s.chip.reg a) ∧
    ∃ t, exec (.crcData8 q tag u v) s = .next t ∧ t.chip.completed q tag 1 ∧
      ∀ a, a ≠ 0x00010024 → t.chip.reg a = s.chip.reg a) ∧
  (∀ (s : State) (q : Port) (tag : Byte) (u : Fin 32),
    let a := s.chip.reg64 (crcB u + 0x28)
    let n := (s.chip.reg (crcB u + 0x30)).toNat
    s.chip.writable q tag → s.chip.crcExists u = true → s.chip.crcOwned u = false → s.chip.crcBusy u = false →
    s.chip.crcSrc u = 4 →
    (n ≠ 0 → a + n ≤ s.chip.memBytes → s.chip.retraining = true →
      ∃ t, exec (.crcDmaGo q tag u 2) s = .next t ∧ t.chip.completed q tag 9 ∧ t.chip.crcBusy u = false ∧
        t.chip.mem = s.chip.mem) ∧
    (n ≠ 0 → a + n ≤ s.chip.memBytes → s.chip.retraining = false →
      ∃ t, exec (.crcDmaGo q tag u 2) s = .next t ∧ t.chip.completed q tag 0 ∧ t.chip.crcBusy u = true ∧
        (t.chip.memCh (chanOf a)).host = (s.chip.memCh (chanOf a)).host ++
          [{ addr := a / 128 * 128, who := .dma u (a / 128) }]) ∧
    (n = 0 ∨ s.chip.memBytes < a + n →
      ∃ t, exec (.crcDmaGo q tag u 2) s = .next t ∧ t.chip.completed q tag 6 ∧ t.chip.crcBusy u = false ∧
        t.chip.mem = s.chip.mem)) ∧
  (∀ (s : State) (u : Fin 32) (unc : Option Nat) (x : CrcDma) (bad : Bool) (bs : List Byte),
    s.chip.crcDma.find? (fun e => e.1 = u.val) = some (u.val, x) → x.fin = some (bad, bs) →
    ∃ t, exec (.crcDone u unc) s = .next t ∧ t.chip.crcBusy u = false ∧ t.chip.waits (srcOf 15 (18 + u)) 0x8050 ∧
      t.dram = s.dram ∧
      t.chip.field (crcB u + 0x24) 29 29 = (if bad then 1 else s.chip.field (crcB u + 0x24) 29 29) ∧
      t.chip.reg64 (crcB u + 0x40) = (if bs = [] then s.chip.reg64 (crcB u + 0x40) else
        (bs.flatMap (byteBits (s.chip.crcReflect u))).foldl
          (crcStep (s.chip.crcWidth u) (s.chip.reg64 (crcB u + 8)) (s.chip.crcReflect u))
          (s.chip.reg64 (crcB u + 0x40) % 2 ^ s.chip.crcWidth u))) ∧
  (∀ (s : State) (u : Fin 32) (unc : Option Nat), s.chip.crcDmaEnds u = false → s.chip.tableRuns = false →
    ∃ t, exec (.crcDone u unc) s = .next t ∧ t = s) ∧
  (∀ (s : State) (ch : Chan) (u : Fin 32) (j : Nat) (x : CrcDma) (r : Req) (bs : List Byte)
    (rest : List (Req × List Byte)),
    (s.chip.memCh ch).reads = (r, bs) :: rest → r.who = .dma u j →
    s.chip.crcDma.find? (fun e => e.1 = u.val) = some (u.val, x) → x.left ≤ 128 - x.addr % 128 →
    ∃ t, exec (.memReadData ch .good) s = .next t ∧ t.chip.regs = s.chip.regs ∧ t.chip.crcBusy u = true ∧
      t.chip.crcDma.find? (fun e => e.1 = u.val) =
        some (u.val, { x with fin := some (false, (bs.drop (x.addr % 128)).take x.left) })) ∧
  (∀ (s : State) (q : Port) (tag : Byte) (v : Word), s.chip.takes q tag →
    (s.chip.dev.committed = false →
      ∃ t, exec (.crcModeWrite q tag v) s = .next t ∧ t.chip.completed q tag 0 ∧
        t.chip.reg 0x00240000 = BitVec.ofNat 32 (v.toNat % 2) ∧ ∀ a, a ≠ 0x00240000 → t.chip.reg a = s.chip.reg a) ∧
    (s.chip.dev.committed = true →
      ∃ t, exec (.crcModeWrite q tag v) s = .next t ∧ t.chip.completed q tag 1 ∧
        t.chip.reg 0x00240000 = s.chip.reg 0x00240000)) ∧
  (∀ (s : State) (q : Port) (tag : Byte) (u : Fin 32) (bits : Bool) (v : Dword), s.chip.writable q tag →
    s.chip.crcExists u = true →
    (s.chip.crcCtx = true → s.chip.crcIdle u = true →
      ∃ t, exec (.crcRestore q tag u bits v) s = .next t ∧ t.chip.completed q tag 0 ∧
        t.chip.reg64 (crcB u + (if bits then 0x50 else 0x40)) = v.toNat) ∧
    (s.chip.crcCtx = false ∨ s.chip.crcIdle u = false →
      ∃ t, exec (.crcRestore q tag u bits v) s = .next t ∧ t.chip.completed q tag 1 ∧
        ∀ a, a ≠ 0x00010024 → t.chip.reg a = s.chip.reg a))

/-! ### Sideband responders (R259 to R267) -/

/-- Sideband frames and registers (R10, R259 to R267): the edges of a frame, sampled as EDGE says, make a read, which
drives its table word bit by bit and latches its hit, or a write, which takes effect and is logged; an abort or a
time-out is counted and raised and releases the output; a bad clock window turns the responder off until four good
ones; a port that does not listen does nothing. The driver's writes change what they name unless a task owns the port
or the DUT's own access falls in the same core cycle. Where the rules leave a point open, the model's choice stands
(log entries 12, 36). -/
def Obligations.Sideband : Prop :=
  (∀ (s : State) (n : Fin 3) (bits : List Bool),
    let edges := (true :: true :: bits).map (fun b => (!bitOf (s.chip.reg (sbB n)).toNat 29, b))
    let e := s.chip.sbNat n (bits.take 8)
    s.chip.sbListens n = true → (s.chip.sbPort n).frame = none →
    (bits.length = 40 →
      ∃ t, exec (.sbRead n edges) s = .next t ∧ s.chip.counted t.chip (sbB n + 8) ∧
        (t.chip.sbPort n).frame = none ∧ (t.chip.sbPort n).out = none ∧
        bitOf (t.chip.reg (sbHit n e)).toNat (e % 32) = true ∧
        (∀ j, j < 32 → j ≠ e % 32 → bitOf (t.chip.reg (sbHit n e)).toNat j = bitOf (s.chip.reg (sbHit n e)).toNat j) ∧
        (∀ a, a ≠ sbB n + 8 → a ≠ sbHit n e → t.chip.reg a = s.chip.reg a) ∧
        t.dram = s.dram ∧ s.chip.hostSideKept t.chip) ∧
    (8 ≤ bits.length → bits.length < 40 →
      ∃ t, exec (.sbRead n edges) s = .next t ∧ (t.chip.sbPort n).frame.isSome = true ∧
        (t.chip.sbPort n).out = some (s.chip.sbOutBit n (s.chip.reg (sbTable n e)) (bits.length - 8)) ∧
        t.chip.regs = s.chip.regs)) ∧
  (∀ (s : State) (n : Fin 3) (bits : List Bool) (head data : List (Bool × Bool)),
    let edges := (true :: false :: bits).map (fun b => (!bitOf (s.chip.reg (sbB n)).toNat 29, b))
    let e := s.chip.sbNat n (bits.take 8)
    s.chip.sbListens n = true → (s.chip.sbPort n).frame = none → bits.length = 40 →
    head ++ data = edges →
    ∃ t, exec (.sbWrite n head data) s = .next t ∧ s.chip.counted t.chip (sbB n + 0xC) ∧
      (t.chip.sbPort n).frame = none ∧
      t.chip.reg (sbTable n e) = (if bitOf (s.chip.reg (sbB n)).toNat 28
        then BitVec.ofNat 32 (s.chip.sbNat n (bits.drop 8)) else s.chip.reg (sbTable n e)) ∧
      (∀ a, a ≠ sbB n + 0xC → a ≠ sbTable n e → t.chip.reg a = s.chip.reg a) ∧
      t.chip.ledger (morLed 4) = s.chip.ledger (morLed 4) + 1 ∧ t.dram = s.dram ∧ s.chip.hostSideKept t.chip) ∧
  (∀ (s : State) (n : Fin 3) (f : SbFrame), (s.chip.sbPort n).frame = some f →
    (∃ t, exec (.sbAbort n) s = .next t ∧ s.chip.counted t.chip (sbB n + 0x10) ∧ t.chip.waits (srcSb n) 0x8060 ∧
      (t.chip.sbPort n).frame = none ∧ (t.chip.sbPort n).out = none ∧
      ∀ a, a ≠ sbB n + 0x10 → t.chip.reg a = s.chip.reg a) ∧
    (s.chip.clocked = true →
      ∃ t, exec (.sbFrameTimeout n) s = .next t ∧ s.chip.counted t.chip (sbB n + 0x10) ∧
        t.chip.waits (srcSb n) 0x8060 ∧ (t.chip.sbPort n).frame = none ∧ (t.chip.sbPort n).out = none ∧
        ∀ a, a ≠ sbB n + 0x10 → a / 0x10000 ≠ 0x20 → t.chip.reg a = s.chip.reg a)) ∧
  (∀ (s : State) (n : Fin 3) (edges data : List (Bool × Bool)),
    (s.chip.sbListens n = false →
      (∃ t, exec (.sbRead n edges) s = .next t ∧ t = s) ∧ ∃ t, exec (.sbWrite n edges data) s = .next t ∧ t = s) ∧
    ((s.chip.sbPort n).frame = none →
      (∃ t, exec (.sbAbort n) s = .next t ∧ t = s) ∧ ∃ t, exec (.sbFrameTimeout n) s = .next t ∧ t = s)) ∧
  (∀ (s : State) (n : Fin 3) (khz ph : Nat), khz < 9800 ∨ 816000 < khz ∨ ph < 500 →
    ∃ t, exec (.sbClockWindow n khz ph) s = .next t ∧ t.chip.field (sbB n + 4) 31 31 = 0 ∧
      t.chip.field (sbB n + 4) 29 29 = 1 ∧ t.chip.field (sbB n + 4) 9 0 = min (khz / 1000) 1023 ∧
      s.chip.counted t.chip (sbB n + 0x10) ∧ t.chip.waits (srcSb n) 0x030E ∧ t.chip.sbListens n = false ∧
      (t.chip.sbPort n).frame = none ∧ (t.chip.sbPort n).out = none) ∧
  (∀ (s : State) (n : Fin 3) (khz ph : Nat), 9800 ≤ khz → khz ≤ 816000 → 500 ≤ ph →
    let p := tabGet {} s.chip.sb n
    ∃ t, exec (.sbClockWindow n khz ph) s = .next t ∧
      (p.faulted = false ∨ 3 ≤ p.good →
        t.chip.field (sbB n + 4) 31 31 = 1 ∧ (tabGet {} t.chip.sb n).faulted = false) ∧
      (p.faulted = true → p.good < 3 → t.chip.sbListens n = false ∧ (tabGet {} t.chip.sb n).good = p.good + 1)) ∧
  (∀ (s : State) (q : Port) (tag : Byte) (n : Fin 3) (v : Word), s.chip.writable q tag → s.chip.sbOwned n = false →
    bitOf (s.chip.reg (sbB n)).toNat 31 = true → 2 ≤ v.toNat % 256 →
    (v &&& 0xF87F00FF).toNat = (s.chip.reg (sbB n)).toNat - 2 ^ 31 →
    ∃ t, exec (.sbrDisable q tag n v) s = .next t ∧ t.chip.completed q tag 0 ∧ t.chip.reg (sbB n) = v &&& 0xF87F00FF ∧
      t.chip.sbListens n = false ∧ (t.chip.sbPort n).frame = none ∧
      ((s.chip.sbPort n).frame ≠ none → s.chip.counted t.chip (sbB n + 0x10) ∧ t.chip.waits (srcSb n) 0x8060)) ∧
  (∀ (s : State) (q : Port) (tag : Byte) (n : Fin 3) (i : Fin 8) (e : Byte) (v : Word), s.chip.writable q tag →
    s.chip.sbOwned n = false →
    (∃ t, exec (.sbrHitClear q tag n i v) s = .next t ∧ t.chip.completed q tag 0 ∧
      (∀ b, b < 32 → bitOf (t.chip.reg (sbB n + 0x20 + 4 * i)).toNat b =
        (bitOf (s.chip.reg (sbB n + 0x20 + 4 * i)).toNat b &&
          (!bitOf v.toNat b || s.chip.thisCycle (s.chip.sbPort n).readAt (32 * i + b)))) ∧
      ∀ a, a ≠ sbB n + 0x20 + 4 * i → t.chip.reg a = s.chip.reg a) ∧
    ∃ t, exec (.sbrTableWrite q tag n e v) s = .next t ∧ t.chip.completed q tag 0 ∧
      t.chip.reg (sbTable n e.toNat) =
        (if s.chip.thisCycle (s.chip.sbPort n).wroteAt e.toNat then s.chip.reg (sbTable n e.toNat) else v) ∧
      ∀ a, a ≠ sbTable n e.toNat → t.chip.reg a = s.chip.reg a) ∧
  (∀ (s : State) (q : Port) (tag : Byte) (n : Fin 3) (i : Fin 8) (e : Byte) (v : Word), s.chip.writable q tag →
    s.chip.sbOwned n = true →
    (∃ t, exec (.sbrDisable q tag n v) s = .next t ∧ t.chip.completed q tag 1 ∧
    t.chip.reg (sbB n) = s.chip.reg (sbB n)) ∧
    (∃ t, exec (.sbrHitClear q tag n i v) s = .next t ∧ t.chip.completed q tag 1 ∧
      t.chip.reg (sbB n + 0x20 + 4 * i) = s.chip.reg (sbB n + 0x20 + 4 * i)) ∧
    ∃ t, exec (.sbrTableWrite q tag n e v) s = .next t ∧ t.chip.completed q tag 1 ∧
      t.chip.reg (sbTable n e.toNat) = s.chip.reg (sbTable n e.toNat))

/-! ### Memory controller (R272 to R290) and counters (R389 to R391) -/

/-- Slots and read data (R18, R272 to R276, R283): the table moves one slot on every channel at once and counts it, one
channel's slot after another, each as stated; a REFpb that is due is issued after its pair's slots; a CAPTURE or HOST
slot with a write waiting for its bank writes exactly that request's bytes, a read takes the bytes that stand there, a
slot with nothing to issue, or with Q-DATA full, is counted unused; an uncorrectable access is read once more, then is
MEM_UNCORR. Where the rules leave a point open, the model's choice stands (log entries 15, 47). -/
def Obligations.MemorySlots : Prop :=
  (∀ (s : State) (ch : Chan) (mr4 : List (BitVec 5)) (od : List Byte), s.chip.tableRuns = false →
    ∃ t, exec (.memSlot ch mr4 od) s = .next t ∧ t = s) ∧
  (∀ (s : State) (ch : Chan) (mr4 : List (BitVec 5)) (od : List Byte), s.chip.tableRuns = true →
    ∃ t, exec (.memSlot ch mr4 od) s = .next t ∧
      (∀ k : Chan, (t.chip.memCh k).pos = ((s.chip.memCh k).pos + 1) % 4096 ∧
        t.chip.ledger (slotReg k 0) = s.chip.ledger (slotReg k 0) + 1) ∧
      (t.dram, t.chip) = (List.range 8).foldl (fun (x : Memory × Chip) i =>
        let k := (ch.val + i) % 8
        slotOf k ((mr4[i]?.map (·.toNat)).getD (x.2.lastMr4 k)) ((od[i]?.map (·.toNat)).getD (x.2.lastOdecc k)) x.1 x.2)
        (s.dram, s.chip)) ∧
  (∀ (c : Chip) (d : Memory) (ch : Chan) (mr4 od : Nat),
    let m := c.memCh ch
    let b := m.pos % 16
    let any : Req → Bool := fun _ => !c.dataFull ch
    let ref := m.refDue ≠ 0 ∧ (m.pos + 1) % 4096 % 16 = (m.refNext % 8 + 9) % 16
    let t := slotOf ch mr4 od d c
    let n := t.2.memCh ch
    n.pos = (m.pos + 1) % 4096 ∧ n.refDue = (if ref then m.refDue - 1 else m.refDue) ∧
      n.refNext = (if ref then (m.refNext + 1) % (8 * (c.field 0x00300000 29 29 + 1)) else m.refNext) ∧
      (∀ k : Chan, k ≠ ch → (t.2.memCh k).pos = (c.memCh k).pos) ∧
      (roundClass (m.pos / 16) = .maint ∨ roundClass (m.pos / 16) = .stream → t.1 = d) ∧
      (roundClass (m.pos / 16) = .maint → t.2.ledger (slotReg ch 4) = c.ledger (slotReg ch 4) + 1) ∧
      (roundClass (m.pos / 16) = .capture → ∀ r rest bs, takeReq any b m.capture = some (r, rest) → r.data = some bs →
        n.capture = rest ∧ t.2.ledger (slotReg ch 2) = c.ledger (slotReg ch 2) + 1 ∧
        (∀ i, i < bs.length → memRead t.1 (r.addr + i) = bs.getD i 0) ∧
        ∀ a, a < r.addr ∨ r.addr + bs.length ≤ a → memRead t.1 a = memRead d a) ∧
      (roundClass (m.pos / 16) = .capture → takeReq any b m.capture = none →
        t.1 = d ∧ t.2.ledger (slotReg ch 6) = c.ledger (slotReg ch 6) + 1) ∧
      (roundClass (m.pos / 16) = .host → takeReq any b m.host = none →
        t.1 = d ∧ t.2.ledger (slotReg ch 6) = c.ledger (slotReg ch 6) + 1) ∧
      (roundClass (m.pos / 16) = .host → ∀ r rest bs, takeReq any b m.host = some (r, rest) → r.data = some bs →
        n.host = rest ∧ t.2.ledger (slotReg ch 3) = c.ledger (slotReg ch 3) + 1 ∧
        (∀ i, i < bs.length → memRead t.1 (r.addr + i) = bs.getD i 0) ∧
        ∀ a, a < r.addr ∨ r.addr + bs.length ≤ a → memRead t.1 a = memRead d a) ∧
      (roundClass (m.pos / 16) = .host → ∀ r rest, takeReq any b m.host = some (r, rest) → r.data = none →
        t.1 = d ∧ n.host = rest ∧ n.reads = m.reads ++ [(r, memReadBytes d r.addr 128)])) ∧
  (∀ (s : State) (ch : Chan) (ecc : EccResult) (r : Req) (bs : List Byte) (rest : List (Req × List Byte)),
    (s.chip.memCh ch).reads = (r, bs) :: rest → s.chip.field 0x00300000 28 28 = 1 → ecc = .uncorrectable →
    r.retry = false →
    ∃ t, exec (.memReadData ch ecc) s = .next t ∧ (t.chip.memCh ch).reads = rest ∧
      s.chip.counted t.chip (0x00301060 + 0x100 * ch) ∧
      (r.who.streams = true → (t.chip.memCh ch).stream = { r with retry := true } :: (s.chip.memCh ch).stream) ∧
      (r.who.streams = false → (t.chip.memCh ch).host = { r with retry := true } :: (s.chip.memCh ch).host) ∧
      t.dram = s.dram) ∧
  (∀ (s : State) (ch : Chan) (r : Req) (bs : List Byte) (rest : List (Req × List Byte)) (g n i : Nat),
    (s.chip.memCh ch).reads = (r, bs) :: rest → s.chip.field 0x00300000 28 28 = 1 → r.who = .fill g n i →
    (r.retry = true →
      ∃ t, exec (.memReadData ch .uncorrectable) s = .next t ∧ s.chip.counted t.chip (0x00301064 + 0x100 * ch) ∧
        t.chip.waits (srcPhy ch) 0x0012 ∧ (t.chip.group g).arrived = (s.chip.group g).arrived ++ [(i, true, bs)]) ∧
    (∃ t, exec (.memReadData ch .corrected) s = .next t ∧ s.chip.counted t.chip (0x0030105C + 0x100 * ch) ∧
      (t.chip.group g).arrived = (s.chip.group g).arrived ++ [(i, false, bs)]) ∧
    ∃ t, exec (.memReadData ch .good) s = .next t ∧ t.chip.regs = s.chip.regs ∧ (t.chip.memCh ch).reads = rest ∧
      (t.chip.group g).arrived = (s.chip.group g).arrived ++ [(i, false, bs)]) ∧
  (∀ (s : State) (ch : Chan) (r : Req) (bs : List Byte) (rest : List (Req × List Byte)) (n i : Nat),
    (s.chip.memCh ch).reads = (r, bs) :: rest → s.chip.field 0x00300000 28 28 = 1 → r.who = .thaw n i →
      r.retry = true →
    ∃ t, exec (.memReadData ch .uncorrectable) s = .next t ∧ s.chip.counted t.chip (0x00301064 + 0x100 * ch) ∧
      t.chip.waits (srcPhy ch) 0x0012 ∧ (t.chip.ctx n).thawBad = true) ∧
  (∀ (s : State) (ch : Chan) (ecc : EccResult), (s.chip.memCh ch).reads = [] →
    ∃ t, exec (.memReadData ch ecc) s = .next t ∧ t = s)

/-- Refresh, self-refresh and MEM_MITIG (R276, R282, R290): an interval's end makes a REFpb due for the next bank pair
while the table runs; every request that comes in self-refresh is late, once however many lines it has; LOWPOWER enters
self-refresh when idle, and a request leaves it, the table restarting at its first slot; MEM_MITIG takes 8 to 16, and no
change while a task is admitted. Where the rules leave a point open, the model's choice stands (log entries 15, 48). -/
def Obligations.MemoryService : Prop :=
  (∀ (s : State) (ch : Chan), s.chip.tableRuns = true → s.chip.clocked = true →
    let m := s.chip.memCh ch
    let ref := m.pos % 16 = (m.refNext % 8 + 9) % 16
    ∃ t, exec (.refresh ch) s = .next t ∧ t.chip.tm = max s.chip.tm (m.refAt + s.chip.refInterval ch) ∧
      t.chip.memCh ch = { m with
        refAt := t.chip.tm, refDue := if ref then m.refDue else m.refDue + 1
        refNext := if ref then (m.refNext + 1) % (8 * (s.chip.field 0x00300000 29 29 + 1)) else m.refNext } ∧
      t.dram = s.dram) ∧
  (∀ (s : State) (ch : Chan), s.chip.tableRuns = false → ∃ t, exec (.refresh ch) s = .next t ∧ t = s) ∧
  (∀ s : State, s.chip.dev.mode = .lowpower → s.chip.tableRuns = true → s.chip.memQuiet = true →
    ∃ t, exec .selfRefreshEntry s = .next t ∧ t.chip.inSelfRefresh = true ∧ t.chip.tableRuns = false ∧
      t.chip.dev = s.chip.dev ∧ t.dram = s.dram) ∧
  (∀ s : State, s.chip.dev.mode ≠ .lowpower ∨ s.chip.tableRuns = false ∨ s.chip.memQuiet = false →
    ∃ t, exec .selfRefreshEntry s = .next t ∧ t = s) ∧
  (∀ (s : State) (ns : Nat), s.chip.inSelfRefresh = true → s.chip.switching = false → s.chip.memQuiet = false →
    ∃ t, exec (.selfRefreshExit ns) s = .next t ∧ t.chip.inSelfRefresh = false ∧
      t.chip.reg 0x00300020 = s.chip.reg 0x00300020 ∧
      t.chip.field 0x00300024 31 0 = max (s.chip.field 0x00300024 31 0) ns % 2 ^ 32 ∧
      (∀ ch : Nat, (t.chip.memCh ch).pos = 0) ∧
      (s.chip.training = false → s.chip.fspValid s.chip.fsp = true → t.chip.tableRuns = true) ∧ t.dram = s.dram) ∧
  (∀ (s : State) (ns : Nat), s.chip.inSelfRefresh = false ∨ s.chip.switching = true ∨ s.chip.memQuiet = true →
    ∃ t, exec (.selfRefreshExit ns) s = .next t ∧ t = s) ∧
  (∀ (c : Chip) (cls : SlotClass) (r : Req), c.inSelfRefresh = true → c.switching = false →
    c.counted (c.memReq cls r) 0x00300020) ∧
  (∀ (c : Chip) (cls : SlotClass) (a n : Nat) (bs : List Byte) (f : Nat → Who), c.inSelfRefresh = true →
    c.switching = false →
    c.counted (c.memWriteReqs cls a bs f) 0x00300020 ∧ c.counted (c.memReadReqs cls a n f) 0x00300020) ∧
  (∀ (s : State) (q : Port) (tag : Byte) (v : Word), s.chip.writable q tag →
    (s.chip.anyAdmitted = false → 8 ≤ v.toNat % 32 → v.toNat % 32 ≤ 16 →
      ∃ t, exec (.memMitigWrite q tag v) s = .next t ∧ t.chip.completed q tag 0 ∧
        t.chip.field 0x0030000C 4 0 = v.toNat % 32 ∧ ∀ a, a ≠ 0x0030000C → t.chip.reg a = s.chip.reg a) ∧
    (s.chip.anyAdmitted = false → v.toNat % 32 < 8 ∨ 16 < v.toNat % 32 →
      ∃ t, exec (.memMitigWrite q tag v) s = .next t ∧ t.chip.completed q tag 6 ∧ ∀ a, t.chip.reg a = s.chip.reg a) ∧
    (s.chip.anyAdmitted = true → v.toNat % 32 ≠ s.chip.field 0x0030000C 4 0 →
      ∃ t, exec (.memMitigWrite q tag v) s = .next t ∧ t.chip.completed q tag 1 ∧
        ∀ a, a ≠ 0x00010024 → t.chip.reg a = s.chip.reg a))

/-- Event counters (R389, R391, R392): a configuration starts its counter at 0 or refuses an unknown source; FREEZE
stops and restarts the counting; CLEAR_ALL zeroes every count and keeps every configuration; a counter whose source
happens adds the full number, and one that passes its threshold sets THR_HIT and raises CNT_THRESH. -/
def Obligations.EventCounters : Prop :=
  (∀ (s : State) (q : Port) (tag : Byte) (i : Fin 64) (v : Word), s.chip.writable q tag →
    let k := tabGet {} s.chip.counters i
    (v.toNat % 512 < 320 →
      ∃ t, exec (.evtCntCfgWrite q tag i v) s = .next t ∧ t.chip.completed q tag 0 ∧
        tabGet {} t.chip.counters i =
          { k with en := bitOf v.toNat 31, src := v.toNat % 512, count := 0, wrap := k.wrap && !bitOf v.toNat 30,
                   thrHit := k.thrHit && !bitOf v.toNat 29 } ∧
        ∀ j, j ≠ i.val → tabGet {} t.chip.counters j = tabGet {} s.chip.counters j) ∧
    (320 ≤ v.toNat % 512 →
      ∃ t, exec (.evtCntCfgWrite q tag i v) s = .next t ∧ t.chip.completed q tag 6 ∧
        t.chip.counters = s.chip.counters)) ∧
  (∀ (s : State) (q : Port) (tag : Byte) (v : Word), s.chip.writable q tag →
    ∃ t, exec (.counterFreeze q tag v) s = .next t ∧ t.chip.completed q tag 0 ∧ t.chip.frozen = bitOf v.toNat 31 ∧
      (bitOf v.toNat 30 = false → t.chip.counters = s.chip.counters) ∧ ∀ a, t.chip.reg a = s.chip.reg a) ∧
  (∀ (s : State) (q : Port) (tag : Byte) (v : Word), s.chip.writable q tag → bitOf v.toNat 30 = true →
    ∃ t, exec (.clearAll q tag v) s = .next t ∧ t.chip.completed q tag 0 ∧ t.chip.frozen = bitOf v.toNat 31 ∧
      ∀ i, tabGet {} t.chip.counters i = { tabGet {} s.chip.counters i with count := 0 }) ∧
  (∀ (c : Chip) (code n : Nat), c.frozen = true → c.count code n = c) ∧
  ∀ (c : Chip) (code n i : Nat) (k : Counter) (xs ys : Table Counter), c.frozen = false →
    c.counters = xs ++ (i, k) :: ys → (∀ e ∈ xs, e.1 ≠ i) → code ≠ 289 →
    let d := c.count code n
    let z := tabGet {} d.counters i
    (k.en = false ∨ k.src ≠ code ∧ k.src ≠ 289 → z = k) ∧
    (k.en = true → k.src = code →
      z.count = (k.count + n) % 2 ^ 48 ∧ z.wrap = (k.wrap || decide (2 ^ 48 ≤ k.count + n)) ∧
      (k.thresh = 0 → z.thrHit = k.thrHit) ∧ (k.thresh ≤ k.count → k.count + n < 2 ^ 48 → z.thrHit = k.thrHit) ∧
      (k.count < k.thresh → k.thresh ≤ k.count + n → z.thrHit = true ∧ d.waits (srcOf 15 55) 0x80B0 ∧
        ((countTab c.counters code n).2 = [i] → (∀ e ∈ c.cirque.staged, e.typ ≠ 0x80B0) →
          ∃ e : Event, e.src = srcOf 15 55 ∧ e.typ = 0x80B0 ∧ e.info = i ∧
            (e ∈ d.cirque.staged ∨ e ∈ tabGet [] d.cirque.queues 15))))

/-! ### Frames -/

/-- What the rows of a burst leave alone: no happening of a pin group, its sequencer, Firn, its lanes or their compare
results changes the LPDDR5X, the device state, the link, the command processor, images, calibration, the time base or
the TAP; and compare results, filled lines and lane-mode happenings leave every register outside the pin groups,
Moraine's block and the check-value units, but for MEM_SR_ABANDON and MEM_SR_LATE, as it was (R44, R52, R63, R189,
R401). -/
def Obligations.BurstFrame : Prop :=
  (∀ (s t : State) (i : Instr),
    (match i with
      | .seg _ | .frames _ | .loop _ | .endl _ | .jmp _ | .jcond _ | .jcondTimeout _ | .mode _ | .tset _ | .pslot _
      | .armt _ | .adct _ | .setf _ | .waitf _ | .waitfResume _ | .waitTimeout _ | .capm _ | .sync _ | .syncHoldEnd _
      | .syncTimeout _ | .endWord _ | .frameBoundary _ | .underrun _ | .stall _ | .stallResume _ | .seqFault _ _
      | .compareResultsComplete _ _ | .fckLock _ _ | .fckUnlock _ _ | .checkerSync _
      | .checkerSyncLost _ | .laneMarkerReceived _ _ _ | .markerTimeout _ => True
      | .firnLineFilled g => (s.chip.group g).arrived ≠ []
      | _ => False) →
    exec i s = .next t → t.dram = s.dram ∧ s.chip.hostSideKept t.chip) ∧
  (∀ (s t : State) (i : Instr) (a : Nat),
    (match i with
      | .compareResultsComplete _ _ | .fckLock _ _ | .fckUnlock _ _ | .checkerSync _
      | .checkerSyncLost _ | .laneMarkerReceived _ _ _ | .markerTimeout _ => True
      | .firnLineFilled g => (s.chip.group g).arrived ≠ []
      | _ => False) →
    a < 0x00100000 ∨ 0x001C0000 ≤ a → a / 0x10000 ≠ 0x21 → a / 0x10000 ≠ 0x24 → a ≠ 0x0030001C → a ≠ 0x00300020 →
    exec i s = .next t → t.chip.reg a = s.chip.reg a)

/-- What measurement, records and sideband frames leave alone: no happening of a TDC, a converter or comparator, a
sideband port, a result ring or a refresh, and no feed's end of a check-value DMA, changes the LPDDR5X, a pin group, the
device state, the link, the command processor, images, calibration or the time base; and those of TDCs, converters,
comparators and sideband ports leave every register outside their own blocks and the scheduler's as it was (R211, R229,
R239, R259, R401). -/
def Obligations.MeasurementFrame : Prop :=
  (∀ (s t : State) (i : Instr),
    (match i with
      | .tdcStart _ | .tdcStop _ _ _ | .tdcResult _ | .tdcWindowClose _ | .tdcDeadTimeEnd _ | .tdcSnapDone
      | .adcSample _ _ _ _ | .adcSampleJudged _ | .xcmpCrossing _ _ | .adcTimer _ | .adcSequenceEnd _
      | .sbRead _ _ | .sbWrite _ _ _ | .sbAbort _ | .sbFrameTimeout _ | .sbClockWindow _ _ _
      | .recordAdmission _ | .ringLineWrite _ | .flushTimeout _ | .pushMaxage _ | .refresh _ => True
      | .crcDone u _ => s.chip.crcDmaEnds u = true
      | _ => False) →
    exec i s = .next t → t.dram = s.dram ∧ t.chip.groups = s.chip.groups ∧ s.chip.hostSideKept t.chip) ∧
  (∀ (s t : State) (i : Instr) (a : Nat),
    (match i with
      | .tdcStart _ | .tdcStop _ _ _ | .tdcResult _ | .tdcWindowClose _ | .tdcDeadTimeEnd _ | .tdcSnapDone
      | .adcSample _ _ _ _ | .adcSampleJudged _ | .xcmpCrossing _ _ | .adcTimer _ | .adcSequenceEnd _
      | .sbRead _ _ | .sbWrite _ _ _ | .sbAbort _ | .sbFrameTimeout _ | .sbClockWindow _ _ _ => True
      | _ => False) →
    a < 0x00200000 ∨ 0x00260000 ≤ a →
    exec i s = .next t → t.chip.reg a = s.chip.reg a)

end Claims
end

