-- ==== Sys2Proof/Laws/Tables.lean ====
section
/-! SUPPORT. Tables.lean: laws of sparse tables and of LPDDR5X bytes: read after write, and the canonical form. -/

namespace Sys2Proof.Machine

@[simp] theorem tabGet_nil {α : Type} (d : α) (i : Nat) : tabGet d [] i = d := rfl

@[simp] theorem tabGet_tabSet_same {α : Type} (d : α) (t : Table α) (i : Nat) (v : α) :
    tabGet d (tabSet t i v) i = v := by
  induction t with
  | nil => simp [tabSet, tabGet]
  | cons e t ih =>
    simp only [tabSet]
    split
    · simp [tabGet]
    · split
      · simp [tabGet]
      · rename_i h _
        simp [tabGet, h, ih]

theorem tabGet_tabSet_other {α : Type} (d : α) (t : Table α) {i k : Nat} (v : α) (h : k ≠ i) :
    tabGet d (tabSet t i v) k = tabGet d t k := by
  induction t with
  | nil => simp [tabSet, tabGet, h]
  | cons e t ih =>
    simp only [tabSet]
    split
    · rename_i hi; subst hi; simp [tabGet, h]
    · split
      · simp [tabGet, h]
      · simp [tabGet, ih]

theorem tabGet_tabSet {α : Type} (d : α) (t : Table α) (i k : Nat) (v : α) :
    tabGet d (tabSet t i v) k = if k = i then v else tabGet d t k := by
  split
  · rename_i h; subst h; simp
  · rename_i h; exact tabGet_tabSet_other d t v h

@[simp] theorem tabGet_tabDel_same {α : Type} (d : α) (t : Table α) (i : Nat) : tabGet d (tabDel t i) i = d := by
  induction t with
  | nil => rfl
  | cons e t ih =>
    by_cases h : e.1 = i
    · simpa [tabDel, h] using ih
    · have h' : i ≠ e.1 := fun x => h x.symm
      simpa [tabDel, h, tabGet, h'] using ih

theorem tabGet_tabDel_other {α : Type} (d : α) (t : Table α) {i k : Nat} (h : k ≠ i) :
    tabGet d (tabDel t i) k = tabGet d t k := by
  induction t with
  | nil => rfl
  | cons e t ih =>
    by_cases hi : e.1 = i
    · have hk : k ≠ e.1 := by rw [hi]; exact h
      simpa [tabDel, hi, tabGet, hk, h] using ih
    · have ih' : tabGet d (List.filter (fun e => decide (e.1 ≠ i)) t) k = tabGet d t k := ih
      simp only [tabDel, List.filter_cons, hi, ne_eq, not_false_eq_true, decide_true, if_true, tabGet]
      split
      · rfl
      · exact ih'

/-- Entries of a set table are the old ones and the new one. -/
theorem mem_tabSet {α : Type} {t : Table α} {i : Nat} {v : α} {x : Nat × α} (h : x ∈ tabSet t i v) :
    x = (i, v) ∨ x ∈ t := by
  induction t with
  | nil => simp [tabSet] at h; exact .inl h
  | cons e t ih =>
    simp only [tabSet] at h
    split at h
    · rcases List.mem_cons.1 h with h | h
      · exact .inl h
      · exact .inr (List.mem_cons_of_mem _ h)
    · split at h
      · rcases List.mem_cons.1 h with h | h
        · exact .inl h
        · exact .inr h
      · rcases List.mem_cons.1 h with h | h
        · exact .inr (h ▸ List.mem_cons_self)
        · exact (ih h).imp id (List.mem_cons_of_mem _)

/-- Setting an entry keeps the indices strictly rising. -/
theorem tabSet_rising {α : Type} (t : Table α) (i : Nat) (v : α) (h : t.Pairwise (fun x y => x.1 < y.1)) :
    (tabSet t i v).Pairwise (fun x y => x.1 < y.1) := by
  induction t with
  | nil => simp [tabSet]
  | cons e t ih =>
    obtain ⟨he, ht⟩ := List.pairwise_cons.1 h
    simp only [tabSet]
    split
    · rename_i hi
      exact List.pairwise_cons.2 ⟨fun y hy => by simpa [hi] using he y hy, ht⟩
    · split
      · rename_i _ hlt
        refine List.pairwise_cons.2 ⟨fun y hy => ?_, h⟩
        rcases List.mem_cons.1 hy with hy | hy
        · subst hy; exact hlt
        · exact Nat.lt_trans hlt (he y hy)
      · rename_i hne hge
        refine List.pairwise_cons.2 ⟨fun y hy => ?_, ih ht⟩
        rcases mem_tabSet hy with hy | hy
        · subst hy; simp only; omega
        · exact he y hy

/-! ### LPDDR5X bytes -/

theorem memRead_memWrite (m : Memory) (a k : Nat) (b : Byte) :
    memRead (memWrite m a b) k = if k = a then b else memRead m k := by
  unfold memRead memWrite
  split
  · rename_i hb
    split
    · rename_i h; subst h; simpa using hb.symm
    · rename_i h; exact tabGet_tabDel_other 0 m h
  · exact tabGet_tabSet 0 m a k b

theorem memWrite_wf {m : Memory} (a : Nat) (b : Byte) (h : Memory.wf m) : Memory.wf (memWrite m a b) := by
  unfold memWrite
  split
  · exact ⟨h.1.sublist (List.filter_sublist), fun x hx => h.2 x (List.mem_filter.1 hx).1⟩
  · rename_i hb
    refine ⟨tabSet_rising m a b h.1, fun x hx => ?_⟩
    rcases mem_tabSet hx with hx | hx
    · subst hx; exact hb
    · exact h.2 x hx

theorem memWriteBytes_wf (bs : List Byte) : ∀ {m : Memory} (a : Nat), Memory.wf m → Memory.wf (memWriteBytes m a bs) := by
  induction bs with
  | nil => intro m a h; exact h
  | cons b bs ih => intro m a h; exact ih (a + 1) (memWrite_wf a b h)

/-- A byte outside the written bytes keeps its value. -/
theorem memRead_memWriteBytes_other (bs : List Byte) :
    ∀ (m : Memory) (a k : Nat), (k < a ∨ a + bs.length ≤ k) → memRead (memWriteBytes m a bs) k = memRead m k := by
  induction bs with
  | nil => intro m a k _; rfl
  | cons b bs ih =>
    intro m a k h
    simp only [List.length_cons] at h
    rw [memWriteBytes, ih (memWrite m a b) (a + 1) k (by omega), memRead_memWrite, if_neg (by omega)]

/-- A written byte reads back. -/
theorem memRead_memWriteBytes (bs : List Byte) :
    ∀ (m : Memory) (a i : Nat) (h : i < bs.length), memRead (memWriteBytes m a bs) (a + i) = bs[i] := by
  induction bs with
  | nil => intro m a i h; simp at h
  | cons b bs ih =>
    intro m a i h
    cases i with
    | zero => rw [memWriteBytes, memRead_memWriteBytes_other bs _ _ _ (by omega), memRead_memWrite]; simp
    | succ i =>
      have := ih (memWrite m a b) (a + 1) i (by simpa using h)
      rw [memWriteBytes, show a + (i + 1) = a + 1 + i by omega, this]; rfl

end Sys2Proof.Machine
end

