-- ==== Sys2Proof/Laws/Regs.lean ====
section
/-! SUPPORT. Regs.lean: laws of bit fields, of the register store and of the ledgers: read after write. -/

namespace Sys2Proof.Machine

theorem testBit_bitsOf (v hi lo i : Nat) :
    (bitsOf v hi lo).testBit i = (decide (i < hi - lo + 1) && v.testBit (lo + i)) := by
  unfold bitsOf
  rw [Nat.testBit_mod_two_pow, Nat.testBit_div_two_pow, Nat.add_comm i lo]

/-- Each bit of a value with a field replaced. -/
theorem testBit_putBits (v hi lo x i : Nat) :
    (putBits v hi lo x).testBit i =
      if lo ≤ i ∧ i < lo + (hi - lo + 1) then x.testBit (i - lo) else v.testBit i := by
  unfold putBits bitsOf
  generalize hi - lo + 1 = w
  have hv : v = 2 ^ lo * (2 ^ w * (v / 2 ^ lo / 2 ^ w) + v / 2 ^ lo % 2 ^ w) + v % 2 ^ lo := by
    rw [Nat.div_add_mod, Nat.div_add_mod]
  have hp : v - v / 2 ^ lo % 2 ^ w * 2 ^ lo + x % 2 ^ w * 2 ^ lo =
      2 ^ lo * (2 ^ w * (v / 2 ^ lo / 2 ^ w) + x % 2 ^ w) + v % 2 ^ lo := by
    conv_lhs => rw [hv]
    have e1 : (2 ^ lo * (2 ^ w * (v / 2 ^ lo / 2 ^ w) + v / 2 ^ lo % 2 ^ w) + v % 2 ^ lo) / 2 ^ lo % 2 ^ w =
        v / 2 ^ lo % 2 ^ w := by rw [← hv]
    rw [e1]
    have := Nat.mul_comm (v / 2 ^ lo % 2 ^ w) (2 ^ lo)
    have := Nat.mul_comm (x % 2 ^ w) (2 ^ lo)
    simp only [Nat.mul_add] at *
    omega
  rw [hp, Nat.testBit_two_pow_mul_add _ (Nat.mod_lt _ (Nat.two_pow_pos lo))]
  by_cases h1 : i < lo
  · rw [if_pos h1, if_neg (by omega), Nat.testBit_mod_two_pow]; simp [h1]
  · rw [if_neg h1, Nat.testBit_two_pow_mul_add _ (Nat.mod_lt _ (Nat.two_pow_pos w))]
    by_cases h2 : i - lo < w
    · rw [if_pos h2, if_pos (by omega), Nat.testBit_mod_two_pow]; simp [h2]
    · rw [if_neg h2, if_neg (by omega), Nat.testBit_div_two_pow, Nat.testBit_div_two_pow]
      congr 1; omega

theorem bitsOf_putBits_same (v hi lo x : Nat) : bitsOf (putBits v hi lo x) hi lo = x % 2 ^ (hi - lo + 1) := by
  apply Nat.eq_of_testBit_eq
  intro i
  rw [testBit_bitsOf, testBit_putBits, Nat.testBit_mod_two_pow]
  by_cases h : i < hi - lo + 1
  · rw [if_pos (by omega)]; simp
  · simp [h]

/-- A field that shares no bit with the replaced one keeps its value. -/
theorem bitsOf_putBits_other (v hi lo x hi' lo' : Nat) (h : hi' < lo ∨ hi < lo') (hlo : lo ≤ hi) (hlo' : lo' ≤ hi') :
    bitsOf (putBits v hi lo x) hi' lo' = bitsOf v hi' lo' := by
  apply Nat.eq_of_testBit_eq
  intro i
  rw [testBit_bitsOf, testBit_bitsOf, testBit_putBits]
  by_cases h1 : i < hi' - lo' + 1
  · rw [if_neg (by omega)]
  · simp [h1]

theorem bitsOf_mod (v hi lo : Nat) (h : hi < 32) (hlo : lo ≤ hi) : bitsOf (v % 2 ^ 32) hi lo = bitsOf v hi lo := by
  apply Nat.eq_of_testBit_eq
  intro i
  rw [testBit_bitsOf, testBit_bitsOf, Nat.testBit_mod_two_pow]
  by_cases h1 : i < hi - lo + 1
  · rw [show decide (lo + i < 32) = true by simp; omega]; simp
  · simp [h1]

theorem bitOf_putBits (v hi lo x i : Nat) (hlo : lo ≤ hi) :
    bitOf (putBits v hi lo x) i = if lo ≤ i ∧ i ≤ hi then x.testBit (i - lo) else bitOf v i := by
  unfold bitOf
  rw [testBit_putBits]
  congr 1
  simp only [eq_iff_iff]
  omega

/-! ### The register store -/

@[simp] theorem Chip.reg_setReg_same (c : Chip) (a : Nat) (w : Word) : (c.setReg a w).reg a = w := by
  simp [Chip.reg, Chip.setReg]

theorem Chip.reg_setReg (c : Chip) (a b : Nat) (w : Word) :
    (c.setReg a w).reg b = if b = a then w else c.reg b := by
  unfold Chip.reg Chip.setReg
  exact tabGet_tabSet _ _ _ _ _

theorem Chip.reg_setReg_other (c : Chip) {a b : Nat} (w : Word) (h : b ≠ a) : (c.setReg a w).reg b = c.reg b := by
  rw [Chip.reg_setReg, if_neg h]

theorem Chip.reg_setField_other (c : Chip) {a b : Nat} (hi lo v : Nat) (h : b ≠ a) :
    (c.setField a hi lo v).reg b = c.reg b := Chip.reg_setReg_other c _ h

theorem Chip.field_setField_same (c : Chip) (a hi lo v : Nat) (h : hi < 32) (hlo : lo ≤ hi) :
    (c.setField a hi lo v).field a hi lo = v % 2 ^ (hi - lo + 1) := by
  unfold Chip.field Chip.setField
  rw [Chip.reg_setReg_same, BitVec.toNat_ofNat, bitsOf_mod _ _ _ h hlo, bitsOf_putBits_same]

theorem Chip.field_setField_other (c : Chip) {a b : Nat} (hi lo v hi' lo' : Nat) (h : b ≠ a) :
    (c.setField a hi lo v).field b hi' lo' = c.field b hi' lo' := by
  unfold Chip.field
  rw [Chip.reg_setField_other c hi lo v h]

theorem Chip.field_setField_disjoint (c : Chip) (a hi lo v hi' lo' : Nat) (h : hi' < lo ∨ hi < lo') (hlo : lo ≤ hi)
    (hlo' : lo' ≤ hi') (h32 : hi' < 32) : (c.setField a hi lo v).field a hi' lo' = c.field a hi' lo' := by
  unfold Chip.field Chip.setField
  rw [Chip.reg_setReg_same, BitVec.toNat_ofNat, bitsOf_mod _ _ _ h32 hlo', bitsOf_putBits_other _ _ _ _ _ _ h hlo hlo']

theorem Chip.reg64_setReg64_same (c : Chip) (a v : Nat) (h : v < 2 ^ 64) : (c.setReg64 a v).reg64 a = v := by
  unfold Chip.reg64 Chip.setReg64
  rw [Chip.reg_setReg_other _ _ (by omega : a ≠ a + 4), Chip.reg_setReg_same, Chip.reg_setReg_same]
  simp only [BitVec.toNat_ofNat]
  omega

theorem Chip.reg_setReg64_other (c : Chip) {a b : Nat} (v : Nat) (h : b ≠ a) (h' : b ≠ a + 4) :
    (c.setReg64 a v).reg b = c.reg b := by
  unfold Chip.setReg64
  rw [Chip.reg_setReg_other _ _ h', Chip.reg_setReg_other _ _ h]

theorem Chip.reg_cntUp_other (c : Chip) {a b : Nat} (n : Nat) (h : b ≠ a) : (c.cntUp a n).reg b = c.reg b :=
  Chip.reg_setReg_other c _ h
@[simp] theorem Chip.reg_cntUp_same (c : Chip) (a n : Nat) :
    (c.cntUp a n).reg a = BitVec.ofNat 32 (min ((c.reg a).toNat + n) 0xFFFFFFFF) := by simp [Chip.cntUp]
theorem Chip.reg_cntWrap_other (c : Chip) {a b : Nat} (n : Nat) (h : b ≠ a) : (c.cntWrap a n).reg b = c.reg b :=
  Chip.reg_setReg_other c _ h
@[simp] theorem Chip.reg_cntWrap_same (c : Chip) (a n : Nat) :
    (c.cntWrap a n).reg a = c.reg a + BitVec.ofNat 32 n := by simp [Chip.cntWrap]

/-! ### Ledgers -/

theorem Chip.ledger_ledAdd (c : Chip) (a b n : Nat) :
    (c.ledAdd a n).ledger b = if b = a then c.ledger a + BitVec.ofNat 64 n else c.ledger b := by
  unfold Chip.ledAdd
  show tabGet _ (tabSet c.led a (c.ledger a + BitVec.ofNat 64 n)) b = _
  rw [tabGet_tabSet]; rfl

theorem Chip.ledger_ledSub (c : Chip) (a b n : Nat) :
    (c.ledSub a n).ledger b = if b = a then c.ledger a - BitVec.ofNat 64 n else c.ledger b := by
  unfold Chip.ledSub
  show tabGet _ (tabSet c.led a (c.ledger a - BitVec.ofNat 64 n)) b = _
  rw [tabGet_tabSet]; rfl

end Sys2Proof.Machine
end

