-- ==== Sys2Proof/Laws/State.lean ====
section
/-! SUPPORT. State.lean: what each named update of the die leaves alone: one lemma per field per update. -/

namespace Sys2Proof.Machine

@[simp] theorem Chip.setReg_dev (c : Chip) (a : Nat) (w : Word) : (c.setReg a w).dev = c.dev := (rfl)
@[simp] theorem Chip.setReg_led (c : Chip) (a : Nat) (w : Word) : (c.setReg a w).led = c.led := (rfl)
@[simp] theorem Chip.setReg_epoch (c : Chip) (a : Nat) (w : Word) : (c.setReg a w).epoch = c.epoch := (rfl)
@[simp] theorem Chip.setReg_staging (c : Chip) (a : Nat) (w : Word) : (c.setReg a w).staging = c.staging := (rfl)
@[simp] theorem Chip.setReg_cirque (c : Chip) (a : Nat) (w : Word) : (c.setReg a w).cirque = c.cirque := (rfl)
@[simp] theorem Chip.setReg_counters (c : Chip) (a : Nat) (w : Word) : (c.setReg a w).counters = c.counters := (rfl)
@[simp] theorem Chip.setReg_frozen (c : Chip) (a : Nat) (w : Word) : (c.setReg a w).frozen = c.frozen := (rfl)
@[simp] theorem Chip.setReg_cmd (c : Chip) (a : Nat) (w : Word) : (c.setReg a w).cmd = c.cmd := (rfl)
@[simp] theorem Chip.setReg_ports (c : Chip) (a : Nat) (w : Word) : (c.setReg a w).ports = c.ports := (rfl)
@[simp] theorem Chip.setReg_failover (c : Chip) (a : Nat) (w : Word) : (c.setReg a w).failover = c.failover := (rfl)
@[simp] theorem Chip.setReg_notes (c : Chip) (a : Nat) (w : Word) : (c.setReg a w).notes = c.notes := (rfl)
@[simp] theorem Chip.setReg_notesDue (c : Chip) (a : Nat) (w : Word) : (c.setReg a w).notesDue = c.notesDue := (rfl)
@[simp] theorem Chip.setReg_gap (c : Chip) (a : Nat) (w : Word) : (c.setReg a w).gap = c.gap := (rfl)
@[simp] theorem Chip.setReg_snap (c : Chip) (a : Nat) (w : Word) : (c.setReg a w).snap = c.snap := (rfl)
@[simp] theorem Chip.setReg_mon (c : Chip) (a : Nat) (w : Word) : (c.setReg a w).mon = c.mon := (rfl)
@[simp] theorem Chip.setReg_tap (c : Chip) (a : Nat) (w : Word) : (c.setReg a w).tap = c.tap := (rfl)
@[simp] theorem Chip.setReg_flash (c : Chip) (a : Nat) (w : Word) : (c.setReg a w).flash = c.flash := (rfl)
@[simp] theorem Chip.setReg_tm (c : Chip) (a : Nat) (w : Word) : (c.setReg a w).tm = c.tm := (rfl)
@[simp] theorem Chip.setReg_align (c : Chip) (a : Nat) (w : Word) : (c.setReg a w).align = c.align := (rfl)
@[simp] theorem Chip.setReg_time (c : Chip) (a : Nat) (w : Word) : (c.setReg a w).time = c.time := (rfl)
@[simp] theorem Chip.setReg_free (c : Chip) (a : Nat) (w : Word) : (c.setReg a w).free = c.free := (rfl)
@[simp] theorem Chip.setReg_mem (c : Chip) (a : Nat) (w : Word) : (c.setReg a w).mem = c.mem := (rfl)
@[simp] theorem Chip.setReg_images (c : Chip) (a : Nat) (w : Word) : (c.setReg a w).images = c.images := (rfl)
@[simp] theorem Chip.setReg_sched (c : Chip) (a : Nat) (w : Word) : (c.setReg a w).sched = c.sched := (rfl)
@[simp] theorem Chip.setReg_groups (c : Chip) (a : Nat) (w : Word) : (c.setReg a w).groups = c.groups := (rfl)
@[simp] theorem Chip.setReg_mor (c : Chip) (a : Nat) (w : Word) : (c.setReg a w).mor = c.mor := (rfl)
@[simp] theorem Chip.setReg_tdc (c : Chip) (a : Nat) (w : Word) : (c.setReg a w).tdc = c.tdc := (rfl)
@[simp] theorem Chip.setReg_adc (c : Chip) (a : Nat) (w : Word) : (c.setReg a w).adc = c.adc := (rfl)
@[simp] theorem Chip.setReg_cal (c : Chip) (a : Nat) (w : Word) : (c.setReg a w).cal = c.cal := (rfl)
@[simp] theorem Chip.setReg_crcDma (c : Chip) (a : Nat) (w : Word) : (c.setReg a w).crcDma = c.crcDma := (rfl)
@[simp] theorem Chip.setReg_sb (c : Chip) (a : Nat) (w : Word) : (c.setReg a w).sb = c.sb := (rfl)
@[simp] theorem Chip.setReg_balls (c : Chip) (a : Nat) (w : Word) : (c.setReg a w).balls = c.balls := (rfl)

@[simp] theorem Chip.setField_dev (c : Chip) (a hi lo v : Nat) : (c.setField a hi lo v).dev = c.dev := (rfl)
@[simp] theorem Chip.setField_led (c : Chip) (a hi lo v : Nat) : (c.setField a hi lo v).led = c.led := (rfl)
@[simp] theorem Chip.setField_epoch (c : Chip) (a hi lo v : Nat) : (c.setField a hi lo v).epoch = c.epoch := (rfl)
@[simp] theorem Chip.setField_staging (c : Chip) (a hi lo v : Nat) : (c.setField a hi lo v).staging = c.staging := (rfl)
@[simp] theorem Chip.setField_cirque (c : Chip) (a hi lo v : Nat) : (c.setField a hi lo v).cirque = c.cirque := (rfl)
@[simp] theorem Chip.setField_counters (c : Chip) (a hi lo v : Nat) : (c.setField a hi lo v).counters = c.counters := (rfl)
@[simp] theorem Chip.setField_frozen (c : Chip) (a hi lo v : Nat) : (c.setField a hi lo v).frozen = c.frozen := (rfl)
@[simp] theorem Chip.setField_cmd (c : Chip) (a hi lo v : Nat) : (c.setField a hi lo v).cmd = c.cmd := (rfl)
@[simp] theorem Chip.setField_ports (c : Chip) (a hi lo v : Nat) : (c.setField a hi lo v).ports = c.ports := (rfl)
@[simp] theorem Chip.setField_failover (c : Chip) (a hi lo v : Nat) : (c.setField a hi lo v).failover = c.failover := (rfl)
@[simp] theorem Chip.setField_notes (c : Chip) (a hi lo v : Nat) : (c.setField a hi lo v).notes = c.notes := (rfl)
@[simp] theorem Chip.setField_notesDue (c : Chip) (a hi lo v : Nat) : (c.setField a hi lo v).notesDue = c.notesDue := (rfl)
@[simp] theorem Chip.setField_gap (c : Chip) (a hi lo v : Nat) : (c.setField a hi lo v).gap = c.gap := (rfl)
@[simp] theorem Chip.setField_snap (c : Chip) (a hi lo v : Nat) : (c.setField a hi lo v).snap = c.snap := (rfl)
@[simp] theorem Chip.setField_mon (c : Chip) (a hi lo v : Nat) : (c.setField a hi lo v).mon = c.mon := (rfl)
@[simp] theorem Chip.setField_tap (c : Chip) (a hi lo v : Nat) : (c.setField a hi lo v).tap = c.tap := (rfl)
@[simp] theorem Chip.setField_flash (c : Chip) (a hi lo v : Nat) : (c.setField a hi lo v).flash = c.flash := (rfl)
@[simp] theorem Chip.setField_tm (c : Chip) (a hi lo v : Nat) : (c.setField a hi lo v).tm = c.tm := (rfl)
@[simp] theorem Chip.setField_align (c : Chip) (a hi lo v : Nat) : (c.setField a hi lo v).align = c.align := (rfl)
@[simp] theorem Chip.setField_time (c : Chip) (a hi lo v : Nat) : (c.setField a hi lo v).time = c.time := (rfl)
@[simp] theorem Chip.setField_free (c : Chip) (a hi lo v : Nat) : (c.setField a hi lo v).free = c.free := (rfl)
@[simp] theorem Chip.setField_mem (c : Chip) (a hi lo v : Nat) : (c.setField a hi lo v).mem = c.mem := (rfl)
@[simp] theorem Chip.setField_images (c : Chip) (a hi lo v : Nat) : (c.setField a hi lo v).images = c.images := (rfl)
@[simp] theorem Chip.setField_sched (c : Chip) (a hi lo v : Nat) : (c.setField a hi lo v).sched = c.sched := (rfl)
@[simp] theorem Chip.setField_groups (c : Chip) (a hi lo v : Nat) : (c.setField a hi lo v).groups = c.groups := (rfl)
@[simp] theorem Chip.setField_mor (c : Chip) (a hi lo v : Nat) : (c.setField a hi lo v).mor = c.mor := (rfl)
@[simp] theorem Chip.setField_tdc (c : Chip) (a hi lo v : Nat) : (c.setField a hi lo v).tdc = c.tdc := (rfl)
@[simp] theorem Chip.setField_adc (c : Chip) (a hi lo v : Nat) : (c.setField a hi lo v).adc = c.adc := (rfl)
@[simp] theorem Chip.setField_cal (c : Chip) (a hi lo v : Nat) : (c.setField a hi lo v).cal = c.cal := (rfl)
@[simp] theorem Chip.setField_crcDma (c : Chip) (a hi lo v : Nat) : (c.setField a hi lo v).crcDma = c.crcDma := (rfl)
@[simp] theorem Chip.setField_sb (c : Chip) (a hi lo v : Nat) : (c.setField a hi lo v).sb = c.sb := (rfl)
@[simp] theorem Chip.setField_balls (c : Chip) (a hi lo v : Nat) : (c.setField a hi lo v).balls = c.balls := (rfl)

@[simp] theorem Chip.setReg64_dev (c : Chip) (a v : Nat) : (c.setReg64 a v).dev = c.dev := (rfl)
@[simp] theorem Chip.setReg64_led (c : Chip) (a v : Nat) : (c.setReg64 a v).led = c.led := (rfl)
@[simp] theorem Chip.setReg64_epoch (c : Chip) (a v : Nat) : (c.setReg64 a v).epoch = c.epoch := (rfl)
@[simp] theorem Chip.setReg64_staging (c : Chip) (a v : Nat) : (c.setReg64 a v).staging = c.staging := (rfl)
@[simp] theorem Chip.setReg64_cirque (c : Chip) (a v : Nat) : (c.setReg64 a v).cirque = c.cirque := (rfl)
@[simp] theorem Chip.setReg64_counters (c : Chip) (a v : Nat) : (c.setReg64 a v).counters = c.counters := (rfl)
@[simp] theorem Chip.setReg64_frozen (c : Chip) (a v : Nat) : (c.setReg64 a v).frozen = c.frozen := (rfl)
@[simp] theorem Chip.setReg64_cmd (c : Chip) (a v : Nat) : (c.setReg64 a v).cmd = c.cmd := (rfl)
@[simp] theorem Chip.setReg64_ports (c : Chip) (a v : Nat) : (c.setReg64 a v).ports = c.ports := (rfl)
@[simp] theorem Chip.setReg64_failover (c : Chip) (a v : Nat) : (c.setReg64 a v).failover = c.failover := (rfl)
@[simp] theorem Chip.setReg64_notes (c : Chip) (a v : Nat) : (c.setReg64 a v).notes = c.notes := (rfl)
@[simp] theorem Chip.setReg64_notesDue (c : Chip) (a v : Nat) : (c.setReg64 a v).notesDue = c.notesDue := (rfl)
@[simp] theorem Chip.setReg64_gap (c : Chip) (a v : Nat) : (c.setReg64 a v).gap = c.gap := (rfl)
@[simp] theorem Chip.setReg64_snap (c : Chip) (a v : Nat) : (c.setReg64 a v).snap = c.snap := (rfl)
@[simp] theorem Chip.setReg64_mon (c : Chip) (a v : Nat) : (c.setReg64 a v).mon = c.mon := (rfl)
@[simp] theorem Chip.setReg64_tap (c : Chip) (a v : Nat) : (c.setReg64 a v).tap = c.tap := (rfl)
@[simp] theorem Chip.setReg64_flash (c : Chip) (a v : Nat) : (c.setReg64 a v).flash = c.flash := (rfl)
@[simp] theorem Chip.setReg64_tm (c : Chip) (a v : Nat) : (c.setReg64 a v).tm = c.tm := (rfl)
@[simp] theorem Chip.setReg64_align (c : Chip) (a v : Nat) : (c.setReg64 a v).align = c.align := (rfl)
@[simp] theorem Chip.setReg64_time (c : Chip) (a v : Nat) : (c.setReg64 a v).time = c.time := (rfl)
@[simp] theorem Chip.setReg64_free (c : Chip) (a v : Nat) : (c.setReg64 a v).free = c.free := (rfl)
@[simp] theorem Chip.setReg64_mem (c : Chip) (a v : Nat) : (c.setReg64 a v).mem = c.mem := (rfl)
@[simp] theorem Chip.setReg64_images (c : Chip) (a v : Nat) : (c.setReg64 a v).images = c.images := (rfl)
@[simp] theorem Chip.setReg64_sched (c : Chip) (a v : Nat) : (c.setReg64 a v).sched = c.sched := (rfl)
@[simp] theorem Chip.setReg64_groups (c : Chip) (a v : Nat) : (c.setReg64 a v).groups = c.groups := (rfl)
@[simp] theorem Chip.setReg64_mor (c : Chip) (a v : Nat) : (c.setReg64 a v).mor = c.mor := (rfl)
@[simp] theorem Chip.setReg64_tdc (c : Chip) (a v : Nat) : (c.setReg64 a v).tdc = c.tdc := (rfl)
@[simp] theorem Chip.setReg64_adc (c : Chip) (a v : Nat) : (c.setReg64 a v).adc = c.adc := (rfl)
@[simp] theorem Chip.setReg64_cal (c : Chip) (a v : Nat) : (c.setReg64 a v).cal = c.cal := (rfl)
@[simp] theorem Chip.setReg64_crcDma (c : Chip) (a v : Nat) : (c.setReg64 a v).crcDma = c.crcDma := (rfl)
@[simp] theorem Chip.setReg64_sb (c : Chip) (a v : Nat) : (c.setReg64 a v).sb = c.sb := (rfl)
@[simp] theorem Chip.setReg64_balls (c : Chip) (a v : Nat) : (c.setReg64 a v).balls = c.balls := (rfl)

@[simp] theorem Chip.cntUp_dev (c : Chip) (a n : Nat) : (c.cntUp a n).dev = c.dev := (rfl)
@[simp] theorem Chip.cntUp_led (c : Chip) (a n : Nat) : (c.cntUp a n).led = c.led := (rfl)
@[simp] theorem Chip.cntUp_epoch (c : Chip) (a n : Nat) : (c.cntUp a n).epoch = c.epoch := (rfl)
@[simp] theorem Chip.cntUp_staging (c : Chip) (a n : Nat) : (c.cntUp a n).staging = c.staging := (rfl)
@[simp] theorem Chip.cntUp_cirque (c : Chip) (a n : Nat) : (c.cntUp a n).cirque = c.cirque := (rfl)
@[simp] theorem Chip.cntUp_counters (c : Chip) (a n : Nat) : (c.cntUp a n).counters = c.counters := (rfl)
@[simp] theorem Chip.cntUp_frozen (c : Chip) (a n : Nat) : (c.cntUp a n).frozen = c.frozen := (rfl)
@[simp] theorem Chip.cntUp_cmd (c : Chip) (a n : Nat) : (c.cntUp a n).cmd = c.cmd := (rfl)
@[simp] theorem Chip.cntUp_ports (c : Chip) (a n : Nat) : (c.cntUp a n).ports = c.ports := (rfl)
@[simp] theorem Chip.cntUp_failover (c : Chip) (a n : Nat) : (c.cntUp a n).failover = c.failover := (rfl)
@[simp] theorem Chip.cntUp_notes (c : Chip) (a n : Nat) : (c.cntUp a n).notes = c.notes := (rfl)
@[simp] theorem Chip.cntUp_notesDue (c : Chip) (a n : Nat) : (c.cntUp a n).notesDue = c.notesDue := (rfl)
@[simp] theorem Chip.cntUp_gap (c : Chip) (a n : Nat) : (c.cntUp a n).gap = c.gap := (rfl)
@[simp] theorem Chip.cntUp_snap (c : Chip) (a n : Nat) : (c.cntUp a n).snap = c.snap := (rfl)
@[simp] theorem Chip.cntUp_mon (c : Chip) (a n : Nat) : (c.cntUp a n).mon = c.mon := (rfl)
@[simp] theorem Chip.cntUp_tap (c : Chip) (a n : Nat) : (c.cntUp a n).tap = c.tap := (rfl)
@[simp] theorem Chip.cntUp_flash (c : Chip) (a n : Nat) : (c.cntUp a n).flash = c.flash := (rfl)
@[simp] theorem Chip.cntUp_tm (c : Chip) (a n : Nat) : (c.cntUp a n).tm = c.tm := (rfl)
@[simp] theorem Chip.cntUp_align (c : Chip) (a n : Nat) : (c.cntUp a n).align = c.align := (rfl)
@[simp] theorem Chip.cntUp_time (c : Chip) (a n : Nat) : (c.cntUp a n).time = c.time := (rfl)
@[simp] theorem Chip.cntUp_free (c : Chip) (a n : Nat) : (c.cntUp a n).free = c.free := (rfl)
@[simp] theorem Chip.cntUp_mem (c : Chip) (a n : Nat) : (c.cntUp a n).mem = c.mem := (rfl)
@[simp] theorem Chip.cntUp_images (c : Chip) (a n : Nat) : (c.cntUp a n).images = c.images := (rfl)
@[simp] theorem Chip.cntUp_sched (c : Chip) (a n : Nat) : (c.cntUp a n).sched = c.sched := (rfl)
@[simp] theorem Chip.cntUp_groups (c : Chip) (a n : Nat) : (c.cntUp a n).groups = c.groups := (rfl)
@[simp] theorem Chip.cntUp_mor (c : Chip) (a n : Nat) : (c.cntUp a n).mor = c.mor := (rfl)
@[simp] theorem Chip.cntUp_tdc (c : Chip) (a n : Nat) : (c.cntUp a n).tdc = c.tdc := (rfl)
@[simp] theorem Chip.cntUp_adc (c : Chip) (a n : Nat) : (c.cntUp a n).adc = c.adc := (rfl)
@[simp] theorem Chip.cntUp_cal (c : Chip) (a n : Nat) : (c.cntUp a n).cal = c.cal := (rfl)
@[simp] theorem Chip.cntUp_crcDma (c : Chip) (a n : Nat) : (c.cntUp a n).crcDma = c.crcDma := (rfl)
@[simp] theorem Chip.cntUp_sb (c : Chip) (a n : Nat) : (c.cntUp a n).sb = c.sb := (rfl)
@[simp] theorem Chip.cntUp_balls (c : Chip) (a n : Nat) : (c.cntUp a n).balls = c.balls := (rfl)

@[simp] theorem Chip.cntWrap_dev (c : Chip) (a n : Nat) : (c.cntWrap a n).dev = c.dev := (rfl)
@[simp] theorem Chip.cntWrap_led (c : Chip) (a n : Nat) : (c.cntWrap a n).led = c.led := (rfl)
@[simp] theorem Chip.cntWrap_epoch (c : Chip) (a n : Nat) : (c.cntWrap a n).epoch = c.epoch := (rfl)
@[simp] theorem Chip.cntWrap_staging (c : Chip) (a n : Nat) : (c.cntWrap a n).staging = c.staging := (rfl)
@[simp] theorem Chip.cntWrap_cirque (c : Chip) (a n : Nat) : (c.cntWrap a n).cirque = c.cirque := (rfl)
@[simp] theorem Chip.cntWrap_counters (c : Chip) (a n : Nat) : (c.cntWrap a n).counters = c.counters := (rfl)
@[simp] theorem Chip.cntWrap_frozen (c : Chip) (a n : Nat) : (c.cntWrap a n).frozen = c.frozen := (rfl)
@[simp] theorem Chip.cntWrap_cmd (c : Chip) (a n : Nat) : (c.cntWrap a n).cmd = c.cmd := (rfl)
@[simp] theorem Chip.cntWrap_ports (c : Chip) (a n : Nat) : (c.cntWrap a n).ports = c.ports := (rfl)
@[simp] theorem Chip.cntWrap_failover (c : Chip) (a n : Nat) : (c.cntWrap a n).failover = c.failover := (rfl)
@[simp] theorem Chip.cntWrap_notes (c : Chip) (a n : Nat) : (c.cntWrap a n).notes = c.notes := (rfl)
@[simp] theorem Chip.cntWrap_notesDue (c : Chip) (a n : Nat) : (c.cntWrap a n).notesDue = c.notesDue := (rfl)
@[simp] theorem Chip.cntWrap_gap (c : Chip) (a n : Nat) : (c.cntWrap a n).gap = c.gap := (rfl)
@[simp] theorem Chip.cntWrap_snap (c : Chip) (a n : Nat) : (c.cntWrap a n).snap = c.snap := (rfl)
@[simp] theorem Chip.cntWrap_mon (c : Chip) (a n : Nat) : (c.cntWrap a n).mon = c.mon := (rfl)
@[simp] theorem Chip.cntWrap_tap (c : Chip) (a n : Nat) : (c.cntWrap a n).tap = c.tap := (rfl)
@[simp] theorem Chip.cntWrap_flash (c : Chip) (a n : Nat) : (c.cntWrap a n).flash = c.flash := (rfl)
@[simp] theorem Chip.cntWrap_tm (c : Chip) (a n : Nat) : (c.cntWrap a n).tm = c.tm := (rfl)
@[simp] theorem Chip.cntWrap_align (c : Chip) (a n : Nat) : (c.cntWrap a n).align = c.align := (rfl)
@[simp] theorem Chip.cntWrap_time (c : Chip) (a n : Nat) : (c.cntWrap a n).time = c.time := (rfl)
@[simp] theorem Chip.cntWrap_free (c : Chip) (a n : Nat) : (c.cntWrap a n).free = c.free := (rfl)
@[simp] theorem Chip.cntWrap_mem (c : Chip) (a n : Nat) : (c.cntWrap a n).mem = c.mem := (rfl)
@[simp] theorem Chip.cntWrap_images (c : Chip) (a n : Nat) : (c.cntWrap a n).images = c.images := (rfl)
@[simp] theorem Chip.cntWrap_sched (c : Chip) (a n : Nat) : (c.cntWrap a n).sched = c.sched := (rfl)
@[simp] theorem Chip.cntWrap_groups (c : Chip) (a n : Nat) : (c.cntWrap a n).groups = c.groups := (rfl)
@[simp] theorem Chip.cntWrap_mor (c : Chip) (a n : Nat) : (c.cntWrap a n).mor = c.mor := (rfl)
@[simp] theorem Chip.cntWrap_tdc (c : Chip) (a n : Nat) : (c.cntWrap a n).tdc = c.tdc := (rfl)
@[simp] theorem Chip.cntWrap_adc (c : Chip) (a n : Nat) : (c.cntWrap a n).adc = c.adc := (rfl)
@[simp] theorem Chip.cntWrap_cal (c : Chip) (a n : Nat) : (c.cntWrap a n).cal = c.cal := (rfl)
@[simp] theorem Chip.cntWrap_crcDma (c : Chip) (a n : Nat) : (c.cntWrap a n).crcDma = c.crcDma := (rfl)
@[simp] theorem Chip.cntWrap_sb (c : Chip) (a n : Nat) : (c.cntWrap a n).sb = c.sb := (rfl)
@[simp] theorem Chip.cntWrap_balls (c : Chip) (a n : Nat) : (c.cntWrap a n).balls = c.balls := (rfl)

@[simp] theorem Chip.fieldUp_dev (c : Chip) (a hi lo n : Nat) : (c.fieldUp a hi lo n).dev = c.dev := (rfl)
@[simp] theorem Chip.fieldUp_led (c : Chip) (a hi lo n : Nat) : (c.fieldUp a hi lo n).led = c.led := (rfl)
@[simp] theorem Chip.fieldUp_epoch (c : Chip) (a hi lo n : Nat) : (c.fieldUp a hi lo n).epoch = c.epoch := (rfl)
@[simp] theorem Chip.fieldUp_staging (c : Chip) (a hi lo n : Nat) : (c.fieldUp a hi lo n).staging = c.staging := (rfl)
@[simp] theorem Chip.fieldUp_cirque (c : Chip) (a hi lo n : Nat) : (c.fieldUp a hi lo n).cirque = c.cirque := (rfl)
@[simp] theorem Chip.fieldUp_counters (c : Chip) (a hi lo n : Nat) : (c.fieldUp a hi lo n).counters = c.counters := (rfl)
@[simp] theorem Chip.fieldUp_frozen (c : Chip) (a hi lo n : Nat) : (c.fieldUp a hi lo n).frozen = c.frozen := (rfl)
@[simp] theorem Chip.fieldUp_cmd (c : Chip) (a hi lo n : Nat) : (c.fieldUp a hi lo n).cmd = c.cmd := (rfl)
@[simp] theorem Chip.fieldUp_ports (c : Chip) (a hi lo n : Nat) : (c.fieldUp a hi lo n).ports = c.ports := (rfl)
@[simp] theorem Chip.fieldUp_failover (c : Chip) (a hi lo n : Nat) : (c.fieldUp a hi lo n).failover = c.failover := (rfl)
@[simp] theorem Chip.fieldUp_notes (c : Chip) (a hi lo n : Nat) : (c.fieldUp a hi lo n).notes = c.notes := (rfl)
@[simp] theorem Chip.fieldUp_notesDue (c : Chip) (a hi lo n : Nat) : (c.fieldUp a hi lo n).notesDue = c.notesDue := (rfl)
@[simp] theorem Chip.fieldUp_gap (c : Chip) (a hi lo n : Nat) : (c.fieldUp a hi lo n).gap = c.gap := (rfl)
@[simp] theorem Chip.fieldUp_snap (c : Chip) (a hi lo n : Nat) : (c.fieldUp a hi lo n).snap = c.snap := (rfl)
@[simp] theorem Chip.fieldUp_mon (c : Chip) (a hi lo n : Nat) : (c.fieldUp a hi lo n).mon = c.mon := (rfl)
@[simp] theorem Chip.fieldUp_tap (c : Chip) (a hi lo n : Nat) : (c.fieldUp a hi lo n).tap = c.tap := (rfl)
@[simp] theorem Chip.fieldUp_flash (c : Chip) (a hi lo n : Nat) : (c.fieldUp a hi lo n).flash = c.flash := (rfl)
@[simp] theorem Chip.fieldUp_tm (c : Chip) (a hi lo n : Nat) : (c.fieldUp a hi lo n).tm = c.tm := (rfl)
@[simp] theorem Chip.fieldUp_align (c : Chip) (a hi lo n : Nat) : (c.fieldUp a hi lo n).align = c.align := (rfl)
@[simp] theorem Chip.fieldUp_time (c : Chip) (a hi lo n : Nat) : (c.fieldUp a hi lo n).time = c.time := (rfl)
@[simp] theorem Chip.fieldUp_free (c : Chip) (a hi lo n : Nat) : (c.fieldUp a hi lo n).free = c.free := (rfl)
@[simp] theorem Chip.fieldUp_mem (c : Chip) (a hi lo n : Nat) : (c.fieldUp a hi lo n).mem = c.mem := (rfl)
@[simp] theorem Chip.fieldUp_images (c : Chip) (a hi lo n : Nat) : (c.fieldUp a hi lo n).images = c.images := (rfl)
@[simp] theorem Chip.fieldUp_sched (c : Chip) (a hi lo n : Nat) : (c.fieldUp a hi lo n).sched = c.sched := (rfl)
@[simp] theorem Chip.fieldUp_groups (c : Chip) (a hi lo n : Nat) : (c.fieldUp a hi lo n).groups = c.groups := (rfl)
@[simp] theorem Chip.fieldUp_mor (c : Chip) (a hi lo n : Nat) : (c.fieldUp a hi lo n).mor = c.mor := (rfl)
@[simp] theorem Chip.fieldUp_tdc (c : Chip) (a hi lo n : Nat) : (c.fieldUp a hi lo n).tdc = c.tdc := (rfl)
@[simp] theorem Chip.fieldUp_adc (c : Chip) (a hi lo n : Nat) : (c.fieldUp a hi lo n).adc = c.adc := (rfl)
@[simp] theorem Chip.fieldUp_cal (c : Chip) (a hi lo n : Nat) : (c.fieldUp a hi lo n).cal = c.cal := (rfl)
@[simp] theorem Chip.fieldUp_crcDma (c : Chip) (a hi lo n : Nat) : (c.fieldUp a hi lo n).crcDma = c.crcDma := (rfl)
@[simp] theorem Chip.fieldUp_sb (c : Chip) (a hi lo n : Nat) : (c.fieldUp a hi lo n).sb = c.sb := (rfl)
@[simp] theorem Chip.fieldUp_balls (c : Chip) (a hi lo n : Nat) : (c.fieldUp a hi lo n).balls = c.balls := (rfl)

@[simp] theorem Chip.fieldMax_dev (c : Chip) (a hi lo v : Nat) : (c.fieldMax a hi lo v).dev = c.dev := (rfl)
@[simp] theorem Chip.fieldMax_led (c : Chip) (a hi lo v : Nat) : (c.fieldMax a hi lo v).led = c.led := (rfl)
@[simp] theorem Chip.fieldMax_epoch (c : Chip) (a hi lo v : Nat) : (c.fieldMax a hi lo v).epoch = c.epoch := (rfl)
@[simp] theorem Chip.fieldMax_staging (c : Chip) (a hi lo v : Nat) : (c.fieldMax a hi lo v).staging = c.staging := (rfl)
@[simp] theorem Chip.fieldMax_cirque (c : Chip) (a hi lo v : Nat) : (c.fieldMax a hi lo v).cirque = c.cirque := (rfl)
@[simp] theorem Chip.fieldMax_counters (c : Chip) (a hi lo v : Nat) : (c.fieldMax a hi lo v).counters = c.counters := (rfl)
@[simp] theorem Chip.fieldMax_frozen (c : Chip) (a hi lo v : Nat) : (c.fieldMax a hi lo v).frozen = c.frozen := (rfl)
@[simp] theorem Chip.fieldMax_cmd (c : Chip) (a hi lo v : Nat) : (c.fieldMax a hi lo v).cmd = c.cmd := (rfl)
@[simp] theorem Chip.fieldMax_ports (c : Chip) (a hi lo v : Nat) : (c.fieldMax a hi lo v).ports = c.ports := (rfl)
@[simp] theorem Chip.fieldMax_failover (c : Chip) (a hi lo v : Nat) : (c.fieldMax a hi lo v).failover = c.failover := (rfl)
@[simp] theorem Chip.fieldMax_notes (c : Chip) (a hi lo v : Nat) : (c.fieldMax a hi lo v).notes = c.notes := (rfl)
@[simp] theorem Chip.fieldMax_notesDue (c : Chip) (a hi lo v : Nat) : (c.fieldMax a hi lo v).notesDue = c.notesDue := (rfl)
@[simp] theorem Chip.fieldMax_gap (c : Chip) (a hi lo v : Nat) : (c.fieldMax a hi lo v).gap = c.gap := (rfl)
@[simp] theorem Chip.fieldMax_snap (c : Chip) (a hi lo v : Nat) : (c.fieldMax a hi lo v).snap = c.snap := (rfl)
@[simp] theorem Chip.fieldMax_mon (c : Chip) (a hi lo v : Nat) : (c.fieldMax a hi lo v).mon = c.mon := (rfl)
@[simp] theorem Chip.fieldMax_tap (c : Chip) (a hi lo v : Nat) : (c.fieldMax a hi lo v).tap = c.tap := (rfl)
@[simp] theorem Chip.fieldMax_flash (c : Chip) (a hi lo v : Nat) : (c.fieldMax a hi lo v).flash = c.flash := (rfl)
@[simp] theorem Chip.fieldMax_tm (c : Chip) (a hi lo v : Nat) : (c.fieldMax a hi lo v).tm = c.tm := (rfl)
@[simp] theorem Chip.fieldMax_align (c : Chip) (a hi lo v : Nat) : (c.fieldMax a hi lo v).align = c.align := (rfl)
@[simp] theorem Chip.fieldMax_time (c : Chip) (a hi lo v : Nat) : (c.fieldMax a hi lo v).time = c.time := (rfl)
@[simp] theorem Chip.fieldMax_free (c : Chip) (a hi lo v : Nat) : (c.fieldMax a hi lo v).free = c.free := (rfl)
@[simp] theorem Chip.fieldMax_mem (c : Chip) (a hi lo v : Nat) : (c.fieldMax a hi lo v).mem = c.mem := (rfl)
@[simp] theorem Chip.fieldMax_images (c : Chip) (a hi lo v : Nat) : (c.fieldMax a hi lo v).images = c.images := (rfl)
@[simp] theorem Chip.fieldMax_sched (c : Chip) (a hi lo v : Nat) : (c.fieldMax a hi lo v).sched = c.sched := (rfl)
@[simp] theorem Chip.fieldMax_groups (c : Chip) (a hi lo v : Nat) : (c.fieldMax a hi lo v).groups = c.groups := (rfl)
@[simp] theorem Chip.fieldMax_mor (c : Chip) (a hi lo v : Nat) : (c.fieldMax a hi lo v).mor = c.mor := (rfl)
@[simp] theorem Chip.fieldMax_tdc (c : Chip) (a hi lo v : Nat) : (c.fieldMax a hi lo v).tdc = c.tdc := (rfl)
@[simp] theorem Chip.fieldMax_adc (c : Chip) (a hi lo v : Nat) : (c.fieldMax a hi lo v).adc = c.adc := (rfl)
@[simp] theorem Chip.fieldMax_cal (c : Chip) (a hi lo v : Nat) : (c.fieldMax a hi lo v).cal = c.cal := (rfl)
@[simp] theorem Chip.fieldMax_crcDma (c : Chip) (a hi lo v : Nat) : (c.fieldMax a hi lo v).crcDma = c.crcDma := (rfl)
@[simp] theorem Chip.fieldMax_sb (c : Chip) (a hi lo v : Nat) : (c.fieldMax a hi lo v).sb = c.sb := (rfl)
@[simp] theorem Chip.fieldMax_balls (c : Chip) (a hi lo v : Nat) : (c.fieldMax a hi lo v).balls = c.balls := (rfl)

@[simp] theorem Chip.privCheck_dev (c : Chip) (u n bad : Nat) : (c.privCheck u n bad).dev = c.dev := (rfl)
@[simp] theorem Chip.privCheck_led (c : Chip) (u n bad : Nat) : (c.privCheck u n bad).led = c.led := (rfl)
@[simp] theorem Chip.privCheck_epoch (c : Chip) (u n bad : Nat) : (c.privCheck u n bad).epoch = c.epoch := (rfl)
@[simp] theorem Chip.privCheck_staging (c : Chip) (u n bad : Nat) : (c.privCheck u n bad).staging = c.staging := (rfl)
@[simp] theorem Chip.privCheck_cirque (c : Chip) (u n bad : Nat) : (c.privCheck u n bad).cirque = c.cirque := (rfl)
@[simp] theorem Chip.privCheck_counters (c : Chip) (u n bad : Nat) : (c.privCheck u n bad).counters = c.counters := (rfl)
@[simp] theorem Chip.privCheck_frozen (c : Chip) (u n bad : Nat) : (c.privCheck u n bad).frozen = c.frozen := (rfl)
@[simp] theorem Chip.privCheck_cmd (c : Chip) (u n bad : Nat) : (c.privCheck u n bad).cmd = c.cmd := (rfl)
@[simp] theorem Chip.privCheck_ports (c : Chip) (u n bad : Nat) : (c.privCheck u n bad).ports = c.ports := (rfl)
@[simp] theorem Chip.privCheck_failover (c : Chip) (u n bad : Nat) : (c.privCheck u n bad).failover = c.failover := (rfl)
@[simp] theorem Chip.privCheck_notes (c : Chip) (u n bad : Nat) : (c.privCheck u n bad).notes = c.notes := (rfl)
@[simp] theorem Chip.privCheck_notesDue (c : Chip) (u n bad : Nat) : (c.privCheck u n bad).notesDue = c.notesDue := (rfl)
@[simp] theorem Chip.privCheck_gap (c : Chip) (u n bad : Nat) : (c.privCheck u n bad).gap = c.gap := (rfl)
@[simp] theorem Chip.privCheck_snap (c : Chip) (u n bad : Nat) : (c.privCheck u n bad).snap = c.snap := (rfl)
@[simp] theorem Chip.privCheck_mon (c : Chip) (u n bad : Nat) : (c.privCheck u n bad).mon = c.mon := (rfl)
@[simp] theorem Chip.privCheck_tap (c : Chip) (u n bad : Nat) : (c.privCheck u n bad).tap = c.tap := (rfl)
@[simp] theorem Chip.privCheck_flash (c : Chip) (u n bad : Nat) : (c.privCheck u n bad).flash = c.flash := (rfl)
@[simp] theorem Chip.privCheck_tm (c : Chip) (u n bad : Nat) : (c.privCheck u n bad).tm = c.tm := (rfl)
@[simp] theorem Chip.privCheck_align (c : Chip) (u n bad : Nat) : (c.privCheck u n bad).align = c.align := (rfl)
@[simp] theorem Chip.privCheck_time (c : Chip) (u n bad : Nat) : (c.privCheck u n bad).time = c.time := (rfl)
@[simp] theorem Chip.privCheck_free (c : Chip) (u n bad : Nat) : (c.privCheck u n bad).free = c.free := (rfl)
@[simp] theorem Chip.privCheck_mem (c : Chip) (u n bad : Nat) : (c.privCheck u n bad).mem = c.mem := (rfl)
@[simp] theorem Chip.privCheck_images (c : Chip) (u n bad : Nat) : (c.privCheck u n bad).images = c.images := (rfl)
@[simp] theorem Chip.privCheck_sched (c : Chip) (u n bad : Nat) : (c.privCheck u n bad).sched = c.sched := (rfl)
@[simp] theorem Chip.privCheck_groups (c : Chip) (u n bad : Nat) : (c.privCheck u n bad).groups = c.groups := (rfl)
@[simp] theorem Chip.privCheck_mor (c : Chip) (u n bad : Nat) : (c.privCheck u n bad).mor = c.mor := (rfl)
@[simp] theorem Chip.privCheck_tdc (c : Chip) (u n bad : Nat) : (c.privCheck u n bad).tdc = c.tdc := (rfl)
@[simp] theorem Chip.privCheck_adc (c : Chip) (u n bad : Nat) : (c.privCheck u n bad).adc = c.adc := (rfl)
@[simp] theorem Chip.privCheck_cal (c : Chip) (u n bad : Nat) : (c.privCheck u n bad).cal = c.cal := (rfl)
@[simp] theorem Chip.privCheck_crcDma (c : Chip) (u n bad : Nat) : (c.privCheck u n bad).crcDma = c.crcDma := (rfl)
@[simp] theorem Chip.privCheck_sb (c : Chip) (u n bad : Nat) : (c.privCheck u n bad).sb = c.sb := (rfl)
@[simp] theorem Chip.privCheck_balls (c : Chip) (u n bad : Nat) : (c.privCheck u n bad).balls = c.balls := (rfl)

theorem Chip.setRegs_shape (ws : List Word) : ∀ (c : Chip) (a : Nat), ∃ r, c.setRegs a ws = { c with regs := r } := by
  induction ws with
  | nil => intro c a; exact ⟨c.regs, rfl⟩
  | cons w ws ih => intro c a; exact ih (c.setReg a w) (a + 4)

@[simp] theorem Chip.setRegs_dev (c : Chip) (a : Nat) (ws : List Word) : (c.setRegs a ws).dev = c.dev := by
 obtain ⟨r, h⟩ := Chip.setRegs_shape ws c a; rw [h]
@[simp] theorem Chip.setRegs_led (c : Chip) (a : Nat) (ws : List Word) : (c.setRegs a ws).led = c.led := by
 obtain ⟨r, h⟩ := Chip.setRegs_shape ws c a; rw [h]
@[simp] theorem Chip.setRegs_epoch (c : Chip) (a : Nat) (ws : List Word) : (c.setRegs a ws).epoch = c.epoch := by
 obtain ⟨r, h⟩ := Chip.setRegs_shape ws c a; rw [h]
@[simp] theorem Chip.setRegs_staging (c : Chip) (a : Nat) (ws : List Word) : (c.setRegs a ws).staging = c.staging := by
 obtain ⟨r, h⟩ := Chip.setRegs_shape ws c a; rw [h]
@[simp] theorem Chip.setRegs_cirque (c : Chip) (a : Nat) (ws : List Word) : (c.setRegs a ws).cirque = c.cirque := by
 obtain ⟨r, h⟩ := Chip.setRegs_shape ws c a; rw [h]
@[simp] theorem Chip.setRegs_counters (c : Chip) (a : Nat) (ws : List Word) : (c.setRegs a ws).counters = c.counters := by
 obtain ⟨r, h⟩ := Chip.setRegs_shape ws c a; rw [h]
@[simp] theorem Chip.setRegs_frozen (c : Chip) (a : Nat) (ws : List Word) : (c.setRegs a ws).frozen = c.frozen := by
 obtain ⟨r, h⟩ := Chip.setRegs_shape ws c a; rw [h]
@[simp] theorem Chip.setRegs_cmd (c : Chip) (a : Nat) (ws : List Word) : (c.setRegs a ws).cmd = c.cmd := by
 obtain ⟨r, h⟩ := Chip.setRegs_shape ws c a; rw [h]
@[simp] theorem Chip.setRegs_ports (c : Chip) (a : Nat) (ws : List Word) : (c.setRegs a ws).ports = c.ports := by
 obtain ⟨r, h⟩ := Chip.setRegs_shape ws c a; rw [h]
@[simp] theorem Chip.setRegs_failover (c : Chip) (a : Nat) (ws : List Word) : (c.setRegs a ws).failover = c.failover := by
 obtain ⟨r, h⟩ := Chip.setRegs_shape ws c a; rw [h]
@[simp] theorem Chip.setRegs_notes (c : Chip) (a : Nat) (ws : List Word) : (c.setRegs a ws).notes = c.notes := by
 obtain ⟨r, h⟩ := Chip.setRegs_shape ws c a; rw [h]
@[simp] theorem Chip.setRegs_notesDue (c : Chip) (a : Nat) (ws : List Word) : (c.setRegs a ws).notesDue = c.notesDue := by
 obtain ⟨r, h⟩ := Chip.setRegs_shape ws c a; rw [h]
@[simp] theorem Chip.setRegs_gap (c : Chip) (a : Nat) (ws : List Word) : (c.setRegs a ws).gap = c.gap := by
 obtain ⟨r, h⟩ := Chip.setRegs_shape ws c a; rw [h]
@[simp] theorem Chip.setRegs_snap (c : Chip) (a : Nat) (ws : List Word) : (c.setRegs a ws).snap = c.snap := by
 obtain ⟨r, h⟩ := Chip.setRegs_shape ws c a; rw [h]
@[simp] theorem Chip.setRegs_mon (c : Chip) (a : Nat) (ws : List Word) : (c.setRegs a ws).mon = c.mon := by
 obtain ⟨r, h⟩ := Chip.setRegs_shape ws c a; rw [h]
@[simp] theorem Chip.setRegs_tap (c : Chip) (a : Nat) (ws : List Word) : (c.setRegs a ws).tap = c.tap := by
 obtain ⟨r, h⟩ := Chip.setRegs_shape ws c a; rw [h]
@[simp] theorem Chip.setRegs_flash (c : Chip) (a : Nat) (ws : List Word) : (c.setRegs a ws).flash = c.flash := by
 obtain ⟨r, h⟩ := Chip.setRegs_shape ws c a; rw [h]
@[simp] theorem Chip.setRegs_tm (c : Chip) (a : Nat) (ws : List Word) : (c.setRegs a ws).tm = c.tm := by
 obtain ⟨r, h⟩ := Chip.setRegs_shape ws c a; rw [h]
@[simp] theorem Chip.setRegs_align (c : Chip) (a : Nat) (ws : List Word) : (c.setRegs a ws).align = c.align := by
 obtain ⟨r, h⟩ := Chip.setRegs_shape ws c a; rw [h]
@[simp] theorem Chip.setRegs_time (c : Chip) (a : Nat) (ws : List Word) : (c.setRegs a ws).time = c.time := by
 obtain ⟨r, h⟩ := Chip.setRegs_shape ws c a; rw [h]
@[simp] theorem Chip.setRegs_free (c : Chip) (a : Nat) (ws : List Word) : (c.setRegs a ws).free = c.free := by
 obtain ⟨r, h⟩ := Chip.setRegs_shape ws c a; rw [h]
@[simp] theorem Chip.setRegs_mem (c : Chip) (a : Nat) (ws : List Word) : (c.setRegs a ws).mem = c.mem := by
 obtain ⟨r, h⟩ := Chip.setRegs_shape ws c a; rw [h]
@[simp] theorem Chip.setRegs_images (c : Chip) (a : Nat) (ws : List Word) : (c.setRegs a ws).images = c.images := by
 obtain ⟨r, h⟩ := Chip.setRegs_shape ws c a; rw [h]
@[simp] theorem Chip.setRegs_sched (c : Chip) (a : Nat) (ws : List Word) : (c.setRegs a ws).sched = c.sched := by
 obtain ⟨r, h⟩ := Chip.setRegs_shape ws c a; rw [h]
@[simp] theorem Chip.setRegs_groups (c : Chip) (a : Nat) (ws : List Word) : (c.setRegs a ws).groups = c.groups := by
 obtain ⟨r, h⟩ := Chip.setRegs_shape ws c a; rw [h]
@[simp] theorem Chip.setRegs_mor (c : Chip) (a : Nat) (ws : List Word) : (c.setRegs a ws).mor = c.mor := by
 obtain ⟨r, h⟩ := Chip.setRegs_shape ws c a; rw [h]
@[simp] theorem Chip.setRegs_tdc (c : Chip) (a : Nat) (ws : List Word) : (c.setRegs a ws).tdc = c.tdc := by
 obtain ⟨r, h⟩ := Chip.setRegs_shape ws c a; rw [h]
@[simp] theorem Chip.setRegs_adc (c : Chip) (a : Nat) (ws : List Word) : (c.setRegs a ws).adc = c.adc := by
 obtain ⟨r, h⟩ := Chip.setRegs_shape ws c a; rw [h]
@[simp] theorem Chip.setRegs_cal (c : Chip) (a : Nat) (ws : List Word) : (c.setRegs a ws).cal = c.cal := by
 obtain ⟨r, h⟩ := Chip.setRegs_shape ws c a; rw [h]
@[simp] theorem Chip.setRegs_crcDma (c : Chip) (a : Nat) (ws : List Word) : (c.setRegs a ws).crcDma = c.crcDma := by
 obtain ⟨r, h⟩ := Chip.setRegs_shape ws c a; rw [h]
@[simp] theorem Chip.setRegs_sb (c : Chip) (a : Nat) (ws : List Word) : (c.setRegs a ws).sb = c.sb := by
 obtain ⟨r, h⟩ := Chip.setRegs_shape ws c a; rw [h]
@[simp] theorem Chip.setRegs_balls (c : Chip) (a : Nat) (ws : List Word) : (c.setRegs a ws).balls = c.balls := by
 obtain ⟨r, h⟩ := Chip.setRegs_shape ws c a; rw [h]

@[simp] theorem Chip.ledAdd_dev (c : Chip) (a n : Nat) : (c.ledAdd a n).dev = c.dev := (rfl)
@[simp] theorem Chip.ledAdd_regs (c : Chip) (a n : Nat) : (c.ledAdd a n).regs = c.regs := (rfl)
@[simp] theorem Chip.ledAdd_epoch (c : Chip) (a n : Nat) : (c.ledAdd a n).epoch = c.epoch := (rfl)
@[simp] theorem Chip.ledAdd_staging (c : Chip) (a n : Nat) : (c.ledAdd a n).staging = c.staging := (rfl)
@[simp] theorem Chip.ledAdd_cirque (c : Chip) (a n : Nat) : (c.ledAdd a n).cirque = c.cirque := (rfl)
@[simp] theorem Chip.ledAdd_counters (c : Chip) (a n : Nat) : (c.ledAdd a n).counters = c.counters := (rfl)
@[simp] theorem Chip.ledAdd_frozen (c : Chip) (a n : Nat) : (c.ledAdd a n).frozen = c.frozen := (rfl)
@[simp] theorem Chip.ledAdd_cmd (c : Chip) (a n : Nat) : (c.ledAdd a n).cmd = c.cmd := (rfl)
@[simp] theorem Chip.ledAdd_ports (c : Chip) (a n : Nat) : (c.ledAdd a n).ports = c.ports := (rfl)
@[simp] theorem Chip.ledAdd_failover (c : Chip) (a n : Nat) : (c.ledAdd a n).failover = c.failover := (rfl)
@[simp] theorem Chip.ledAdd_notes (c : Chip) (a n : Nat) : (c.ledAdd a n).notes = c.notes := (rfl)
@[simp] theorem Chip.ledAdd_notesDue (c : Chip) (a n : Nat) : (c.ledAdd a n).notesDue = c.notesDue := (rfl)
@[simp] theorem Chip.ledAdd_gap (c : Chip) (a n : Nat) : (c.ledAdd a n).gap = c.gap := (rfl)
@[simp] theorem Chip.ledAdd_snap (c : Chip) (a n : Nat) : (c.ledAdd a n).snap = c.snap := (rfl)
@[simp] theorem Chip.ledAdd_mon (c : Chip) (a n : Nat) : (c.ledAdd a n).mon = c.mon := (rfl)
@[simp] theorem Chip.ledAdd_tap (c : Chip) (a n : Nat) : (c.ledAdd a n).tap = c.tap := (rfl)
@[simp] theorem Chip.ledAdd_flash (c : Chip) (a n : Nat) : (c.ledAdd a n).flash = c.flash := (rfl)
@[simp] theorem Chip.ledAdd_tm (c : Chip) (a n : Nat) : (c.ledAdd a n).tm = c.tm := (rfl)
@[simp] theorem Chip.ledAdd_align (c : Chip) (a n : Nat) : (c.ledAdd a n).align = c.align := (rfl)
@[simp] theorem Chip.ledAdd_time (c : Chip) (a n : Nat) : (c.ledAdd a n).time = c.time := (rfl)
@[simp] theorem Chip.ledAdd_free (c : Chip) (a n : Nat) : (c.ledAdd a n).free = c.free := (rfl)
@[simp] theorem Chip.ledAdd_mem (c : Chip) (a n : Nat) : (c.ledAdd a n).mem = c.mem := (rfl)
@[simp] theorem Chip.ledAdd_images (c : Chip) (a n : Nat) : (c.ledAdd a n).images = c.images := (rfl)
@[simp] theorem Chip.ledAdd_sched (c : Chip) (a n : Nat) : (c.ledAdd a n).sched = c.sched := (rfl)
@[simp] theorem Chip.ledAdd_groups (c : Chip) (a n : Nat) : (c.ledAdd a n).groups = c.groups := (rfl)
@[simp] theorem Chip.ledAdd_mor (c : Chip) (a n : Nat) : (c.ledAdd a n).mor = c.mor := (rfl)
@[simp] theorem Chip.ledAdd_tdc (c : Chip) (a n : Nat) : (c.ledAdd a n).tdc = c.tdc := (rfl)
@[simp] theorem Chip.ledAdd_adc (c : Chip) (a n : Nat) : (c.ledAdd a n).adc = c.adc := (rfl)
@[simp] theorem Chip.ledAdd_cal (c : Chip) (a n : Nat) : (c.ledAdd a n).cal = c.cal := (rfl)
@[simp] theorem Chip.ledAdd_crcDma (c : Chip) (a n : Nat) : (c.ledAdd a n).crcDma = c.crcDma := (rfl)
@[simp] theorem Chip.ledAdd_sb (c : Chip) (a n : Nat) : (c.ledAdd a n).sb = c.sb := (rfl)
@[simp] theorem Chip.ledAdd_balls (c : Chip) (a n : Nat) : (c.ledAdd a n).balls = c.balls := (rfl)

@[simp] theorem Chip.ledSub_dev (c : Chip) (a n : Nat) : (c.ledSub a n).dev = c.dev := (rfl)
@[simp] theorem Chip.ledSub_regs (c : Chip) (a n : Nat) : (c.ledSub a n).regs = c.regs := (rfl)
@[simp] theorem Chip.ledSub_epoch (c : Chip) (a n : Nat) : (c.ledSub a n).epoch = c.epoch := (rfl)
@[simp] theorem Chip.ledSub_staging (c : Chip) (a n : Nat) : (c.ledSub a n).staging = c.staging := (rfl)
@[simp] theorem Chip.ledSub_cirque (c : Chip) (a n : Nat) : (c.ledSub a n).cirque = c.cirque := (rfl)
@[simp] theorem Chip.ledSub_counters (c : Chip) (a n : Nat) : (c.ledSub a n).counters = c.counters := (rfl)
@[simp] theorem Chip.ledSub_frozen (c : Chip) (a n : Nat) : (c.ledSub a n).frozen = c.frozen := (rfl)
@[simp] theorem Chip.ledSub_cmd (c : Chip) (a n : Nat) : (c.ledSub a n).cmd = c.cmd := (rfl)
@[simp] theorem Chip.ledSub_ports (c : Chip) (a n : Nat) : (c.ledSub a n).ports = c.ports := (rfl)
@[simp] theorem Chip.ledSub_failover (c : Chip) (a n : Nat) : (c.ledSub a n).failover = c.failover := (rfl)
@[simp] theorem Chip.ledSub_notes (c : Chip) (a n : Nat) : (c.ledSub a n).notes = c.notes := (rfl)
@[simp] theorem Chip.ledSub_notesDue (c : Chip) (a n : Nat) : (c.ledSub a n).notesDue = c.notesDue := (rfl)
@[simp] theorem Chip.ledSub_gap (c : Chip) (a n : Nat) : (c.ledSub a n).gap = c.gap := (rfl)
@[simp] theorem Chip.ledSub_snap (c : Chip) (a n : Nat) : (c.ledSub a n).snap = c.snap := (rfl)
@[simp] theorem Chip.ledSub_mon (c : Chip) (a n : Nat) : (c.ledSub a n).mon = c.mon := (rfl)
@[simp] theorem Chip.ledSub_tap (c : Chip) (a n : Nat) : (c.ledSub a n).tap = c.tap := (rfl)
@[simp] theorem Chip.ledSub_flash (c : Chip) (a n : Nat) : (c.ledSub a n).flash = c.flash := (rfl)
@[simp] theorem Chip.ledSub_tm (c : Chip) (a n : Nat) : (c.ledSub a n).tm = c.tm := (rfl)
@[simp] theorem Chip.ledSub_align (c : Chip) (a n : Nat) : (c.ledSub a n).align = c.align := (rfl)
@[simp] theorem Chip.ledSub_time (c : Chip) (a n : Nat) : (c.ledSub a n).time = c.time := (rfl)
@[simp] theorem Chip.ledSub_free (c : Chip) (a n : Nat) : (c.ledSub a n).free = c.free := (rfl)
@[simp] theorem Chip.ledSub_mem (c : Chip) (a n : Nat) : (c.ledSub a n).mem = c.mem := (rfl)
@[simp] theorem Chip.ledSub_images (c : Chip) (a n : Nat) : (c.ledSub a n).images = c.images := (rfl)
@[simp] theorem Chip.ledSub_sched (c : Chip) (a n : Nat) : (c.ledSub a n).sched = c.sched := (rfl)
@[simp] theorem Chip.ledSub_groups (c : Chip) (a n : Nat) : (c.ledSub a n).groups = c.groups := (rfl)
@[simp] theorem Chip.ledSub_mor (c : Chip) (a n : Nat) : (c.ledSub a n).mor = c.mor := (rfl)
@[simp] theorem Chip.ledSub_tdc (c : Chip) (a n : Nat) : (c.ledSub a n).tdc = c.tdc := (rfl)
@[simp] theorem Chip.ledSub_adc (c : Chip) (a n : Nat) : (c.ledSub a n).adc = c.adc := (rfl)
@[simp] theorem Chip.ledSub_cal (c : Chip) (a n : Nat) : (c.ledSub a n).cal = c.cal := (rfl)
@[simp] theorem Chip.ledSub_crcDma (c : Chip) (a n : Nat) : (c.ledSub a n).crcDma = c.crcDma := (rfl)
@[simp] theorem Chip.ledSub_sb (c : Chip) (a n : Nat) : (c.ledSub a n).sb = c.sb := (rfl)
@[simp] theorem Chip.ledSub_balls (c : Chip) (a n : Nat) : (c.ledSub a n).balls = c.balls := (rfl)

@[simp] theorem Chip.ledMove_dev (c : Chip) (a b n : Nat) : (c.ledMove a b n).dev = c.dev := (rfl)
@[simp] theorem Chip.ledMove_regs (c : Chip) (a b n : Nat) : (c.ledMove a b n).regs = c.regs := (rfl)
@[simp] theorem Chip.ledMove_epoch (c : Chip) (a b n : Nat) : (c.ledMove a b n).epoch = c.epoch := (rfl)
@[simp] theorem Chip.ledMove_staging (c : Chip) (a b n : Nat) : (c.ledMove a b n).staging = c.staging := (rfl)
@[simp] theorem Chip.ledMove_cirque (c : Chip) (a b n : Nat) : (c.ledMove a b n).cirque = c.cirque := (rfl)
@[simp] theorem Chip.ledMove_counters (c : Chip) (a b n : Nat) : (c.ledMove a b n).counters = c.counters := (rfl)
@[simp] theorem Chip.ledMove_frozen (c : Chip) (a b n : Nat) : (c.ledMove a b n).frozen = c.frozen := (rfl)
@[simp] theorem Chip.ledMove_cmd (c : Chip) (a b n : Nat) : (c.ledMove a b n).cmd = c.cmd := (rfl)
@[simp] theorem Chip.ledMove_ports (c : Chip) (a b n : Nat) : (c.ledMove a b n).ports = c.ports := (rfl)
@[simp] theorem Chip.ledMove_failover (c : Chip) (a b n : Nat) : (c.ledMove a b n).failover = c.failover := (rfl)
@[simp] theorem Chip.ledMove_notes (c : Chip) (a b n : Nat) : (c.ledMove a b n).notes = c.notes := (rfl)
@[simp] theorem Chip.ledMove_notesDue (c : Chip) (a b n : Nat) : (c.ledMove a b n).notesDue = c.notesDue := (rfl)
@[simp] theorem Chip.ledMove_gap (c : Chip) (a b n : Nat) : (c.ledMove a b n).gap = c.gap := (rfl)
@[simp] theorem Chip.ledMove_snap (c : Chip) (a b n : Nat) : (c.ledMove a b n).snap = c.snap := (rfl)
@[simp] theorem Chip.ledMove_mon (c : Chip) (a b n : Nat) : (c.ledMove a b n).mon = c.mon := (rfl)
@[simp] theorem Chip.ledMove_tap (c : Chip) (a b n : Nat) : (c.ledMove a b n).tap = c.tap := (rfl)
@[simp] theorem Chip.ledMove_flash (c : Chip) (a b n : Nat) : (c.ledMove a b n).flash = c.flash := (rfl)
@[simp] theorem Chip.ledMove_tm (c : Chip) (a b n : Nat) : (c.ledMove a b n).tm = c.tm := (rfl)
@[simp] theorem Chip.ledMove_align (c : Chip) (a b n : Nat) : (c.ledMove a b n).align = c.align := (rfl)
@[simp] theorem Chip.ledMove_time (c : Chip) (a b n : Nat) : (c.ledMove a b n).time = c.time := (rfl)
@[simp] theorem Chip.ledMove_free (c : Chip) (a b n : Nat) : (c.ledMove a b n).free = c.free := (rfl)
@[simp] theorem Chip.ledMove_mem (c : Chip) (a b n : Nat) : (c.ledMove a b n).mem = c.mem := (rfl)
@[simp] theorem Chip.ledMove_images (c : Chip) (a b n : Nat) : (c.ledMove a b n).images = c.images := (rfl)
@[simp] theorem Chip.ledMove_sched (c : Chip) (a b n : Nat) : (c.ledMove a b n).sched = c.sched := (rfl)
@[simp] theorem Chip.ledMove_groups (c : Chip) (a b n : Nat) : (c.ledMove a b n).groups = c.groups := (rfl)
@[simp] theorem Chip.ledMove_mor (c : Chip) (a b n : Nat) : (c.ledMove a b n).mor = c.mor := (rfl)
@[simp] theorem Chip.ledMove_tdc (c : Chip) (a b n : Nat) : (c.ledMove a b n).tdc = c.tdc := (rfl)
@[simp] theorem Chip.ledMove_adc (c : Chip) (a b n : Nat) : (c.ledMove a b n).adc = c.adc := (rfl)
@[simp] theorem Chip.ledMove_cal (c : Chip) (a b n : Nat) : (c.ledMove a b n).cal = c.cal := (rfl)
@[simp] theorem Chip.ledMove_crcDma (c : Chip) (a b n : Nat) : (c.ledMove a b n).crcDma = c.crcDma := (rfl)
@[simp] theorem Chip.ledMove_sb (c : Chip) (a b n : Nat) : (c.ledMove a b n).sb = c.sb := (rfl)
@[simp] theorem Chip.ledMove_balls (c : Chip) (a b n : Nat) : (c.ledMove a b n).balls = c.balls := (rfl)

@[simp] theorem Chip.setPort_dev (c : Chip) (q : Nat) (p : PortLink) : (c.setPort q p).dev = c.dev := (rfl)
@[simp] theorem Chip.setPort_regs (c : Chip) (q : Nat) (p : PortLink) : (c.setPort q p).regs = c.regs := (rfl)
@[simp] theorem Chip.setPort_led (c : Chip) (q : Nat) (p : PortLink) : (c.setPort q p).led = c.led := (rfl)
@[simp] theorem Chip.setPort_epoch (c : Chip) (q : Nat) (p : PortLink) : (c.setPort q p).epoch = c.epoch := (rfl)
@[simp] theorem Chip.setPort_staging (c : Chip) (q : Nat) (p : PortLink) : (c.setPort q p).staging = c.staging := (rfl)
@[simp] theorem Chip.setPort_cirque (c : Chip) (q : Nat) (p : PortLink) : (c.setPort q p).cirque = c.cirque := (rfl)
@[simp] theorem Chip.setPort_counters (c : Chip) (q : Nat) (p : PortLink) : (c.setPort q p).counters = c.counters := (rfl)
@[simp] theorem Chip.setPort_frozen (c : Chip) (q : Nat) (p : PortLink) : (c.setPort q p).frozen = c.frozen := (rfl)
@[simp] theorem Chip.setPort_cmd (c : Chip) (q : Nat) (p : PortLink) : (c.setPort q p).cmd = c.cmd := (rfl)
@[simp] theorem Chip.setPort_failover (c : Chip) (q : Nat) (p : PortLink) : (c.setPort q p).failover = c.failover := (rfl)
@[simp] theorem Chip.setPort_notes (c : Chip) (q : Nat) (p : PortLink) : (c.setPort q p).notes = c.notes := (rfl)
@[simp] theorem Chip.setPort_notesDue (c : Chip) (q : Nat) (p : PortLink) : (c.setPort q p).notesDue = c.notesDue := (rfl)
@[simp] theorem Chip.setPort_gap (c : Chip) (q : Nat) (p : PortLink) : (c.setPort q p).gap = c.gap := (rfl)
@[simp] theorem Chip.setPort_snap (c : Chip) (q : Nat) (p : PortLink) : (c.setPort q p).snap = c.snap := (rfl)
@[simp] theorem Chip.setPort_mon (c : Chip) (q : Nat) (p : PortLink) : (c.setPort q p).mon = c.mon := (rfl)
@[simp] theorem Chip.setPort_tap (c : Chip) (q : Nat) (p : PortLink) : (c.setPort q p).tap = c.tap := (rfl)
@[simp] theorem Chip.setPort_flash (c : Chip) (q : Nat) (p : PortLink) : (c.setPort q p).flash = c.flash := (rfl)
@[simp] theorem Chip.setPort_tm (c : Chip) (q : Nat) (p : PortLink) : (c.setPort q p).tm = c.tm := (rfl)
@[simp] theorem Chip.setPort_align (c : Chip) (q : Nat) (p : PortLink) : (c.setPort q p).align = c.align := (rfl)
@[simp] theorem Chip.setPort_time (c : Chip) (q : Nat) (p : PortLink) : (c.setPort q p).time = c.time := (rfl)
@[simp] theorem Chip.setPort_free (c : Chip) (q : Nat) (p : PortLink) : (c.setPort q p).free = c.free := (rfl)
@[simp] theorem Chip.setPort_mem (c : Chip) (q : Nat) (p : PortLink) : (c.setPort q p).mem = c.mem := (rfl)
@[simp] theorem Chip.setPort_images (c : Chip) (q : Nat) (p : PortLink) : (c.setPort q p).images = c.images := (rfl)
@[simp] theorem Chip.setPort_sched (c : Chip) (q : Nat) (p : PortLink) : (c.setPort q p).sched = c.sched := (rfl)
@[simp] theorem Chip.setPort_groups (c : Chip) (q : Nat) (p : PortLink) : (c.setPort q p).groups = c.groups := (rfl)
@[simp] theorem Chip.setPort_mor (c : Chip) (q : Nat) (p : PortLink) : (c.setPort q p).mor = c.mor := (rfl)
@[simp] theorem Chip.setPort_tdc (c : Chip) (q : Nat) (p : PortLink) : (c.setPort q p).tdc = c.tdc := (rfl)
@[simp] theorem Chip.setPort_adc (c : Chip) (q : Nat) (p : PortLink) : (c.setPort q p).adc = c.adc := (rfl)
@[simp] theorem Chip.setPort_cal (c : Chip) (q : Nat) (p : PortLink) : (c.setPort q p).cal = c.cal := (rfl)
@[simp] theorem Chip.setPort_crcDma (c : Chip) (q : Nat) (p : PortLink) : (c.setPort q p).crcDma = c.crcDma := (rfl)
@[simp] theorem Chip.setPort_sb (c : Chip) (q : Nat) (p : PortLink) : (c.setPort q p).sb = c.sb := (rfl)
@[simp] theorem Chip.setPort_balls (c : Chip) (q : Nat) (p : PortLink) : (c.setPort q p).balls = c.balls := (rfl)

@[simp] theorem Chip.updPort_dev (c : Chip) (q : Nat) (f : PortLink → PortLink) : (c.updPort q f).dev = c.dev := (rfl)
@[simp] theorem Chip.updPort_regs (c : Chip) (q : Nat) (f : PortLink → PortLink) : (c.updPort q f).regs = c.regs := (rfl)
@[simp] theorem Chip.updPort_led (c : Chip) (q : Nat) (f : PortLink → PortLink) : (c.updPort q f).led = c.led := (rfl)
@[simp] theorem Chip.updPort_epoch (c : Chip) (q : Nat) (f : PortLink → PortLink) : (c.updPort q f).epoch = c.epoch := (rfl)
@[simp] theorem Chip.updPort_staging (c : Chip) (q : Nat) (f : PortLink → PortLink) : (c.updPort q f).staging = c.staging := (rfl)
@[simp] theorem Chip.updPort_cirque (c : Chip) (q : Nat) (f : PortLink → PortLink) : (c.updPort q f).cirque = c.cirque := (rfl)
@[simp] theorem Chip.updPort_counters (c : Chip) (q : Nat) (f : PortLink → PortLink) : (c.updPort q f).counters = c.counters := (rfl)
@[simp] theorem Chip.updPort_frozen (c : Chip) (q : Nat) (f : PortLink → PortLink) : (c.updPort q f).frozen = c.frozen := (rfl)
@[simp] theorem Chip.updPort_cmd (c : Chip) (q : Nat) (f : PortLink → PortLink) : (c.updPort q f).cmd = c.cmd := (rfl)
@[simp] theorem Chip.updPort_failover (c : Chip) (q : Nat) (f : PortLink → PortLink) : (c.updPort q f).failover = c.failover := (rfl)
@[simp] theorem Chip.updPort_notes (c : Chip) (q : Nat) (f : PortLink → PortLink) : (c.updPort q f).notes = c.notes := (rfl)
@[simp] theorem Chip.updPort_notesDue (c : Chip) (q : Nat) (f : PortLink → PortLink) : (c.updPort q f).notesDue = c.notesDue := (rfl)
@[simp] theorem Chip.updPort_gap (c : Chip) (q : Nat) (f : PortLink → PortLink) : (c.updPort q f).gap = c.gap := (rfl)
@[simp] theorem Chip.updPort_snap (c : Chip) (q : Nat) (f : PortLink → PortLink) : (c.updPort q f).snap = c.snap := (rfl)
@[simp] theorem Chip.updPort_mon (c : Chip) (q : Nat) (f : PortLink → PortLink) : (c.updPort q f).mon = c.mon := (rfl)
@[simp] theorem Chip.updPort_tap (c : Chip) (q : Nat) (f : PortLink → PortLink) : (c.updPort q f).tap = c.tap := (rfl)
@[simp] theorem Chip.updPort_flash (c : Chip) (q : Nat) (f : PortLink → PortLink) : (c.updPort q f).flash = c.flash := (rfl)
@[simp] theorem Chip.updPort_tm (c : Chip) (q : Nat) (f : PortLink → PortLink) : (c.updPort q f).tm = c.tm := (rfl)
@[simp] theorem Chip.updPort_align (c : Chip) (q : Nat) (f : PortLink → PortLink) : (c.updPort q f).align = c.align := (rfl)
@[simp] theorem Chip.updPort_time (c : Chip) (q : Nat) (f : PortLink → PortLink) : (c.updPort q f).time = c.time := (rfl)
@[simp] theorem Chip.updPort_free (c : Chip) (q : Nat) (f : PortLink → PortLink) : (c.updPort q f).free = c.free := (rfl)
@[simp] theorem Chip.updPort_mem (c : Chip) (q : Nat) (f : PortLink → PortLink) : (c.updPort q f).mem = c.mem := (rfl)
@[simp] theorem Chip.updPort_images (c : Chip) (q : Nat) (f : PortLink → PortLink) : (c.updPort q f).images = c.images := (rfl)
@[simp] theorem Chip.updPort_sched (c : Chip) (q : Nat) (f : PortLink → PortLink) : (c.updPort q f).sched = c.sched := (rfl)
@[simp] theorem Chip.updPort_groups (c : Chip) (q : Nat) (f : PortLink → PortLink) : (c.updPort q f).groups = c.groups := (rfl)
@[simp] theorem Chip.updPort_mor (c : Chip) (q : Nat) (f : PortLink → PortLink) : (c.updPort q f).mor = c.mor := (rfl)
@[simp] theorem Chip.updPort_tdc (c : Chip) (q : Nat) (f : PortLink → PortLink) : (c.updPort q f).tdc = c.tdc := (rfl)
@[simp] theorem Chip.updPort_adc (c : Chip) (q : Nat) (f : PortLink → PortLink) : (c.updPort q f).adc = c.adc := (rfl)
@[simp] theorem Chip.updPort_cal (c : Chip) (q : Nat) (f : PortLink → PortLink) : (c.updPort q f).cal = c.cal := (rfl)
@[simp] theorem Chip.updPort_crcDma (c : Chip) (q : Nat) (f : PortLink → PortLink) : (c.updPort q f).crcDma = c.crcDma := (rfl)
@[simp] theorem Chip.updPort_sb (c : Chip) (q : Nat) (f : PortLink → PortLink) : (c.updPort q f).sb = c.sb := (rfl)
@[simp] theorem Chip.updPort_balls (c : Chip) (q : Nat) (f : PortLink → PortLink) : (c.updPort q f).balls = c.balls := (rfl)

@[simp] theorem Chip.enqueue_dev (c : Chip) (q : Nat) (f : Frame) : (c.enqueue q f).dev = c.dev := (rfl)
@[simp] theorem Chip.enqueue_regs (c : Chip) (q : Nat) (f : Frame) : (c.enqueue q f).regs = c.regs := (rfl)
@[simp] theorem Chip.enqueue_led (c : Chip) (q : Nat) (f : Frame) : (c.enqueue q f).led = c.led := (rfl)
@[simp] theorem Chip.enqueue_epoch (c : Chip) (q : Nat) (f : Frame) : (c.enqueue q f).epoch = c.epoch := (rfl)
@[simp] theorem Chip.enqueue_staging (c : Chip) (q : Nat) (f : Frame) : (c.enqueue q f).staging = c.staging := (rfl)
@[simp] theorem Chip.enqueue_cirque (c : Chip) (q : Nat) (f : Frame) : (c.enqueue q f).cirque = c.cirque := (rfl)
@[simp] theorem Chip.enqueue_counters (c : Chip) (q : Nat) (f : Frame) : (c.enqueue q f).counters = c.counters := (rfl)
@[simp] theorem Chip.enqueue_frozen (c : Chip) (q : Nat) (f : Frame) : (c.enqueue q f).frozen = c.frozen := (rfl)
@[simp] theorem Chip.enqueue_cmd (c : Chip) (q : Nat) (f : Frame) : (c.enqueue q f).cmd = c.cmd := (rfl)
@[simp] theorem Chip.enqueue_failover (c : Chip) (q : Nat) (f : Frame) : (c.enqueue q f).failover = c.failover := (rfl)
@[simp] theorem Chip.enqueue_notes (c : Chip) (q : Nat) (f : Frame) : (c.enqueue q f).notes = c.notes := (rfl)
@[simp] theorem Chip.enqueue_notesDue (c : Chip) (q : Nat) (f : Frame) : (c.enqueue q f).notesDue = c.notesDue := (rfl)
@[simp] theorem Chip.enqueue_gap (c : Chip) (q : Nat) (f : Frame) : (c.enqueue q f).gap = c.gap := (rfl)
@[simp] theorem Chip.enqueue_snap (c : Chip) (q : Nat) (f : Frame) : (c.enqueue q f).snap = c.snap := (rfl)
@[simp] theorem Chip.enqueue_mon (c : Chip) (q : Nat) (f : Frame) : (c.enqueue q f).mon = c.mon := (rfl)
@[simp] theorem Chip.enqueue_tap (c : Chip) (q : Nat) (f : Frame) : (c.enqueue q f).tap = c.tap := (rfl)
@[simp] theorem Chip.enqueue_flash (c : Chip) (q : Nat) (f : Frame) : (c.enqueue q f).flash = c.flash := (rfl)
@[simp] theorem Chip.enqueue_tm (c : Chip) (q : Nat) (f : Frame) : (c.enqueue q f).tm = c.tm := (rfl)
@[simp] theorem Chip.enqueue_align (c : Chip) (q : Nat) (f : Frame) : (c.enqueue q f).align = c.align := (rfl)
@[simp] theorem Chip.enqueue_time (c : Chip) (q : Nat) (f : Frame) : (c.enqueue q f).time = c.time := (rfl)
@[simp] theorem Chip.enqueue_free (c : Chip) (q : Nat) (f : Frame) : (c.enqueue q f).free = c.free := (rfl)
@[simp] theorem Chip.enqueue_mem (c : Chip) (q : Nat) (f : Frame) : (c.enqueue q f).mem = c.mem := (rfl)
@[simp] theorem Chip.enqueue_images (c : Chip) (q : Nat) (f : Frame) : (c.enqueue q f).images = c.images := (rfl)
@[simp] theorem Chip.enqueue_sched (c : Chip) (q : Nat) (f : Frame) : (c.enqueue q f).sched = c.sched := (rfl)
@[simp] theorem Chip.enqueue_groups (c : Chip) (q : Nat) (f : Frame) : (c.enqueue q f).groups = c.groups := (rfl)
@[simp] theorem Chip.enqueue_mor (c : Chip) (q : Nat) (f : Frame) : (c.enqueue q f).mor = c.mor := (rfl)
@[simp] theorem Chip.enqueue_tdc (c : Chip) (q : Nat) (f : Frame) : (c.enqueue q f).tdc = c.tdc := (rfl)
@[simp] theorem Chip.enqueue_adc (c : Chip) (q : Nat) (f : Frame) : (c.enqueue q f).adc = c.adc := (rfl)
@[simp] theorem Chip.enqueue_cal (c : Chip) (q : Nat) (f : Frame) : (c.enqueue q f).cal = c.cal := (rfl)
@[simp] theorem Chip.enqueue_crcDma (c : Chip) (q : Nat) (f : Frame) : (c.enqueue q f).crcDma = c.crcDma := (rfl)
@[simp] theorem Chip.enqueue_sb (c : Chip) (q : Nat) (f : Frame) : (c.enqueue q f).sb = c.sb := (rfl)
@[simp] theorem Chip.enqueue_balls (c : Chip) (q : Nat) (f : Frame) : (c.enqueue q f).balls = c.balls := (rfl)

/-- Counting a happening changes the event counters, and Cirque when a threshold is passed (R389, R392). -/
theorem Chip.count_shape (c : Chip) (code n : Nat) :
    ∃ k q, c.count code n = { c with counters := k, cirque := q } := by
  have go : ∀ (f : Nat) (c : Chip) (code n : Nat),
      ∃ k q, Chip.count.go f c code n = { c with counters := k, cirque := q } := by
    intro f
    induction f with
    | zero => intro c code n; exact ⟨c.counters, c.cirque, rfl⟩
    | succ f ih =>
      intro c code n
      simp only [Chip.count.go]
      split
      · exact ⟨_, _, rfl⟩
      · obtain ⟨k, q, h⟩ := ih { c with
            counters := (countTab c.counters code n).1
            cirque := (Chip.count.thr (countTab c.counters code n).2 c.cirque).1 } 289
          (Chip.count.thr (countTab c.counters code n).2 c.cirque).2
        exact ⟨k, q, h⟩
  unfold Chip.count
  split
  · exact ⟨c.counters, c.cirque, rfl⟩
  · exact go 65 c code n

@[simp] theorem Chip.count_dev (c : Chip) (code n : Nat) : (c.count code n).dev = c.dev := by
 obtain ⟨k, q, h⟩ := c.count_shape code n; rw [h]
@[simp] theorem Chip.count_regs (c : Chip) (code n : Nat) : (c.count code n).regs = c.regs := by
 obtain ⟨k, q, h⟩ := c.count_shape code n; rw [h]
@[simp] theorem Chip.count_led (c : Chip) (code n : Nat) : (c.count code n).led = c.led := by
 obtain ⟨k, q, h⟩ := c.count_shape code n; rw [h]
@[simp] theorem Chip.count_epoch (c : Chip) (code n : Nat) : (c.count code n).epoch = c.epoch := by
 obtain ⟨k, q, h⟩ := c.count_shape code n; rw [h]
@[simp] theorem Chip.count_staging (c : Chip) (code n : Nat) : (c.count code n).staging = c.staging := by
 obtain ⟨k, q, h⟩ := c.count_shape code n; rw [h]
@[simp] theorem Chip.count_frozen (c : Chip) (code n : Nat) : (c.count code n).frozen = c.frozen := by
 obtain ⟨k, q, h⟩ := c.count_shape code n; rw [h]
@[simp] theorem Chip.count_cmd (c : Chip) (code n : Nat) : (c.count code n).cmd = c.cmd := by
 obtain ⟨k, q, h⟩ := c.count_shape code n; rw [h]
@[simp] theorem Chip.count_ports (c : Chip) (code n : Nat) : (c.count code n).ports = c.ports := by
 obtain ⟨k, q, h⟩ := c.count_shape code n; rw [h]
@[simp] theorem Chip.count_failover (c : Chip) (code n : Nat) : (c.count code n).failover = c.failover := by
 obtain ⟨k, q, h⟩ := c.count_shape code n; rw [h]
@[simp] theorem Chip.count_notes (c : Chip) (code n : Nat) : (c.count code n).notes = c.notes := by
 obtain ⟨k, q, h⟩ := c.count_shape code n; rw [h]
@[simp] theorem Chip.count_notesDue (c : Chip) (code n : Nat) : (c.count code n).notesDue = c.notesDue := by
 obtain ⟨k, q, h⟩ := c.count_shape code n; rw [h]
@[simp] theorem Chip.count_gap (c : Chip) (code n : Nat) : (c.count code n).gap = c.gap := by
 obtain ⟨k, q, h⟩ := c.count_shape code n; rw [h]
@[simp] theorem Chip.count_snap (c : Chip) (code n : Nat) : (c.count code n).snap = c.snap := by
 obtain ⟨k, q, h⟩ := c.count_shape code n; rw [h]
@[simp] theorem Chip.count_mon (c : Chip) (code n : Nat) : (c.count code n).mon = c.mon := by
 obtain ⟨k, q, h⟩ := c.count_shape code n; rw [h]
@[simp] theorem Chip.count_tap (c : Chip) (code n : Nat) : (c.count code n).tap = c.tap := by
 obtain ⟨k, q, h⟩ := c.count_shape code n; rw [h]
@[simp] theorem Chip.count_flash (c : Chip) (code n : Nat) : (c.count code n).flash = c.flash := by
 obtain ⟨k, q, h⟩ := c.count_shape code n; rw [h]
@[simp] theorem Chip.count_tm (c : Chip) (code n : Nat) : (c.count code n).tm = c.tm := by
 obtain ⟨k, q, h⟩ := c.count_shape code n; rw [h]
@[simp] theorem Chip.count_align (c : Chip) (code n : Nat) : (c.count code n).align = c.align := by
 obtain ⟨k, q, h⟩ := c.count_shape code n; rw [h]
@[simp] theorem Chip.count_time (c : Chip) (code n : Nat) : (c.count code n).time = c.time := by
 obtain ⟨k, q, h⟩ := c.count_shape code n; rw [h]
@[simp] theorem Chip.count_free (c : Chip) (code n : Nat) : (c.count code n).free = c.free := by
 obtain ⟨k, q, h⟩ := c.count_shape code n; rw [h]
@[simp] theorem Chip.count_mem (c : Chip) (code n : Nat) : (c.count code n).mem = c.mem := by
 obtain ⟨k, q, h⟩ := c.count_shape code n; rw [h]
@[simp] theorem Chip.count_images (c : Chip) (code n : Nat) : (c.count code n).images = c.images := by
 obtain ⟨k, q, h⟩ := c.count_shape code n; rw [h]
@[simp] theorem Chip.count_sched (c : Chip) (code n : Nat) : (c.count code n).sched = c.sched := by
 obtain ⟨k, q, h⟩ := c.count_shape code n; rw [h]
@[simp] theorem Chip.count_groups (c : Chip) (code n : Nat) : (c.count code n).groups = c.groups := by
 obtain ⟨k, q, h⟩ := c.count_shape code n; rw [h]
@[simp] theorem Chip.count_mor (c : Chip) (code n : Nat) : (c.count code n).mor = c.mor := by
 obtain ⟨k, q, h⟩ := c.count_shape code n; rw [h]
@[simp] theorem Chip.count_tdc (c : Chip) (code n : Nat) : (c.count code n).tdc = c.tdc := by
 obtain ⟨k, q, h⟩ := c.count_shape code n; rw [h]
@[simp] theorem Chip.count_adc (c : Chip) (code n : Nat) : (c.count code n).adc = c.adc := by
 obtain ⟨k, q, h⟩ := c.count_shape code n; rw [h]
@[simp] theorem Chip.count_cal (c : Chip) (code n : Nat) : (c.count code n).cal = c.cal := by
 obtain ⟨k, q, h⟩ := c.count_shape code n; rw [h]
@[simp] theorem Chip.count_crcDma (c : Chip) (code n : Nat) : (c.count code n).crcDma = c.crcDma := by
 obtain ⟨k, q, h⟩ := c.count_shape code n; rw [h]
@[simp] theorem Chip.count_sb (c : Chip) (code n : Nat) : (c.count code n).sb = c.sb := by
 obtain ⟨k, q, h⟩ := c.count_shape code n; rw [h]
@[simp] theorem Chip.count_balls (c : Chip) (code n : Nat) : (c.count code n).balls = c.balls := by
 obtain ⟨k, q, h⟩ := c.count_shape code n; rw [h]

/-- Raising an event changes Cirque and the event counters only. -/
theorem Chip.raise_shape (c : Chip) (src typ : Nat) (acts : List Act) (err : Option ErrInfo) (info : Nat) :
    ∃ k q, c.raise src typ acts err info = { c with counters := k, cirque := q } := by
  unfold Chip.raise
  simp only
  split
  · obtain ⟨k, q, h⟩ := Chip.count_shape
      { c with cirque := (stage c.cirque { src := src, typ := typ, info := info, acts := acts, err := err }).1 } 289 1
    exact ⟨k, q, h⟩
  · exact ⟨c.counters, _, rfl⟩
theorem Chip.raiseErr_shape (c : Chip) (src code unit detail task : Nat) :
    ∃ k q, c.raiseErr src code unit detail task = { c with counters := k, cirque := q } := by
  unfold Chip.raiseErr
  obtain ⟨k, q, h⟩ := c.raise_shape src code [] (some { cls := errClass code, unit := unit, task := task, detail := detail }) 0
  rw [h]
  obtain ⟨k', q', h'⟩ := Chip.count_shape { c with counters := k, cirque := q } 309 1
  exact ⟨k', q', h'⟩

@[simp] theorem Chip.raise_dev (c : Chip) (src typ : Nat) (acts : List Act) (err : Option ErrInfo) (info : Nat) : (c.raise src typ acts err info).dev = c.dev := by
 obtain ⟨k, q, h⟩ := c.raise_shape src typ acts err info; rw [h]
@[simp] theorem Chip.raise_regs (c : Chip) (src typ : Nat) (acts : List Act) (err : Option ErrInfo) (info : Nat) : (c.raise src typ acts err info).regs = c.regs := by
 obtain ⟨k, q, h⟩ := c.raise_shape src typ acts err info; rw [h]
@[simp] theorem Chip.raise_led (c : Chip) (src typ : Nat) (acts : List Act) (err : Option ErrInfo) (info : Nat) : (c.raise src typ acts err info).led = c.led := by
 obtain ⟨k, q, h⟩ := c.raise_shape src typ acts err info; rw [h]
@[simp] theorem Chip.raise_epoch (c : Chip) (src typ : Nat) (acts : List Act) (err : Option ErrInfo) (info : Nat) : (c.raise src typ acts err info).epoch = c.epoch := by
 obtain ⟨k, q, h⟩ := c.raise_shape src typ acts err info; rw [h]
@[simp] theorem Chip.raise_staging (c : Chip) (src typ : Nat) (acts : List Act) (err : Option ErrInfo) (info : Nat) : (c.raise src typ acts err info).staging = c.staging := by
 obtain ⟨k, q, h⟩ := c.raise_shape src typ acts err info; rw [h]
@[simp] theorem Chip.raise_frozen (c : Chip) (src typ : Nat) (acts : List Act) (err : Option ErrInfo) (info : Nat) : (c.raise src typ acts err info).frozen = c.frozen := by
 obtain ⟨k, q, h⟩ := c.raise_shape src typ acts err info; rw [h]
@[simp] theorem Chip.raise_cmd (c : Chip) (src typ : Nat) (acts : List Act) (err : Option ErrInfo) (info : Nat) : (c.raise src typ acts err info).cmd = c.cmd := by
 obtain ⟨k, q, h⟩ := c.raise_shape src typ acts err info; rw [h]
@[simp] theorem Chip.raise_ports (c : Chip) (src typ : Nat) (acts : List Act) (err : Option ErrInfo) (info : Nat) : (c.raise src typ acts err info).ports = c.ports := by
 obtain ⟨k, q, h⟩ := c.raise_shape src typ acts err info; rw [h]
@[simp] theorem Chip.raise_failover (c : Chip) (src typ : Nat) (acts : List Act) (err : Option ErrInfo) (info : Nat) : (c.raise src typ acts err info).failover = c.failover := by
 obtain ⟨k, q, h⟩ := c.raise_shape src typ acts err info; rw [h]
@[simp] theorem Chip.raise_notes (c : Chip) (src typ : Nat) (acts : List Act) (err : Option ErrInfo) (info : Nat) : (c.raise src typ acts err info).notes = c.notes := by
 obtain ⟨k, q, h⟩ := c.raise_shape src typ acts err info; rw [h]
@[simp] theorem Chip.raise_notesDue (c : Chip) (src typ : Nat) (acts : List Act) (err : Option ErrInfo) (info : Nat) : (c.raise src typ acts err info).notesDue = c.notesDue := by
 obtain ⟨k, q, h⟩ := c.raise_shape src typ acts err info; rw [h]
@[simp] theorem Chip.raise_gap (c : Chip) (src typ : Nat) (acts : List Act) (err : Option ErrInfo) (info : Nat) : (c.raise src typ acts err info).gap = c.gap := by
 obtain ⟨k, q, h⟩ := c.raise_shape src typ acts err info; rw [h]
@[simp] theorem Chip.raise_snap (c : Chip) (src typ : Nat) (acts : List Act) (err : Option ErrInfo) (info : Nat) : (c.raise src typ acts err info).snap = c.snap := by
 obtain ⟨k, q, h⟩ := c.raise_shape src typ acts err info; rw [h]
@[simp] theorem Chip.raise_mon (c : Chip) (src typ : Nat) (acts : List Act) (err : Option ErrInfo) (info : Nat) : (c.raise src typ acts err info).mon = c.mon := by
 obtain ⟨k, q, h⟩ := c.raise_shape src typ acts err info; rw [h]
@[simp] theorem Chip.raise_tap (c : Chip) (src typ : Nat) (acts : List Act) (err : Option ErrInfo) (info : Nat) : (c.raise src typ acts err info).tap = c.tap := by
 obtain ⟨k, q, h⟩ := c.raise_shape src typ acts err info; rw [h]
@[simp] theorem Chip.raise_flash (c : Chip) (src typ : Nat) (acts : List Act) (err : Option ErrInfo) (info : Nat) : (c.raise src typ acts err info).flash = c.flash := by
 obtain ⟨k, q, h⟩ := c.raise_shape src typ acts err info; rw [h]
@[simp] theorem Chip.raise_tm (c : Chip) (src typ : Nat) (acts : List Act) (err : Option ErrInfo) (info : Nat) : (c.raise src typ acts err info).tm = c.tm := by
 obtain ⟨k, q, h⟩ := c.raise_shape src typ acts err info; rw [h]
@[simp] theorem Chip.raise_align (c : Chip) (src typ : Nat) (acts : List Act) (err : Option ErrInfo) (info : Nat) : (c.raise src typ acts err info).align = c.align := by
 obtain ⟨k, q, h⟩ := c.raise_shape src typ acts err info; rw [h]
@[simp] theorem Chip.raise_time (c : Chip) (src typ : Nat) (acts : List Act) (err : Option ErrInfo) (info : Nat) : (c.raise src typ acts err info).time = c.time := by
 obtain ⟨k, q, h⟩ := c.raise_shape src typ acts err info; rw [h]
@[simp] theorem Chip.raise_free (c : Chip) (src typ : Nat) (acts : List Act) (err : Option ErrInfo) (info : Nat) : (c.raise src typ acts err info).free = c.free := by
 obtain ⟨k, q, h⟩ := c.raise_shape src typ acts err info; rw [h]
@[simp] theorem Chip.raise_mem (c : Chip) (src typ : Nat) (acts : List Act) (err : Option ErrInfo) (info : Nat) : (c.raise src typ acts err info).mem = c.mem := by
 obtain ⟨k, q, h⟩ := c.raise_shape src typ acts err info; rw [h]
@[simp] theorem Chip.raise_images (c : Chip) (src typ : Nat) (acts : List Act) (err : Option ErrInfo) (info : Nat) : (c.raise src typ acts err info).images = c.images := by
 obtain ⟨k, q, h⟩ := c.raise_shape src typ acts err info; rw [h]
@[simp] theorem Chip.raise_sched (c : Chip) (src typ : Nat) (acts : List Act) (err : Option ErrInfo) (info : Nat) : (c.raise src typ acts err info).sched = c.sched := by
 obtain ⟨k, q, h⟩ := c.raise_shape src typ acts err info; rw [h]
@[simp] theorem Chip.raise_groups (c : Chip) (src typ : Nat) (acts : List Act) (err : Option ErrInfo) (info : Nat) : (c.raise src typ acts err info).groups = c.groups := by
 obtain ⟨k, q, h⟩ := c.raise_shape src typ acts err info; rw [h]
@[simp] theorem Chip.raise_mor (c : Chip) (src typ : Nat) (acts : List Act) (err : Option ErrInfo) (info : Nat) : (c.raise src typ acts err info).mor = c.mor := by
 obtain ⟨k, q, h⟩ := c.raise_shape src typ acts err info; rw [h]
@[simp] theorem Chip.raise_tdc (c : Chip) (src typ : Nat) (acts : List Act) (err : Option ErrInfo) (info : Nat) : (c.raise src typ acts err info).tdc = c.tdc := by
 obtain ⟨k, q, h⟩ := c.raise_shape src typ acts err info; rw [h]
@[simp] theorem Chip.raise_adc (c : Chip) (src typ : Nat) (acts : List Act) (err : Option ErrInfo) (info : Nat) : (c.raise src typ acts err info).adc = c.adc := by
 obtain ⟨k, q, h⟩ := c.raise_shape src typ acts err info; rw [h]
@[simp] theorem Chip.raise_cal (c : Chip) (src typ : Nat) (acts : List Act) (err : Option ErrInfo) (info : Nat) : (c.raise src typ acts err info).cal = c.cal := by
 obtain ⟨k, q, h⟩ := c.raise_shape src typ acts err info; rw [h]
@[simp] theorem Chip.raise_crcDma (c : Chip) (src typ : Nat) (acts : List Act) (err : Option ErrInfo) (info : Nat) : (c.raise src typ acts err info).crcDma = c.crcDma := by
 obtain ⟨k, q, h⟩ := c.raise_shape src typ acts err info; rw [h]
@[simp] theorem Chip.raise_sb (c : Chip) (src typ : Nat) (acts : List Act) (err : Option ErrInfo) (info : Nat) : (c.raise src typ acts err info).sb = c.sb := by
 obtain ⟨k, q, h⟩ := c.raise_shape src typ acts err info; rw [h]
@[simp] theorem Chip.raise_balls (c : Chip) (src typ : Nat) (acts : List Act) (err : Option ErrInfo) (info : Nat) : (c.raise src typ acts err info).balls = c.balls := by
 obtain ⟨k, q, h⟩ := c.raise_shape src typ acts err info; rw [h]

@[simp] theorem Chip.raiseErr_dev (c : Chip) (src code unit detail task : Nat) : (c.raiseErr src code unit detail task).dev = c.dev := by
 obtain ⟨k, q, h⟩ := c.raiseErr_shape src code unit detail task; rw [h]
@[simp] theorem Chip.raiseErr_regs (c : Chip) (src code unit detail task : Nat) : (c.raiseErr src code unit detail task).regs = c.regs := by
 obtain ⟨k, q, h⟩ := c.raiseErr_shape src code unit detail task; rw [h]
@[simp] theorem Chip.raiseErr_led (c : Chip) (src code unit detail task : Nat) : (c.raiseErr src code unit detail task).led = c.led := by
 obtain ⟨k, q, h⟩ := c.raiseErr_shape src code unit detail task; rw [h]
@[simp] theorem Chip.raiseErr_epoch (c : Chip) (src code unit detail task : Nat) : (c.raiseErr src code unit detail task).epoch = c.epoch := by
 obtain ⟨k, q, h⟩ := c.raiseErr_shape src code unit detail task; rw [h]
@[simp] theorem Chip.raiseErr_staging (c : Chip) (src code unit detail task : Nat) : (c.raiseErr src code unit detail task).staging = c.staging := by
 obtain ⟨k, q, h⟩ := c.raiseErr_shape src code unit detail task; rw [h]
@[simp] theorem Chip.raiseErr_frozen (c : Chip) (src code unit detail task : Nat) : (c.raiseErr src code unit detail task).frozen = c.frozen := by
 obtain ⟨k, q, h⟩ := c.raiseErr_shape src code unit detail task; rw [h]
@[simp] theorem Chip.raiseErr_cmd (c : Chip) (src code unit detail task : Nat) : (c.raiseErr src code unit detail task).cmd = c.cmd := by
 obtain ⟨k, q, h⟩ := c.raiseErr_shape src code unit detail task; rw [h]
@[simp] theorem Chip.raiseErr_ports (c : Chip) (src code unit detail task : Nat) : (c.raiseErr src code unit detail task).ports = c.ports := by
 obtain ⟨k, q, h⟩ := c.raiseErr_shape src code unit detail task; rw [h]
@[simp] theorem Chip.raiseErr_failover (c : Chip) (src code unit detail task : Nat) : (c.raiseErr src code unit detail task).failover = c.failover := by
 obtain ⟨k, q, h⟩ := c.raiseErr_shape src code unit detail task; rw [h]
@[simp] theorem Chip.raiseErr_notes (c : Chip) (src code unit detail task : Nat) : (c.raiseErr src code unit detail task).notes = c.notes := by
 obtain ⟨k, q, h⟩ := c.raiseErr_shape src code unit detail task; rw [h]
@[simp] theorem Chip.raiseErr_notesDue (c : Chip) (src code unit detail task : Nat) : (c.raiseErr src code unit detail task).notesDue = c.notesDue := by
 obtain ⟨k, q, h⟩ := c.raiseErr_shape src code unit detail task; rw [h]
@[simp] theorem Chip.raiseErr_gap (c : Chip) (src code unit detail task : Nat) : (c.raiseErr src code unit detail task).gap = c.gap := by
 obtain ⟨k, q, h⟩ := c.raiseErr_shape src code unit detail task; rw [h]
@[simp] theorem Chip.raiseErr_snap (c : Chip) (src code unit detail task : Nat) : (c.raiseErr src code unit detail task).snap = c.snap := by
 obtain ⟨k, q, h⟩ := c.raiseErr_shape src code unit detail task; rw [h]
@[simp] theorem Chip.raiseErr_mon (c : Chip) (src code unit detail task : Nat) : (c.raiseErr src code unit detail task).mon = c.mon := by
 obtain ⟨k, q, h⟩ := c.raiseErr_shape src code unit detail task; rw [h]
@[simp] theorem Chip.raiseErr_tap (c : Chip) (src code unit detail task : Nat) : (c.raiseErr src code unit detail task).tap = c.tap := by
 obtain ⟨k, q, h⟩ := c.raiseErr_shape src code unit detail task; rw [h]
@[simp] theorem Chip.raiseErr_flash (c : Chip) (src code unit detail task : Nat) : (c.raiseErr src code unit detail task).flash = c.flash := by
 obtain ⟨k, q, h⟩ := c.raiseErr_shape src code unit detail task; rw [h]
@[simp] theorem Chip.raiseErr_tm (c : Chip) (src code unit detail task : Nat) : (c.raiseErr src code unit detail task).tm = c.tm := by
 obtain ⟨k, q, h⟩ := c.raiseErr_shape src code unit detail task; rw [h]
@[simp] theorem Chip.raiseErr_align (c : Chip) (src code unit detail task : Nat) : (c.raiseErr src code unit detail task).align = c.align := by
 obtain ⟨k, q, h⟩ := c.raiseErr_shape src code unit detail task; rw [h]
@[simp] theorem Chip.raiseErr_time (c : Chip) (src code unit detail task : Nat) : (c.raiseErr src code unit detail task).time = c.time := by
 obtain ⟨k, q, h⟩ := c.raiseErr_shape src code unit detail task; rw [h]
@[simp] theorem Chip.raiseErr_free (c : Chip) (src code unit detail task : Nat) : (c.raiseErr src code unit detail task).free = c.free := by
 obtain ⟨k, q, h⟩ := c.raiseErr_shape src code unit detail task; rw [h]
@[simp] theorem Chip.raiseErr_mem (c : Chip) (src code unit detail task : Nat) : (c.raiseErr src code unit detail task).mem = c.mem := by
 obtain ⟨k, q, h⟩ := c.raiseErr_shape src code unit detail task; rw [h]
@[simp] theorem Chip.raiseErr_images (c : Chip) (src code unit detail task : Nat) : (c.raiseErr src code unit detail task).images = c.images := by
 obtain ⟨k, q, h⟩ := c.raiseErr_shape src code unit detail task; rw [h]
@[simp] theorem Chip.raiseErr_sched (c : Chip) (src code unit detail task : Nat) : (c.raiseErr src code unit detail task).sched = c.sched := by
 obtain ⟨k, q, h⟩ := c.raiseErr_shape src code unit detail task; rw [h]
@[simp] theorem Chip.raiseErr_groups (c : Chip) (src code unit detail task : Nat) : (c.raiseErr src code unit detail task).groups = c.groups := by
 obtain ⟨k, q, h⟩ := c.raiseErr_shape src code unit detail task; rw [h]
@[simp] theorem Chip.raiseErr_mor (c : Chip) (src code unit detail task : Nat) : (c.raiseErr src code unit detail task).mor = c.mor := by
 obtain ⟨k, q, h⟩ := c.raiseErr_shape src code unit detail task; rw [h]
@[simp] theorem Chip.raiseErr_tdc (c : Chip) (src code unit detail task : Nat) : (c.raiseErr src code unit detail task).tdc = c.tdc := by
 obtain ⟨k, q, h⟩ := c.raiseErr_shape src code unit detail task; rw [h]
@[simp] theorem Chip.raiseErr_adc (c : Chip) (src code unit detail task : Nat) : (c.raiseErr src code unit detail task).adc = c.adc := by
 obtain ⟨k, q, h⟩ := c.raiseErr_shape src code unit detail task; rw [h]
@[simp] theorem Chip.raiseErr_cal (c : Chip) (src code unit detail task : Nat) : (c.raiseErr src code unit detail task).cal = c.cal := by
 obtain ⟨k, q, h⟩ := c.raiseErr_shape src code unit detail task; rw [h]
@[simp] theorem Chip.raiseErr_crcDma (c : Chip) (src code unit detail task : Nat) : (c.raiseErr src code unit detail task).crcDma = c.crcDma := by
 obtain ⟨k, q, h⟩ := c.raiseErr_shape src code unit detail task; rw [h]
@[simp] theorem Chip.raiseErr_sb (c : Chip) (src code unit detail task : Nat) : (c.raiseErr src code unit detail task).sb = c.sb := by
 obtain ⟨k, q, h⟩ := c.raiseErr_shape src code unit detail task; rw [h]
@[simp] theorem Chip.raiseErr_balls (c : Chip) (src code unit detail task : Nat) : (c.raiseErr src code unit detail task).balls = c.balls := by
 obtain ⟨k, q, h⟩ := c.raiseErr_shape src code unit detail task; rw [h]

@[simp] theorem Chip.guardReject_dev (c : Chip) : (c.guardReject).dev = c.dev := by
 unfold Chip.guardReject; simp
@[simp] theorem Chip.guardReject_regs (c : Chip) : (c.guardReject).regs = c.regs := by
 unfold Chip.guardReject; simp
@[simp] theorem Chip.guardReject_led (c : Chip) : (c.guardReject).led = c.led := by
 unfold Chip.guardReject; simp
@[simp] theorem Chip.guardReject_epoch (c : Chip) : (c.guardReject).epoch = c.epoch := by
 unfold Chip.guardReject; simp
@[simp] theorem Chip.guardReject_staging (c : Chip) : (c.guardReject).staging = c.staging := by
 unfold Chip.guardReject; simp
@[simp] theorem Chip.guardReject_frozen (c : Chip) : (c.guardReject).frozen = c.frozen := by
 unfold Chip.guardReject; simp
@[simp] theorem Chip.guardReject_cmd (c : Chip) : (c.guardReject).cmd = c.cmd := by
 unfold Chip.guardReject; simp
@[simp] theorem Chip.guardReject_ports (c : Chip) : (c.guardReject).ports = c.ports := by
 unfold Chip.guardReject; simp
@[simp] theorem Chip.guardReject_failover (c : Chip) : (c.guardReject).failover = c.failover := by
 unfold Chip.guardReject; simp
@[simp] theorem Chip.guardReject_notes (c : Chip) : (c.guardReject).notes = c.notes := by
 unfold Chip.guardReject; simp
@[simp] theorem Chip.guardReject_notesDue (c : Chip) : (c.guardReject).notesDue = c.notesDue := by
 unfold Chip.guardReject; simp
@[simp] theorem Chip.guardReject_gap (c : Chip) : (c.guardReject).gap = c.gap := by
 unfold Chip.guardReject; simp
@[simp] theorem Chip.guardReject_snap (c : Chip) : (c.guardReject).snap = c.snap := by
 unfold Chip.guardReject; simp
@[simp] theorem Chip.guardReject_mon (c : Chip) : (c.guardReject).mon = c.mon := by
 unfold Chip.guardReject; simp
@[simp] theorem Chip.guardReject_tap (c : Chip) : (c.guardReject).tap = c.tap := by
 unfold Chip.guardReject; simp
@[simp] theorem Chip.guardReject_flash (c : Chip) : (c.guardReject).flash = c.flash := by
 unfold Chip.guardReject; simp
@[simp] theorem Chip.guardReject_tm (c : Chip) : (c.guardReject).tm = c.tm := by
 unfold Chip.guardReject; simp
@[simp] theorem Chip.guardReject_align (c : Chip) : (c.guardReject).align = c.align := by
 unfold Chip.guardReject; simp
@[simp] theorem Chip.guardReject_time (c : Chip) : (c.guardReject).time = c.time := by
 unfold Chip.guardReject; simp
@[simp] theorem Chip.guardReject_free (c : Chip) : (c.guardReject).free = c.free := by
 unfold Chip.guardReject; simp
@[simp] theorem Chip.guardReject_mem (c : Chip) : (c.guardReject).mem = c.mem := by
 unfold Chip.guardReject; simp
@[simp] theorem Chip.guardReject_images (c : Chip) : (c.guardReject).images = c.images := by
 unfold Chip.guardReject; simp
@[simp] theorem Chip.guardReject_sched (c : Chip) : (c.guardReject).sched = c.sched := by
 unfold Chip.guardReject; simp
@[simp] theorem Chip.guardReject_groups (c : Chip) : (c.guardReject).groups = c.groups := by
 unfold Chip.guardReject; simp
@[simp] theorem Chip.guardReject_mor (c : Chip) : (c.guardReject).mor = c.mor := by
 unfold Chip.guardReject; simp
@[simp] theorem Chip.guardReject_tdc (c : Chip) : (c.guardReject).tdc = c.tdc := by
 unfold Chip.guardReject; simp
@[simp] theorem Chip.guardReject_adc (c : Chip) : (c.guardReject).adc = c.adc := by
 unfold Chip.guardReject; simp
@[simp] theorem Chip.guardReject_cal (c : Chip) : (c.guardReject).cal = c.cal := by
 unfold Chip.guardReject; simp
@[simp] theorem Chip.guardReject_crcDma (c : Chip) : (c.guardReject).crcDma = c.crcDma := by
 unfold Chip.guardReject; simp
@[simp] theorem Chip.guardReject_sb (c : Chip) : (c.guardReject).sb = c.sb := by
 unfold Chip.guardReject; simp
@[simp] theorem Chip.guardReject_balls (c : Chip) : (c.guardReject).balls = c.balls := by
 unfold Chip.guardReject; simp

@[simp] theorem Chip.answerAt_dev (c : Chip) (s q : Nat) (tag : Byte) (status : Nat) (last : Bool) (word state : Nat) (data : List Word) : (c.answerAt s q tag status last word state data).dev = c.dev := by
 unfold Chip.answerAt; simp only; split <;> split <;> simp
@[simp] theorem Chip.answerAt_led (c : Chip) (s q : Nat) (tag : Byte) (status : Nat) (last : Bool) (word state : Nat) (data : List Word) : (c.answerAt s q tag status last word state data).led = c.led := by
 unfold Chip.answerAt; simp only; split <;> split <;> simp
@[simp] theorem Chip.answerAt_epoch (c : Chip) (s q : Nat) (tag : Byte) (status : Nat) (last : Bool) (word state : Nat) (data : List Word) : (c.answerAt s q tag status last word state data).epoch = c.epoch := by
 unfold Chip.answerAt; simp only; split <;> split <;> simp
@[simp] theorem Chip.answerAt_staging (c : Chip) (s q : Nat) (tag : Byte) (status : Nat) (last : Bool) (word state : Nat) (data : List Word) : (c.answerAt s q tag status last word state data).staging = c.staging := by
 unfold Chip.answerAt; simp only; split <;> split <;> simp
@[simp] theorem Chip.answerAt_frozen (c : Chip) (s q : Nat) (tag : Byte) (status : Nat) (last : Bool) (word state : Nat) (data : List Word) : (c.answerAt s q tag status last word state data).frozen = c.frozen := by
 unfold Chip.answerAt; simp only; split <;> split <;> simp
@[simp] theorem Chip.answerAt_cmd (c : Chip) (s q : Nat) (tag : Byte) (status : Nat) (last : Bool) (word state : Nat) (data : List Word) : (c.answerAt s q tag status last word state data).cmd = c.cmd := by
 unfold Chip.answerAt; simp only; split <;> split <;> simp
@[simp] theorem Chip.answerAt_failover (c : Chip) (s q : Nat) (tag : Byte) (status : Nat) (last : Bool) (word state : Nat) (data : List Word) : (c.answerAt s q tag status last word state data).failover = c.failover := by
 unfold Chip.answerAt; simp only; split <;> split <;> simp
@[simp] theorem Chip.answerAt_notes (c : Chip) (s q : Nat) (tag : Byte) (status : Nat) (last : Bool) (word state : Nat) (data : List Word) : (c.answerAt s q tag status last word state data).notes = c.notes := by
 unfold Chip.answerAt; simp only; split <;> split <;> simp
@[simp] theorem Chip.answerAt_notesDue (c : Chip) (s q : Nat) (tag : Byte) (status : Nat) (last : Bool) (word state : Nat) (data : List Word) : (c.answerAt s q tag status last word state data).notesDue = c.notesDue := by
 unfold Chip.answerAt; simp only; split <;> split <;> simp
@[simp] theorem Chip.answerAt_gap (c : Chip) (s q : Nat) (tag : Byte) (status : Nat) (last : Bool) (word state : Nat) (data : List Word) : (c.answerAt s q tag status last word state data).gap = c.gap := by
 unfold Chip.answerAt; simp only; split <;> split <;> simp
@[simp] theorem Chip.answerAt_snap (c : Chip) (s q : Nat) (tag : Byte) (status : Nat) (last : Bool) (word state : Nat) (data : List Word) : (c.answerAt s q tag status last word state data).snap = c.snap := by
 unfold Chip.answerAt; simp only; split <;> split <;> simp
@[simp] theorem Chip.answerAt_mon (c : Chip) (s q : Nat) (tag : Byte) (status : Nat) (last : Bool) (word state : Nat) (data : List Word) : (c.answerAt s q tag status last word state data).mon = c.mon := by
 unfold Chip.answerAt; simp only; split <;> split <;> simp
@[simp] theorem Chip.answerAt_tap (c : Chip) (s q : Nat) (tag : Byte) (status : Nat) (last : Bool) (word state : Nat) (data : List Word) : (c.answerAt s q tag status last word state data).tap = c.tap := by
 unfold Chip.answerAt; simp only; split <;> split <;> simp
@[simp] theorem Chip.answerAt_flash (c : Chip) (s q : Nat) (tag : Byte) (status : Nat) (last : Bool) (word state : Nat) (data : List Word) : (c.answerAt s q tag status last word state data).flash = c.flash := by
 unfold Chip.answerAt; simp only; split <;> split <;> simp
@[simp] theorem Chip.answerAt_tm (c : Chip) (s q : Nat) (tag : Byte) (status : Nat) (last : Bool) (word state : Nat) (data : List Word) : (c.answerAt s q tag status last word state data).tm = c.tm := by
 unfold Chip.answerAt; simp only; split <;> split <;> simp
@[simp] theorem Chip.answerAt_align (c : Chip) (s q : Nat) (tag : Byte) (status : Nat) (last : Bool) (word state : Nat) (data : List Word) : (c.answerAt s q tag status last word state data).align = c.align := by
 unfold Chip.answerAt; simp only; split <;> split <;> simp
@[simp] theorem Chip.answerAt_time (c : Chip) (s q : Nat) (tag : Byte) (status : Nat) (last : Bool) (word state : Nat) (data : List Word) : (c.answerAt s q tag status last word state data).time = c.time := by
 unfold Chip.answerAt; simp only; split <;> split <;> simp
@[simp] theorem Chip.answerAt_free (c : Chip) (s q : Nat) (tag : Byte) (status : Nat) (last : Bool) (word state : Nat) (data : List Word) : (c.answerAt s q tag status last word state data).free = c.free := by
 unfold Chip.answerAt; simp only; split <;> split <;> simp
@[simp] theorem Chip.answerAt_mem (c : Chip) (s q : Nat) (tag : Byte) (status : Nat) (last : Bool) (word state : Nat) (data : List Word) : (c.answerAt s q tag status last word state data).mem = c.mem := by
 unfold Chip.answerAt; simp only; split <;> split <;> simp
@[simp] theorem Chip.answerAt_images (c : Chip) (s q : Nat) (tag : Byte) (status : Nat) (last : Bool) (word state : Nat) (data : List Word) : (c.answerAt s q tag status last word state data).images = c.images := by
 unfold Chip.answerAt; simp only; split <;> split <;> simp
@[simp] theorem Chip.answerAt_sched (c : Chip) (s q : Nat) (tag : Byte) (status : Nat) (last : Bool) (word state : Nat) (data : List Word) : (c.answerAt s q tag status last word state data).sched = c.sched := by
 unfold Chip.answerAt; simp only; split <;> split <;> simp
@[simp] theorem Chip.answerAt_groups (c : Chip) (s q : Nat) (tag : Byte) (status : Nat) (last : Bool) (word state : Nat) (data : List Word) : (c.answerAt s q tag status last word state data).groups = c.groups := by
 unfold Chip.answerAt; simp only; split <;> split <;> simp
@[simp] theorem Chip.answerAt_mor (c : Chip) (s q : Nat) (tag : Byte) (status : Nat) (last : Bool) (word state : Nat) (data : List Word) : (c.answerAt s q tag status last word state data).mor = c.mor := by
 unfold Chip.answerAt; simp only; split <;> split <;> simp
@[simp] theorem Chip.answerAt_tdc (c : Chip) (s q : Nat) (tag : Byte) (status : Nat) (last : Bool) (word state : Nat) (data : List Word) : (c.answerAt s q tag status last word state data).tdc = c.tdc := by
 unfold Chip.answerAt; simp only; split <;> split <;> simp
@[simp] theorem Chip.answerAt_adc (c : Chip) (s q : Nat) (tag : Byte) (status : Nat) (last : Bool) (word state : Nat) (data : List Word) : (c.answerAt s q tag status last word state data).adc = c.adc := by
 unfold Chip.answerAt; simp only; split <;> split <;> simp
@[simp] theorem Chip.answerAt_cal (c : Chip) (s q : Nat) (tag : Byte) (status : Nat) (last : Bool) (word state : Nat) (data : List Word) : (c.answerAt s q tag status last word state data).cal = c.cal := by
 unfold Chip.answerAt; simp only; split <;> split <;> simp
@[simp] theorem Chip.answerAt_crcDma (c : Chip) (s q : Nat) (tag : Byte) (status : Nat) (last : Bool) (word state : Nat) (data : List Word) : (c.answerAt s q tag status last word state data).crcDma = c.crcDma := by
 unfold Chip.answerAt; simp only; split <;> split <;> simp
@[simp] theorem Chip.answerAt_sb (c : Chip) (s q : Nat) (tag : Byte) (status : Nat) (last : Bool) (word state : Nat) (data : List Word) : (c.answerAt s q tag status last word state data).sb = c.sb := by
 unfold Chip.answerAt; simp only; split <;> split <;> simp
@[simp] theorem Chip.answerAt_balls (c : Chip) (s q : Nat) (tag : Byte) (status : Nat) (last : Bool) (word state : Nat) (data : List Word) : (c.answerAt s q tag status last word state data).balls = c.balls := by
 unfold Chip.answerAt; simp only; split <;> split <;> simp

@[simp] theorem Chip.answer_dev (c : Chip) (q : Nat) (tag : Byte) (status : Nat) (last : Bool) (word state : Nat) (data : List Word) : (c.answer q tag status last word state data).dev = c.dev := by
 simp [Chip.answer]
@[simp] theorem Chip.answer_led (c : Chip) (q : Nat) (tag : Byte) (status : Nat) (last : Bool) (word state : Nat) (data : List Word) : (c.answer q tag status last word state data).led = c.led := by
 simp [Chip.answer]
@[simp] theorem Chip.answer_epoch (c : Chip) (q : Nat) (tag : Byte) (status : Nat) (last : Bool) (word state : Nat) (data : List Word) : (c.answer q tag status last word state data).epoch = c.epoch := by
 simp [Chip.answer]
@[simp] theorem Chip.answer_staging (c : Chip) (q : Nat) (tag : Byte) (status : Nat) (last : Bool) (word state : Nat) (data : List Word) : (c.answer q tag status last word state data).staging = c.staging := by
 simp [Chip.answer]
@[simp] theorem Chip.answer_frozen (c : Chip) (q : Nat) (tag : Byte) (status : Nat) (last : Bool) (word state : Nat) (data : List Word) : (c.answer q tag status last word state data).frozen = c.frozen := by
 simp [Chip.answer]
@[simp] theorem Chip.answer_cmd (c : Chip) (q : Nat) (tag : Byte) (status : Nat) (last : Bool) (word state : Nat) (data : List Word) : (c.answer q tag status last word state data).cmd = c.cmd := by
 simp [Chip.answer]
@[simp] theorem Chip.answer_failover (c : Chip) (q : Nat) (tag : Byte) (status : Nat) (last : Bool) (word state : Nat) (data : List Word) : (c.answer q tag status last word state data).failover = c.failover := by
 simp [Chip.answer]
@[simp] theorem Chip.answer_notes (c : Chip) (q : Nat) (tag : Byte) (status : Nat) (last : Bool) (word state : Nat) (data : List Word) : (c.answer q tag status last word state data).notes = c.notes := by
 simp [Chip.answer]
@[simp] theorem Chip.answer_notesDue (c : Chip) (q : Nat) (tag : Byte) (status : Nat) (last : Bool) (word state : Nat) (data : List Word) : (c.answer q tag status last word state data).notesDue = c.notesDue := by
 simp [Chip.answer]
@[simp] theorem Chip.answer_gap (c : Chip) (q : Nat) (tag : Byte) (status : Nat) (last : Bool) (word state : Nat) (data : List Word) : (c.answer q tag status last word state data).gap = c.gap := by
 simp [Chip.answer]
@[simp] theorem Chip.answer_snap (c : Chip) (q : Nat) (tag : Byte) (status : Nat) (last : Bool) (word state : Nat) (data : List Word) : (c.answer q tag status last word state data).snap = c.snap := by
 simp [Chip.answer]
@[simp] theorem Chip.answer_mon (c : Chip) (q : Nat) (tag : Byte) (status : Nat) (last : Bool) (word state : Nat) (data : List Word) : (c.answer q tag status last word state data).mon = c.mon := by
 simp [Chip.answer]
@[simp] theorem Chip.answer_tap (c : Chip) (q : Nat) (tag : Byte) (status : Nat) (last : Bool) (word state : Nat) (data : List Word) : (c.answer q tag status last word state data).tap = c.tap := by
 simp [Chip.answer]
@[simp] theorem Chip.answer_flash (c : Chip) (q : Nat) (tag : Byte) (status : Nat) (last : Bool) (word state : Nat) (data : List Word) : (c.answer q tag status last word state data).flash = c.flash := by
 simp [Chip.answer]
@[simp] theorem Chip.answer_tm (c : Chip) (q : Nat) (tag : Byte) (status : Nat) (last : Bool) (word state : Nat) (data : List Word) : (c.answer q tag status last word state data).tm = c.tm := by
 simp [Chip.answer]
@[simp] theorem Chip.answer_align (c : Chip) (q : Nat) (tag : Byte) (status : Nat) (last : Bool) (word state : Nat) (data : List Word) : (c.answer q tag status last word state data).align = c.align := by
 simp [Chip.answer]
@[simp] theorem Chip.answer_time (c : Chip) (q : Nat) (tag : Byte) (status : Nat) (last : Bool) (word state : Nat) (data : List Word) : (c.answer q tag status last word state data).time = c.time := by
 simp [Chip.answer]
@[simp] theorem Chip.answer_free (c : Chip) (q : Nat) (tag : Byte) (status : Nat) (last : Bool) (word state : Nat) (data : List Word) : (c.answer q tag status last word state data).free = c.free := by
 simp [Chip.answer]
@[simp] theorem Chip.answer_mem (c : Chip) (q : Nat) (tag : Byte) (status : Nat) (last : Bool) (word state : Nat) (data : List Word) : (c.answer q tag status last word state data).mem = c.mem := by
 simp [Chip.answer]
@[simp] theorem Chip.answer_images (c : Chip) (q : Nat) (tag : Byte) (status : Nat) (last : Bool) (word state : Nat) (data : List Word) : (c.answer q tag status last word state data).images = c.images := by
 simp [Chip.answer]
@[simp] theorem Chip.answer_sched (c : Chip) (q : Nat) (tag : Byte) (status : Nat) (last : Bool) (word state : Nat) (data : List Word) : (c.answer q tag status last word state data).sched = c.sched := by
 simp [Chip.answer]
@[simp] theorem Chip.answer_groups (c : Chip) (q : Nat) (tag : Byte) (status : Nat) (last : Bool) (word state : Nat) (data : List Word) : (c.answer q tag status last word state data).groups = c.groups := by
 simp [Chip.answer]
@[simp] theorem Chip.answer_mor (c : Chip) (q : Nat) (tag : Byte) (status : Nat) (last : Bool) (word state : Nat) (data : List Word) : (c.answer q tag status last word state data).mor = c.mor := by
 simp [Chip.answer]
@[simp] theorem Chip.answer_tdc (c : Chip) (q : Nat) (tag : Byte) (status : Nat) (last : Bool) (word state : Nat) (data : List Word) : (c.answer q tag status last word state data).tdc = c.tdc := by
 simp [Chip.answer]
@[simp] theorem Chip.answer_adc (c : Chip) (q : Nat) (tag : Byte) (status : Nat) (last : Bool) (word state : Nat) (data : List Word) : (c.answer q tag status last word state data).adc = c.adc := by
 simp [Chip.answer]
@[simp] theorem Chip.answer_cal (c : Chip) (q : Nat) (tag : Byte) (status : Nat) (last : Bool) (word state : Nat) (data : List Word) : (c.answer q tag status last word state data).cal = c.cal := by
 simp [Chip.answer]
@[simp] theorem Chip.answer_crcDma (c : Chip) (q : Nat) (tag : Byte) (status : Nat) (last : Bool) (word state : Nat) (data : List Word) : (c.answer q tag status last word state data).crcDma = c.crcDma := by
 simp [Chip.answer]
@[simp] theorem Chip.answer_sb (c : Chip) (q : Nat) (tag : Byte) (status : Nat) (last : Bool) (word state : Nat) (data : List Word) : (c.answer q tag status last word state data).sb = c.sb := by
 simp [Chip.answer]
@[simp] theorem Chip.answer_balls (c : Chip) (q : Nat) (tag : Byte) (status : Nat) (last : Bool) (word state : Nat) (data : List Word) : (c.answer q tag status last word state data).balls = c.balls := by
 simp [Chip.answer]

@[simp] theorem Chip.replyAt_dev (c : Chip) (s q : Nat) (tag : Byte) (status word state : Nat) (data : List Word) : (c.replyAt s q tag status word state data).dev = c.dev := by
 simp [Chip.replyAt]
@[simp] theorem Chip.replyAt_led (c : Chip) (s q : Nat) (tag : Byte) (status word state : Nat) (data : List Word) : (c.replyAt s q tag status word state data).led = c.led := by
 simp [Chip.replyAt]
@[simp] theorem Chip.replyAt_epoch (c : Chip) (s q : Nat) (tag : Byte) (status word state : Nat) (data : List Word) : (c.replyAt s q tag status word state data).epoch = c.epoch := by
 simp [Chip.replyAt]
@[simp] theorem Chip.replyAt_staging (c : Chip) (s q : Nat) (tag : Byte) (status word state : Nat) (data : List Word) : (c.replyAt s q tag status word state data).staging = c.staging := by
 simp [Chip.replyAt]
@[simp] theorem Chip.replyAt_frozen (c : Chip) (s q : Nat) (tag : Byte) (status word state : Nat) (data : List Word) : (c.replyAt s q tag status word state data).frozen = c.frozen := by
 simp [Chip.replyAt]
@[simp] theorem Chip.replyAt_cmd (c : Chip) (s q : Nat) (tag : Byte) (status word state : Nat) (data : List Word) : (c.replyAt s q tag status word state data).cmd = c.cmd := by
 simp [Chip.replyAt]
@[simp] theorem Chip.replyAt_failover (c : Chip) (s q : Nat) (tag : Byte) (status word state : Nat) (data : List Word) : (c.replyAt s q tag status word state data).failover = c.failover := by
 simp [Chip.replyAt]
@[simp] theorem Chip.replyAt_notes (c : Chip) (s q : Nat) (tag : Byte) (status word state : Nat) (data : List Word) : (c.replyAt s q tag status word state data).notes = c.notes := by
 simp [Chip.replyAt]
@[simp] theorem Chip.replyAt_notesDue (c : Chip) (s q : Nat) (tag : Byte) (status word state : Nat) (data : List Word) : (c.replyAt s q tag status word state data).notesDue = c.notesDue := by
 simp [Chip.replyAt]
@[simp] theorem Chip.replyAt_gap (c : Chip) (s q : Nat) (tag : Byte) (status word state : Nat) (data : List Word) : (c.replyAt s q tag status word state data).gap = c.gap := by
 simp [Chip.replyAt]
@[simp] theorem Chip.replyAt_snap (c : Chip) (s q : Nat) (tag : Byte) (status word state : Nat) (data : List Word) : (c.replyAt s q tag status word state data).snap = c.snap := by
 simp [Chip.replyAt]
@[simp] theorem Chip.replyAt_mon (c : Chip) (s q : Nat) (tag : Byte) (status word state : Nat) (data : List Word) : (c.replyAt s q tag status word state data).mon = c.mon := by
 simp [Chip.replyAt]
@[simp] theorem Chip.replyAt_tap (c : Chip) (s q : Nat) (tag : Byte) (status word state : Nat) (data : List Word) : (c.replyAt s q tag status word state data).tap = c.tap := by
 simp [Chip.replyAt]
@[simp] theorem Chip.replyAt_flash (c : Chip) (s q : Nat) (tag : Byte) (status word state : Nat) (data : List Word) : (c.replyAt s q tag status word state data).flash = c.flash := by
 simp [Chip.replyAt]
@[simp] theorem Chip.replyAt_tm (c : Chip) (s q : Nat) (tag : Byte) (status word state : Nat) (data : List Word) : (c.replyAt s q tag status word state data).tm = c.tm := by
 simp [Chip.replyAt]
@[simp] theorem Chip.replyAt_align (c : Chip) (s q : Nat) (tag : Byte) (status word state : Nat) (data : List Word) : (c.replyAt s q tag status word state data).align = c.align := by
 simp [Chip.replyAt]
@[simp] theorem Chip.replyAt_time (c : Chip) (s q : Nat) (tag : Byte) (status word state : Nat) (data : List Word) : (c.replyAt s q tag status word state data).time = c.time := by
 simp [Chip.replyAt]
@[simp] theorem Chip.replyAt_free (c : Chip) (s q : Nat) (tag : Byte) (status word state : Nat) (data : List Word) : (c.replyAt s q tag status word state data).free = c.free := by
 simp [Chip.replyAt]
@[simp] theorem Chip.replyAt_mem (c : Chip) (s q : Nat) (tag : Byte) (status word state : Nat) (data : List Word) : (c.replyAt s q tag status word state data).mem = c.mem := by
 simp [Chip.replyAt]
@[simp] theorem Chip.replyAt_images (c : Chip) (s q : Nat) (tag : Byte) (status word state : Nat) (data : List Word) : (c.replyAt s q tag status word state data).images = c.images := by
 simp [Chip.replyAt]
@[simp] theorem Chip.replyAt_sched (c : Chip) (s q : Nat) (tag : Byte) (status word state : Nat) (data : List Word) : (c.replyAt s q tag status word state data).sched = c.sched := by
 simp [Chip.replyAt]
@[simp] theorem Chip.replyAt_groups (c : Chip) (s q : Nat) (tag : Byte) (status word state : Nat) (data : List Word) : (c.replyAt s q tag status word state data).groups = c.groups := by
 simp [Chip.replyAt]
@[simp] theorem Chip.replyAt_mor (c : Chip) (s q : Nat) (tag : Byte) (status word state : Nat) (data : List Word) : (c.replyAt s q tag status word state data).mor = c.mor := by
 simp [Chip.replyAt]
@[simp] theorem Chip.replyAt_tdc (c : Chip) (s q : Nat) (tag : Byte) (status word state : Nat) (data : List Word) : (c.replyAt s q tag status word state data).tdc = c.tdc := by
 simp [Chip.replyAt]
@[simp] theorem Chip.replyAt_adc (c : Chip) (s q : Nat) (tag : Byte) (status word state : Nat) (data : List Word) : (c.replyAt s q tag status word state data).adc = c.adc := by
 simp [Chip.replyAt]
@[simp] theorem Chip.replyAt_cal (c : Chip) (s q : Nat) (tag : Byte) (status word state : Nat) (data : List Word) : (c.replyAt s q tag status word state data).cal = c.cal := by
 simp [Chip.replyAt]
@[simp] theorem Chip.replyAt_crcDma (c : Chip) (s q : Nat) (tag : Byte) (status word state : Nat) (data : List Word) : (c.replyAt s q tag status word state data).crcDma = c.crcDma := by
 simp [Chip.replyAt]
@[simp] theorem Chip.replyAt_sb (c : Chip) (s q : Nat) (tag : Byte) (status word state : Nat) (data : List Word) : (c.replyAt s q tag status word state data).sb = c.sb := by
 simp [Chip.replyAt]
@[simp] theorem Chip.replyAt_balls (c : Chip) (s q : Nat) (tag : Byte) (status word state : Nat) (data : List Word) : (c.replyAt s q tag status word state data).balls = c.balls := by
 simp [Chip.replyAt]

@[simp] theorem Chip.reply_dev (c : Chip) (q : Nat) (tag : Byte) (status word state : Nat) (data : List Word) : (c.reply q tag status word state data).dev = c.dev := by
 simp [Chip.reply]
@[simp] theorem Chip.reply_led (c : Chip) (q : Nat) (tag : Byte) (status word state : Nat) (data : List Word) : (c.reply q tag status word state data).led = c.led := by
 simp [Chip.reply]
@[simp] theorem Chip.reply_epoch (c : Chip) (q : Nat) (tag : Byte) (status word state : Nat) (data : List Word) : (c.reply q tag status word state data).epoch = c.epoch := by
 simp [Chip.reply]
@[simp] theorem Chip.reply_staging (c : Chip) (q : Nat) (tag : Byte) (status word state : Nat) (data : List Word) : (c.reply q tag status word state data).staging = c.staging := by
 simp [Chip.reply]
@[simp] theorem Chip.reply_frozen (c : Chip) (q : Nat) (tag : Byte) (status word state : Nat) (data : List Word) : (c.reply q tag status word state data).frozen = c.frozen := by
 simp [Chip.reply]
@[simp] theorem Chip.reply_cmd (c : Chip) (q : Nat) (tag : Byte) (status word state : Nat) (data : List Word) : (c.reply q tag status word state data).cmd = c.cmd := by
 simp [Chip.reply]
@[simp] theorem Chip.reply_failover (c : Chip) (q : Nat) (tag : Byte) (status word state : Nat) (data : List Word) : (c.reply q tag status word state data).failover = c.failover := by
 simp [Chip.reply]
@[simp] theorem Chip.reply_notes (c : Chip) (q : Nat) (tag : Byte) (status word state : Nat) (data : List Word) : (c.reply q tag status word state data).notes = c.notes := by
 simp [Chip.reply]
@[simp] theorem Chip.reply_notesDue (c : Chip) (q : Nat) (tag : Byte) (status word state : Nat) (data : List Word) : (c.reply q tag status word state data).notesDue = c.notesDue := by
 simp [Chip.reply]
@[simp] theorem Chip.reply_gap (c : Chip) (q : Nat) (tag : Byte) (status word state : Nat) (data : List Word) : (c.reply q tag status word state data).gap = c.gap := by
 simp [Chip.reply]
@[simp] theorem Chip.reply_snap (c : Chip) (q : Nat) (tag : Byte) (status word state : Nat) (data : List Word) : (c.reply q tag status word state data).snap = c.snap := by
 simp [Chip.reply]
@[simp] theorem Chip.reply_mon (c : Chip) (q : Nat) (tag : Byte) (status word state : Nat) (data : List Word) : (c.reply q tag status word state data).mon = c.mon := by
 simp [Chip.reply]
@[simp] theorem Chip.reply_tap (c : Chip) (q : Nat) (tag : Byte) (status word state : Nat) (data : List Word) : (c.reply q tag status word state data).tap = c.tap := by
 simp [Chip.reply]
@[simp] theorem Chip.reply_flash (c : Chip) (q : Nat) (tag : Byte) (status word state : Nat) (data : List Word) : (c.reply q tag status word state data).flash = c.flash := by
 simp [Chip.reply]
@[simp] theorem Chip.reply_tm (c : Chip) (q : Nat) (tag : Byte) (status word state : Nat) (data : List Word) : (c.reply q tag status word state data).tm = c.tm := by
 simp [Chip.reply]
@[simp] theorem Chip.reply_align (c : Chip) (q : Nat) (tag : Byte) (status word state : Nat) (data : List Word) : (c.reply q tag status word state data).align = c.align := by
 simp [Chip.reply]
@[simp] theorem Chip.reply_time (c : Chip) (q : Nat) (tag : Byte) (status word state : Nat) (data : List Word) : (c.reply q tag status word state data).time = c.time := by
 simp [Chip.reply]
@[simp] theorem Chip.reply_free (c : Chip) (q : Nat) (tag : Byte) (status word state : Nat) (data : List Word) : (c.reply q tag status word state data).free = c.free := by
 simp [Chip.reply]
@[simp] theorem Chip.reply_mem (c : Chip) (q : Nat) (tag : Byte) (status word state : Nat) (data : List Word) : (c.reply q tag status word state data).mem = c.mem := by
 simp [Chip.reply]
@[simp] theorem Chip.reply_images (c : Chip) (q : Nat) (tag : Byte) (status word state : Nat) (data : List Word) : (c.reply q tag status word state data).images = c.images := by
 simp [Chip.reply]
@[simp] theorem Chip.reply_sched (c : Chip) (q : Nat) (tag : Byte) (status word state : Nat) (data : List Word) : (c.reply q tag status word state data).sched = c.sched := by
 simp [Chip.reply]
@[simp] theorem Chip.reply_groups (c : Chip) (q : Nat) (tag : Byte) (status word state : Nat) (data : List Word) : (c.reply q tag status word state data).groups = c.groups := by
 simp [Chip.reply]
@[simp] theorem Chip.reply_mor (c : Chip) (q : Nat) (tag : Byte) (status word state : Nat) (data : List Word) : (c.reply q tag status word state data).mor = c.mor := by
 simp [Chip.reply]
@[simp] theorem Chip.reply_tdc (c : Chip) (q : Nat) (tag : Byte) (status word state : Nat) (data : List Word) : (c.reply q tag status word state data).tdc = c.tdc := by
 simp [Chip.reply]
@[simp] theorem Chip.reply_adc (c : Chip) (q : Nat) (tag : Byte) (status word state : Nat) (data : List Word) : (c.reply q tag status word state data).adc = c.adc := by
 simp [Chip.reply]
@[simp] theorem Chip.reply_cal (c : Chip) (q : Nat) (tag : Byte) (status word state : Nat) (data : List Word) : (c.reply q tag status word state data).cal = c.cal := by
 simp [Chip.reply]
@[simp] theorem Chip.reply_crcDma (c : Chip) (q : Nat) (tag : Byte) (status word state : Nat) (data : List Word) : (c.reply q tag status word state data).crcDma = c.crcDma := by
 simp [Chip.reply]
@[simp] theorem Chip.reply_sb (c : Chip) (q : Nat) (tag : Byte) (status word state : Nat) (data : List Word) : (c.reply q tag status word state data).sb = c.sb := by
 simp [Chip.reply]
@[simp] theorem Chip.reply_balls (c : Chip) (q : Nat) (tag : Byte) (status word state : Nat) (data : List Word) : (c.reply q tag status word state data).balls = c.balls := by
 simp [Chip.reply]

@[simp] theorem Chip.tagInUse_dev (c : Chip) (q : Nat) (tag : Byte) (data : List Word) : (c.tagInUse q tag data).dev = c.dev := by
 simp [Chip.tagInUse]
@[simp] theorem Chip.tagInUse_led (c : Chip) (q : Nat) (tag : Byte) (data : List Word) : (c.tagInUse q tag data).led = c.led := by
 simp [Chip.tagInUse]
@[simp] theorem Chip.tagInUse_epoch (c : Chip) (q : Nat) (tag : Byte) (data : List Word) : (c.tagInUse q tag data).epoch = c.epoch := by
 simp [Chip.tagInUse]
@[simp] theorem Chip.tagInUse_staging (c : Chip) (q : Nat) (tag : Byte) (data : List Word) : (c.tagInUse q tag data).staging = c.staging := by
 simp [Chip.tagInUse]
@[simp] theorem Chip.tagInUse_frozen (c : Chip) (q : Nat) (tag : Byte) (data : List Word) : (c.tagInUse q tag data).frozen = c.frozen := by
 simp [Chip.tagInUse]
@[simp] theorem Chip.tagInUse_cmd (c : Chip) (q : Nat) (tag : Byte) (data : List Word) : (c.tagInUse q tag data).cmd = c.cmd := by
 simp [Chip.tagInUse]
@[simp] theorem Chip.tagInUse_failover (c : Chip) (q : Nat) (tag : Byte) (data : List Word) : (c.tagInUse q tag data).failover = c.failover := by
 simp [Chip.tagInUse]
@[simp] theorem Chip.tagInUse_notes (c : Chip) (q : Nat) (tag : Byte) (data : List Word) : (c.tagInUse q tag data).notes = c.notes := by
 simp [Chip.tagInUse]
@[simp] theorem Chip.tagInUse_notesDue (c : Chip) (q : Nat) (tag : Byte) (data : List Word) : (c.tagInUse q tag data).notesDue = c.notesDue := by
 simp [Chip.tagInUse]
@[simp] theorem Chip.tagInUse_gap (c : Chip) (q : Nat) (tag : Byte) (data : List Word) : (c.tagInUse q tag data).gap = c.gap := by
 simp [Chip.tagInUse]
@[simp] theorem Chip.tagInUse_snap (c : Chip) (q : Nat) (tag : Byte) (data : List Word) : (c.tagInUse q tag data).snap = c.snap := by
 simp [Chip.tagInUse]
@[simp] theorem Chip.tagInUse_mon (c : Chip) (q : Nat) (tag : Byte) (data : List Word) : (c.tagInUse q tag data).mon = c.mon := by
 simp [Chip.tagInUse]
@[simp] theorem Chip.tagInUse_tap (c : Chip) (q : Nat) (tag : Byte) (data : List Word) : (c.tagInUse q tag data).tap = c.tap := by
 simp [Chip.tagInUse]
@[simp] theorem Chip.tagInUse_flash (c : Chip) (q : Nat) (tag : Byte) (data : List Word) : (c.tagInUse q tag data).flash = c.flash := by
 simp [Chip.tagInUse]
@[simp] theorem Chip.tagInUse_tm (c : Chip) (q : Nat) (tag : Byte) (data : List Word) : (c.tagInUse q tag data).tm = c.tm := by
 simp [Chip.tagInUse]
@[simp] theorem Chip.tagInUse_align (c : Chip) (q : Nat) (tag : Byte) (data : List Word) : (c.tagInUse q tag data).align = c.align := by
 simp [Chip.tagInUse]
@[simp] theorem Chip.tagInUse_time (c : Chip) (q : Nat) (tag : Byte) (data : List Word) : (c.tagInUse q tag data).time = c.time := by
 simp [Chip.tagInUse]
@[simp] theorem Chip.tagInUse_free (c : Chip) (q : Nat) (tag : Byte) (data : List Word) : (c.tagInUse q tag data).free = c.free := by
 simp [Chip.tagInUse]
@[simp] theorem Chip.tagInUse_mem (c : Chip) (q : Nat) (tag : Byte) (data : List Word) : (c.tagInUse q tag data).mem = c.mem := by
 simp [Chip.tagInUse]
@[simp] theorem Chip.tagInUse_images (c : Chip) (q : Nat) (tag : Byte) (data : List Word) : (c.tagInUse q tag data).images = c.images := by
 simp [Chip.tagInUse]
@[simp] theorem Chip.tagInUse_sched (c : Chip) (q : Nat) (tag : Byte) (data : List Word) : (c.tagInUse q tag data).sched = c.sched := by
 simp [Chip.tagInUse]
@[simp] theorem Chip.tagInUse_groups (c : Chip) (q : Nat) (tag : Byte) (data : List Word) : (c.tagInUse q tag data).groups = c.groups := by
 simp [Chip.tagInUse]
@[simp] theorem Chip.tagInUse_mor (c : Chip) (q : Nat) (tag : Byte) (data : List Word) : (c.tagInUse q tag data).mor = c.mor := by
 simp [Chip.tagInUse]
@[simp] theorem Chip.tagInUse_tdc (c : Chip) (q : Nat) (tag : Byte) (data : List Word) : (c.tagInUse q tag data).tdc = c.tdc := by
 simp [Chip.tagInUse]
@[simp] theorem Chip.tagInUse_adc (c : Chip) (q : Nat) (tag : Byte) (data : List Word) : (c.tagInUse q tag data).adc = c.adc := by
 simp [Chip.tagInUse]
@[simp] theorem Chip.tagInUse_cal (c : Chip) (q : Nat) (tag : Byte) (data : List Word) : (c.tagInUse q tag data).cal = c.cal := by
 simp [Chip.tagInUse]
@[simp] theorem Chip.tagInUse_crcDma (c : Chip) (q : Nat) (tag : Byte) (data : List Word) : (c.tagInUse q tag data).crcDma = c.crcDma := by
 simp [Chip.tagInUse]
@[simp] theorem Chip.tagInUse_sb (c : Chip) (q : Nat) (tag : Byte) (data : List Word) : (c.tagInUse q tag data).sb = c.sb := by
 simp [Chip.tagInUse]
@[simp] theorem Chip.tagInUse_balls (c : Chip) (q : Nat) (tag : Byte) (data : List Word) : (c.tagInUse q tag data).balls = c.balls := by
 simp [Chip.tagInUse]

@[simp] theorem Chip.badTxn_dev (c : Chip) (q : Nat) (tag : Byte) (st : Nat) (data : List Word) : (c.badTxn q tag st data).dev = c.dev := by
 unfold Chip.badTxn; simp only; split <;> simp
@[simp] theorem Chip.badTxn_led (c : Chip) (q : Nat) (tag : Byte) (st : Nat) (data : List Word) : (c.badTxn q tag st data).led = c.led := by
 unfold Chip.badTxn; simp only; split <;> simp
@[simp] theorem Chip.badTxn_epoch (c : Chip) (q : Nat) (tag : Byte) (st : Nat) (data : List Word) : (c.badTxn q tag st data).epoch = c.epoch := by
 unfold Chip.badTxn; simp only; split <;> simp
@[simp] theorem Chip.badTxn_staging (c : Chip) (q : Nat) (tag : Byte) (st : Nat) (data : List Word) : (c.badTxn q tag st data).staging = c.staging := by
 unfold Chip.badTxn; simp only; split <;> simp
@[simp] theorem Chip.badTxn_frozen (c : Chip) (q : Nat) (tag : Byte) (st : Nat) (data : List Word) : (c.badTxn q tag st data).frozen = c.frozen := by
 unfold Chip.badTxn; simp only; split <;> simp
@[simp] theorem Chip.badTxn_cmd (c : Chip) (q : Nat) (tag : Byte) (st : Nat) (data : List Word) : (c.badTxn q tag st data).cmd = c.cmd := by
 unfold Chip.badTxn; simp only; split <;> simp
@[simp] theorem Chip.badTxn_failover (c : Chip) (q : Nat) (tag : Byte) (st : Nat) (data : List Word) : (c.badTxn q tag st data).failover = c.failover := by
 unfold Chip.badTxn; simp only; split <;> simp
@[simp] theorem Chip.badTxn_notes (c : Chip) (q : Nat) (tag : Byte) (st : Nat) (data : List Word) : (c.badTxn q tag st data).notes = c.notes := by
 unfold Chip.badTxn; simp only; split <;> simp
@[simp] theorem Chip.badTxn_notesDue (c : Chip) (q : Nat) (tag : Byte) (st : Nat) (data : List Word) : (c.badTxn q tag st data).notesDue = c.notesDue := by
 unfold Chip.badTxn; simp only; split <;> simp
@[simp] theorem Chip.badTxn_gap (c : Chip) (q : Nat) (tag : Byte) (st : Nat) (data : List Word) : (c.badTxn q tag st data).gap = c.gap := by
 unfold Chip.badTxn; simp only; split <;> simp
@[simp] theorem Chip.badTxn_snap (c : Chip) (q : Nat) (tag : Byte) (st : Nat) (data : List Word) : (c.badTxn q tag st data).snap = c.snap := by
 unfold Chip.badTxn; simp only; split <;> simp
@[simp] theorem Chip.badTxn_mon (c : Chip) (q : Nat) (tag : Byte) (st : Nat) (data : List Word) : (c.badTxn q tag st data).mon = c.mon := by
 unfold Chip.badTxn; simp only; split <;> simp
@[simp] theorem Chip.badTxn_tap (c : Chip) (q : Nat) (tag : Byte) (st : Nat) (data : List Word) : (c.badTxn q tag st data).tap = c.tap := by
 unfold Chip.badTxn; simp only; split <;> simp
@[simp] theorem Chip.badTxn_flash (c : Chip) (q : Nat) (tag : Byte) (st : Nat) (data : List Word) : (c.badTxn q tag st data).flash = c.flash := by
 unfold Chip.badTxn; simp only; split <;> simp
@[simp] theorem Chip.badTxn_tm (c : Chip) (q : Nat) (tag : Byte) (st : Nat) (data : List Word) : (c.badTxn q tag st data).tm = c.tm := by
 unfold Chip.badTxn; simp only; split <;> simp
@[simp] theorem Chip.badTxn_align (c : Chip) (q : Nat) (tag : Byte) (st : Nat) (data : List Word) : (c.badTxn q tag st data).align = c.align := by
 unfold Chip.badTxn; simp only; split <;> simp
@[simp] theorem Chip.badTxn_time (c : Chip) (q : Nat) (tag : Byte) (st : Nat) (data : List Word) : (c.badTxn q tag st data).time = c.time := by
 unfold Chip.badTxn; simp only; split <;> simp
@[simp] theorem Chip.badTxn_free (c : Chip) (q : Nat) (tag : Byte) (st : Nat) (data : List Word) : (c.badTxn q tag st data).free = c.free := by
 unfold Chip.badTxn; simp only; split <;> simp
@[simp] theorem Chip.badTxn_mem (c : Chip) (q : Nat) (tag : Byte) (st : Nat) (data : List Word) : (c.badTxn q tag st data).mem = c.mem := by
 unfold Chip.badTxn; simp only; split <;> simp
@[simp] theorem Chip.badTxn_images (c : Chip) (q : Nat) (tag : Byte) (st : Nat) (data : List Word) : (c.badTxn q tag st data).images = c.images := by
 unfold Chip.badTxn; simp only; split <;> simp
@[simp] theorem Chip.badTxn_sched (c : Chip) (q : Nat) (tag : Byte) (st : Nat) (data : List Word) : (c.badTxn q tag st data).sched = c.sched := by
 unfold Chip.badTxn; simp only; split <;> simp
@[simp] theorem Chip.badTxn_groups (c : Chip) (q : Nat) (tag : Byte) (st : Nat) (data : List Word) : (c.badTxn q tag st data).groups = c.groups := by
 unfold Chip.badTxn; simp only; split <;> simp
@[simp] theorem Chip.badTxn_mor (c : Chip) (q : Nat) (tag : Byte) (st : Nat) (data : List Word) : (c.badTxn q tag st data).mor = c.mor := by
 unfold Chip.badTxn; simp only; split <;> simp
@[simp] theorem Chip.badTxn_tdc (c : Chip) (q : Nat) (tag : Byte) (st : Nat) (data : List Word) : (c.badTxn q tag st data).tdc = c.tdc := by
 unfold Chip.badTxn; simp only; split <;> simp
@[simp] theorem Chip.badTxn_adc (c : Chip) (q : Nat) (tag : Byte) (st : Nat) (data : List Word) : (c.badTxn q tag st data).adc = c.adc := by
 unfold Chip.badTxn; simp only; split <;> simp
@[simp] theorem Chip.badTxn_cal (c : Chip) (q : Nat) (tag : Byte) (st : Nat) (data : List Word) : (c.badTxn q tag st data).cal = c.cal := by
 unfold Chip.badTxn; simp only; split <;> simp
@[simp] theorem Chip.badTxn_crcDma (c : Chip) (q : Nat) (tag : Byte) (st : Nat) (data : List Word) : (c.badTxn q tag st data).crcDma = c.crcDma := by
 unfold Chip.badTxn; simp only; split <;> simp
@[simp] theorem Chip.badTxn_sb (c : Chip) (q : Nat) (tag : Byte) (st : Nat) (data : List Word) : (c.badTxn q tag st data).sb = c.sb := by
 unfold Chip.badTxn; simp only; split <;> simp
@[simp] theorem Chip.badTxn_balls (c : Chip) (q : Nat) (tag : Byte) (st : Nat) (data : List Word) : (c.badTxn q tag st data).balls = c.balls := by
 unfold Chip.badTxn; simp only; split <;> simp

/-- A fold of operations that each change only ledgers and ports changes only those. -/
theorem fold_led_ports (f : Chip → Nat → Chip)
    (hf : ∀ (c : Chip) (k : Nat), ∃ l p, f c k = { c with led := l, ports := p }) (ks : List Nat) :
    ∀ c : Chip, ∃ l p, ks.foldl f c = { c with led := l, ports := p } := by
  induction ks with
  | nil => intro c; exact ⟨c.led, c.ports, rfl⟩
  | cons k ks ih =>
    intro c
    obtain ⟨l, p, h⟩ := hf c k
    obtain ⟨l', p', h'⟩ := ih (f c k)
    exact ⟨l', p', by rw [List.foldl_cons, h', h]⟩
theorem Chip.grantAll_shape (c : Chip) (q : Nat) : ∃ l p, c.grantAll q = { c with led := l, ports := p } :=
  fold_led_ports _ (fun _ _ => ⟨_, _, rfl⟩) [0, 1, 2] c

@[simp] theorem Chip.grantAll_dev (c : Chip) (q : Nat) : (c.grantAll q).dev = c.dev := by
 obtain ⟨l, p, h⟩ := c.grantAll_shape q; rw [h]
@[simp] theorem Chip.grantAll_regs (c : Chip) (q : Nat) : (c.grantAll q).regs = c.regs := by
 obtain ⟨l, p, h⟩ := c.grantAll_shape q; rw [h]
@[simp] theorem Chip.grantAll_epoch (c : Chip) (q : Nat) : (c.grantAll q).epoch = c.epoch := by
 obtain ⟨l, p, h⟩ := c.grantAll_shape q; rw [h]
@[simp] theorem Chip.grantAll_staging (c : Chip) (q : Nat) : (c.grantAll q).staging = c.staging := by
 obtain ⟨l, p, h⟩ := c.grantAll_shape q; rw [h]
@[simp] theorem Chip.grantAll_cirque (c : Chip) (q : Nat) : (c.grantAll q).cirque = c.cirque := by
 obtain ⟨l, p, h⟩ := c.grantAll_shape q; rw [h]
@[simp] theorem Chip.grantAll_counters (c : Chip) (q : Nat) : (c.grantAll q).counters = c.counters := by
 obtain ⟨l, p, h⟩ := c.grantAll_shape q; rw [h]
@[simp] theorem Chip.grantAll_frozen (c : Chip) (q : Nat) : (c.grantAll q).frozen = c.frozen := by
 obtain ⟨l, p, h⟩ := c.grantAll_shape q; rw [h]
@[simp] theorem Chip.grantAll_cmd (c : Chip) (q : Nat) : (c.grantAll q).cmd = c.cmd := by
 obtain ⟨l, p, h⟩ := c.grantAll_shape q; rw [h]
@[simp] theorem Chip.grantAll_failover (c : Chip) (q : Nat) : (c.grantAll q).failover = c.failover := by
 obtain ⟨l, p, h⟩ := c.grantAll_shape q; rw [h]
@[simp] theorem Chip.grantAll_notes (c : Chip) (q : Nat) : (c.grantAll q).notes = c.notes := by
 obtain ⟨l, p, h⟩ := c.grantAll_shape q; rw [h]
@[simp] theorem Chip.grantAll_notesDue (c : Chip) (q : Nat) : (c.grantAll q).notesDue = c.notesDue := by
 obtain ⟨l, p, h⟩ := c.grantAll_shape q; rw [h]
@[simp] theorem Chip.grantAll_gap (c : Chip) (q : Nat) : (c.grantAll q).gap = c.gap := by
 obtain ⟨l, p, h⟩ := c.grantAll_shape q; rw [h]
@[simp] theorem Chip.grantAll_snap (c : Chip) (q : Nat) : (c.grantAll q).snap = c.snap := by
 obtain ⟨l, p, h⟩ := c.grantAll_shape q; rw [h]
@[simp] theorem Chip.grantAll_mon (c : Chip) (q : Nat) : (c.grantAll q).mon = c.mon := by
 obtain ⟨l, p, h⟩ := c.grantAll_shape q; rw [h]
@[simp] theorem Chip.grantAll_tap (c : Chip) (q : Nat) : (c.grantAll q).tap = c.tap := by
 obtain ⟨l, p, h⟩ := c.grantAll_shape q; rw [h]
@[simp] theorem Chip.grantAll_flash (c : Chip) (q : Nat) : (c.grantAll q).flash = c.flash := by
 obtain ⟨l, p, h⟩ := c.grantAll_shape q; rw [h]
@[simp] theorem Chip.grantAll_tm (c : Chip) (q : Nat) : (c.grantAll q).tm = c.tm := by
 obtain ⟨l, p, h⟩ := c.grantAll_shape q; rw [h]
@[simp] theorem Chip.grantAll_align (c : Chip) (q : Nat) : (c.grantAll q).align = c.align := by
 obtain ⟨l, p, h⟩ := c.grantAll_shape q; rw [h]
@[simp] theorem Chip.grantAll_time (c : Chip) (q : Nat) : (c.grantAll q).time = c.time := by
 obtain ⟨l, p, h⟩ := c.grantAll_shape q; rw [h]
@[simp] theorem Chip.grantAll_free (c : Chip) (q : Nat) : (c.grantAll q).free = c.free := by
 obtain ⟨l, p, h⟩ := c.grantAll_shape q; rw [h]
@[simp] theorem Chip.grantAll_mem (c : Chip) (q : Nat) : (c.grantAll q).mem = c.mem := by
 obtain ⟨l, p, h⟩ := c.grantAll_shape q; rw [h]
@[simp] theorem Chip.grantAll_images (c : Chip) (q : Nat) : (c.grantAll q).images = c.images := by
 obtain ⟨l, p, h⟩ := c.grantAll_shape q; rw [h]
@[simp] theorem Chip.grantAll_sched (c : Chip) (q : Nat) : (c.grantAll q).sched = c.sched := by
 obtain ⟨l, p, h⟩ := c.grantAll_shape q; rw [h]
@[simp] theorem Chip.grantAll_groups (c : Chip) (q : Nat) : (c.grantAll q).groups = c.groups := by
 obtain ⟨l, p, h⟩ := c.grantAll_shape q; rw [h]
@[simp] theorem Chip.grantAll_mor (c : Chip) (q : Nat) : (c.grantAll q).mor = c.mor := by
 obtain ⟨l, p, h⟩ := c.grantAll_shape q; rw [h]
@[simp] theorem Chip.grantAll_tdc (c : Chip) (q : Nat) : (c.grantAll q).tdc = c.tdc := by
 obtain ⟨l, p, h⟩ := c.grantAll_shape q; rw [h]
@[simp] theorem Chip.grantAll_adc (c : Chip) (q : Nat) : (c.grantAll q).adc = c.adc := by
 obtain ⟨l, p, h⟩ := c.grantAll_shape q; rw [h]
@[simp] theorem Chip.grantAll_cal (c : Chip) (q : Nat) : (c.grantAll q).cal = c.cal := by
 obtain ⟨l, p, h⟩ := c.grantAll_shape q; rw [h]
@[simp] theorem Chip.grantAll_crcDma (c : Chip) (q : Nat) : (c.grantAll q).crcDma = c.crcDma := by
 obtain ⟨l, p, h⟩ := c.grantAll_shape q; rw [h]
@[simp] theorem Chip.grantAll_sb (c : Chip) (q : Nat) : (c.grantAll q).sb = c.sb := by
 obtain ⟨l, p, h⟩ := c.grantAll_shape q; rw [h]
@[simp] theorem Chip.grantAll_balls (c : Chip) (q : Nat) : (c.grantAll q).balls = c.balls := by
 obtain ⟨l, p, h⟩ := c.grantAll_shape q; rw [h]

@[simp] theorem Chip.sendCredit_dev (c : Chip) (q : Nat) : (c.sendCredit q).dev = c.dev := by
 simp [Chip.sendCredit]
@[simp] theorem Chip.sendCredit_regs (c : Chip) (q : Nat) : (c.sendCredit q).regs = c.regs := by
 simp [Chip.sendCredit]
@[simp] theorem Chip.sendCredit_epoch (c : Chip) (q : Nat) : (c.sendCredit q).epoch = c.epoch := by
 simp [Chip.sendCredit]
@[simp] theorem Chip.sendCredit_staging (c : Chip) (q : Nat) : (c.sendCredit q).staging = c.staging := by
 simp [Chip.sendCredit]
@[simp] theorem Chip.sendCredit_frozen (c : Chip) (q : Nat) : (c.sendCredit q).frozen = c.frozen := by
 simp [Chip.sendCredit]
@[simp] theorem Chip.sendCredit_cmd (c : Chip) (q : Nat) : (c.sendCredit q).cmd = c.cmd := by
 simp [Chip.sendCredit]
@[simp] theorem Chip.sendCredit_failover (c : Chip) (q : Nat) : (c.sendCredit q).failover = c.failover := by
 simp [Chip.sendCredit]
@[simp] theorem Chip.sendCredit_notes (c : Chip) (q : Nat) : (c.sendCredit q).notes = c.notes := by
 simp [Chip.sendCredit]
@[simp] theorem Chip.sendCredit_notesDue (c : Chip) (q : Nat) : (c.sendCredit q).notesDue = c.notesDue := by
 simp [Chip.sendCredit]
@[simp] theorem Chip.sendCredit_gap (c : Chip) (q : Nat) : (c.sendCredit q).gap = c.gap := by
 simp [Chip.sendCredit]
@[simp] theorem Chip.sendCredit_snap (c : Chip) (q : Nat) : (c.sendCredit q).snap = c.snap := by
 simp [Chip.sendCredit]
@[simp] theorem Chip.sendCredit_mon (c : Chip) (q : Nat) : (c.sendCredit q).mon = c.mon := by
 simp [Chip.sendCredit]
@[simp] theorem Chip.sendCredit_tap (c : Chip) (q : Nat) : (c.sendCredit q).tap = c.tap := by
 simp [Chip.sendCredit]
@[simp] theorem Chip.sendCredit_flash (c : Chip) (q : Nat) : (c.sendCredit q).flash = c.flash := by
 simp [Chip.sendCredit]
@[simp] theorem Chip.sendCredit_tm (c : Chip) (q : Nat) : (c.sendCredit q).tm = c.tm := by
 simp [Chip.sendCredit]
@[simp] theorem Chip.sendCredit_align (c : Chip) (q : Nat) : (c.sendCredit q).align = c.align := by
 simp [Chip.sendCredit]
@[simp] theorem Chip.sendCredit_time (c : Chip) (q : Nat) : (c.sendCredit q).time = c.time := by
 simp [Chip.sendCredit]
@[simp] theorem Chip.sendCredit_free (c : Chip) (q : Nat) : (c.sendCredit q).free = c.free := by
 simp [Chip.sendCredit]
@[simp] theorem Chip.sendCredit_mem (c : Chip) (q : Nat) : (c.sendCredit q).mem = c.mem := by
 simp [Chip.sendCredit]
@[simp] theorem Chip.sendCredit_images (c : Chip) (q : Nat) : (c.sendCredit q).images = c.images := by
 simp [Chip.sendCredit]
@[simp] theorem Chip.sendCredit_sched (c : Chip) (q : Nat) : (c.sendCredit q).sched = c.sched := by
 simp [Chip.sendCredit]
@[simp] theorem Chip.sendCredit_groups (c : Chip) (q : Nat) : (c.sendCredit q).groups = c.groups := by
 simp [Chip.sendCredit]
@[simp] theorem Chip.sendCredit_mor (c : Chip) (q : Nat) : (c.sendCredit q).mor = c.mor := by
 simp [Chip.sendCredit]
@[simp] theorem Chip.sendCredit_tdc (c : Chip) (q : Nat) : (c.sendCredit q).tdc = c.tdc := by
 simp [Chip.sendCredit]
@[simp] theorem Chip.sendCredit_adc (c : Chip) (q : Nat) : (c.sendCredit q).adc = c.adc := by
 simp [Chip.sendCredit]
@[simp] theorem Chip.sendCredit_cal (c : Chip) (q : Nat) : (c.sendCredit q).cal = c.cal := by
 simp [Chip.sendCredit]
@[simp] theorem Chip.sendCredit_crcDma (c : Chip) (q : Nat) : (c.sendCredit q).crcDma = c.crcDma := by
 simp [Chip.sendCredit]
@[simp] theorem Chip.sendCredit_sb (c : Chip) (q : Nat) : (c.sendCredit q).sb = c.sb := by
 simp [Chip.sendCredit]
@[simp] theorem Chip.sendCredit_balls (c : Chip) (q : Nat) : (c.sendCredit q).balls = c.balls := by
 simp [Chip.sendCredit]

@[simp] theorem Chip.freeBuf_dev (c : Chip) (q k : Nat) : (c.freeBuf q k).dev = c.dev := by
 unfold Chip.freeBuf; simp only; split <;> simp
@[simp] theorem Chip.freeBuf_regs (c : Chip) (q k : Nat) : (c.freeBuf q k).regs = c.regs := by
 unfold Chip.freeBuf; simp only; split <;> simp
@[simp] theorem Chip.freeBuf_epoch (c : Chip) (q k : Nat) : (c.freeBuf q k).epoch = c.epoch := by
 unfold Chip.freeBuf; simp only; split <;> simp
@[simp] theorem Chip.freeBuf_staging (c : Chip) (q k : Nat) : (c.freeBuf q k).staging = c.staging := by
 unfold Chip.freeBuf; simp only; split <;> simp
@[simp] theorem Chip.freeBuf_frozen (c : Chip) (q k : Nat) : (c.freeBuf q k).frozen = c.frozen := by
 unfold Chip.freeBuf; simp only; split <;> simp
@[simp] theorem Chip.freeBuf_cmd (c : Chip) (q k : Nat) : (c.freeBuf q k).cmd = c.cmd := by
 unfold Chip.freeBuf; simp only; split <;> simp
@[simp] theorem Chip.freeBuf_failover (c : Chip) (q k : Nat) : (c.freeBuf q k).failover = c.failover := by
 unfold Chip.freeBuf; simp only; split <;> simp
@[simp] theorem Chip.freeBuf_notes (c : Chip) (q k : Nat) : (c.freeBuf q k).notes = c.notes := by
 unfold Chip.freeBuf; simp only; split <;> simp
@[simp] theorem Chip.freeBuf_notesDue (c : Chip) (q k : Nat) : (c.freeBuf q k).notesDue = c.notesDue := by
 unfold Chip.freeBuf; simp only; split <;> simp
@[simp] theorem Chip.freeBuf_gap (c : Chip) (q k : Nat) : (c.freeBuf q k).gap = c.gap := by
 unfold Chip.freeBuf; simp only; split <;> simp
@[simp] theorem Chip.freeBuf_snap (c : Chip) (q k : Nat) : (c.freeBuf q k).snap = c.snap := by
 unfold Chip.freeBuf; simp only; split <;> simp
@[simp] theorem Chip.freeBuf_mon (c : Chip) (q k : Nat) : (c.freeBuf q k).mon = c.mon := by
 unfold Chip.freeBuf; simp only; split <;> simp
@[simp] theorem Chip.freeBuf_tap (c : Chip) (q k : Nat) : (c.freeBuf q k).tap = c.tap := by
 unfold Chip.freeBuf; simp only; split <;> simp
@[simp] theorem Chip.freeBuf_flash (c : Chip) (q k : Nat) : (c.freeBuf q k).flash = c.flash := by
 unfold Chip.freeBuf; simp only; split <;> simp
@[simp] theorem Chip.freeBuf_tm (c : Chip) (q k : Nat) : (c.freeBuf q k).tm = c.tm := by
 unfold Chip.freeBuf; simp only; split <;> simp
@[simp] theorem Chip.freeBuf_align (c : Chip) (q k : Nat) : (c.freeBuf q k).align = c.align := by
 unfold Chip.freeBuf; simp only; split <;> simp
@[simp] theorem Chip.freeBuf_time (c : Chip) (q k : Nat) : (c.freeBuf q k).time = c.time := by
 unfold Chip.freeBuf; simp only; split <;> simp
@[simp] theorem Chip.freeBuf_free (c : Chip) (q k : Nat) : (c.freeBuf q k).free = c.free := by
 unfold Chip.freeBuf; simp only; split <;> simp
@[simp] theorem Chip.freeBuf_mem (c : Chip) (q k : Nat) : (c.freeBuf q k).mem = c.mem := by
 unfold Chip.freeBuf; simp only; split <;> simp
@[simp] theorem Chip.freeBuf_images (c : Chip) (q k : Nat) : (c.freeBuf q k).images = c.images := by
 unfold Chip.freeBuf; simp only; split <;> simp
@[simp] theorem Chip.freeBuf_sched (c : Chip) (q k : Nat) : (c.freeBuf q k).sched = c.sched := by
 unfold Chip.freeBuf; simp only; split <;> simp
@[simp] theorem Chip.freeBuf_groups (c : Chip) (q k : Nat) : (c.freeBuf q k).groups = c.groups := by
 unfold Chip.freeBuf; simp only; split <;> simp
@[simp] theorem Chip.freeBuf_mor (c : Chip) (q k : Nat) : (c.freeBuf q k).mor = c.mor := by
 unfold Chip.freeBuf; simp only; split <;> simp
@[simp] theorem Chip.freeBuf_tdc (c : Chip) (q k : Nat) : (c.freeBuf q k).tdc = c.tdc := by
 unfold Chip.freeBuf; simp only; split <;> simp
@[simp] theorem Chip.freeBuf_adc (c : Chip) (q k : Nat) : (c.freeBuf q k).adc = c.adc := by
 unfold Chip.freeBuf; simp only; split <;> simp
@[simp] theorem Chip.freeBuf_cal (c : Chip) (q k : Nat) : (c.freeBuf q k).cal = c.cal := by
 unfold Chip.freeBuf; simp only; split <;> simp
@[simp] theorem Chip.freeBuf_crcDma (c : Chip) (q k : Nat) : (c.freeBuf q k).crcDma = c.crcDma := by
 unfold Chip.freeBuf; simp only; split <;> simp
@[simp] theorem Chip.freeBuf_sb (c : Chip) (q k : Nat) : (c.freeBuf q k).sb = c.sb := by
 unfold Chip.freeBuf; simp only; split <;> simp
@[simp] theorem Chip.freeBuf_balls (c : Chip) (q k : Nat) : (c.freeBuf q k).balls = c.balls := by
 unfold Chip.freeBuf; simp only; split <;> simp

@[simp] theorem Chip.sendNak_dev (c : Chip) (q : Nat) : (c.sendNak q).dev = c.dev := by
 unfold Chip.sendNak; simp only; split <;> simp
@[simp] theorem Chip.sendNak_led (c : Chip) (q : Nat) : (c.sendNak q).led = c.led := by
 unfold Chip.sendNak; simp only; split <;> simp
@[simp] theorem Chip.sendNak_epoch (c : Chip) (q : Nat) : (c.sendNak q).epoch = c.epoch := by
 unfold Chip.sendNak; simp only; split <;> simp
@[simp] theorem Chip.sendNak_staging (c : Chip) (q : Nat) : (c.sendNak q).staging = c.staging := by
 unfold Chip.sendNak; simp only; split <;> simp
@[simp] theorem Chip.sendNak_frozen (c : Chip) (q : Nat) : (c.sendNak q).frozen = c.frozen := by
 unfold Chip.sendNak; simp only; split <;> simp
@[simp] theorem Chip.sendNak_cmd (c : Chip) (q : Nat) : (c.sendNak q).cmd = c.cmd := by
 unfold Chip.sendNak; simp only; split <;> simp
@[simp] theorem Chip.sendNak_failover (c : Chip) (q : Nat) : (c.sendNak q).failover = c.failover := by
 unfold Chip.sendNak; simp only; split <;> simp
@[simp] theorem Chip.sendNak_notes (c : Chip) (q : Nat) : (c.sendNak q).notes = c.notes := by
 unfold Chip.sendNak; simp only; split <;> simp
@[simp] theorem Chip.sendNak_notesDue (c : Chip) (q : Nat) : (c.sendNak q).notesDue = c.notesDue := by
 unfold Chip.sendNak; simp only; split <;> simp
@[simp] theorem Chip.sendNak_gap (c : Chip) (q : Nat) : (c.sendNak q).gap = c.gap := by
 unfold Chip.sendNak; simp only; split <;> simp
@[simp] theorem Chip.sendNak_snap (c : Chip) (q : Nat) : (c.sendNak q).snap = c.snap := by
 unfold Chip.sendNak; simp only; split <;> simp
@[simp] theorem Chip.sendNak_mon (c : Chip) (q : Nat) : (c.sendNak q).mon = c.mon := by
 unfold Chip.sendNak; simp only; split <;> simp
@[simp] theorem Chip.sendNak_tap (c : Chip) (q : Nat) : (c.sendNak q).tap = c.tap := by
 unfold Chip.sendNak; simp only; split <;> simp
@[simp] theorem Chip.sendNak_flash (c : Chip) (q : Nat) : (c.sendNak q).flash = c.flash := by
 unfold Chip.sendNak; simp only; split <;> simp
@[simp] theorem Chip.sendNak_tm (c : Chip) (q : Nat) : (c.sendNak q).tm = c.tm := by
 unfold Chip.sendNak; simp only; split <;> simp
@[simp] theorem Chip.sendNak_align (c : Chip) (q : Nat) : (c.sendNak q).align = c.align := by
 unfold Chip.sendNak; simp only; split <;> simp
@[simp] theorem Chip.sendNak_time (c : Chip) (q : Nat) : (c.sendNak q).time = c.time := by
 unfold Chip.sendNak; simp only; split <;> simp
@[simp] theorem Chip.sendNak_free (c : Chip) (q : Nat) : (c.sendNak q).free = c.free := by
 unfold Chip.sendNak; simp only; split <;> simp
@[simp] theorem Chip.sendNak_mem (c : Chip) (q : Nat) : (c.sendNak q).mem = c.mem := by
 unfold Chip.sendNak; simp only; split <;> simp
@[simp] theorem Chip.sendNak_images (c : Chip) (q : Nat) : (c.sendNak q).images = c.images := by
 unfold Chip.sendNak; simp only; split <;> simp
@[simp] theorem Chip.sendNak_sched (c : Chip) (q : Nat) : (c.sendNak q).sched = c.sched := by
 unfold Chip.sendNak; simp only; split <;> simp
@[simp] theorem Chip.sendNak_groups (c : Chip) (q : Nat) : (c.sendNak q).groups = c.groups := by
 unfold Chip.sendNak; simp only; split <;> simp
@[simp] theorem Chip.sendNak_mor (c : Chip) (q : Nat) : (c.sendNak q).mor = c.mor := by
 unfold Chip.sendNak; simp only; split <;> simp
@[simp] theorem Chip.sendNak_tdc (c : Chip) (q : Nat) : (c.sendNak q).tdc = c.tdc := by
 unfold Chip.sendNak; simp only; split <;> simp
@[simp] theorem Chip.sendNak_adc (c : Chip) (q : Nat) : (c.sendNak q).adc = c.adc := by
 unfold Chip.sendNak; simp only; split <;> simp
@[simp] theorem Chip.sendNak_cal (c : Chip) (q : Nat) : (c.sendNak q).cal = c.cal := by
 unfold Chip.sendNak; simp only; split <;> simp
@[simp] theorem Chip.sendNak_crcDma (c : Chip) (q : Nat) : (c.sendNak q).crcDma = c.crcDma := by
 unfold Chip.sendNak; simp only; split <;> simp
@[simp] theorem Chip.sendNak_sb (c : Chip) (q : Nat) : (c.sendNak q).sb = c.sb := by
 unfold Chip.sendNak; simp only; split <;> simp
@[simp] theorem Chip.sendNak_balls (c : Chip) (q : Nat) : (c.sendNak q).balls = c.balls := by
 unfold Chip.sendNak; simp only; split <;> simp

@[simp] theorem Chip.cmdFinish_dev (c : Chip) (status : Nat) (r : List Word) (state : Nat) : (c.cmdFinish status r state).dev = c.dev := by
 unfold Chip.cmdFinish; split <;> simp
@[simp] theorem Chip.cmdFinish_regs (c : Chip) (status : Nat) (r : List Word) (state : Nat) : (c.cmdFinish status r state).regs = c.regs := by
 unfold Chip.cmdFinish; split <;> simp
@[simp] theorem Chip.cmdFinish_led (c : Chip) (status : Nat) (r : List Word) (state : Nat) : (c.cmdFinish status r state).led = c.led := by
 unfold Chip.cmdFinish; split <;> simp
@[simp] theorem Chip.cmdFinish_epoch (c : Chip) (status : Nat) (r : List Word) (state : Nat) : (c.cmdFinish status r state).epoch = c.epoch := by
 unfold Chip.cmdFinish; split <;> simp
@[simp] theorem Chip.cmdFinish_staging (c : Chip) (status : Nat) (r : List Word) (state : Nat) : (c.cmdFinish status r state).staging = c.staging := by
 unfold Chip.cmdFinish; split <;> simp
@[simp] theorem Chip.cmdFinish_frozen (c : Chip) (status : Nat) (r : List Word) (state : Nat) : (c.cmdFinish status r state).frozen = c.frozen := by
 unfold Chip.cmdFinish; split <;> simp
@[simp] theorem Chip.cmdFinish_ports (c : Chip) (status : Nat) (r : List Word) (state : Nat) : (c.cmdFinish status r state).ports = c.ports := by
 unfold Chip.cmdFinish; split <;> simp
@[simp] theorem Chip.cmdFinish_failover (c : Chip) (status : Nat) (r : List Word) (state : Nat) : (c.cmdFinish status r state).failover = c.failover := by
 unfold Chip.cmdFinish; split <;> simp
@[simp] theorem Chip.cmdFinish_notes (c : Chip) (status : Nat) (r : List Word) (state : Nat) : (c.cmdFinish status r state).notes = c.notes := by
 unfold Chip.cmdFinish; split <;> simp
@[simp] theorem Chip.cmdFinish_notesDue (c : Chip) (status : Nat) (r : List Word) (state : Nat) : (c.cmdFinish status r state).notesDue = c.notesDue := by
 unfold Chip.cmdFinish; split <;> simp
@[simp] theorem Chip.cmdFinish_gap (c : Chip) (status : Nat) (r : List Word) (state : Nat) : (c.cmdFinish status r state).gap = c.gap := by
 unfold Chip.cmdFinish; split <;> simp
@[simp] theorem Chip.cmdFinish_snap (c : Chip) (status : Nat) (r : List Word) (state : Nat) : (c.cmdFinish status r state).snap = c.snap := by
 unfold Chip.cmdFinish; split <;> simp
@[simp] theorem Chip.cmdFinish_mon (c : Chip) (status : Nat) (r : List Word) (state : Nat) : (c.cmdFinish status r state).mon = c.mon := by
 unfold Chip.cmdFinish; split <;> simp
@[simp] theorem Chip.cmdFinish_tap (c : Chip) (status : Nat) (r : List Word) (state : Nat) : (c.cmdFinish status r state).tap = c.tap := by
 unfold Chip.cmdFinish; split <;> simp
@[simp] theorem Chip.cmdFinish_flash (c : Chip) (status : Nat) (r : List Word) (state : Nat) : (c.cmdFinish status r state).flash = c.flash := by
 unfold Chip.cmdFinish; split <;> simp
@[simp] theorem Chip.cmdFinish_tm (c : Chip) (status : Nat) (r : List Word) (state : Nat) : (c.cmdFinish status r state).tm = c.tm := by
 unfold Chip.cmdFinish; split <;> simp
@[simp] theorem Chip.cmdFinish_align (c : Chip) (status : Nat) (r : List Word) (state : Nat) : (c.cmdFinish status r state).align = c.align := by
 unfold Chip.cmdFinish; split <;> simp
@[simp] theorem Chip.cmdFinish_time (c : Chip) (status : Nat) (r : List Word) (state : Nat) : (c.cmdFinish status r state).time = c.time := by
 unfold Chip.cmdFinish; split <;> simp
@[simp] theorem Chip.cmdFinish_free (c : Chip) (status : Nat) (r : List Word) (state : Nat) : (c.cmdFinish status r state).free = c.free := by
 unfold Chip.cmdFinish; split <;> simp
@[simp] theorem Chip.cmdFinish_mem (c : Chip) (status : Nat) (r : List Word) (state : Nat) : (c.cmdFinish status r state).mem = c.mem := by
 unfold Chip.cmdFinish; split <;> simp
@[simp] theorem Chip.cmdFinish_images (c : Chip) (status : Nat) (r : List Word) (state : Nat) : (c.cmdFinish status r state).images = c.images := by
 unfold Chip.cmdFinish; split <;> simp
@[simp] theorem Chip.cmdFinish_sched (c : Chip) (status : Nat) (r : List Word) (state : Nat) : (c.cmdFinish status r state).sched = c.sched := by
 unfold Chip.cmdFinish; split <;> simp
@[simp] theorem Chip.cmdFinish_groups (c : Chip) (status : Nat) (r : List Word) (state : Nat) : (c.cmdFinish status r state).groups = c.groups := by
 unfold Chip.cmdFinish; split <;> simp
@[simp] theorem Chip.cmdFinish_mor (c : Chip) (status : Nat) (r : List Word) (state : Nat) : (c.cmdFinish status r state).mor = c.mor := by
 unfold Chip.cmdFinish; split <;> simp
@[simp] theorem Chip.cmdFinish_tdc (c : Chip) (status : Nat) (r : List Word) (state : Nat) : (c.cmdFinish status r state).tdc = c.tdc := by
 unfold Chip.cmdFinish; split <;> simp
@[simp] theorem Chip.cmdFinish_adc (c : Chip) (status : Nat) (r : List Word) (state : Nat) : (c.cmdFinish status r state).adc = c.adc := by
 unfold Chip.cmdFinish; split <;> simp
@[simp] theorem Chip.cmdFinish_cal (c : Chip) (status : Nat) (r : List Word) (state : Nat) : (c.cmdFinish status r state).cal = c.cal := by
 unfold Chip.cmdFinish; split <;> simp
@[simp] theorem Chip.cmdFinish_crcDma (c : Chip) (status : Nat) (r : List Word) (state : Nat) : (c.cmdFinish status r state).crcDma = c.crcDma := by
 unfold Chip.cmdFinish; split <;> simp
@[simp] theorem Chip.cmdFinish_sb (c : Chip) (status : Nat) (r : List Word) (state : Nat) : (c.cmdFinish status r state).sb = c.sb := by
 unfold Chip.cmdFinish; split <;> simp
@[simp] theorem Chip.cmdFinish_balls (c : Chip) (status : Nat) (r : List Word) (state : Nat) : (c.cmdFinish status r state).balls = c.balls := by
 unfold Chip.cmdFinish; split <;> simp

@[simp] theorem Chip.cmdRefuse_dev (c : Chip) (h : CmdHdr) (status state : Nat) : (c.cmdRefuse h status state).dev = c.dev := by
 simp [Chip.cmdRefuse]
@[simp] theorem Chip.cmdRefuse_led (c : Chip) (h : CmdHdr) (status state : Nat) : (c.cmdRefuse h status state).led = c.led := by
 simp [Chip.cmdRefuse]
@[simp] theorem Chip.cmdRefuse_epoch (c : Chip) (h : CmdHdr) (status state : Nat) : (c.cmdRefuse h status state).epoch = c.epoch := by
 simp [Chip.cmdRefuse]
@[simp] theorem Chip.cmdRefuse_staging (c : Chip) (h : CmdHdr) (status state : Nat) : (c.cmdRefuse h status state).staging = c.staging := by
 simp [Chip.cmdRefuse]
@[simp] theorem Chip.cmdRefuse_frozen (c : Chip) (h : CmdHdr) (status state : Nat) : (c.cmdRefuse h status state).frozen = c.frozen := by
 simp [Chip.cmdRefuse]
@[simp] theorem Chip.cmdRefuse_cmd (c : Chip) (h : CmdHdr) (status state : Nat) : (c.cmdRefuse h status state).cmd = c.cmd := by
 simp [Chip.cmdRefuse]
@[simp] theorem Chip.cmdRefuse_failover (c : Chip) (h : CmdHdr) (status state : Nat) : (c.cmdRefuse h status state).failover = c.failover := by
 simp [Chip.cmdRefuse]
@[simp] theorem Chip.cmdRefuse_notes (c : Chip) (h : CmdHdr) (status state : Nat) : (c.cmdRefuse h status state).notes = c.notes := by
 simp [Chip.cmdRefuse]
@[simp] theorem Chip.cmdRefuse_notesDue (c : Chip) (h : CmdHdr) (status state : Nat) : (c.cmdRefuse h status state).notesDue = c.notesDue := by
 simp [Chip.cmdRefuse]
@[simp] theorem Chip.cmdRefuse_gap (c : Chip) (h : CmdHdr) (status state : Nat) : (c.cmdRefuse h status state).gap = c.gap := by
 simp [Chip.cmdRefuse]
@[simp] theorem Chip.cmdRefuse_snap (c : Chip) (h : CmdHdr) (status state : Nat) : (c.cmdRefuse h status state).snap = c.snap := by
 simp [Chip.cmdRefuse]
@[simp] theorem Chip.cmdRefuse_mon (c : Chip) (h : CmdHdr) (status state : Nat) : (c.cmdRefuse h status state).mon = c.mon := by
 simp [Chip.cmdRefuse]
@[simp] theorem Chip.cmdRefuse_tap (c : Chip) (h : CmdHdr) (status state : Nat) : (c.cmdRefuse h status state).tap = c.tap := by
 simp [Chip.cmdRefuse]
@[simp] theorem Chip.cmdRefuse_flash (c : Chip) (h : CmdHdr) (status state : Nat) : (c.cmdRefuse h status state).flash = c.flash := by
 simp [Chip.cmdRefuse]
@[simp] theorem Chip.cmdRefuse_tm (c : Chip) (h : CmdHdr) (status state : Nat) : (c.cmdRefuse h status state).tm = c.tm := by
 simp [Chip.cmdRefuse]
@[simp] theorem Chip.cmdRefuse_align (c : Chip) (h : CmdHdr) (status state : Nat) : (c.cmdRefuse h status state).align = c.align := by
 simp [Chip.cmdRefuse]
@[simp] theorem Chip.cmdRefuse_time (c : Chip) (h : CmdHdr) (status state : Nat) : (c.cmdRefuse h status state).time = c.time := by
 simp [Chip.cmdRefuse]
@[simp] theorem Chip.cmdRefuse_free (c : Chip) (h : CmdHdr) (status state : Nat) : (c.cmdRefuse h status state).free = c.free := by
 simp [Chip.cmdRefuse]
@[simp] theorem Chip.cmdRefuse_mem (c : Chip) (h : CmdHdr) (status state : Nat) : (c.cmdRefuse h status state).mem = c.mem := by
 simp [Chip.cmdRefuse]
@[simp] theorem Chip.cmdRefuse_images (c : Chip) (h : CmdHdr) (status state : Nat) : (c.cmdRefuse h status state).images = c.images := by
 simp [Chip.cmdRefuse]
@[simp] theorem Chip.cmdRefuse_sched (c : Chip) (h : CmdHdr) (status state : Nat) : (c.cmdRefuse h status state).sched = c.sched := by
 simp [Chip.cmdRefuse]
@[simp] theorem Chip.cmdRefuse_groups (c : Chip) (h : CmdHdr) (status state : Nat) : (c.cmdRefuse h status state).groups = c.groups := by
 simp [Chip.cmdRefuse]
@[simp] theorem Chip.cmdRefuse_mor (c : Chip) (h : CmdHdr) (status state : Nat) : (c.cmdRefuse h status state).mor = c.mor := by
 simp [Chip.cmdRefuse]
@[simp] theorem Chip.cmdRefuse_tdc (c : Chip) (h : CmdHdr) (status state : Nat) : (c.cmdRefuse h status state).tdc = c.tdc := by
 simp [Chip.cmdRefuse]
@[simp] theorem Chip.cmdRefuse_adc (c : Chip) (h : CmdHdr) (status state : Nat) : (c.cmdRefuse h status state).adc = c.adc := by
 simp [Chip.cmdRefuse]
@[simp] theorem Chip.cmdRefuse_cal (c : Chip) (h : CmdHdr) (status state : Nat) : (c.cmdRefuse h status state).cal = c.cal := by
 simp [Chip.cmdRefuse]
@[simp] theorem Chip.cmdRefuse_crcDma (c : Chip) (h : CmdHdr) (status state : Nat) : (c.cmdRefuse h status state).crcDma = c.crcDma := by
 simp [Chip.cmdRefuse]
@[simp] theorem Chip.cmdRefuse_sb (c : Chip) (h : CmdHdr) (status state : Nat) : (c.cmdRefuse h status state).sb = c.sb := by
 simp [Chip.cmdRefuse]
@[simp] theorem Chip.cmdRefuse_balls (c : Chip) (h : CmdHdr) (status state : Nat) : (c.cmdRefuse h status state).balls = c.balls := by
 simp [Chip.cmdRefuse]

@[simp] theorem Chip.setMemCh_dev (c : Chip) (ch : Nat) (m : MemCh) : (c.setMemCh ch m).dev = c.dev := (rfl)
@[simp] theorem Chip.setMemCh_regs (c : Chip) (ch : Nat) (m : MemCh) : (c.setMemCh ch m).regs = c.regs := (rfl)
@[simp] theorem Chip.setMemCh_led (c : Chip) (ch : Nat) (m : MemCh) : (c.setMemCh ch m).led = c.led := (rfl)
@[simp] theorem Chip.setMemCh_epoch (c : Chip) (ch : Nat) (m : MemCh) : (c.setMemCh ch m).epoch = c.epoch := (rfl)
@[simp] theorem Chip.setMemCh_staging (c : Chip) (ch : Nat) (m : MemCh) : (c.setMemCh ch m).staging = c.staging := (rfl)
@[simp] theorem Chip.setMemCh_cirque (c : Chip) (ch : Nat) (m : MemCh) : (c.setMemCh ch m).cirque = c.cirque := (rfl)
@[simp] theorem Chip.setMemCh_counters (c : Chip) (ch : Nat) (m : MemCh) : (c.setMemCh ch m).counters = c.counters := (rfl)
@[simp] theorem Chip.setMemCh_frozen (c : Chip) (ch : Nat) (m : MemCh) : (c.setMemCh ch m).frozen = c.frozen := (rfl)
@[simp] theorem Chip.setMemCh_cmd (c : Chip) (ch : Nat) (m : MemCh) : (c.setMemCh ch m).cmd = c.cmd := (rfl)
@[simp] theorem Chip.setMemCh_ports (c : Chip) (ch : Nat) (m : MemCh) : (c.setMemCh ch m).ports = c.ports := (rfl)
@[simp] theorem Chip.setMemCh_failover (c : Chip) (ch : Nat) (m : MemCh) : (c.setMemCh ch m).failover = c.failover := (rfl)
@[simp] theorem Chip.setMemCh_notes (c : Chip) (ch : Nat) (m : MemCh) : (c.setMemCh ch m).notes = c.notes := (rfl)
@[simp] theorem Chip.setMemCh_notesDue (c : Chip) (ch : Nat) (m : MemCh) : (c.setMemCh ch m).notesDue = c.notesDue := (rfl)
@[simp] theorem Chip.setMemCh_gap (c : Chip) (ch : Nat) (m : MemCh) : (c.setMemCh ch m).gap = c.gap := (rfl)
@[simp] theorem Chip.setMemCh_snap (c : Chip) (ch : Nat) (m : MemCh) : (c.setMemCh ch m).snap = c.snap := (rfl)
@[simp] theorem Chip.setMemCh_mon (c : Chip) (ch : Nat) (m : MemCh) : (c.setMemCh ch m).mon = c.mon := (rfl)
@[simp] theorem Chip.setMemCh_tap (c : Chip) (ch : Nat) (m : MemCh) : (c.setMemCh ch m).tap = c.tap := (rfl)
@[simp] theorem Chip.setMemCh_flash (c : Chip) (ch : Nat) (m : MemCh) : (c.setMemCh ch m).flash = c.flash := (rfl)
@[simp] theorem Chip.setMemCh_tm (c : Chip) (ch : Nat) (m : MemCh) : (c.setMemCh ch m).tm = c.tm := (rfl)
@[simp] theorem Chip.setMemCh_align (c : Chip) (ch : Nat) (m : MemCh) : (c.setMemCh ch m).align = c.align := (rfl)
@[simp] theorem Chip.setMemCh_time (c : Chip) (ch : Nat) (m : MemCh) : (c.setMemCh ch m).time = c.time := (rfl)
@[simp] theorem Chip.setMemCh_free (c : Chip) (ch : Nat) (m : MemCh) : (c.setMemCh ch m).free = c.free := (rfl)
@[simp] theorem Chip.setMemCh_images (c : Chip) (ch : Nat) (m : MemCh) : (c.setMemCh ch m).images = c.images := (rfl)
@[simp] theorem Chip.setMemCh_sched (c : Chip) (ch : Nat) (m : MemCh) : (c.setMemCh ch m).sched = c.sched := (rfl)
@[simp] theorem Chip.setMemCh_groups (c : Chip) (ch : Nat) (m : MemCh) : (c.setMemCh ch m).groups = c.groups := (rfl)
@[simp] theorem Chip.setMemCh_mor (c : Chip) (ch : Nat) (m : MemCh) : (c.setMemCh ch m).mor = c.mor := (rfl)
@[simp] theorem Chip.setMemCh_tdc (c : Chip) (ch : Nat) (m : MemCh) : (c.setMemCh ch m).tdc = c.tdc := (rfl)
@[simp] theorem Chip.setMemCh_adc (c : Chip) (ch : Nat) (m : MemCh) : (c.setMemCh ch m).adc = c.adc := (rfl)
@[simp] theorem Chip.setMemCh_cal (c : Chip) (ch : Nat) (m : MemCh) : (c.setMemCh ch m).cal = c.cal := (rfl)
@[simp] theorem Chip.setMemCh_crcDma (c : Chip) (ch : Nat) (m : MemCh) : (c.setMemCh ch m).crcDma = c.crcDma := (rfl)
@[simp] theorem Chip.setMemCh_sb (c : Chip) (ch : Nat) (m : MemCh) : (c.setMemCh ch m).sb = c.sb := (rfl)
@[simp] theorem Chip.setMemCh_balls (c : Chip) (ch : Nat) (m : MemCh) : (c.setMemCh ch m).balls = c.balls := (rfl)

@[simp] theorem Chip.restartTable_dev (c : Chip) : (c.restartTable).dev = c.dev := (rfl)
@[simp] theorem Chip.restartTable_regs (c : Chip) : (c.restartTable).regs = c.regs := (rfl)
@[simp] theorem Chip.restartTable_led (c : Chip) : (c.restartTable).led = c.led := (rfl)
@[simp] theorem Chip.restartTable_epoch (c : Chip) : (c.restartTable).epoch = c.epoch := (rfl)
@[simp] theorem Chip.restartTable_staging (c : Chip) : (c.restartTable).staging = c.staging := (rfl)
@[simp] theorem Chip.restartTable_cirque (c : Chip) : (c.restartTable).cirque = c.cirque := (rfl)
@[simp] theorem Chip.restartTable_counters (c : Chip) : (c.restartTable).counters = c.counters := (rfl)
@[simp] theorem Chip.restartTable_frozen (c : Chip) : (c.restartTable).frozen = c.frozen := (rfl)
@[simp] theorem Chip.restartTable_cmd (c : Chip) : (c.restartTable).cmd = c.cmd := (rfl)
@[simp] theorem Chip.restartTable_ports (c : Chip) : (c.restartTable).ports = c.ports := (rfl)
@[simp] theorem Chip.restartTable_failover (c : Chip) : (c.restartTable).failover = c.failover := (rfl)
@[simp] theorem Chip.restartTable_notes (c : Chip) : (c.restartTable).notes = c.notes := (rfl)
@[simp] theorem Chip.restartTable_notesDue (c : Chip) : (c.restartTable).notesDue = c.notesDue := (rfl)
@[simp] theorem Chip.restartTable_gap (c : Chip) : (c.restartTable).gap = c.gap := (rfl)
@[simp] theorem Chip.restartTable_snap (c : Chip) : (c.restartTable).snap = c.snap := (rfl)
@[simp] theorem Chip.restartTable_mon (c : Chip) : (c.restartTable).mon = c.mon := (rfl)
@[simp] theorem Chip.restartTable_tap (c : Chip) : (c.restartTable).tap = c.tap := (rfl)
@[simp] theorem Chip.restartTable_flash (c : Chip) : (c.restartTable).flash = c.flash := (rfl)
@[simp] theorem Chip.restartTable_tm (c : Chip) : (c.restartTable).tm = c.tm := (rfl)
@[simp] theorem Chip.restartTable_align (c : Chip) : (c.restartTable).align = c.align := (rfl)
@[simp] theorem Chip.restartTable_time (c : Chip) : (c.restartTable).time = c.time := (rfl)
@[simp] theorem Chip.restartTable_free (c : Chip) : (c.restartTable).free = c.free := (rfl)
@[simp] theorem Chip.restartTable_images (c : Chip) : (c.restartTable).images = c.images := (rfl)
@[simp] theorem Chip.restartTable_sched (c : Chip) : (c.restartTable).sched = c.sched := (rfl)
@[simp] theorem Chip.restartTable_groups (c : Chip) : (c.restartTable).groups = c.groups := (rfl)
@[simp] theorem Chip.restartTable_mor (c : Chip) : (c.restartTable).mor = c.mor := (rfl)
@[simp] theorem Chip.restartTable_tdc (c : Chip) : (c.restartTable).tdc = c.tdc := (rfl)
@[simp] theorem Chip.restartTable_adc (c : Chip) : (c.restartTable).adc = c.adc := (rfl)
@[simp] theorem Chip.restartTable_cal (c : Chip) : (c.restartTable).cal = c.cal := (rfl)
@[simp] theorem Chip.restartTable_crcDma (c : Chip) : (c.restartTable).crcDma = c.crcDma := (rfl)
@[simp] theorem Chip.restartTable_sb (c : Chip) : (c.restartTable).sb = c.sb := (rfl)
@[simp] theorem Chip.restartTable_balls (c : Chip) : (c.restartTable).balls = c.balls := (rfl)

@[simp] theorem Chip.setRun_dev (c : Chip) : (c.setRun).dev = c.dev := (rfl)
@[simp] theorem Chip.setRun_led (c : Chip) : (c.setRun).led = c.led := (rfl)
@[simp] theorem Chip.setRun_epoch (c : Chip) : (c.setRun).epoch = c.epoch := (rfl)
@[simp] theorem Chip.setRun_staging (c : Chip) : (c.setRun).staging = c.staging := (rfl)
@[simp] theorem Chip.setRun_cirque (c : Chip) : (c.setRun).cirque = c.cirque := (rfl)
@[simp] theorem Chip.setRun_counters (c : Chip) : (c.setRun).counters = c.counters := (rfl)
@[simp] theorem Chip.setRun_frozen (c : Chip) : (c.setRun).frozen = c.frozen := (rfl)
@[simp] theorem Chip.setRun_cmd (c : Chip) : (c.setRun).cmd = c.cmd := (rfl)
@[simp] theorem Chip.setRun_ports (c : Chip) : (c.setRun).ports = c.ports := (rfl)
@[simp] theorem Chip.setRun_failover (c : Chip) : (c.setRun).failover = c.failover := (rfl)
@[simp] theorem Chip.setRun_notes (c : Chip) : (c.setRun).notes = c.notes := (rfl)
@[simp] theorem Chip.setRun_notesDue (c : Chip) : (c.setRun).notesDue = c.notesDue := (rfl)
@[simp] theorem Chip.setRun_gap (c : Chip) : (c.setRun).gap = c.gap := (rfl)
@[simp] theorem Chip.setRun_snap (c : Chip) : (c.setRun).snap = c.snap := (rfl)
@[simp] theorem Chip.setRun_mon (c : Chip) : (c.setRun).mon = c.mon := (rfl)
@[simp] theorem Chip.setRun_tap (c : Chip) : (c.setRun).tap = c.tap := (rfl)
@[simp] theorem Chip.setRun_flash (c : Chip) : (c.setRun).flash = c.flash := (rfl)
@[simp] theorem Chip.setRun_tm (c : Chip) : (c.setRun).tm = c.tm := (rfl)
@[simp] theorem Chip.setRun_align (c : Chip) : (c.setRun).align = c.align := (rfl)
@[simp] theorem Chip.setRun_time (c : Chip) : (c.setRun).time = c.time := (rfl)
@[simp] theorem Chip.setRun_free (c : Chip) : (c.setRun).free = c.free := (rfl)
@[simp] theorem Chip.setRun_mem (c : Chip) : (c.setRun).mem = c.mem := (rfl)
@[simp] theorem Chip.setRun_images (c : Chip) : (c.setRun).images = c.images := (rfl)
@[simp] theorem Chip.setRun_sched (c : Chip) : (c.setRun).sched = c.sched := (rfl)
@[simp] theorem Chip.setRun_groups (c : Chip) : (c.setRun).groups = c.groups := (rfl)
@[simp] theorem Chip.setRun_mor (c : Chip) : (c.setRun).mor = c.mor := (rfl)
@[simp] theorem Chip.setRun_tdc (c : Chip) : (c.setRun).tdc = c.tdc := (rfl)
@[simp] theorem Chip.setRun_adc (c : Chip) : (c.setRun).adc = c.adc := (rfl)
@[simp] theorem Chip.setRun_cal (c : Chip) : (c.setRun).cal = c.cal := (rfl)
@[simp] theorem Chip.setRun_crcDma (c : Chip) : (c.setRun).crcDma = c.crcDma := (rfl)
@[simp] theorem Chip.setRun_sb (c : Chip) : (c.setRun).sb = c.sb := (rfl)
@[simp] theorem Chip.setRun_balls (c : Chip) : (c.setRun).balls = c.balls := (rfl)

@[simp] theorem Chip.memPut_dev (c : Chip) (cls : SlotClass) (r : Req) : (c.memPut cls r).dev = c.dev := (rfl)
@[simp] theorem Chip.memPut_regs (c : Chip) (cls : SlotClass) (r : Req) : (c.memPut cls r).regs = c.regs := (rfl)
@[simp] theorem Chip.memPut_led (c : Chip) (cls : SlotClass) (r : Req) : (c.memPut cls r).led = c.led := (rfl)
@[simp] theorem Chip.memPut_epoch (c : Chip) (cls : SlotClass) (r : Req) : (c.memPut cls r).epoch = c.epoch := (rfl)
@[simp] theorem Chip.memPut_staging (c : Chip) (cls : SlotClass) (r : Req) : (c.memPut cls r).staging = c.staging := (rfl)
@[simp] theorem Chip.memPut_cirque (c : Chip) (cls : SlotClass) (r : Req) : (c.memPut cls r).cirque = c.cirque := (rfl)
@[simp] theorem Chip.memPut_counters (c : Chip) (cls : SlotClass) (r : Req) : (c.memPut cls r).counters = c.counters := (rfl)
@[simp] theorem Chip.memPut_frozen (c : Chip) (cls : SlotClass) (r : Req) : (c.memPut cls r).frozen = c.frozen := (rfl)
@[simp] theorem Chip.memPut_cmd (c : Chip) (cls : SlotClass) (r : Req) : (c.memPut cls r).cmd = c.cmd := (rfl)
@[simp] theorem Chip.memPut_ports (c : Chip) (cls : SlotClass) (r : Req) : (c.memPut cls r).ports = c.ports := (rfl)
@[simp] theorem Chip.memPut_failover (c : Chip) (cls : SlotClass) (r : Req) : (c.memPut cls r).failover = c.failover := (rfl)
@[simp] theorem Chip.memPut_notes (c : Chip) (cls : SlotClass) (r : Req) : (c.memPut cls r).notes = c.notes := (rfl)
@[simp] theorem Chip.memPut_notesDue (c : Chip) (cls : SlotClass) (r : Req) : (c.memPut cls r).notesDue = c.notesDue := (rfl)
@[simp] theorem Chip.memPut_gap (c : Chip) (cls : SlotClass) (r : Req) : (c.memPut cls r).gap = c.gap := (rfl)
@[simp] theorem Chip.memPut_snap (c : Chip) (cls : SlotClass) (r : Req) : (c.memPut cls r).snap = c.snap := (rfl)
@[simp] theorem Chip.memPut_mon (c : Chip) (cls : SlotClass) (r : Req) : (c.memPut cls r).mon = c.mon := (rfl)
@[simp] theorem Chip.memPut_tap (c : Chip) (cls : SlotClass) (r : Req) : (c.memPut cls r).tap = c.tap := (rfl)
@[simp] theorem Chip.memPut_flash (c : Chip) (cls : SlotClass) (r : Req) : (c.memPut cls r).flash = c.flash := (rfl)
@[simp] theorem Chip.memPut_tm (c : Chip) (cls : SlotClass) (r : Req) : (c.memPut cls r).tm = c.tm := (rfl)
@[simp] theorem Chip.memPut_align (c : Chip) (cls : SlotClass) (r : Req) : (c.memPut cls r).align = c.align := (rfl)
@[simp] theorem Chip.memPut_time (c : Chip) (cls : SlotClass) (r : Req) : (c.memPut cls r).time = c.time := (rfl)
@[simp] theorem Chip.memPut_free (c : Chip) (cls : SlotClass) (r : Req) : (c.memPut cls r).free = c.free := (rfl)
@[simp] theorem Chip.memPut_images (c : Chip) (cls : SlotClass) (r : Req) : (c.memPut cls r).images = c.images := (rfl)
@[simp] theorem Chip.memPut_sched (c : Chip) (cls : SlotClass) (r : Req) : (c.memPut cls r).sched = c.sched := (rfl)
@[simp] theorem Chip.memPut_groups (c : Chip) (cls : SlotClass) (r : Req) : (c.memPut cls r).groups = c.groups := (rfl)
@[simp] theorem Chip.memPut_mor (c : Chip) (cls : SlotClass) (r : Req) : (c.memPut cls r).mor = c.mor := (rfl)
@[simp] theorem Chip.memPut_tdc (c : Chip) (cls : SlotClass) (r : Req) : (c.memPut cls r).tdc = c.tdc := (rfl)
@[simp] theorem Chip.memPut_adc (c : Chip) (cls : SlotClass) (r : Req) : (c.memPut cls r).adc = c.adc := (rfl)
@[simp] theorem Chip.memPut_cal (c : Chip) (cls : SlotClass) (r : Req) : (c.memPut cls r).cal = c.cal := (rfl)
@[simp] theorem Chip.memPut_crcDma (c : Chip) (cls : SlotClass) (r : Req) : (c.memPut cls r).crcDma = c.crcDma := (rfl)
@[simp] theorem Chip.memPut_sb (c : Chip) (cls : SlotClass) (r : Req) : (c.memPut cls r).sb = c.sb := (rfl)
@[simp] theorem Chip.memPut_balls (c : Chip) (cls : SlotClass) (r : Req) : (c.memPut cls r).balls = c.balls := (rfl)

@[simp] theorem Chip.memTouch_dev (c : Chip) : (c.memTouch).dev = c.dev := by
 unfold Chip.memTouch; simp only; (repeat' split) <;> rfl
@[simp] theorem Chip.memTouch_led (c : Chip) : (c.memTouch).led = c.led := by
 unfold Chip.memTouch; simp only; (repeat' split) <;> rfl
@[simp] theorem Chip.memTouch_epoch (c : Chip) : (c.memTouch).epoch = c.epoch := by
 unfold Chip.memTouch; simp only; (repeat' split) <;> rfl
@[simp] theorem Chip.memTouch_staging (c : Chip) : (c.memTouch).staging = c.staging := by
 unfold Chip.memTouch; simp only; (repeat' split) <;> rfl
@[simp] theorem Chip.memTouch_cirque (c : Chip) : (c.memTouch).cirque = c.cirque := by
 unfold Chip.memTouch; simp only; (repeat' split) <;> rfl
@[simp] theorem Chip.memTouch_counters (c : Chip) : (c.memTouch).counters = c.counters := by
 unfold Chip.memTouch; simp only; (repeat' split) <;> rfl
@[simp] theorem Chip.memTouch_frozen (c : Chip) : (c.memTouch).frozen = c.frozen := by
 unfold Chip.memTouch; simp only; (repeat' split) <;> rfl
@[simp] theorem Chip.memTouch_cmd (c : Chip) : (c.memTouch).cmd = c.cmd := by
 unfold Chip.memTouch; simp only; (repeat' split) <;> rfl
@[simp] theorem Chip.memTouch_ports (c : Chip) : (c.memTouch).ports = c.ports := by
 unfold Chip.memTouch; simp only; (repeat' split) <;> rfl
@[simp] theorem Chip.memTouch_failover (c : Chip) : (c.memTouch).failover = c.failover := by
 unfold Chip.memTouch; simp only; (repeat' split) <;> rfl
@[simp] theorem Chip.memTouch_notes (c : Chip) : (c.memTouch).notes = c.notes := by
 unfold Chip.memTouch; simp only; (repeat' split) <;> rfl
@[simp] theorem Chip.memTouch_notesDue (c : Chip) : (c.memTouch).notesDue = c.notesDue := by
 unfold Chip.memTouch; simp only; (repeat' split) <;> rfl
@[simp] theorem Chip.memTouch_gap (c : Chip) : (c.memTouch).gap = c.gap := by
 unfold Chip.memTouch; simp only; (repeat' split) <;> rfl
@[simp] theorem Chip.memTouch_snap (c : Chip) : (c.memTouch).snap = c.snap := by
 unfold Chip.memTouch; simp only; (repeat' split) <;> rfl
@[simp] theorem Chip.memTouch_mon (c : Chip) : (c.memTouch).mon = c.mon := by
 unfold Chip.memTouch; simp only; (repeat' split) <;> rfl
@[simp] theorem Chip.memTouch_tap (c : Chip) : (c.memTouch).tap = c.tap := by
 unfold Chip.memTouch; simp only; (repeat' split) <;> rfl
@[simp] theorem Chip.memTouch_flash (c : Chip) : (c.memTouch).flash = c.flash := by
 unfold Chip.memTouch; simp only; (repeat' split) <;> rfl
@[simp] theorem Chip.memTouch_tm (c : Chip) : (c.memTouch).tm = c.tm := by
 unfold Chip.memTouch; simp only; (repeat' split) <;> rfl
@[simp] theorem Chip.memTouch_align (c : Chip) : (c.memTouch).align = c.align := by
 unfold Chip.memTouch; simp only; (repeat' split) <;> rfl
@[simp] theorem Chip.memTouch_time (c : Chip) : (c.memTouch).time = c.time := by
 unfold Chip.memTouch; simp only; (repeat' split) <;> rfl
@[simp] theorem Chip.memTouch_free (c : Chip) : (c.memTouch).free = c.free := by
 unfold Chip.memTouch; simp only; (repeat' split) <;> rfl
@[simp] theorem Chip.memTouch_images (c : Chip) : (c.memTouch).images = c.images := by
 unfold Chip.memTouch; simp only; (repeat' split) <;> rfl
@[simp] theorem Chip.memTouch_sched (c : Chip) : (c.memTouch).sched = c.sched := by
 unfold Chip.memTouch; simp only; (repeat' split) <;> rfl
@[simp] theorem Chip.memTouch_groups (c : Chip) : (c.memTouch).groups = c.groups := by
 unfold Chip.memTouch; simp only; (repeat' split) <;> rfl
@[simp] theorem Chip.memTouch_mor (c : Chip) : (c.memTouch).mor = c.mor := by
 unfold Chip.memTouch; simp only; (repeat' split) <;> rfl
@[simp] theorem Chip.memTouch_tdc (c : Chip) : (c.memTouch).tdc = c.tdc := by
 unfold Chip.memTouch; simp only; (repeat' split) <;> rfl
@[simp] theorem Chip.memTouch_adc (c : Chip) : (c.memTouch).adc = c.adc := by
 unfold Chip.memTouch; simp only; (repeat' split) <;> rfl
@[simp] theorem Chip.memTouch_cal (c : Chip) : (c.memTouch).cal = c.cal := by
 unfold Chip.memTouch; simp only; (repeat' split) <;> rfl
@[simp] theorem Chip.memTouch_crcDma (c : Chip) : (c.memTouch).crcDma = c.crcDma := by
 unfold Chip.memTouch; simp only; (repeat' split) <;> rfl
@[simp] theorem Chip.memTouch_sb (c : Chip) : (c.memTouch).sb = c.sb := by
 unfold Chip.memTouch; simp only; (repeat' split) <;> rfl
@[simp] theorem Chip.memTouch_balls (c : Chip) : (c.memTouch).balls = c.balls := by
 unfold Chip.memTouch; simp only; (repeat' split) <;> rfl

@[simp] theorem Chip.memReq_dev (c : Chip) (cls : SlotClass) (r : Req) : (c.memReq cls r).dev = c.dev := by
 simp [Chip.memReq]
@[simp] theorem Chip.memReq_led (c : Chip) (cls : SlotClass) (r : Req) : (c.memReq cls r).led = c.led := by
 simp [Chip.memReq]
@[simp] theorem Chip.memReq_epoch (c : Chip) (cls : SlotClass) (r : Req) : (c.memReq cls r).epoch = c.epoch := by
 simp [Chip.memReq]
@[simp] theorem Chip.memReq_staging (c : Chip) (cls : SlotClass) (r : Req) : (c.memReq cls r).staging = c.staging := by
 simp [Chip.memReq]
@[simp] theorem Chip.memReq_cirque (c : Chip) (cls : SlotClass) (r : Req) : (c.memReq cls r).cirque = c.cirque := by
 simp [Chip.memReq]
@[simp] theorem Chip.memReq_counters (c : Chip) (cls : SlotClass) (r : Req) : (c.memReq cls r).counters = c.counters := by
 simp [Chip.memReq]
@[simp] theorem Chip.memReq_frozen (c : Chip) (cls : SlotClass) (r : Req) : (c.memReq cls r).frozen = c.frozen := by
 simp [Chip.memReq]
@[simp] theorem Chip.memReq_cmd (c : Chip) (cls : SlotClass) (r : Req) : (c.memReq cls r).cmd = c.cmd := by
 simp [Chip.memReq]
@[simp] theorem Chip.memReq_ports (c : Chip) (cls : SlotClass) (r : Req) : (c.memReq cls r).ports = c.ports := by
 simp [Chip.memReq]
@[simp] theorem Chip.memReq_failover (c : Chip) (cls : SlotClass) (r : Req) : (c.memReq cls r).failover = c.failover := by
 simp [Chip.memReq]
@[simp] theorem Chip.memReq_notes (c : Chip) (cls : SlotClass) (r : Req) : (c.memReq cls r).notes = c.notes := by
 simp [Chip.memReq]
@[simp] theorem Chip.memReq_notesDue (c : Chip) (cls : SlotClass) (r : Req) : (c.memReq cls r).notesDue = c.notesDue := by
 simp [Chip.memReq]
@[simp] theorem Chip.memReq_gap (c : Chip) (cls : SlotClass) (r : Req) : (c.memReq cls r).gap = c.gap := by
 simp [Chip.memReq]
@[simp] theorem Chip.memReq_snap (c : Chip) (cls : SlotClass) (r : Req) : (c.memReq cls r).snap = c.snap := by
 simp [Chip.memReq]
@[simp] theorem Chip.memReq_mon (c : Chip) (cls : SlotClass) (r : Req) : (c.memReq cls r).mon = c.mon := by
 simp [Chip.memReq]
@[simp] theorem Chip.memReq_tap (c : Chip) (cls : SlotClass) (r : Req) : (c.memReq cls r).tap = c.tap := by
 simp [Chip.memReq]
@[simp] theorem Chip.memReq_flash (c : Chip) (cls : SlotClass) (r : Req) : (c.memReq cls r).flash = c.flash := by
 simp [Chip.memReq]
@[simp] theorem Chip.memReq_tm (c : Chip) (cls : SlotClass) (r : Req) : (c.memReq cls r).tm = c.tm := by
 simp [Chip.memReq]
@[simp] theorem Chip.memReq_align (c : Chip) (cls : SlotClass) (r : Req) : (c.memReq cls r).align = c.align := by
 simp [Chip.memReq]
@[simp] theorem Chip.memReq_time (c : Chip) (cls : SlotClass) (r : Req) : (c.memReq cls r).time = c.time := by
 simp [Chip.memReq]
@[simp] theorem Chip.memReq_free (c : Chip) (cls : SlotClass) (r : Req) : (c.memReq cls r).free = c.free := by
 simp [Chip.memReq]
@[simp] theorem Chip.memReq_images (c : Chip) (cls : SlotClass) (r : Req) : (c.memReq cls r).images = c.images := by
 simp [Chip.memReq]
@[simp] theorem Chip.memReq_sched (c : Chip) (cls : SlotClass) (r : Req) : (c.memReq cls r).sched = c.sched := by
 simp [Chip.memReq]
@[simp] theorem Chip.memReq_groups (c : Chip) (cls : SlotClass) (r : Req) : (c.memReq cls r).groups = c.groups := by
 simp [Chip.memReq]
@[simp] theorem Chip.memReq_mor (c : Chip) (cls : SlotClass) (r : Req) : (c.memReq cls r).mor = c.mor := by
 simp [Chip.memReq]
@[simp] theorem Chip.memReq_tdc (c : Chip) (cls : SlotClass) (r : Req) : (c.memReq cls r).tdc = c.tdc := by
 simp [Chip.memReq]
@[simp] theorem Chip.memReq_adc (c : Chip) (cls : SlotClass) (r : Req) : (c.memReq cls r).adc = c.adc := by
 simp [Chip.memReq]
@[simp] theorem Chip.memReq_cal (c : Chip) (cls : SlotClass) (r : Req) : (c.memReq cls r).cal = c.cal := by
 simp [Chip.memReq]
@[simp] theorem Chip.memReq_crcDma (c : Chip) (cls : SlotClass) (r : Req) : (c.memReq cls r).crcDma = c.crcDma := by
 simp [Chip.memReq]
@[simp] theorem Chip.memReq_sb (c : Chip) (cls : SlotClass) (r : Req) : (c.memReq cls r).sb = c.sb := by
 simp [Chip.memReq]
@[simp] theorem Chip.memReq_balls (c : Chip) (cls : SlotClass) (r : Req) : (c.memReq cls r).balls = c.balls := by
 simp [Chip.memReq]

@[simp] theorem Chip.mitGauge_dev (c : Chip) (ch : Nat) : (c.mitGauge ch).dev = c.dev := (rfl)
@[simp] theorem Chip.mitGauge_led (c : Chip) (ch : Nat) : (c.mitGauge ch).led = c.led := (rfl)
@[simp] theorem Chip.mitGauge_epoch (c : Chip) (ch : Nat) : (c.mitGauge ch).epoch = c.epoch := (rfl)
@[simp] theorem Chip.mitGauge_staging (c : Chip) (ch : Nat) : (c.mitGauge ch).staging = c.staging := (rfl)
@[simp] theorem Chip.mitGauge_cirque (c : Chip) (ch : Nat) : (c.mitGauge ch).cirque = c.cirque := (rfl)
@[simp] theorem Chip.mitGauge_counters (c : Chip) (ch : Nat) : (c.mitGauge ch).counters = c.counters := (rfl)
@[simp] theorem Chip.mitGauge_frozen (c : Chip) (ch : Nat) : (c.mitGauge ch).frozen = c.frozen := (rfl)
@[simp] theorem Chip.mitGauge_cmd (c : Chip) (ch : Nat) : (c.mitGauge ch).cmd = c.cmd := (rfl)
@[simp] theorem Chip.mitGauge_ports (c : Chip) (ch : Nat) : (c.mitGauge ch).ports = c.ports := (rfl)
@[simp] theorem Chip.mitGauge_failover (c : Chip) (ch : Nat) : (c.mitGauge ch).failover = c.failover := (rfl)
@[simp] theorem Chip.mitGauge_notes (c : Chip) (ch : Nat) : (c.mitGauge ch).notes = c.notes := (rfl)
@[simp] theorem Chip.mitGauge_notesDue (c : Chip) (ch : Nat) : (c.mitGauge ch).notesDue = c.notesDue := (rfl)
@[simp] theorem Chip.mitGauge_gap (c : Chip) (ch : Nat) : (c.mitGauge ch).gap = c.gap := (rfl)
@[simp] theorem Chip.mitGauge_snap (c : Chip) (ch : Nat) : (c.mitGauge ch).snap = c.snap := (rfl)
@[simp] theorem Chip.mitGauge_mon (c : Chip) (ch : Nat) : (c.mitGauge ch).mon = c.mon := (rfl)
@[simp] theorem Chip.mitGauge_tap (c : Chip) (ch : Nat) : (c.mitGauge ch).tap = c.tap := (rfl)
@[simp] theorem Chip.mitGauge_flash (c : Chip) (ch : Nat) : (c.mitGauge ch).flash = c.flash := (rfl)
@[simp] theorem Chip.mitGauge_tm (c : Chip) (ch : Nat) : (c.mitGauge ch).tm = c.tm := (rfl)
@[simp] theorem Chip.mitGauge_align (c : Chip) (ch : Nat) : (c.mitGauge ch).align = c.align := (rfl)
@[simp] theorem Chip.mitGauge_time (c : Chip) (ch : Nat) : (c.mitGauge ch).time = c.time := (rfl)
@[simp] theorem Chip.mitGauge_free (c : Chip) (ch : Nat) : (c.mitGauge ch).free = c.free := (rfl)
@[simp] theorem Chip.mitGauge_mem (c : Chip) (ch : Nat) : (c.mitGauge ch).mem = c.mem := (rfl)
@[simp] theorem Chip.mitGauge_images (c : Chip) (ch : Nat) : (c.mitGauge ch).images = c.images := (rfl)
@[simp] theorem Chip.mitGauge_sched (c : Chip) (ch : Nat) : (c.mitGauge ch).sched = c.sched := (rfl)
@[simp] theorem Chip.mitGauge_groups (c : Chip) (ch : Nat) : (c.mitGauge ch).groups = c.groups := (rfl)
@[simp] theorem Chip.mitGauge_mor (c : Chip) (ch : Nat) : (c.mitGauge ch).mor = c.mor := (rfl)
@[simp] theorem Chip.mitGauge_tdc (c : Chip) (ch : Nat) : (c.mitGauge ch).tdc = c.tdc := (rfl)
@[simp] theorem Chip.mitGauge_adc (c : Chip) (ch : Nat) : (c.mitGauge ch).adc = c.adc := (rfl)
@[simp] theorem Chip.mitGauge_cal (c : Chip) (ch : Nat) : (c.mitGauge ch).cal = c.cal := (rfl)
@[simp] theorem Chip.mitGauge_crcDma (c : Chip) (ch : Nat) : (c.mitGauge ch).crcDma = c.crcDma := (rfl)
@[simp] theorem Chip.mitGauge_sb (c : Chip) (ch : Nat) : (c.mitGauge ch).sb = c.sb := (rfl)
@[simp] theorem Chip.mitGauge_balls (c : Chip) (ch : Nat) : (c.mitGauge ch).balls = c.balls := (rfl)

@[simp] theorem Chip.draw_dev (c : Chip) (ch addr : Nat) : (c.draw ch addr).dev = c.dev := by
 unfold Chip.draw; simp only; split <;> simp
@[simp] theorem Chip.draw_epoch (c : Chip) (ch addr : Nat) : (c.draw ch addr).epoch = c.epoch := by
 unfold Chip.draw; simp only; split <;> simp
@[simp] theorem Chip.draw_staging (c : Chip) (ch addr : Nat) : (c.draw ch addr).staging = c.staging := by
 unfold Chip.draw; simp only; split <;> simp
@[simp] theorem Chip.draw_frozen (c : Chip) (ch addr : Nat) : (c.draw ch addr).frozen = c.frozen := by
 unfold Chip.draw; simp only; split <;> simp
@[simp] theorem Chip.draw_cmd (c : Chip) (ch addr : Nat) : (c.draw ch addr).cmd = c.cmd := by
 unfold Chip.draw; simp only; split <;> simp
@[simp] theorem Chip.draw_ports (c : Chip) (ch addr : Nat) : (c.draw ch addr).ports = c.ports := by
 unfold Chip.draw; simp only; split <;> simp
@[simp] theorem Chip.draw_failover (c : Chip) (ch addr : Nat) : (c.draw ch addr).failover = c.failover := by
 unfold Chip.draw; simp only; split <;> simp
@[simp] theorem Chip.draw_notes (c : Chip) (ch addr : Nat) : (c.draw ch addr).notes = c.notes := by
 unfold Chip.draw; simp only; split <;> simp
@[simp] theorem Chip.draw_notesDue (c : Chip) (ch addr : Nat) : (c.draw ch addr).notesDue = c.notesDue := by
 unfold Chip.draw; simp only; split <;> simp
@[simp] theorem Chip.draw_gap (c : Chip) (ch addr : Nat) : (c.draw ch addr).gap = c.gap := by
 unfold Chip.draw; simp only; split <;> simp
@[simp] theorem Chip.draw_snap (c : Chip) (ch addr : Nat) : (c.draw ch addr).snap = c.snap := by
 unfold Chip.draw; simp only; split <;> simp
@[simp] theorem Chip.draw_mon (c : Chip) (ch addr : Nat) : (c.draw ch addr).mon = c.mon := by
 unfold Chip.draw; simp only; split <;> simp
@[simp] theorem Chip.draw_tap (c : Chip) (ch addr : Nat) : (c.draw ch addr).tap = c.tap := by
 unfold Chip.draw; simp only; split <;> simp
@[simp] theorem Chip.draw_flash (c : Chip) (ch addr : Nat) : (c.draw ch addr).flash = c.flash := by
 unfold Chip.draw; simp only; split <;> simp
@[simp] theorem Chip.draw_tm (c : Chip) (ch addr : Nat) : (c.draw ch addr).tm = c.tm := by
 unfold Chip.draw; simp only; split <;> simp
@[simp] theorem Chip.draw_align (c : Chip) (ch addr : Nat) : (c.draw ch addr).align = c.align := by
 unfold Chip.draw; simp only; split <;> simp
@[simp] theorem Chip.draw_time (c : Chip) (ch addr : Nat) : (c.draw ch addr).time = c.time := by
 unfold Chip.draw; simp only; split <;> simp
@[simp] theorem Chip.draw_free (c : Chip) (ch addr : Nat) : (c.draw ch addr).free = c.free := by
 unfold Chip.draw; simp only; split <;> simp
@[simp] theorem Chip.draw_images (c : Chip) (ch addr : Nat) : (c.draw ch addr).images = c.images := by
 unfold Chip.draw; simp only; split <;> simp
@[simp] theorem Chip.draw_sched (c : Chip) (ch addr : Nat) : (c.draw ch addr).sched = c.sched := by
 unfold Chip.draw; simp only; split <;> simp
@[simp] theorem Chip.draw_groups (c : Chip) (ch addr : Nat) : (c.draw ch addr).groups = c.groups := by
 unfold Chip.draw; simp only; split <;> simp
@[simp] theorem Chip.draw_mor (c : Chip) (ch addr : Nat) : (c.draw ch addr).mor = c.mor := by
 unfold Chip.draw; simp only; split <;> simp
@[simp] theorem Chip.draw_tdc (c : Chip) (ch addr : Nat) : (c.draw ch addr).tdc = c.tdc := by
 unfold Chip.draw; simp only; split <;> simp
@[simp] theorem Chip.draw_adc (c : Chip) (ch addr : Nat) : (c.draw ch addr).adc = c.adc := by
 unfold Chip.draw; simp only; split <;> simp
@[simp] theorem Chip.draw_cal (c : Chip) (ch addr : Nat) : (c.draw ch addr).cal = c.cal := by
 unfold Chip.draw; simp only; split <;> simp
@[simp] theorem Chip.draw_crcDma (c : Chip) (ch addr : Nat) : (c.draw ch addr).crcDma = c.crcDma := by
 unfold Chip.draw; simp only; split <;> simp
@[simp] theorem Chip.draw_sb (c : Chip) (ch addr : Nat) : (c.draw ch addr).sb = c.sb := by
 unfold Chip.draw; simp only; split <;> simp
@[simp] theorem Chip.draw_balls (c : Chip) (ch addr : Nat) : (c.draw ch addr).balls = c.balls := by
 unfold Chip.draw; simp only; split <;> simp

@[simp] theorem Chip.dropReads_dev (c : Chip) (p : Who → Bool) : (c.dropReads p).dev = c.dev := (rfl)
@[simp] theorem Chip.dropReads_regs (c : Chip) (p : Who → Bool) : (c.dropReads p).regs = c.regs := (rfl)
@[simp] theorem Chip.dropReads_led (c : Chip) (p : Who → Bool) : (c.dropReads p).led = c.led := (rfl)
@[simp] theorem Chip.dropReads_epoch (c : Chip) (p : Who → Bool) : (c.dropReads p).epoch = c.epoch := (rfl)
@[simp] theorem Chip.dropReads_staging (c : Chip) (p : Who → Bool) : (c.dropReads p).staging = c.staging := (rfl)
@[simp] theorem Chip.dropReads_cirque (c : Chip) (p : Who → Bool) : (c.dropReads p).cirque = c.cirque := (rfl)
@[simp] theorem Chip.dropReads_counters (c : Chip) (p : Who → Bool) : (c.dropReads p).counters = c.counters := (rfl)
@[simp] theorem Chip.dropReads_frozen (c : Chip) (p : Who → Bool) : (c.dropReads p).frozen = c.frozen := (rfl)
@[simp] theorem Chip.dropReads_cmd (c : Chip) (p : Who → Bool) : (c.dropReads p).cmd = c.cmd := (rfl)
@[simp] theorem Chip.dropReads_ports (c : Chip) (p : Who → Bool) : (c.dropReads p).ports = c.ports := (rfl)
@[simp] theorem Chip.dropReads_failover (c : Chip) (p : Who → Bool) : (c.dropReads p).failover = c.failover := (rfl)
@[simp] theorem Chip.dropReads_notes (c : Chip) (p : Who → Bool) : (c.dropReads p).notes = c.notes := (rfl)
@[simp] theorem Chip.dropReads_notesDue (c : Chip) (p : Who → Bool) : (c.dropReads p).notesDue = c.notesDue := (rfl)
@[simp] theorem Chip.dropReads_gap (c : Chip) (p : Who → Bool) : (c.dropReads p).gap = c.gap := (rfl)
@[simp] theorem Chip.dropReads_snap (c : Chip) (p : Who → Bool) : (c.dropReads p).snap = c.snap := (rfl)
@[simp] theorem Chip.dropReads_mon (c : Chip) (p : Who → Bool) : (c.dropReads p).mon = c.mon := (rfl)
@[simp] theorem Chip.dropReads_tap (c : Chip) (p : Who → Bool) : (c.dropReads p).tap = c.tap := (rfl)
@[simp] theorem Chip.dropReads_flash (c : Chip) (p : Who → Bool) : (c.dropReads p).flash = c.flash := (rfl)
@[simp] theorem Chip.dropReads_tm (c : Chip) (p : Who → Bool) : (c.dropReads p).tm = c.tm := (rfl)
@[simp] theorem Chip.dropReads_align (c : Chip) (p : Who → Bool) : (c.dropReads p).align = c.align := (rfl)
@[simp] theorem Chip.dropReads_time (c : Chip) (p : Who → Bool) : (c.dropReads p).time = c.time := (rfl)
@[simp] theorem Chip.dropReads_free (c : Chip) (p : Who → Bool) : (c.dropReads p).free = c.free := (rfl)
@[simp] theorem Chip.dropReads_images (c : Chip) (p : Who → Bool) : (c.dropReads p).images = c.images := (rfl)
@[simp] theorem Chip.dropReads_sched (c : Chip) (p : Who → Bool) : (c.dropReads p).sched = c.sched := (rfl)
@[simp] theorem Chip.dropReads_groups (c : Chip) (p : Who → Bool) : (c.dropReads p).groups = c.groups := (rfl)
@[simp] theorem Chip.dropReads_mor (c : Chip) (p : Who → Bool) : (c.dropReads p).mor = c.mor := (rfl)
@[simp] theorem Chip.dropReads_tdc (c : Chip) (p : Who → Bool) : (c.dropReads p).tdc = c.tdc := (rfl)
@[simp] theorem Chip.dropReads_adc (c : Chip) (p : Who → Bool) : (c.dropReads p).adc = c.adc := (rfl)
@[simp] theorem Chip.dropReads_cal (c : Chip) (p : Who → Bool) : (c.dropReads p).cal = c.cal := (rfl)
@[simp] theorem Chip.dropReads_crcDma (c : Chip) (p : Who → Bool) : (c.dropReads p).crcDma = c.crcDma := (rfl)
@[simp] theorem Chip.dropReads_sb (c : Chip) (p : Who → Bool) : (c.dropReads p).sb = c.sb := (rfl)
@[simp] theorem Chip.dropReads_balls (c : Chip) (p : Who → Bool) : (c.dropReads p).balls = c.balls := (rfl)

@[simp] theorem Chip.dropPattern_dev (c : Chip) (n : Nat) : (c.dropPattern n).dev = c.dev := (rfl)
@[simp] theorem Chip.dropPattern_regs (c : Chip) (n : Nat) : (c.dropPattern n).regs = c.regs := (rfl)
@[simp] theorem Chip.dropPattern_led (c : Chip) (n : Nat) : (c.dropPattern n).led = c.led := (rfl)
@[simp] theorem Chip.dropPattern_epoch (c : Chip) (n : Nat) : (c.dropPattern n).epoch = c.epoch := (rfl)
@[simp] theorem Chip.dropPattern_staging (c : Chip) (n : Nat) : (c.dropPattern n).staging = c.staging := (rfl)
@[simp] theorem Chip.dropPattern_cirque (c : Chip) (n : Nat) : (c.dropPattern n).cirque = c.cirque := (rfl)
@[simp] theorem Chip.dropPattern_counters (c : Chip) (n : Nat) : (c.dropPattern n).counters = c.counters := (rfl)
@[simp] theorem Chip.dropPattern_frozen (c : Chip) (n : Nat) : (c.dropPattern n).frozen = c.frozen := (rfl)
@[simp] theorem Chip.dropPattern_cmd (c : Chip) (n : Nat) : (c.dropPattern n).cmd = c.cmd := (rfl)
@[simp] theorem Chip.dropPattern_ports (c : Chip) (n : Nat) : (c.dropPattern n).ports = c.ports := (rfl)
@[simp] theorem Chip.dropPattern_failover (c : Chip) (n : Nat) : (c.dropPattern n).failover = c.failover := (rfl)
@[simp] theorem Chip.dropPattern_notes (c : Chip) (n : Nat) : (c.dropPattern n).notes = c.notes := (rfl)
@[simp] theorem Chip.dropPattern_notesDue (c : Chip) (n : Nat) : (c.dropPattern n).notesDue = c.notesDue := (rfl)
@[simp] theorem Chip.dropPattern_gap (c : Chip) (n : Nat) : (c.dropPattern n).gap = c.gap := (rfl)
@[simp] theorem Chip.dropPattern_snap (c : Chip) (n : Nat) : (c.dropPattern n).snap = c.snap := (rfl)
@[simp] theorem Chip.dropPattern_mon (c : Chip) (n : Nat) : (c.dropPattern n).mon = c.mon := (rfl)
@[simp] theorem Chip.dropPattern_tap (c : Chip) (n : Nat) : (c.dropPattern n).tap = c.tap := (rfl)
@[simp] theorem Chip.dropPattern_flash (c : Chip) (n : Nat) : (c.dropPattern n).flash = c.flash := (rfl)
@[simp] theorem Chip.dropPattern_tm (c : Chip) (n : Nat) : (c.dropPattern n).tm = c.tm := (rfl)
@[simp] theorem Chip.dropPattern_align (c : Chip) (n : Nat) : (c.dropPattern n).align = c.align := (rfl)
@[simp] theorem Chip.dropPattern_time (c : Chip) (n : Nat) : (c.dropPattern n).time = c.time := (rfl)
@[simp] theorem Chip.dropPattern_free (c : Chip) (n : Nat) : (c.dropPattern n).free = c.free := (rfl)
@[simp] theorem Chip.dropPattern_images (c : Chip) (n : Nat) : (c.dropPattern n).images = c.images := (rfl)
@[simp] theorem Chip.dropPattern_sched (c : Chip) (n : Nat) : (c.dropPattern n).sched = c.sched := (rfl)
@[simp] theorem Chip.dropPattern_groups (c : Chip) (n : Nat) : (c.dropPattern n).groups = c.groups := (rfl)
@[simp] theorem Chip.dropPattern_mor (c : Chip) (n : Nat) : (c.dropPattern n).mor = c.mor := (rfl)
@[simp] theorem Chip.dropPattern_tdc (c : Chip) (n : Nat) : (c.dropPattern n).tdc = c.tdc := (rfl)
@[simp] theorem Chip.dropPattern_adc (c : Chip) (n : Nat) : (c.dropPattern n).adc = c.adc := (rfl)
@[simp] theorem Chip.dropPattern_cal (c : Chip) (n : Nat) : (c.dropPattern n).cal = c.cal := (rfl)
@[simp] theorem Chip.dropPattern_crcDma (c : Chip) (n : Nat) : (c.dropPattern n).crcDma = c.crcDma := (rfl)
@[simp] theorem Chip.dropPattern_sb (c : Chip) (n : Nat) : (c.dropPattern n).sb = c.sb := (rfl)
@[simp] theorem Chip.dropPattern_balls (c : Chip) (n : Nat) : (c.dropPattern n).balls = c.balls := (rfl)

@[simp] theorem Chip.setCtx_dev (c : Chip) (n : Nat) (x : Ctx) : (c.setCtx n x).dev = c.dev := (rfl)
@[simp] theorem Chip.setCtx_regs (c : Chip) (n : Nat) (x : Ctx) : (c.setCtx n x).regs = c.regs := (rfl)
@[simp] theorem Chip.setCtx_led (c : Chip) (n : Nat) (x : Ctx) : (c.setCtx n x).led = c.led := (rfl)
@[simp] theorem Chip.setCtx_epoch (c : Chip) (n : Nat) (x : Ctx) : (c.setCtx n x).epoch = c.epoch := (rfl)
@[simp] theorem Chip.setCtx_staging (c : Chip) (n : Nat) (x : Ctx) : (c.setCtx n x).staging = c.staging := (rfl)
@[simp] theorem Chip.setCtx_cirque (c : Chip) (n : Nat) (x : Ctx) : (c.setCtx n x).cirque = c.cirque := (rfl)
@[simp] theorem Chip.setCtx_counters (c : Chip) (n : Nat) (x : Ctx) : (c.setCtx n x).counters = c.counters := (rfl)
@[simp] theorem Chip.setCtx_frozen (c : Chip) (n : Nat) (x : Ctx) : (c.setCtx n x).frozen = c.frozen := (rfl)
@[simp] theorem Chip.setCtx_cmd (c : Chip) (n : Nat) (x : Ctx) : (c.setCtx n x).cmd = c.cmd := (rfl)
@[simp] theorem Chip.setCtx_ports (c : Chip) (n : Nat) (x : Ctx) : (c.setCtx n x).ports = c.ports := (rfl)
@[simp] theorem Chip.setCtx_failover (c : Chip) (n : Nat) (x : Ctx) : (c.setCtx n x).failover = c.failover := (rfl)
@[simp] theorem Chip.setCtx_notes (c : Chip) (n : Nat) (x : Ctx) : (c.setCtx n x).notes = c.notes := (rfl)
@[simp] theorem Chip.setCtx_notesDue (c : Chip) (n : Nat) (x : Ctx) : (c.setCtx n x).notesDue = c.notesDue := (rfl)
@[simp] theorem Chip.setCtx_gap (c : Chip) (n : Nat) (x : Ctx) : (c.setCtx n x).gap = c.gap := (rfl)
@[simp] theorem Chip.setCtx_snap (c : Chip) (n : Nat) (x : Ctx) : (c.setCtx n x).snap = c.snap := (rfl)
@[simp] theorem Chip.setCtx_mon (c : Chip) (n : Nat) (x : Ctx) : (c.setCtx n x).mon = c.mon := (rfl)
@[simp] theorem Chip.setCtx_tap (c : Chip) (n : Nat) (x : Ctx) : (c.setCtx n x).tap = c.tap := (rfl)
@[simp] theorem Chip.setCtx_flash (c : Chip) (n : Nat) (x : Ctx) : (c.setCtx n x).flash = c.flash := (rfl)
@[simp] theorem Chip.setCtx_tm (c : Chip) (n : Nat) (x : Ctx) : (c.setCtx n x).tm = c.tm := (rfl)
@[simp] theorem Chip.setCtx_align (c : Chip) (n : Nat) (x : Ctx) : (c.setCtx n x).align = c.align := (rfl)
@[simp] theorem Chip.setCtx_time (c : Chip) (n : Nat) (x : Ctx) : (c.setCtx n x).time = c.time := (rfl)
@[simp] theorem Chip.setCtx_free (c : Chip) (n : Nat) (x : Ctx) : (c.setCtx n x).free = c.free := (rfl)
@[simp] theorem Chip.setCtx_mem (c : Chip) (n : Nat) (x : Ctx) : (c.setCtx n x).mem = c.mem := (rfl)
@[simp] theorem Chip.setCtx_images (c : Chip) (n : Nat) (x : Ctx) : (c.setCtx n x).images = c.images := (rfl)
@[simp] theorem Chip.setCtx_groups (c : Chip) (n : Nat) (x : Ctx) : (c.setCtx n x).groups = c.groups := (rfl)
@[simp] theorem Chip.setCtx_mor (c : Chip) (n : Nat) (x : Ctx) : (c.setCtx n x).mor = c.mor := (rfl)
@[simp] theorem Chip.setCtx_tdc (c : Chip) (n : Nat) (x : Ctx) : (c.setCtx n x).tdc = c.tdc := (rfl)
@[simp] theorem Chip.setCtx_adc (c : Chip) (n : Nat) (x : Ctx) : (c.setCtx n x).adc = c.adc := (rfl)
@[simp] theorem Chip.setCtx_cal (c : Chip) (n : Nat) (x : Ctx) : (c.setCtx n x).cal = c.cal := (rfl)
@[simp] theorem Chip.setCtx_crcDma (c : Chip) (n : Nat) (x : Ctx) : (c.setCtx n x).crcDma = c.crcDma := (rfl)
@[simp] theorem Chip.setCtx_sb (c : Chip) (n : Nat) (x : Ctx) : (c.setCtx n x).sb = c.sb := (rfl)
@[simp] theorem Chip.setCtx_balls (c : Chip) (n : Nat) (x : Ctx) : (c.setCtx n x).balls = c.balls := (rfl)

@[simp] theorem Chip.updCtx_dev (c : Chip) (n : Nat) (f : Ctx → Ctx) : (c.updCtx n f).dev = c.dev := (rfl)
@[simp] theorem Chip.updCtx_regs (c : Chip) (n : Nat) (f : Ctx → Ctx) : (c.updCtx n f).regs = c.regs := (rfl)
@[simp] theorem Chip.updCtx_led (c : Chip) (n : Nat) (f : Ctx → Ctx) : (c.updCtx n f).led = c.led := (rfl)
@[simp] theorem Chip.updCtx_epoch (c : Chip) (n : Nat) (f : Ctx → Ctx) : (c.updCtx n f).epoch = c.epoch := (rfl)
@[simp] theorem Chip.updCtx_staging (c : Chip) (n : Nat) (f : Ctx → Ctx) : (c.updCtx n f).staging = c.staging := (rfl)
@[simp] theorem Chip.updCtx_cirque (c : Chip) (n : Nat) (f : Ctx → Ctx) : (c.updCtx n f).cirque = c.cirque := (rfl)
@[simp] theorem Chip.updCtx_counters (c : Chip) (n : Nat) (f : Ctx → Ctx) : (c.updCtx n f).counters = c.counters := (rfl)
@[simp] theorem Chip.updCtx_frozen (c : Chip) (n : Nat) (f : Ctx → Ctx) : (c.updCtx n f).frozen = c.frozen := (rfl)
@[simp] theorem Chip.updCtx_cmd (c : Chip) (n : Nat) (f : Ctx → Ctx) : (c.updCtx n f).cmd = c.cmd := (rfl)
@[simp] theorem Chip.updCtx_ports (c : Chip) (n : Nat) (f : Ctx → Ctx) : (c.updCtx n f).ports = c.ports := (rfl)
@[simp] theorem Chip.updCtx_failover (c : Chip) (n : Nat) (f : Ctx → Ctx) : (c.updCtx n f).failover = c.failover := (rfl)
@[simp] theorem Chip.updCtx_notes (c : Chip) (n : Nat) (f : Ctx → Ctx) : (c.updCtx n f).notes = c.notes := (rfl)
@[simp] theorem Chip.updCtx_notesDue (c : Chip) (n : Nat) (f : Ctx → Ctx) : (c.updCtx n f).notesDue = c.notesDue := (rfl)
@[simp] theorem Chip.updCtx_gap (c : Chip) (n : Nat) (f : Ctx → Ctx) : (c.updCtx n f).gap = c.gap := (rfl)
@[simp] theorem Chip.updCtx_snap (c : Chip) (n : Nat) (f : Ctx → Ctx) : (c.updCtx n f).snap = c.snap := (rfl)
@[simp] theorem Chip.updCtx_mon (c : Chip) (n : Nat) (f : Ctx → Ctx) : (c.updCtx n f).mon = c.mon := (rfl)
@[simp] theorem Chip.updCtx_tap (c : Chip) (n : Nat) (f : Ctx → Ctx) : (c.updCtx n f).tap = c.tap := (rfl)
@[simp] theorem Chip.updCtx_flash (c : Chip) (n : Nat) (f : Ctx → Ctx) : (c.updCtx n f).flash = c.flash := (rfl)
@[simp] theorem Chip.updCtx_tm (c : Chip) (n : Nat) (f : Ctx → Ctx) : (c.updCtx n f).tm = c.tm := (rfl)
@[simp] theorem Chip.updCtx_align (c : Chip) (n : Nat) (f : Ctx → Ctx) : (c.updCtx n f).align = c.align := (rfl)
@[simp] theorem Chip.updCtx_time (c : Chip) (n : Nat) (f : Ctx → Ctx) : (c.updCtx n f).time = c.time := (rfl)
@[simp] theorem Chip.updCtx_free (c : Chip) (n : Nat) (f : Ctx → Ctx) : (c.updCtx n f).free = c.free := (rfl)
@[simp] theorem Chip.updCtx_mem (c : Chip) (n : Nat) (f : Ctx → Ctx) : (c.updCtx n f).mem = c.mem := (rfl)
@[simp] theorem Chip.updCtx_images (c : Chip) (n : Nat) (f : Ctx → Ctx) : (c.updCtx n f).images = c.images := (rfl)
@[simp] theorem Chip.updCtx_groups (c : Chip) (n : Nat) (f : Ctx → Ctx) : (c.updCtx n f).groups = c.groups := (rfl)
@[simp] theorem Chip.updCtx_mor (c : Chip) (n : Nat) (f : Ctx → Ctx) : (c.updCtx n f).mor = c.mor := (rfl)
@[simp] theorem Chip.updCtx_tdc (c : Chip) (n : Nat) (f : Ctx → Ctx) : (c.updCtx n f).tdc = c.tdc := (rfl)
@[simp] theorem Chip.updCtx_adc (c : Chip) (n : Nat) (f : Ctx → Ctx) : (c.updCtx n f).adc = c.adc := (rfl)
@[simp] theorem Chip.updCtx_cal (c : Chip) (n : Nat) (f : Ctx → Ctx) : (c.updCtx n f).cal = c.cal := (rfl)
@[simp] theorem Chip.updCtx_crcDma (c : Chip) (n : Nat) (f : Ctx → Ctx) : (c.updCtx n f).crcDma = c.crcDma := (rfl)
@[simp] theorem Chip.updCtx_sb (c : Chip) (n : Nat) (f : Ctx → Ctx) : (c.updCtx n f).sb = c.sb := (rfl)
@[simp] theorem Chip.updCtx_balls (c : Chip) (n : Nat) (f : Ctx → Ctx) : (c.updCtx n f).balls = c.balls := (rfl)

@[simp] theorem Chip.setGroup_dev (c : Chip) (g : Nat) (x : Group) : (c.setGroup g x).dev = c.dev := (rfl)
@[simp] theorem Chip.setGroup_regs (c : Chip) (g : Nat) (x : Group) : (c.setGroup g x).regs = c.regs := (rfl)
@[simp] theorem Chip.setGroup_led (c : Chip) (g : Nat) (x : Group) : (c.setGroup g x).led = c.led := (rfl)
@[simp] theorem Chip.setGroup_epoch (c : Chip) (g : Nat) (x : Group) : (c.setGroup g x).epoch = c.epoch := (rfl)
@[simp] theorem Chip.setGroup_staging (c : Chip) (g : Nat) (x : Group) : (c.setGroup g x).staging = c.staging := (rfl)
@[simp] theorem Chip.setGroup_cirque (c : Chip) (g : Nat) (x : Group) : (c.setGroup g x).cirque = c.cirque := (rfl)
@[simp] theorem Chip.setGroup_counters (c : Chip) (g : Nat) (x : Group) : (c.setGroup g x).counters = c.counters := (rfl)
@[simp] theorem Chip.setGroup_frozen (c : Chip) (g : Nat) (x : Group) : (c.setGroup g x).frozen = c.frozen := (rfl)
@[simp] theorem Chip.setGroup_cmd (c : Chip) (g : Nat) (x : Group) : (c.setGroup g x).cmd = c.cmd := (rfl)
@[simp] theorem Chip.setGroup_ports (c : Chip) (g : Nat) (x : Group) : (c.setGroup g x).ports = c.ports := (rfl)
@[simp] theorem Chip.setGroup_failover (c : Chip) (g : Nat) (x : Group) : (c.setGroup g x).failover = c.failover := (rfl)
@[simp] theorem Chip.setGroup_notes (c : Chip) (g : Nat) (x : Group) : (c.setGroup g x).notes = c.notes := (rfl)
@[simp] theorem Chip.setGroup_notesDue (c : Chip) (g : Nat) (x : Group) : (c.setGroup g x).notesDue = c.notesDue := (rfl)
@[simp] theorem Chip.setGroup_gap (c : Chip) (g : Nat) (x : Group) : (c.setGroup g x).gap = c.gap := (rfl)
@[simp] theorem Chip.setGroup_snap (c : Chip) (g : Nat) (x : Group) : (c.setGroup g x).snap = c.snap := (rfl)
@[simp] theorem Chip.setGroup_mon (c : Chip) (g : Nat) (x : Group) : (c.setGroup g x).mon = c.mon := (rfl)
@[simp] theorem Chip.setGroup_tap (c : Chip) (g : Nat) (x : Group) : (c.setGroup g x).tap = c.tap := (rfl)
@[simp] theorem Chip.setGroup_flash (c : Chip) (g : Nat) (x : Group) : (c.setGroup g x).flash = c.flash := (rfl)
@[simp] theorem Chip.setGroup_tm (c : Chip) (g : Nat) (x : Group) : (c.setGroup g x).tm = c.tm := (rfl)
@[simp] theorem Chip.setGroup_align (c : Chip) (g : Nat) (x : Group) : (c.setGroup g x).align = c.align := (rfl)
@[simp] theorem Chip.setGroup_time (c : Chip) (g : Nat) (x : Group) : (c.setGroup g x).time = c.time := (rfl)
@[simp] theorem Chip.setGroup_free (c : Chip) (g : Nat) (x : Group) : (c.setGroup g x).free = c.free := (rfl)
@[simp] theorem Chip.setGroup_mem (c : Chip) (g : Nat) (x : Group) : (c.setGroup g x).mem = c.mem := (rfl)
@[simp] theorem Chip.setGroup_images (c : Chip) (g : Nat) (x : Group) : (c.setGroup g x).images = c.images := (rfl)
@[simp] theorem Chip.setGroup_sched (c : Chip) (g : Nat) (x : Group) : (c.setGroup g x).sched = c.sched := (rfl)
@[simp] theorem Chip.setGroup_mor (c : Chip) (g : Nat) (x : Group) : (c.setGroup g x).mor = c.mor := (rfl)
@[simp] theorem Chip.setGroup_tdc (c : Chip) (g : Nat) (x : Group) : (c.setGroup g x).tdc = c.tdc := (rfl)
@[simp] theorem Chip.setGroup_adc (c : Chip) (g : Nat) (x : Group) : (c.setGroup g x).adc = c.adc := (rfl)
@[simp] theorem Chip.setGroup_cal (c : Chip) (g : Nat) (x : Group) : (c.setGroup g x).cal = c.cal := (rfl)
@[simp] theorem Chip.setGroup_crcDma (c : Chip) (g : Nat) (x : Group) : (c.setGroup g x).crcDma = c.crcDma := (rfl)
@[simp] theorem Chip.setGroup_sb (c : Chip) (g : Nat) (x : Group) : (c.setGroup g x).sb = c.sb := (rfl)
@[simp] theorem Chip.setGroup_balls (c : Chip) (g : Nat) (x : Group) : (c.setGroup g x).balls = c.balls := (rfl)

@[simp] theorem Chip.setMode_regs (c : Chip) (m : DevMode) : (c.setMode m).regs = c.regs := (rfl)
@[simp] theorem Chip.setMode_led (c : Chip) (m : DevMode) : (c.setMode m).led = c.led := (rfl)
@[simp] theorem Chip.setMode_epoch (c : Chip) (m : DevMode) : (c.setMode m).epoch = c.epoch := (rfl)
@[simp] theorem Chip.setMode_staging (c : Chip) (m : DevMode) : (c.setMode m).staging = c.staging := (rfl)
@[simp] theorem Chip.setMode_cirque (c : Chip) (m : DevMode) : (c.setMode m).cirque = c.cirque := (rfl)
@[simp] theorem Chip.setMode_counters (c : Chip) (m : DevMode) : (c.setMode m).counters = c.counters := (rfl)
@[simp] theorem Chip.setMode_frozen (c : Chip) (m : DevMode) : (c.setMode m).frozen = c.frozen := (rfl)
@[simp] theorem Chip.setMode_cmd (c : Chip) (m : DevMode) : (c.setMode m).cmd = c.cmd := (rfl)
@[simp] theorem Chip.setMode_ports (c : Chip) (m : DevMode) : (c.setMode m).ports = c.ports := (rfl)
@[simp] theorem Chip.setMode_failover (c : Chip) (m : DevMode) : (c.setMode m).failover = c.failover := (rfl)
@[simp] theorem Chip.setMode_notes (c : Chip) (m : DevMode) : (c.setMode m).notes = c.notes := (rfl)
@[simp] theorem Chip.setMode_notesDue (c : Chip) (m : DevMode) : (c.setMode m).notesDue = c.notesDue := (rfl)
@[simp] theorem Chip.setMode_gap (c : Chip) (m : DevMode) : (c.setMode m).gap = c.gap := (rfl)
@[simp] theorem Chip.setMode_snap (c : Chip) (m : DevMode) : (c.setMode m).snap = c.snap := (rfl)
@[simp] theorem Chip.setMode_mon (c : Chip) (m : DevMode) : (c.setMode m).mon = c.mon := (rfl)
@[simp] theorem Chip.setMode_tap (c : Chip) (m : DevMode) : (c.setMode m).tap = c.tap := (rfl)
@[simp] theorem Chip.setMode_flash (c : Chip) (m : DevMode) : (c.setMode m).flash = c.flash := (rfl)
@[simp] theorem Chip.setMode_tm (c : Chip) (m : DevMode) : (c.setMode m).tm = c.tm := (rfl)
@[simp] theorem Chip.setMode_align (c : Chip) (m : DevMode) : (c.setMode m).align = c.align := (rfl)
@[simp] theorem Chip.setMode_time (c : Chip) (m : DevMode) : (c.setMode m).time = c.time := (rfl)
@[simp] theorem Chip.setMode_free (c : Chip) (m : DevMode) : (c.setMode m).free = c.free := (rfl)
@[simp] theorem Chip.setMode_mem (c : Chip) (m : DevMode) : (c.setMode m).mem = c.mem := (rfl)
@[simp] theorem Chip.setMode_images (c : Chip) (m : DevMode) : (c.setMode m).images = c.images := (rfl)
@[simp] theorem Chip.setMode_sched (c : Chip) (m : DevMode) : (c.setMode m).sched = c.sched := (rfl)
@[simp] theorem Chip.setMode_groups (c : Chip) (m : DevMode) : (c.setMode m).groups = c.groups := (rfl)
@[simp] theorem Chip.setMode_mor (c : Chip) (m : DevMode) : (c.setMode m).mor = c.mor := (rfl)
@[simp] theorem Chip.setMode_tdc (c : Chip) (m : DevMode) : (c.setMode m).tdc = c.tdc := (rfl)
@[simp] theorem Chip.setMode_adc (c : Chip) (m : DevMode) : (c.setMode m).adc = c.adc := (rfl)
@[simp] theorem Chip.setMode_cal (c : Chip) (m : DevMode) : (c.setMode m).cal = c.cal := (rfl)
@[simp] theorem Chip.setMode_crcDma (c : Chip) (m : DevMode) : (c.setMode m).crcDma = c.crcDma := (rfl)
@[simp] theorem Chip.setMode_sb (c : Chip) (m : DevMode) : (c.setMode m).sb = c.sb := (rfl)
@[simp] theorem Chip.setMode_balls (c : Chip) (m : DevMode) : (c.setMode m).balls = c.balls := (rfl)

end Sys2Proof.Machine
end

