-- ==== Sys2Proof/Laws/Events.lean ====
section
/-! SUPPORT. Events.lean: a raised event waits, and waits on through every later raise and count (R21). -/

namespace Sys2Proof.Machine

/-- Cirque holds, before acceptance, an event of a SOURCE and TYPE with a property. -/
def Cirque.has (q : Cirque) (src typ : Nat) (P : Event → Prop) : Prop :=
  ∃ e : Event, e.src = src ∧ e.typ = typ ∧ P e ∧ (e ∈ q.staged ∨ e ∈ tabGet [] q.queues (srcPort src))

theorem waits_def (c : Chip) (src typ : Nat) : c.waits src typ ↔ c.cirque.has src typ (fun _ => True) := by
  unfold Chip.waits Cirque.has; simp
theorem waitsTo_def (c : Chip) (src typ : Nat) (a : Act) :
    c.waitsTo src typ a ↔ c.cirque.has src typ (fun e => a ∈ e.acts) := Iff.rfl

theorem merge_src (e : Event) (acts : List Act) : (e.merge acts).src = e.src := rfl
theorem merge_typ (e : Event) (acts : List Act) : (e.merge acts).typ = e.typ := rfl
/-- What an event changes, it changes after any merge, but that of a push (R21, R316). -/
theorem merge_keeps (a : Act) (e : Event) (acts : List Act) (h : e.typ ≠ 0x8070) (ha : a ∈ e.acts) :
    a ∈ (e.merge acts).acts := by
  unfold Event.merge; simp [h, ha]
theorem merge_takes (a : Act) (e : Event) (acts : List Act) (ha : a ∈ acts) : a ∈ (e.merge acts).acts := by
  unfold Event.merge; simp only; split <;> simp [ha]

/-- A staged event waits. -/
theorem stage_has (q : Cirque) (e : Event) (P : Event → Prop) (he : P e) (hm : ∀ x : Event, P (x.merge e.acts)) :
    (stage q e).1.has e.src e.typ P := by
  unfold stage
  simp only
  split
  · exact ⟨e, rfl, rfl, he, .inr (by simp)⟩
  · split
    · rename_i h
      obtain ⟨x, hx, hp⟩ := List.any_eq_true.1 h
      simp only [decide_eq_true_eq] at hp
      refine ⟨x.merge e.acts, hp.1, hp.2, hm x, .inl ?_⟩
      exact List.mem_map.2 ⟨x, hx, by simp [hp]⟩
    · exact ⟨e, rfl, rfl, he, .inl (by simp)⟩

/-- What waits keeps waiting as another event is staged. -/
theorem stage_keeps (q : Cirque) (e : Event) {src typ : Nat} {P : Event → Prop}
    (hm : ∀ (x : Event) (as : List Act), x.typ = typ → P x → P (x.merge as)) (h : q.has src typ P) :
    (stage q e).1.has src typ P := by
  obtain ⟨x, hs, ht, hP, hx⟩ := h
  unfold stage
  simp only
  split
  · refine ⟨x, hs, ht, hP, hx.imp id fun hx => ?_⟩
    rw [tabGet_tabSet]
    split
    · rename_i hp; rw [← hp]; exact List.mem_append_left _ hx
    · exact hx
  · split
    · rcases hx with hx | hx
      · by_cases hc : x.src = e.src ∧ x.typ = e.typ
        · exact ⟨x.merge e.acts, hs, ht, hm x _ ht hP, .inl (List.mem_map.2 ⟨x, hx, by simp [hc]⟩)⟩
        · exact ⟨x, hs, ht, hP, .inl (List.mem_map.2 ⟨x, hx, by simp [hc]⟩)⟩
      · exact ⟨x, hs, ht, hP, .inr hx⟩
    · exact ⟨x, hs, ht, hP, hx.imp (List.mem_append_left _) id⟩

theorem thr_keeps (is : List Nat) {src typ : Nat} {P : Event → Prop}
    (hm : ∀ (x : Event) (as : List Act), x.typ = typ → P x → P (x.merge as)) : ∀ (q : Cirque), q.has src typ P →
    (Chip.count.thr is q).1.has src typ P := by
  induction is with
  | nil => intro q h; exact h
  | cons i is ih => intro q h; exact ih _ (stage_keeps q _ hm h)

theorem Chip.count_has (c : Chip) (code n : Nat) {src typ : Nat} {P : Event → Prop}
    (hm : ∀ (x : Event) (as : List Act), x.typ = typ → P x → P (x.merge as)) (h : c.cirque.has src typ P) :
    (c.count code n).cirque.has src typ P := by
  have go : ∀ (f : Nat) (c : Chip) (code n : Nat), c.cirque.has src typ P →
      (Chip.count.go f c code n).cirque.has src typ P := by
    intro f
    induction f with
    | zero => intro c _ _ h; exact h
    | succ f ih =>
      intro c code n h
      simp only [Chip.count.go]
      split
      · exact thr_keeps _ hm _ h
      · exact ih _ _ _ (thr_keeps _ hm _ h)
  unfold Chip.count
  split
  · exact h
  · exact go 65 c code n h

theorem Chip.raise_has (c : Chip) (src' typ' : Nat) (acts : List Act) (err : Option ErrInfo) (info : Nat) {src typ : Nat}
    {P : Event → Prop} (hm : ∀ (x : Event) (as : List Act), x.typ = typ → P x → P (x.merge as))
    (h : (stage c.cirque { src := src', typ := typ', info := info, acts := acts, err := err }).1.has src typ P) :
    (c.raise src' typ' acts err info).cirque.has src typ P := by
  unfold Chip.raise
  simp only
  split
  · exact Chip.count_has _ _ _ hm h
  · exact h

/-- What waits keeps waiting as happenings are counted. -/
theorem Chip.count_keeps (c : Chip) (code n : Nat) {src typ : Nat} (h : c.waits src typ) :
    (c.count code n).waits src typ :=
  (waits_def _ _ _).2 (Chip.count_has c code n (fun _ _ _ h => h) ((waits_def _ _ _).1 h))

/-- A raised event waits. -/
theorem Chip.raise_waits (c : Chip) (src typ : Nat) (acts : List Act) (err : Option ErrInfo) (info : Nat) :
    (c.raise src typ acts err info).waits src typ :=
  (waits_def _ _ _).2 (Chip.raise_has c src typ acts err info (fun _ _ _ h => h)
    (stage_has c.cirque { src := src, typ := typ, info := info, acts := acts, err := err } _ trivial fun _ => trivial))

/-- A raised event waits with what its acceptance changes; a ring's push alone takes the newest only (R21, R316). -/
theorem Chip.raise_waitsTo (c : Chip) (src typ : Nat) (acts : List Act) (err : Option ErrInfo) (info : Nat) {a : Act}
    (ht : typ ≠ 0x8070) (ha : a ∈ acts) : (c.raise src typ acts err info).waitsTo src typ a :=
  (waitsTo_def _ _ _ _).2 (Chip.raise_has c src typ acts err info
    (fun x as h hx => merge_keeps a x as (by rw [h]; exact ht) hx)
    (stage_has c.cirque { src := src, typ := typ, info := info, acts := acts, err := err } _ ha
      fun x => merge_takes a x acts ha))

theorem Chip.raise_keeps (c : Chip) (src' typ' : Nat) (acts : List Act) (err : Option ErrInfo) (info : Nat)
    {src typ : Nat} (h : c.waits src typ) : (c.raise src' typ' acts err info).waits src typ :=
  (waits_def _ _ _).2 (Chip.raise_has c src' typ' acts err info (fun _ _ _ h => h)
    (stage_keeps c.cirque { src := src', typ := typ', info := info, acts := acts, err := err } (fun _ _ _ h => h)
      ((waits_def _ _ _).1 h)))

theorem Chip.raiseErr_waits (c : Chip) (src code unit detail task : Nat) :
    (c.raiseErr src code unit detail task).waits src code :=
  Chip.count_keeps _ _ _ (Chip.raise_waits _ _ _ _ _ _)

theorem Chip.raiseErr_keeps (c : Chip) (src' code unit detail task : Nat) {src typ : Nat} (h : c.waits src typ) :
    (c.raiseErr src' code unit detail task).waits src typ :=
  Chip.count_keeps _ _ _ (Chip.raise_keeps _ _ _ _ _ _ h)

theorem Chip.guardReject_keeps (c : Chip) {src typ : Nat} (h : c.waits src typ) : c.guardReject.waits src typ :=
  Chip.count_keeps _ _ _ h

/-- Waiting depends on Cirque alone. -/
theorem waits_congr {c d : Chip} (hq : d.cirque = c.cirque) {src typ : Nat} (h : c.waits src typ) :
    d.waits src typ := by
  rw [waits_def] at *; rw [hq]; exact h

/-! ### Registers and other stores through operations that leave them alone -/

theorem Chip.reg_of_regs {c d : Chip} (h : d.regs = c.regs) (a : Nat) : d.reg a = c.reg a := by
  unfold Chip.reg; rw [h]

@[simp] theorem Chip.reg_count (c : Chip) (code n a : Nat) : (c.count code n).reg a = c.reg a :=
  Chip.reg_of_regs (by simp) a
@[simp] theorem Chip.reg_raise (c : Chip) (src typ : Nat) (acts : List Act) (err : Option ErrInfo) (info a : Nat) :
    (c.raise src typ acts err info).reg a = c.reg a := Chip.reg_of_regs (by simp) a
@[simp] theorem Chip.reg_raiseErr (c : Chip) (src code unit detail task a : Nat) :
    (c.raiseErr src code unit detail task).reg a = c.reg a := Chip.reg_of_regs (by simp) a
@[simp] theorem Chip.reg_guardReject (c : Chip) (a : Nat) : c.guardReject.reg a = c.reg a := Chip.reg_of_regs (by simp) a
@[simp] theorem Chip.reg_setPort (c : Chip) (q : Nat) (p : PortLink) (a : Nat) : (c.setPort q p).reg a = c.reg a := (rfl)
@[simp] theorem Chip.reg_updPort (c : Chip) (q : Nat) (f : PortLink → PortLink) (a : Nat) :
    (c.updPort q f).reg a = c.reg a := (rfl)
@[simp] theorem Chip.reg_enqueue (c : Chip) (q : Nat) (f : Frame) (a : Nat) : (c.enqueue q f).reg a = c.reg a := (rfl)
@[simp] theorem Chip.reg_ledAdd (c : Chip) (a n b : Nat) : (c.ledAdd a n).reg b = c.reg b := (rfl)
@[simp] theorem Chip.reg_ledSub (c : Chip) (a n b : Nat) : (c.ledSub a n).reg b = c.reg b := (rfl)
@[simp] theorem Chip.reg_ledMove (c : Chip) (a a' n b : Nat) : (c.ledMove a a' n).reg b = c.reg b := (rfl)
@[simp] theorem Chip.reg_setMemCh (c : Chip) (ch : Nat) (m : MemCh) (a : Nat) : (c.setMemCh ch m).reg a = c.reg a := (rfl)
@[simp] theorem Chip.reg_setCtx (c : Chip) (n : Nat) (x : Ctx) (a : Nat) : (c.setCtx n x).reg a = c.reg a := (rfl)
@[simp] theorem Chip.reg_updCtx (c : Chip) (n : Nat) (f : Ctx → Ctx) (a : Nat) : (c.updCtx n f).reg a = c.reg a := (rfl)
@[simp] theorem Chip.reg_setGroup (c : Chip) (g : Nat) (x : Group) (a : Nat) : (c.setGroup g x).reg a = c.reg a := (rfl)
@[simp] theorem Chip.reg_grantAll (c : Chip) (q a : Nat) : (c.grantAll q).reg a = c.reg a := Chip.reg_of_regs (by simp) a
@[simp] theorem Chip.reg_sendCredit (c : Chip) (q a : Nat) : (c.sendCredit q).reg a = c.reg a :=
  Chip.reg_of_regs (by simp) a
@[simp] theorem Chip.reg_freeBuf (c : Chip) (q k a : Nat) : (c.freeBuf q k).reg a = c.reg a := Chip.reg_of_regs (by simp) a

/-! ### Ports -/

theorem Chip.port_of_ports {c d : Chip} (h : d.ports = c.ports) (q : Nat) : d.port q = c.port q := by
  unfold Chip.port; rw [h]

@[simp] theorem Chip.port_setPort_same (c : Chip) (q : Nat) (p : PortLink) : (c.setPort q p).port q = p := by
  simp [Chip.port, Chip.setPort]
theorem Chip.port_setPort_other (c : Chip) {q r : Nat} (p : PortLink) (h : r ≠ q) :
    (c.setPort q p).port r = c.port r := tabGet_tabSet_other _ _ _ h
@[simp] theorem Chip.port_updPort_same (c : Chip) (q : Nat) (f : PortLink → PortLink) :
    (c.updPort q f).port q = f (c.port q) := by simp [Chip.updPort]
theorem Chip.port_updPort_other (c : Chip) {q r : Nat} (f : PortLink → PortLink) (h : r ≠ q) :
    (c.updPort q f).port r = c.port r := Chip.port_setPort_other c _ h
@[simp] theorem Chip.port_enqueue_same (c : Chip) (q : Nat) (f : Frame) :
    (c.enqueue q f).port q = { c.port q with ready := (c.port q).ready ++ [f] } := by simp [Chip.enqueue]
theorem Chip.port_enqueue_other (c : Chip) {q r : Nat} (f : Frame) (h : r ≠ q) : (c.enqueue q f).port r = c.port r :=
  Chip.port_updPort_other c _ h
@[simp] theorem Chip.port_setReg (c : Chip) (a : Nat) (w : Word) (q : Nat) : (c.setReg a w).port q = c.port q := (rfl)
@[simp] theorem Chip.port_setField (c : Chip) (a hi lo v q : Nat) : (c.setField a hi lo v).port q = c.port q := (rfl)
@[simp] theorem Chip.port_setReg64 (c : Chip) (a v q : Nat) : (c.setReg64 a v).port q = c.port q := (rfl)
@[simp] theorem Chip.port_cntUp (c : Chip) (a n q : Nat) : (c.cntUp a n).port q = c.port q := (rfl)
@[simp] theorem Chip.port_cntWrap (c : Chip) (a n q : Nat) : (c.cntWrap a n).port q = c.port q := (rfl)
@[simp] theorem Chip.port_privCheck (c : Chip) (u n b q : Nat) : (c.privCheck u n b).port q = c.port q := (rfl)
@[simp] theorem Chip.port_ledMove (c : Chip) (a b n q : Nat) : (c.ledMove a b n).port q = c.port q := (rfl)
@[simp] theorem Chip.port_ledAdd (c : Chip) (a n q : Nat) : (c.ledAdd a n).port q = c.port q := (rfl)
@[simp] theorem Chip.port_ledSub (c : Chip) (a n q : Nat) : (c.ledSub a n).port q = c.port q := (rfl)
@[simp] theorem Chip.port_count (c : Chip) (code n q : Nat) : (c.count code n).port q = c.port q :=
  Chip.port_of_ports (by simp) q
@[simp] theorem Chip.port_raise (c : Chip) (src typ : Nat) (acts : List Act) (err : Option ErrInfo) (info q : Nat) :
    (c.raise src typ acts err info).port q = c.port q := Chip.port_of_ports (by simp) q
@[simp] theorem Chip.port_raiseErr (c : Chip) (src code unit detail task q : Nat) :
    (c.raiseErr src code unit detail task).port q = c.port q := Chip.port_of_ports (by simp) q
@[simp] theorem Chip.port_guardReject (c : Chip) (q : Nat) : c.guardReject.port q = c.port q :=
  Chip.port_of_ports (by simp) q

end Sys2Proof.Machine
end

