-- ==== Sys2Proof/Laws/LinkState.lean ====
section
/-! SUPPORT. LinkState.lean: what bring-up, a port going down and the servo's changes leave alone. -/

namespace Sys2Proof.Machine

theorem Chip.withdraw_shape (c : Chip) (q : Nat) : ∃ l, c.withdraw q = { c with led := l } := by
  have e : ∀ (ks : List Nat) (c : Chip), ∃ l, ks.foldl (fun c k =>
      c.ledMove (credAdv q k) (credFreed q k) (c.ledger (credAdv q k)).toNat) c = { c with led := l } := by
    intro ks
    induction ks with
    | nil => intro c; exact ⟨c.led, rfl⟩
    | cons k ks ih =>
      intro c
      obtain ⟨l, h⟩ := ih (c.ledMove (credAdv q k) (credFreed q k) (c.ledger (credAdv q k)).toNat)
      exact ⟨l, h⟩
  exact e _ c

@[simp] theorem Chip.withdraw_dev (c : Chip) (q : Nat) : (c.withdraw q).dev = c.dev := by
 obtain ⟨l, h⟩ := c.withdraw_shape q; rw [h]
@[simp] theorem Chip.withdraw_regs (c : Chip) (q : Nat) : (c.withdraw q).regs = c.regs := by
 obtain ⟨l, h⟩ := c.withdraw_shape q; rw [h]
@[simp] theorem Chip.withdraw_epoch (c : Chip) (q : Nat) : (c.withdraw q).epoch = c.epoch := by
 obtain ⟨l, h⟩ := c.withdraw_shape q; rw [h]
@[simp] theorem Chip.withdraw_staging (c : Chip) (q : Nat) : (c.withdraw q).staging = c.staging := by
 obtain ⟨l, h⟩ := c.withdraw_shape q; rw [h]
@[simp] theorem Chip.withdraw_cirque (c : Chip) (q : Nat) : (c.withdraw q).cirque = c.cirque := by
 obtain ⟨l, h⟩ := c.withdraw_shape q; rw [h]
@[simp] theorem Chip.withdraw_counters (c : Chip) (q : Nat) : (c.withdraw q).counters = c.counters := by
 obtain ⟨l, h⟩ := c.withdraw_shape q; rw [h]
@[simp] theorem Chip.withdraw_frozen (c : Chip) (q : Nat) : (c.withdraw q).frozen = c.frozen := by
 obtain ⟨l, h⟩ := c.withdraw_shape q; rw [h]
@[simp] theorem Chip.withdraw_cmd (c : Chip) (q : Nat) : (c.withdraw q).cmd = c.cmd := by
 obtain ⟨l, h⟩ := c.withdraw_shape q; rw [h]
@[simp] theorem Chip.withdraw_ports (c : Chip) (q : Nat) : (c.withdraw q).ports = c.ports := by
 obtain ⟨l, h⟩ := c.withdraw_shape q; rw [h]
@[simp] theorem Chip.withdraw_failover (c : Chip) (q : Nat) : (c.withdraw q).failover = c.failover := by
 obtain ⟨l, h⟩ := c.withdraw_shape q; rw [h]
@[simp] theorem Chip.withdraw_notes (c : Chip) (q : Nat) : (c.withdraw q).notes = c.notes := by
 obtain ⟨l, h⟩ := c.withdraw_shape q; rw [h]
@[simp] theorem Chip.withdraw_notesDue (c : Chip) (q : Nat) : (c.withdraw q).notesDue = c.notesDue := by
 obtain ⟨l, h⟩ := c.withdraw_shape q; rw [h]
@[simp] theorem Chip.withdraw_gap (c : Chip) (q : Nat) : (c.withdraw q).gap = c.gap := by
 obtain ⟨l, h⟩ := c.withdraw_shape q; rw [h]
@[simp] theorem Chip.withdraw_snap (c : Chip) (q : Nat) : (c.withdraw q).snap = c.snap := by
 obtain ⟨l, h⟩ := c.withdraw_shape q; rw [h]
@[simp] theorem Chip.withdraw_mon (c : Chip) (q : Nat) : (c.withdraw q).mon = c.mon := by
 obtain ⟨l, h⟩ := c.withdraw_shape q; rw [h]
@[simp] theorem Chip.withdraw_tap (c : Chip) (q : Nat) : (c.withdraw q).tap = c.tap := by
 obtain ⟨l, h⟩ := c.withdraw_shape q; rw [h]
@[simp] theorem Chip.withdraw_flash (c : Chip) (q : Nat) : (c.withdraw q).flash = c.flash := by
 obtain ⟨l, h⟩ := c.withdraw_shape q; rw [h]
@[simp] theorem Chip.withdraw_tm (c : Chip) (q : Nat) : (c.withdraw q).tm = c.tm := by
 obtain ⟨l, h⟩ := c.withdraw_shape q; rw [h]
@[simp] theorem Chip.withdraw_align (c : Chip) (q : Nat) : (c.withdraw q).align = c.align := by
 obtain ⟨l, h⟩ := c.withdraw_shape q; rw [h]
@[simp] theorem Chip.withdraw_time (c : Chip) (q : Nat) : (c.withdraw q).time = c.time := by
 obtain ⟨l, h⟩ := c.withdraw_shape q; rw [h]
@[simp] theorem Chip.withdraw_free (c : Chip) (q : Nat) : (c.withdraw q).free = c.free := by
 obtain ⟨l, h⟩ := c.withdraw_shape q; rw [h]
@[simp] theorem Chip.withdraw_mem (c : Chip) (q : Nat) : (c.withdraw q).mem = c.mem := by
 obtain ⟨l, h⟩ := c.withdraw_shape q; rw [h]
@[simp] theorem Chip.withdraw_images (c : Chip) (q : Nat) : (c.withdraw q).images = c.images := by
 obtain ⟨l, h⟩ := c.withdraw_shape q; rw [h]
@[simp] theorem Chip.withdraw_sched (c : Chip) (q : Nat) : (c.withdraw q).sched = c.sched := by
 obtain ⟨l, h⟩ := c.withdraw_shape q; rw [h]
@[simp] theorem Chip.withdraw_groups (c : Chip) (q : Nat) : (c.withdraw q).groups = c.groups := by
 obtain ⟨l, h⟩ := c.withdraw_shape q; rw [h]
@[simp] theorem Chip.withdraw_mor (c : Chip) (q : Nat) : (c.withdraw q).mor = c.mor := by
 obtain ⟨l, h⟩ := c.withdraw_shape q; rw [h]
@[simp] theorem Chip.withdraw_tdc (c : Chip) (q : Nat) : (c.withdraw q).tdc = c.tdc := by
 obtain ⟨l, h⟩ := c.withdraw_shape q; rw [h]
@[simp] theorem Chip.withdraw_adc (c : Chip) (q : Nat) : (c.withdraw q).adc = c.adc := by
 obtain ⟨l, h⟩ := c.withdraw_shape q; rw [h]
@[simp] theorem Chip.withdraw_cal (c : Chip) (q : Nat) : (c.withdraw q).cal = c.cal := by
 obtain ⟨l, h⟩ := c.withdraw_shape q; rw [h]
@[simp] theorem Chip.withdraw_crcDma (c : Chip) (q : Nat) : (c.withdraw q).crcDma = c.crcDma := by
 obtain ⟨l, h⟩ := c.withdraw_shape q; rw [h]
@[simp] theorem Chip.withdraw_sb (c : Chip) (q : Nat) : (c.withdraw q).sb = c.sb := by
 obtain ⟨l, h⟩ := c.withdraw_shape q; rw [h]
@[simp] theorem Chip.withdraw_balls (c : Chip) (q : Nat) : (c.withdraw q).balls = c.balls := by
 obtain ⟨l, h⟩ := c.withdraw_shape q; rw [h]

theorem Chip.bringup_shape (c : Chip) (q : Nat) (k : Bool) :
    ∃ r p, c.bringup q k = { c with regs := r, ports := p } := by
  have e : ∀ (ls : List Nat) (c : Chip), ∃ r, ls.foldl (fun c l =>
      c.setReg (laneReg q l) (c.reg (laneReg q l) &&& 0x007F0000)) c = { c with regs := r } := by
    intro ls
    induction ls with
    | nil => intro c; exact ⟨c.regs, rfl⟩
    | cons l ls ih =>
      intro c
      obtain ⟨r, h⟩ := ih (c.setReg (laneReg q l) (c.reg (laneReg q l) &&& 0x007F0000))
      exact ⟨r, h⟩
  obtain ⟨r, h⟩ := e [0, 1, 2, 3] c
  unfold Chip.bringup
  rw [h]
  exact ⟨r, _, rfl⟩

@[simp] theorem Chip.bringup_dev (c : Chip) (q : Nat) (k : Bool) : (c.bringup q k).dev = c.dev := by
 obtain ⟨r, p, h⟩ := c.bringup_shape q k; rw [h]
@[simp] theorem Chip.bringup_led (c : Chip) (q : Nat) (k : Bool) : (c.bringup q k).led = c.led := by
 obtain ⟨r, p, h⟩ := c.bringup_shape q k; rw [h]
@[simp] theorem Chip.bringup_epoch (c : Chip) (q : Nat) (k : Bool) : (c.bringup q k).epoch = c.epoch := by
 obtain ⟨r, p, h⟩ := c.bringup_shape q k; rw [h]
@[simp] theorem Chip.bringup_staging (c : Chip) (q : Nat) (k : Bool) : (c.bringup q k).staging = c.staging := by
 obtain ⟨r, p, h⟩ := c.bringup_shape q k; rw [h]
@[simp] theorem Chip.bringup_cirque (c : Chip) (q : Nat) (k : Bool) : (c.bringup q k).cirque = c.cirque := by
 obtain ⟨r, p, h⟩ := c.bringup_shape q k; rw [h]
@[simp] theorem Chip.bringup_counters (c : Chip) (q : Nat) (k : Bool) : (c.bringup q k).counters = c.counters := by
 obtain ⟨r, p, h⟩ := c.bringup_shape q k; rw [h]
@[simp] theorem Chip.bringup_frozen (c : Chip) (q : Nat) (k : Bool) : (c.bringup q k).frozen = c.frozen := by
 obtain ⟨r, p, h⟩ := c.bringup_shape q k; rw [h]
@[simp] theorem Chip.bringup_cmd (c : Chip) (q : Nat) (k : Bool) : (c.bringup q k).cmd = c.cmd := by
 obtain ⟨r, p, h⟩ := c.bringup_shape q k; rw [h]
@[simp] theorem Chip.bringup_failover (c : Chip) (q : Nat) (k : Bool) : (c.bringup q k).failover = c.failover := by
 obtain ⟨r, p, h⟩ := c.bringup_shape q k; rw [h]
@[simp] theorem Chip.bringup_notes (c : Chip) (q : Nat) (k : Bool) : (c.bringup q k).notes = c.notes := by
 obtain ⟨r, p, h⟩ := c.bringup_shape q k; rw [h]
@[simp] theorem Chip.bringup_notesDue (c : Chip) (q : Nat) (k : Bool) : (c.bringup q k).notesDue = c.notesDue := by
 obtain ⟨r, p, h⟩ := c.bringup_shape q k; rw [h]
@[simp] theorem Chip.bringup_gap (c : Chip) (q : Nat) (k : Bool) : (c.bringup q k).gap = c.gap := by
 obtain ⟨r, p, h⟩ := c.bringup_shape q k; rw [h]
@[simp] theorem Chip.bringup_snap (c : Chip) (q : Nat) (k : Bool) : (c.bringup q k).snap = c.snap := by
 obtain ⟨r, p, h⟩ := c.bringup_shape q k; rw [h]
@[simp] theorem Chip.bringup_mon (c : Chip) (q : Nat) (k : Bool) : (c.bringup q k).mon = c.mon := by
 obtain ⟨r, p, h⟩ := c.bringup_shape q k; rw [h]
@[simp] theorem Chip.bringup_tap (c : Chip) (q : Nat) (k : Bool) : (c.bringup q k).tap = c.tap := by
 obtain ⟨r, p, h⟩ := c.bringup_shape q k; rw [h]
@[simp] theorem Chip.bringup_flash (c : Chip) (q : Nat) (k : Bool) : (c.bringup q k).flash = c.flash := by
 obtain ⟨r, p, h⟩ := c.bringup_shape q k; rw [h]
@[simp] theorem Chip.bringup_tm (c : Chip) (q : Nat) (k : Bool) : (c.bringup q k).tm = c.tm := by
 obtain ⟨r, p, h⟩ := c.bringup_shape q k; rw [h]
@[simp] theorem Chip.bringup_align (c : Chip) (q : Nat) (k : Bool) : (c.bringup q k).align = c.align := by
 obtain ⟨r, p, h⟩ := c.bringup_shape q k; rw [h]
@[simp] theorem Chip.bringup_time (c : Chip) (q : Nat) (k : Bool) : (c.bringup q k).time = c.time := by
 obtain ⟨r, p, h⟩ := c.bringup_shape q k; rw [h]
@[simp] theorem Chip.bringup_free (c : Chip) (q : Nat) (k : Bool) : (c.bringup q k).free = c.free := by
 obtain ⟨r, p, h⟩ := c.bringup_shape q k; rw [h]
@[simp] theorem Chip.bringup_mem (c : Chip) (q : Nat) (k : Bool) : (c.bringup q k).mem = c.mem := by
 obtain ⟨r, p, h⟩ := c.bringup_shape q k; rw [h]
@[simp] theorem Chip.bringup_images (c : Chip) (q : Nat) (k : Bool) : (c.bringup q k).images = c.images := by
 obtain ⟨r, p, h⟩ := c.bringup_shape q k; rw [h]
@[simp] theorem Chip.bringup_sched (c : Chip) (q : Nat) (k : Bool) : (c.bringup q k).sched = c.sched := by
 obtain ⟨r, p, h⟩ := c.bringup_shape q k; rw [h]
@[simp] theorem Chip.bringup_groups (c : Chip) (q : Nat) (k : Bool) : (c.bringup q k).groups = c.groups := by
 obtain ⟨r, p, h⟩ := c.bringup_shape q k; rw [h]
@[simp] theorem Chip.bringup_mor (c : Chip) (q : Nat) (k : Bool) : (c.bringup q k).mor = c.mor := by
 obtain ⟨r, p, h⟩ := c.bringup_shape q k; rw [h]
@[simp] theorem Chip.bringup_tdc (c : Chip) (q : Nat) (k : Bool) : (c.bringup q k).tdc = c.tdc := by
 obtain ⟨r, p, h⟩ := c.bringup_shape q k; rw [h]
@[simp] theorem Chip.bringup_adc (c : Chip) (q : Nat) (k : Bool) : (c.bringup q k).adc = c.adc := by
 obtain ⟨r, p, h⟩ := c.bringup_shape q k; rw [h]
@[simp] theorem Chip.bringup_cal (c : Chip) (q : Nat) (k : Bool) : (c.bringup q k).cal = c.cal := by
 obtain ⟨r, p, h⟩ := c.bringup_shape q k; rw [h]
@[simp] theorem Chip.bringup_crcDma (c : Chip) (q : Nat) (k : Bool) : (c.bringup q k).crcDma = c.crcDma := by
 obtain ⟨r, p, h⟩ := c.bringup_shape q k; rw [h]
@[simp] theorem Chip.bringup_sb (c : Chip) (q : Nat) (k : Bool) : (c.bringup q k).sb = c.sb := by
 obtain ⟨r, p, h⟩ := c.bringup_shape q k; rw [h]
@[simp] theorem Chip.bringup_balls (c : Chip) (q : Nat) (k : Bool) : (c.bringup q k).balls = c.balls := by
 obtain ⟨r, p, h⟩ := c.bringup_shape q k; rw [h]

@[simp] theorem Chip.bringupAll_dev (c : Chip) : (c.bringupAll).dev = c.dev := by
 unfold Chip.bringupAll; simp only [List.foldl]; (repeat' split) <;> simp
@[simp] theorem Chip.bringupAll_led (c : Chip) : (c.bringupAll).led = c.led := by
 unfold Chip.bringupAll; simp only [List.foldl]; (repeat' split) <;> simp
@[simp] theorem Chip.bringupAll_epoch (c : Chip) : (c.bringupAll).epoch = c.epoch := by
 unfold Chip.bringupAll; simp only [List.foldl]; (repeat' split) <;> simp
@[simp] theorem Chip.bringupAll_staging (c : Chip) : (c.bringupAll).staging = c.staging := by
 unfold Chip.bringupAll; simp only [List.foldl]; (repeat' split) <;> simp
@[simp] theorem Chip.bringupAll_cirque (c : Chip) : (c.bringupAll).cirque = c.cirque := by
 unfold Chip.bringupAll; simp only [List.foldl]; (repeat' split) <;> simp
@[simp] theorem Chip.bringupAll_counters (c : Chip) : (c.bringupAll).counters = c.counters := by
 unfold Chip.bringupAll; simp only [List.foldl]; (repeat' split) <;> simp
@[simp] theorem Chip.bringupAll_frozen (c : Chip) : (c.bringupAll).frozen = c.frozen := by
 unfold Chip.bringupAll; simp only [List.foldl]; (repeat' split) <;> simp
@[simp] theorem Chip.bringupAll_cmd (c : Chip) : (c.bringupAll).cmd = c.cmd := by
 unfold Chip.bringupAll; simp only [List.foldl]; (repeat' split) <;> simp
@[simp] theorem Chip.bringupAll_failover (c : Chip) : (c.bringupAll).failover = c.failover := by
 unfold Chip.bringupAll; simp only [List.foldl]; (repeat' split) <;> simp
@[simp] theorem Chip.bringupAll_notes (c : Chip) : (c.bringupAll).notes = c.notes := by
 unfold Chip.bringupAll; simp only [List.foldl]; (repeat' split) <;> simp
@[simp] theorem Chip.bringupAll_notesDue (c : Chip) : (c.bringupAll).notesDue = c.notesDue := by
 unfold Chip.bringupAll; simp only [List.foldl]; (repeat' split) <;> simp
@[simp] theorem Chip.bringupAll_gap (c : Chip) : (c.bringupAll).gap = c.gap := by
 unfold Chip.bringupAll; simp only [List.foldl]; (repeat' split) <;> simp
@[simp] theorem Chip.bringupAll_snap (c : Chip) : (c.bringupAll).snap = c.snap := by
 unfold Chip.bringupAll; simp only [List.foldl]; (repeat' split) <;> simp
@[simp] theorem Chip.bringupAll_mon (c : Chip) : (c.bringupAll).mon = c.mon := by
 unfold Chip.bringupAll; simp only [List.foldl]; (repeat' split) <;> simp
@[simp] theorem Chip.bringupAll_tap (c : Chip) : (c.bringupAll).tap = c.tap := by
 unfold Chip.bringupAll; simp only [List.foldl]; (repeat' split) <;> simp
@[simp] theorem Chip.bringupAll_flash (c : Chip) : (c.bringupAll).flash = c.flash := by
 unfold Chip.bringupAll; simp only [List.foldl]; (repeat' split) <;> simp
@[simp] theorem Chip.bringupAll_tm (c : Chip) : (c.bringupAll).tm = c.tm := by
 unfold Chip.bringupAll; simp only [List.foldl]; (repeat' split) <;> simp
@[simp] theorem Chip.bringupAll_align (c : Chip) : (c.bringupAll).align = c.align := by
 unfold Chip.bringupAll; simp only [List.foldl]; (repeat' split) <;> simp
@[simp] theorem Chip.bringupAll_time (c : Chip) : (c.bringupAll).time = c.time := by
 unfold Chip.bringupAll; simp only [List.foldl]; (repeat' split) <;> simp
@[simp] theorem Chip.bringupAll_free (c : Chip) : (c.bringupAll).free = c.free := by
 unfold Chip.bringupAll; simp only [List.foldl]; (repeat' split) <;> simp
@[simp] theorem Chip.bringupAll_mem (c : Chip) : (c.bringupAll).mem = c.mem := by
 unfold Chip.bringupAll; simp only [List.foldl]; (repeat' split) <;> simp
@[simp] theorem Chip.bringupAll_images (c : Chip) : (c.bringupAll).images = c.images := by
 unfold Chip.bringupAll; simp only [List.foldl]; (repeat' split) <;> simp
@[simp] theorem Chip.bringupAll_sched (c : Chip) : (c.bringupAll).sched = c.sched := by
 unfold Chip.bringupAll; simp only [List.foldl]; (repeat' split) <;> simp
@[simp] theorem Chip.bringupAll_groups (c : Chip) : (c.bringupAll).groups = c.groups := by
 unfold Chip.bringupAll; simp only [List.foldl]; (repeat' split) <;> simp
@[simp] theorem Chip.bringupAll_mor (c : Chip) : (c.bringupAll).mor = c.mor := by
 unfold Chip.bringupAll; simp only [List.foldl]; (repeat' split) <;> simp
@[simp] theorem Chip.bringupAll_tdc (c : Chip) : (c.bringupAll).tdc = c.tdc := by
 unfold Chip.bringupAll; simp only [List.foldl]; (repeat' split) <;> simp
@[simp] theorem Chip.bringupAll_adc (c : Chip) : (c.bringupAll).adc = c.adc := by
 unfold Chip.bringupAll; simp only [List.foldl]; (repeat' split) <;> simp
@[simp] theorem Chip.bringupAll_cal (c : Chip) : (c.bringupAll).cal = c.cal := by
 unfold Chip.bringupAll; simp only [List.foldl]; (repeat' split) <;> simp
@[simp] theorem Chip.bringupAll_crcDma (c : Chip) : (c.bringupAll).crcDma = c.crcDma := by
 unfold Chip.bringupAll; simp only [List.foldl]; (repeat' split) <;> simp
@[simp] theorem Chip.bringupAll_sb (c : Chip) : (c.bringupAll).sb = c.sb := by
 unfold Chip.bringupAll; simp only [List.foldl]; (repeat' split) <;> simp
@[simp] theorem Chip.bringupAll_balls (c : Chip) : (c.bringupAll).balls = c.balls := by
 unfold Chip.bringupAll; simp only [List.foldl]; (repeat' split) <;> simp

@[simp] theorem Chip.fold_dev (c : Chip) : (c.fold).dev = c.dev := (rfl)
@[simp] theorem Chip.fold_regs (c : Chip) : (c.fold).regs = c.regs := (rfl)
@[simp] theorem Chip.fold_led (c : Chip) : (c.fold).led = c.led := (rfl)
@[simp] theorem Chip.fold_epoch (c : Chip) : (c.fold).epoch = c.epoch := (rfl)
@[simp] theorem Chip.fold_staging (c : Chip) : (c.fold).staging = c.staging := (rfl)
@[simp] theorem Chip.fold_cirque (c : Chip) : (c.fold).cirque = c.cirque := (rfl)
@[simp] theorem Chip.fold_counters (c : Chip) : (c.fold).counters = c.counters := (rfl)
@[simp] theorem Chip.fold_frozen (c : Chip) : (c.fold).frozen = c.frozen := (rfl)
@[simp] theorem Chip.fold_cmd (c : Chip) : (c.fold).cmd = c.cmd := (rfl)
@[simp] theorem Chip.fold_ports (c : Chip) : (c.fold).ports = c.ports := (rfl)
@[simp] theorem Chip.fold_failover (c : Chip) : (c.fold).failover = c.failover := (rfl)
@[simp] theorem Chip.fold_notes (c : Chip) : (c.fold).notes = c.notes := (rfl)
@[simp] theorem Chip.fold_notesDue (c : Chip) : (c.fold).notesDue = c.notesDue := (rfl)
@[simp] theorem Chip.fold_gap (c : Chip) : (c.fold).gap = c.gap := (rfl)
@[simp] theorem Chip.fold_snap (c : Chip) : (c.fold).snap = c.snap := (rfl)
@[simp] theorem Chip.fold_mon (c : Chip) : (c.fold).mon = c.mon := (rfl)
@[simp] theorem Chip.fold_tap (c : Chip) : (c.fold).tap = c.tap := (rfl)
@[simp] theorem Chip.fold_flash (c : Chip) : (c.fold).flash = c.flash := (rfl)
@[simp] theorem Chip.fold_tm (c : Chip) : (c.fold).tm = c.tm := (rfl)
@[simp] theorem Chip.fold_align (c : Chip) : (c.fold).align = c.align := (rfl)
@[simp] theorem Chip.fold_free (c : Chip) : (c.fold).free = c.free := (rfl)
@[simp] theorem Chip.fold_mem (c : Chip) : (c.fold).mem = c.mem := (rfl)
@[simp] theorem Chip.fold_images (c : Chip) : (c.fold).images = c.images := (rfl)
@[simp] theorem Chip.fold_sched (c : Chip) : (c.fold).sched = c.sched := (rfl)
@[simp] theorem Chip.fold_groups (c : Chip) : (c.fold).groups = c.groups := (rfl)
@[simp] theorem Chip.fold_mor (c : Chip) : (c.fold).mor = c.mor := (rfl)
@[simp] theorem Chip.fold_tdc (c : Chip) : (c.fold).tdc = c.tdc := (rfl)
@[simp] theorem Chip.fold_adc (c : Chip) : (c.fold).adc = c.adc := (rfl)
@[simp] theorem Chip.fold_cal (c : Chip) : (c.fold).cal = c.cal := (rfl)
@[simp] theorem Chip.fold_crcDma (c : Chip) : (c.fold).crcDma = c.crcDma := (rfl)
@[simp] theorem Chip.fold_sb (c : Chip) : (c.fold).sb = c.sb := (rfl)
@[simp] theorem Chip.fold_balls (c : Chip) : (c.fold).balls = c.balls := (rfl)

@[simp] theorem Chip.setRate_dev (c : Chip) (f p : Int) : (c.setRate f p).dev = c.dev := (rfl)
@[simp] theorem Chip.setRate_led (c : Chip) (f p : Int) : (c.setRate f p).led = c.led := (rfl)
@[simp] theorem Chip.setRate_epoch (c : Chip) (f p : Int) : (c.setRate f p).epoch = c.epoch := (rfl)
@[simp] theorem Chip.setRate_staging (c : Chip) (f p : Int) : (c.setRate f p).staging = c.staging := (rfl)
@[simp] theorem Chip.setRate_cirque (c : Chip) (f p : Int) : (c.setRate f p).cirque = c.cirque := (rfl)
@[simp] theorem Chip.setRate_counters (c : Chip) (f p : Int) : (c.setRate f p).counters = c.counters := (rfl)
@[simp] theorem Chip.setRate_frozen (c : Chip) (f p : Int) : (c.setRate f p).frozen = c.frozen := (rfl)
@[simp] theorem Chip.setRate_cmd (c : Chip) (f p : Int) : (c.setRate f p).cmd = c.cmd := (rfl)
@[simp] theorem Chip.setRate_ports (c : Chip) (f p : Int) : (c.setRate f p).ports = c.ports := (rfl)
@[simp] theorem Chip.setRate_failover (c : Chip) (f p : Int) : (c.setRate f p).failover = c.failover := (rfl)
@[simp] theorem Chip.setRate_notes (c : Chip) (f p : Int) : (c.setRate f p).notes = c.notes := (rfl)
@[simp] theorem Chip.setRate_notesDue (c : Chip) (f p : Int) : (c.setRate f p).notesDue = c.notesDue := (rfl)
@[simp] theorem Chip.setRate_gap (c : Chip) (f p : Int) : (c.setRate f p).gap = c.gap := (rfl)
@[simp] theorem Chip.setRate_snap (c : Chip) (f p : Int) : (c.setRate f p).snap = c.snap := (rfl)
@[simp] theorem Chip.setRate_mon (c : Chip) (f p : Int) : (c.setRate f p).mon = c.mon := (rfl)
@[simp] theorem Chip.setRate_tap (c : Chip) (f p : Int) : (c.setRate f p).tap = c.tap := (rfl)
@[simp] theorem Chip.setRate_flash (c : Chip) (f p : Int) : (c.setRate f p).flash = c.flash := (rfl)
@[simp] theorem Chip.setRate_tm (c : Chip) (f p : Int) : (c.setRate f p).tm = c.tm := (rfl)
@[simp] theorem Chip.setRate_align (c : Chip) (f p : Int) : (c.setRate f p).align = c.align := (rfl)
@[simp] theorem Chip.setRate_free (c : Chip) (f p : Int) : (c.setRate f p).free = c.free := (rfl)
@[simp] theorem Chip.setRate_mem (c : Chip) (f p : Int) : (c.setRate f p).mem = c.mem := (rfl)
@[simp] theorem Chip.setRate_images (c : Chip) (f p : Int) : (c.setRate f p).images = c.images := (rfl)
@[simp] theorem Chip.setRate_sched (c : Chip) (f p : Int) : (c.setRate f p).sched = c.sched := (rfl)
@[simp] theorem Chip.setRate_groups (c : Chip) (f p : Int) : (c.setRate f p).groups = c.groups := (rfl)
@[simp] theorem Chip.setRate_mor (c : Chip) (f p : Int) : (c.setRate f p).mor = c.mor := (rfl)
@[simp] theorem Chip.setRate_tdc (c : Chip) (f p : Int) : (c.setRate f p).tdc = c.tdc := (rfl)
@[simp] theorem Chip.setRate_adc (c : Chip) (f p : Int) : (c.setRate f p).adc = c.adc := (rfl)
@[simp] theorem Chip.setRate_cal (c : Chip) (f p : Int) : (c.setRate f p).cal = c.cal := (rfl)
@[simp] theorem Chip.setRate_crcDma (c : Chip) (f p : Int) : (c.setRate f p).crcDma = c.crcDma := (rfl)
@[simp] theorem Chip.setRate_sb (c : Chip) (f p : Int) : (c.setRate f p).sb = c.sb := (rfl)
@[simp] theorem Chip.setRate_balls (c : Chip) (f p : Int) : (c.setRate f p).balls = c.balls := (rfl)

@[simp] theorem Chip.setUncert_dev (c : Chip) (k : Bool) (n : Nat) : (c.setUncert k n).dev = c.dev := (rfl)
@[simp] theorem Chip.setUncert_led (c : Chip) (k : Bool) (n : Nat) : (c.setUncert k n).led = c.led := (rfl)
@[simp] theorem Chip.setUncert_epoch (c : Chip) (k : Bool) (n : Nat) : (c.setUncert k n).epoch = c.epoch := (rfl)
@[simp] theorem Chip.setUncert_staging (c : Chip) (k : Bool) (n : Nat) : (c.setUncert k n).staging = c.staging := (rfl)
@[simp] theorem Chip.setUncert_cirque (c : Chip) (k : Bool) (n : Nat) : (c.setUncert k n).cirque = c.cirque := (rfl)
@[simp] theorem Chip.setUncert_counters (c : Chip) (k : Bool) (n : Nat) : (c.setUncert k n).counters = c.counters := (rfl)
@[simp] theorem Chip.setUncert_frozen (c : Chip) (k : Bool) (n : Nat) : (c.setUncert k n).frozen = c.frozen := (rfl)
@[simp] theorem Chip.setUncert_cmd (c : Chip) (k : Bool) (n : Nat) : (c.setUncert k n).cmd = c.cmd := (rfl)
@[simp] theorem Chip.setUncert_ports (c : Chip) (k : Bool) (n : Nat) : (c.setUncert k n).ports = c.ports := (rfl)
@[simp] theorem Chip.setUncert_failover (c : Chip) (k : Bool) (n : Nat) : (c.setUncert k n).failover = c.failover := (rfl)
@[simp] theorem Chip.setUncert_notes (c : Chip) (k : Bool) (n : Nat) : (c.setUncert k n).notes = c.notes := (rfl)
@[simp] theorem Chip.setUncert_notesDue (c : Chip) (k : Bool) (n : Nat) : (c.setUncert k n).notesDue = c.notesDue := (rfl)
@[simp] theorem Chip.setUncert_gap (c : Chip) (k : Bool) (n : Nat) : (c.setUncert k n).gap = c.gap := (rfl)
@[simp] theorem Chip.setUncert_snap (c : Chip) (k : Bool) (n : Nat) : (c.setUncert k n).snap = c.snap := (rfl)
@[simp] theorem Chip.setUncert_mon (c : Chip) (k : Bool) (n : Nat) : (c.setUncert k n).mon = c.mon := (rfl)
@[simp] theorem Chip.setUncert_tap (c : Chip) (k : Bool) (n : Nat) : (c.setUncert k n).tap = c.tap := (rfl)
@[simp] theorem Chip.setUncert_flash (c : Chip) (k : Bool) (n : Nat) : (c.setUncert k n).flash = c.flash := (rfl)
@[simp] theorem Chip.setUncert_tm (c : Chip) (k : Bool) (n : Nat) : (c.setUncert k n).tm = c.tm := (rfl)
@[simp] theorem Chip.setUncert_align (c : Chip) (k : Bool) (n : Nat) : (c.setUncert k n).align = c.align := (rfl)
@[simp] theorem Chip.setUncert_time (c : Chip) (k : Bool) (n : Nat) : (c.setUncert k n).time = c.time := (rfl)
@[simp] theorem Chip.setUncert_free (c : Chip) (k : Bool) (n : Nat) : (c.setUncert k n).free = c.free := (rfl)
@[simp] theorem Chip.setUncert_mem (c : Chip) (k : Bool) (n : Nat) : (c.setUncert k n).mem = c.mem := (rfl)
@[simp] theorem Chip.setUncert_images (c : Chip) (k : Bool) (n : Nat) : (c.setUncert k n).images = c.images := (rfl)
@[simp] theorem Chip.setUncert_sched (c : Chip) (k : Bool) (n : Nat) : (c.setUncert k n).sched = c.sched := (rfl)
@[simp] theorem Chip.setUncert_groups (c : Chip) (k : Bool) (n : Nat) : (c.setUncert k n).groups = c.groups := (rfl)
@[simp] theorem Chip.setUncert_mor (c : Chip) (k : Bool) (n : Nat) : (c.setUncert k n).mor = c.mor := (rfl)
@[simp] theorem Chip.setUncert_tdc (c : Chip) (k : Bool) (n : Nat) : (c.setUncert k n).tdc = c.tdc := (rfl)
@[simp] theorem Chip.setUncert_adc (c : Chip) (k : Bool) (n : Nat) : (c.setUncert k n).adc = c.adc := (rfl)
@[simp] theorem Chip.setUncert_cal (c : Chip) (k : Bool) (n : Nat) : (c.setUncert k n).cal = c.cal := (rfl)
@[simp] theorem Chip.setUncert_crcDma (c : Chip) (k : Bool) (n : Nat) : (c.setUncert k n).crcDma = c.crcDma := (rfl)
@[simp] theorem Chip.setUncert_sb (c : Chip) (k : Bool) (n : Nat) : (c.setUncert k n).sb = c.sb := (rfl)
@[simp] theorem Chip.setUncert_balls (c : Chip) (k : Bool) (n : Nat) : (c.setUncert k n).balls = c.balls := (rfl)

@[simp] theorem Chip.servo_dev (c : Chip) (st : Nat) : (c.servo st).dev = c.dev := (rfl)
@[simp] theorem Chip.servo_led (c : Chip) (st : Nat) : (c.servo st).led = c.led := (rfl)
@[simp] theorem Chip.servo_epoch (c : Chip) (st : Nat) : (c.servo st).epoch = c.epoch := (rfl)
@[simp] theorem Chip.servo_staging (c : Chip) (st : Nat) : (c.servo st).staging = c.staging := (rfl)
@[simp] theorem Chip.servo_cirque (c : Chip) (st : Nat) : (c.servo st).cirque = c.cirque := (rfl)
@[simp] theorem Chip.servo_counters (c : Chip) (st : Nat) : (c.servo st).counters = c.counters := (rfl)
@[simp] theorem Chip.servo_frozen (c : Chip) (st : Nat) : (c.servo st).frozen = c.frozen := (rfl)
@[simp] theorem Chip.servo_cmd (c : Chip) (st : Nat) : (c.servo st).cmd = c.cmd := (rfl)
@[simp] theorem Chip.servo_ports (c : Chip) (st : Nat) : (c.servo st).ports = c.ports := (rfl)
@[simp] theorem Chip.servo_failover (c : Chip) (st : Nat) : (c.servo st).failover = c.failover := (rfl)
@[simp] theorem Chip.servo_notes (c : Chip) (st : Nat) : (c.servo st).notes = c.notes := (rfl)
@[simp] theorem Chip.servo_notesDue (c : Chip) (st : Nat) : (c.servo st).notesDue = c.notesDue := (rfl)
@[simp] theorem Chip.servo_gap (c : Chip) (st : Nat) : (c.servo st).gap = c.gap := (rfl)
@[simp] theorem Chip.servo_snap (c : Chip) (st : Nat) : (c.servo st).snap = c.snap := (rfl)
@[simp] theorem Chip.servo_mon (c : Chip) (st : Nat) : (c.servo st).mon = c.mon := (rfl)
@[simp] theorem Chip.servo_tap (c : Chip) (st : Nat) : (c.servo st).tap = c.tap := (rfl)
@[simp] theorem Chip.servo_flash (c : Chip) (st : Nat) : (c.servo st).flash = c.flash := (rfl)
@[simp] theorem Chip.servo_tm (c : Chip) (st : Nat) : (c.servo st).tm = c.tm := (rfl)
@[simp] theorem Chip.servo_align (c : Chip) (st : Nat) : (c.servo st).align = c.align := (rfl)
@[simp] theorem Chip.servo_free (c : Chip) (st : Nat) : (c.servo st).free = c.free := (rfl)
@[simp] theorem Chip.servo_mem (c : Chip) (st : Nat) : (c.servo st).mem = c.mem := (rfl)
@[simp] theorem Chip.servo_images (c : Chip) (st : Nat) : (c.servo st).images = c.images := (rfl)
@[simp] theorem Chip.servo_sched (c : Chip) (st : Nat) : (c.servo st).sched = c.sched := (rfl)
@[simp] theorem Chip.servo_groups (c : Chip) (st : Nat) : (c.servo st).groups = c.groups := (rfl)
@[simp] theorem Chip.servo_mor (c : Chip) (st : Nat) : (c.servo st).mor = c.mor := (rfl)
@[simp] theorem Chip.servo_tdc (c : Chip) (st : Nat) : (c.servo st).tdc = c.tdc := (rfl)
@[simp] theorem Chip.servo_adc (c : Chip) (st : Nat) : (c.servo st).adc = c.adc := (rfl)
@[simp] theorem Chip.servo_cal (c : Chip) (st : Nat) : (c.servo st).cal = c.cal := (rfl)
@[simp] theorem Chip.servo_crcDma (c : Chip) (st : Nat) : (c.servo st).crcDma = c.crcDma := (rfl)
@[simp] theorem Chip.servo_sb (c : Chip) (st : Nat) : (c.servo st).sb = c.sb := (rfl)
@[simp] theorem Chip.servo_balls (c : Chip) (st : Nat) : (c.servo st).balls = c.balls := (rfl)

@[simp] theorem Chip.routeChange_dev (c : Chip) : (c.routeChange).dev = c.dev := by
 unfold Chip.routeChange; simp only; (repeat' split) <;> rfl
@[simp] theorem Chip.routeChange_led (c : Chip) : (c.routeChange).led = c.led := by
 unfold Chip.routeChange; simp only; (repeat' split) <;> rfl
@[simp] theorem Chip.routeChange_epoch (c : Chip) : (c.routeChange).epoch = c.epoch := by
 unfold Chip.routeChange; simp only; (repeat' split) <;> rfl
@[simp] theorem Chip.routeChange_staging (c : Chip) : (c.routeChange).staging = c.staging := by
 unfold Chip.routeChange; simp only; (repeat' split) <;> rfl
@[simp] theorem Chip.routeChange_cirque (c : Chip) : (c.routeChange).cirque = c.cirque := by
 unfold Chip.routeChange; simp only; (repeat' split) <;> rfl
@[simp] theorem Chip.routeChange_counters (c : Chip) : (c.routeChange).counters = c.counters := by
 unfold Chip.routeChange; simp only; (repeat' split) <;> rfl
@[simp] theorem Chip.routeChange_frozen (c : Chip) : (c.routeChange).frozen = c.frozen := by
 unfold Chip.routeChange; simp only; (repeat' split) <;> rfl
@[simp] theorem Chip.routeChange_cmd (c : Chip) : (c.routeChange).cmd = c.cmd := by
 unfold Chip.routeChange; simp only; (repeat' split) <;> rfl
@[simp] theorem Chip.routeChange_ports (c : Chip) : (c.routeChange).ports = c.ports := by
 unfold Chip.routeChange; simp only; (repeat' split) <;> rfl
@[simp] theorem Chip.routeChange_failover (c : Chip) : (c.routeChange).failover = c.failover := by
 unfold Chip.routeChange; simp only; (repeat' split) <;> rfl
@[simp] theorem Chip.routeChange_notes (c : Chip) : (c.routeChange).notes = c.notes := by
 unfold Chip.routeChange; simp only; (repeat' split) <;> rfl
@[simp] theorem Chip.routeChange_notesDue (c : Chip) : (c.routeChange).notesDue = c.notesDue := by
 unfold Chip.routeChange; simp only; (repeat' split) <;> rfl
@[simp] theorem Chip.routeChange_gap (c : Chip) : (c.routeChange).gap = c.gap := by
 unfold Chip.routeChange; simp only; (repeat' split) <;> rfl
@[simp] theorem Chip.routeChange_snap (c : Chip) : (c.routeChange).snap = c.snap := by
 unfold Chip.routeChange; simp only; (repeat' split) <;> rfl
@[simp] theorem Chip.routeChange_mon (c : Chip) : (c.routeChange).mon = c.mon := by
 unfold Chip.routeChange; simp only; (repeat' split) <;> rfl
@[simp] theorem Chip.routeChange_tap (c : Chip) : (c.routeChange).tap = c.tap := by
 unfold Chip.routeChange; simp only; (repeat' split) <;> rfl
@[simp] theorem Chip.routeChange_flash (c : Chip) : (c.routeChange).flash = c.flash := by
 unfold Chip.routeChange; simp only; (repeat' split) <;> rfl
@[simp] theorem Chip.routeChange_tm (c : Chip) : (c.routeChange).tm = c.tm := by
 unfold Chip.routeChange; simp only; (repeat' split) <;> rfl
@[simp] theorem Chip.routeChange_align (c : Chip) : (c.routeChange).align = c.align := by
 unfold Chip.routeChange; simp only; (repeat' split) <;> rfl
@[simp] theorem Chip.routeChange_free (c : Chip) : (c.routeChange).free = c.free := by
 unfold Chip.routeChange; simp only; (repeat' split) <;> rfl
@[simp] theorem Chip.routeChange_mem (c : Chip) : (c.routeChange).mem = c.mem := by
 unfold Chip.routeChange; simp only; (repeat' split) <;> rfl
@[simp] theorem Chip.routeChange_images (c : Chip) : (c.routeChange).images = c.images := by
 unfold Chip.routeChange; simp only; (repeat' split) <;> rfl
@[simp] theorem Chip.routeChange_sched (c : Chip) : (c.routeChange).sched = c.sched := by
 unfold Chip.routeChange; simp only; (repeat' split) <;> rfl
@[simp] theorem Chip.routeChange_groups (c : Chip) : (c.routeChange).groups = c.groups := by
 unfold Chip.routeChange; simp only; (repeat' split) <;> rfl
@[simp] theorem Chip.routeChange_mor (c : Chip) : (c.routeChange).mor = c.mor := by
 unfold Chip.routeChange; simp only; (repeat' split) <;> rfl
@[simp] theorem Chip.routeChange_tdc (c : Chip) : (c.routeChange).tdc = c.tdc := by
 unfold Chip.routeChange; simp only; (repeat' split) <;> rfl
@[simp] theorem Chip.routeChange_adc (c : Chip) : (c.routeChange).adc = c.adc := by
 unfold Chip.routeChange; simp only; (repeat' split) <;> rfl
@[simp] theorem Chip.routeChange_cal (c : Chip) : (c.routeChange).cal = c.cal := by
 unfold Chip.routeChange; simp only; (repeat' split) <;> rfl
@[simp] theorem Chip.routeChange_crcDma (c : Chip) : (c.routeChange).crcDma = c.crcDma := by
 unfold Chip.routeChange; simp only; (repeat' split) <;> rfl
@[simp] theorem Chip.routeChange_sb (c : Chip) : (c.routeChange).sb = c.sb := by
 unfold Chip.routeChange; simp only; (repeat' split) <;> rfl
@[simp] theorem Chip.routeChange_balls (c : Chip) : (c.routeChange).balls = c.balls := by
 unfold Chip.routeChange; simp only; (repeat' split) <;> rfl

@[simp] theorem Chip.timePort_dev (c : Chip) : (c.timePort).dev = c.dev := by
 unfold Chip.timePort; simp only; split <;> simp
@[simp] theorem Chip.timePort_led (c : Chip) : (c.timePort).led = c.led := by
 unfold Chip.timePort; simp only; split <;> simp
@[simp] theorem Chip.timePort_epoch (c : Chip) : (c.timePort).epoch = c.epoch := by
 unfold Chip.timePort; simp only; split <;> simp
@[simp] theorem Chip.timePort_staging (c : Chip) : (c.timePort).staging = c.staging := by
 unfold Chip.timePort; simp only; split <;> simp
@[simp] theorem Chip.timePort_cirque (c : Chip) : (c.timePort).cirque = c.cirque := by
 unfold Chip.timePort; simp only; split <;> simp
@[simp] theorem Chip.timePort_counters (c : Chip) : (c.timePort).counters = c.counters := by
 unfold Chip.timePort; simp only; split <;> simp
@[simp] theorem Chip.timePort_frozen (c : Chip) : (c.timePort).frozen = c.frozen := by
 unfold Chip.timePort; simp only; split <;> simp
@[simp] theorem Chip.timePort_cmd (c : Chip) : (c.timePort).cmd = c.cmd := by
 unfold Chip.timePort; simp only; split <;> simp
@[simp] theorem Chip.timePort_ports (c : Chip) : (c.timePort).ports = c.ports := by
 unfold Chip.timePort; simp only; split <;> simp
@[simp] theorem Chip.timePort_failover (c : Chip) : (c.timePort).failover = c.failover := by
 unfold Chip.timePort; simp only; split <;> simp
@[simp] theorem Chip.timePort_notes (c : Chip) : (c.timePort).notes = c.notes := by
 unfold Chip.timePort; simp only; split <;> simp
@[simp] theorem Chip.timePort_notesDue (c : Chip) : (c.timePort).notesDue = c.notesDue := by
 unfold Chip.timePort; simp only; split <;> simp
@[simp] theorem Chip.timePort_gap (c : Chip) : (c.timePort).gap = c.gap := by
 unfold Chip.timePort; simp only; split <;> simp
@[simp] theorem Chip.timePort_snap (c : Chip) : (c.timePort).snap = c.snap := by
 unfold Chip.timePort; simp only; split <;> simp
@[simp] theorem Chip.timePort_mon (c : Chip) : (c.timePort).mon = c.mon := by
 unfold Chip.timePort; simp only; split <;> simp
@[simp] theorem Chip.timePort_tap (c : Chip) : (c.timePort).tap = c.tap := by
 unfold Chip.timePort; simp only; split <;> simp
@[simp] theorem Chip.timePort_flash (c : Chip) : (c.timePort).flash = c.flash := by
 unfold Chip.timePort; simp only; split <;> simp
@[simp] theorem Chip.timePort_tm (c : Chip) : (c.timePort).tm = c.tm := by
 unfold Chip.timePort; simp only; split <;> simp
@[simp] theorem Chip.timePort_align (c : Chip) : (c.timePort).align = c.align := by
 unfold Chip.timePort; simp only; split <;> simp
@[simp] theorem Chip.timePort_free (c : Chip) : (c.timePort).free = c.free := by
 unfold Chip.timePort; simp only; split <;> simp
@[simp] theorem Chip.timePort_mem (c : Chip) : (c.timePort).mem = c.mem := by
 unfold Chip.timePort; simp only; split <;> simp
@[simp] theorem Chip.timePort_images (c : Chip) : (c.timePort).images = c.images := by
 unfold Chip.timePort; simp only; split <;> simp
@[simp] theorem Chip.timePort_sched (c : Chip) : (c.timePort).sched = c.sched := by
 unfold Chip.timePort; simp only; split <;> simp
@[simp] theorem Chip.timePort_groups (c : Chip) : (c.timePort).groups = c.groups := by
 unfold Chip.timePort; simp only; split <;> simp
@[simp] theorem Chip.timePort_mor (c : Chip) : (c.timePort).mor = c.mor := by
 unfold Chip.timePort; simp only; split <;> simp
@[simp] theorem Chip.timePort_tdc (c : Chip) : (c.timePort).tdc = c.tdc := by
 unfold Chip.timePort; simp only; split <;> simp
@[simp] theorem Chip.timePort_adc (c : Chip) : (c.timePort).adc = c.adc := by
 unfold Chip.timePort; simp only; split <;> simp
@[simp] theorem Chip.timePort_cal (c : Chip) : (c.timePort).cal = c.cal := by
 unfold Chip.timePort; simp only; split <;> simp
@[simp] theorem Chip.timePort_crcDma (c : Chip) : (c.timePort).crcDma = c.crcDma := by
 unfold Chip.timePort; simp only; split <;> simp
@[simp] theorem Chip.timePort_sb (c : Chip) : (c.timePort).sb = c.sb := by
 unfold Chip.timePort; simp only; split <;> simp
@[simp] theorem Chip.timePort_balls (c : Chip) : (c.timePort).balls = c.balls := by
 unfold Chip.timePort; simp only; split <;> simp

@[simp] theorem Chip.rehome_dev (c : Chip) (q : Nat) : (c.rehome q).dev = c.dev := by
 unfold Chip.rehome; simp only; split <;> rfl
@[simp] theorem Chip.rehome_regs (c : Chip) (q : Nat) : (c.rehome q).regs = c.regs := by
 unfold Chip.rehome; simp only; split <;> rfl
@[simp] theorem Chip.rehome_led (c : Chip) (q : Nat) : (c.rehome q).led = c.led := by
 unfold Chip.rehome; simp only; split <;> rfl
@[simp] theorem Chip.rehome_epoch (c : Chip) (q : Nat) : (c.rehome q).epoch = c.epoch := by
 unfold Chip.rehome; simp only; split <;> rfl
@[simp] theorem Chip.rehome_staging (c : Chip) (q : Nat) : (c.rehome q).staging = c.staging := by
 unfold Chip.rehome; simp only; split <;> rfl
@[simp] theorem Chip.rehome_cirque (c : Chip) (q : Nat) : (c.rehome q).cirque = c.cirque := by
 unfold Chip.rehome; simp only; split <;> rfl
@[simp] theorem Chip.rehome_counters (c : Chip) (q : Nat) : (c.rehome q).counters = c.counters := by
 unfold Chip.rehome; simp only; split <;> rfl
@[simp] theorem Chip.rehome_frozen (c : Chip) (q : Nat) : (c.rehome q).frozen = c.frozen := by
 unfold Chip.rehome; simp only; split <;> rfl
@[simp] theorem Chip.rehome_cmd (c : Chip) (q : Nat) : (c.rehome q).cmd = c.cmd := by
 unfold Chip.rehome; simp only; split <;> rfl
@[simp] theorem Chip.rehome_failover (c : Chip) (q : Nat) : (c.rehome q).failover = c.failover := by
 unfold Chip.rehome; simp only; split <;> rfl
@[simp] theorem Chip.rehome_notes (c : Chip) (q : Nat) : (c.rehome q).notes = c.notes := by
 unfold Chip.rehome; simp only; split <;> rfl
@[simp] theorem Chip.rehome_notesDue (c : Chip) (q : Nat) : (c.rehome q).notesDue = c.notesDue := by
 unfold Chip.rehome; simp only; split <;> rfl
@[simp] theorem Chip.rehome_gap (c : Chip) (q : Nat) : (c.rehome q).gap = c.gap := by
 unfold Chip.rehome; simp only; split <;> rfl
@[simp] theorem Chip.rehome_snap (c : Chip) (q : Nat) : (c.rehome q).snap = c.snap := by
 unfold Chip.rehome; simp only; split <;> rfl
@[simp] theorem Chip.rehome_mon (c : Chip) (q : Nat) : (c.rehome q).mon = c.mon := by
 unfold Chip.rehome; simp only; split <;> rfl
@[simp] theorem Chip.rehome_tap (c : Chip) (q : Nat) : (c.rehome q).tap = c.tap := by
 unfold Chip.rehome; simp only; split <;> rfl
@[simp] theorem Chip.rehome_flash (c : Chip) (q : Nat) : (c.rehome q).flash = c.flash := by
 unfold Chip.rehome; simp only; split <;> rfl
@[simp] theorem Chip.rehome_tm (c : Chip) (q : Nat) : (c.rehome q).tm = c.tm := by
 unfold Chip.rehome; simp only; split <;> rfl
@[simp] theorem Chip.rehome_align (c : Chip) (q : Nat) : (c.rehome q).align = c.align := by
 unfold Chip.rehome; simp only; split <;> rfl
@[simp] theorem Chip.rehome_time (c : Chip) (q : Nat) : (c.rehome q).time = c.time := by
 unfold Chip.rehome; simp only; split <;> rfl
@[simp] theorem Chip.rehome_free (c : Chip) (q : Nat) : (c.rehome q).free = c.free := by
 unfold Chip.rehome; simp only; split <;> rfl
@[simp] theorem Chip.rehome_mem (c : Chip) (q : Nat) : (c.rehome q).mem = c.mem := by
 unfold Chip.rehome; simp only; split <;> rfl
@[simp] theorem Chip.rehome_images (c : Chip) (q : Nat) : (c.rehome q).images = c.images := by
 unfold Chip.rehome; simp only; split <;> rfl
@[simp] theorem Chip.rehome_sched (c : Chip) (q : Nat) : (c.rehome q).sched = c.sched := by
 unfold Chip.rehome; simp only; split <;> rfl
@[simp] theorem Chip.rehome_groups (c : Chip) (q : Nat) : (c.rehome q).groups = c.groups := by
 unfold Chip.rehome; simp only; split <;> rfl
@[simp] theorem Chip.rehome_mor (c : Chip) (q : Nat) : (c.rehome q).mor = c.mor := by
 unfold Chip.rehome; simp only; split <;> rfl
@[simp] theorem Chip.rehome_tdc (c : Chip) (q : Nat) : (c.rehome q).tdc = c.tdc := by
 unfold Chip.rehome; simp only; split <;> rfl
@[simp] theorem Chip.rehome_adc (c : Chip) (q : Nat) : (c.rehome q).adc = c.adc := by
 unfold Chip.rehome; simp only; split <;> rfl
@[simp] theorem Chip.rehome_cal (c : Chip) (q : Nat) : (c.rehome q).cal = c.cal := by
 unfold Chip.rehome; simp only; split <;> rfl
@[simp] theorem Chip.rehome_crcDma (c : Chip) (q : Nat) : (c.rehome q).crcDma = c.crcDma := by
 unfold Chip.rehome; simp only; split <;> rfl
@[simp] theorem Chip.rehome_sb (c : Chip) (q : Nat) : (c.rehome q).sb = c.sb := by
 unfold Chip.rehome; simp only; split <;> rfl
@[simp] theorem Chip.rehome_balls (c : Chip) (q : Nat) : (c.rehome q).balls = c.balls := by
 unfold Chip.rehome; simp only; split <;> rfl

@[simp] theorem Chip.rehomeAll_dev (c : Chip) : (c.rehomeAll).dev = c.dev := by
 simp [Chip.rehomeAll]
@[simp] theorem Chip.rehomeAll_led (c : Chip) : (c.rehomeAll).led = c.led := by
 simp [Chip.rehomeAll]
@[simp] theorem Chip.rehomeAll_epoch (c : Chip) : (c.rehomeAll).epoch = c.epoch := by
 simp [Chip.rehomeAll]
@[simp] theorem Chip.rehomeAll_staging (c : Chip) : (c.rehomeAll).staging = c.staging := by
 simp [Chip.rehomeAll]
@[simp] theorem Chip.rehomeAll_cirque (c : Chip) : (c.rehomeAll).cirque = c.cirque := by
 simp [Chip.rehomeAll]
@[simp] theorem Chip.rehomeAll_counters (c : Chip) : (c.rehomeAll).counters = c.counters := by
 simp [Chip.rehomeAll]
@[simp] theorem Chip.rehomeAll_frozen (c : Chip) : (c.rehomeAll).frozen = c.frozen := by
 simp [Chip.rehomeAll]
@[simp] theorem Chip.rehomeAll_cmd (c : Chip) : (c.rehomeAll).cmd = c.cmd := by
 simp [Chip.rehomeAll]
@[simp] theorem Chip.rehomeAll_failover (c : Chip) : (c.rehomeAll).failover = c.failover := by
 simp [Chip.rehomeAll]
@[simp] theorem Chip.rehomeAll_notes (c : Chip) : (c.rehomeAll).notes = c.notes := by
 simp [Chip.rehomeAll]
@[simp] theorem Chip.rehomeAll_notesDue (c : Chip) : (c.rehomeAll).notesDue = c.notesDue := by
 simp [Chip.rehomeAll]
@[simp] theorem Chip.rehomeAll_gap (c : Chip) : (c.rehomeAll).gap = c.gap := by
 simp [Chip.rehomeAll]
@[simp] theorem Chip.rehomeAll_snap (c : Chip) : (c.rehomeAll).snap = c.snap := by
 simp [Chip.rehomeAll]
@[simp] theorem Chip.rehomeAll_mon (c : Chip) : (c.rehomeAll).mon = c.mon := by
 simp [Chip.rehomeAll]
@[simp] theorem Chip.rehomeAll_tap (c : Chip) : (c.rehomeAll).tap = c.tap := by
 simp [Chip.rehomeAll]
@[simp] theorem Chip.rehomeAll_flash (c : Chip) : (c.rehomeAll).flash = c.flash := by
 simp [Chip.rehomeAll]
@[simp] theorem Chip.rehomeAll_tm (c : Chip) : (c.rehomeAll).tm = c.tm := by
 simp [Chip.rehomeAll]
@[simp] theorem Chip.rehomeAll_align (c : Chip) : (c.rehomeAll).align = c.align := by
 simp [Chip.rehomeAll]
@[simp] theorem Chip.rehomeAll_free (c : Chip) : (c.rehomeAll).free = c.free := by
 simp [Chip.rehomeAll]
@[simp] theorem Chip.rehomeAll_mem (c : Chip) : (c.rehomeAll).mem = c.mem := by
 simp [Chip.rehomeAll]
@[simp] theorem Chip.rehomeAll_images (c : Chip) : (c.rehomeAll).images = c.images := by
 simp [Chip.rehomeAll]
@[simp] theorem Chip.rehomeAll_sched (c : Chip) : (c.rehomeAll).sched = c.sched := by
 simp [Chip.rehomeAll]
@[simp] theorem Chip.rehomeAll_groups (c : Chip) : (c.rehomeAll).groups = c.groups := by
 simp [Chip.rehomeAll]
@[simp] theorem Chip.rehomeAll_mor (c : Chip) : (c.rehomeAll).mor = c.mor := by
 simp [Chip.rehomeAll]
@[simp] theorem Chip.rehomeAll_tdc (c : Chip) : (c.rehomeAll).tdc = c.tdc := by
 simp [Chip.rehomeAll]
@[simp] theorem Chip.rehomeAll_adc (c : Chip) : (c.rehomeAll).adc = c.adc := by
 simp [Chip.rehomeAll]
@[simp] theorem Chip.rehomeAll_cal (c : Chip) : (c.rehomeAll).cal = c.cal := by
 simp [Chip.rehomeAll]
@[simp] theorem Chip.rehomeAll_crcDma (c : Chip) : (c.rehomeAll).crcDma = c.crcDma := by
 simp [Chip.rehomeAll]
@[simp] theorem Chip.rehomeAll_sb (c : Chip) : (c.rehomeAll).sb = c.sb := by
 simp [Chip.rehomeAll]
@[simp] theorem Chip.rehomeAll_balls (c : Chip) : (c.rehomeAll).balls = c.balls := by
 simp [Chip.rehomeAll]

@[simp] theorem Chip.portOff_dev (c : Chip) (q k : Nat) : (c.portOff q k).dev = c.dev := by
 simp [Chip.portOff]
@[simp] theorem Chip.portOff_epoch (c : Chip) (q k : Nat) : (c.portOff q k).epoch = c.epoch := by
 simp [Chip.portOff]
@[simp] theorem Chip.portOff_staging (c : Chip) (q k : Nat) : (c.portOff q k).staging = c.staging := by
 simp [Chip.portOff]
@[simp] theorem Chip.portOff_frozen (c : Chip) (q k : Nat) : (c.portOff q k).frozen = c.frozen := by
 simp [Chip.portOff]
@[simp] theorem Chip.portOff_cmd (c : Chip) (q k : Nat) : (c.portOff q k).cmd = c.cmd := by
 simp [Chip.portOff]
@[simp] theorem Chip.portOff_failover (c : Chip) (q k : Nat) : (c.portOff q k).failover = c.failover := by
 simp [Chip.portOff]
@[simp] theorem Chip.portOff_notes (c : Chip) (q k : Nat) : (c.portOff q k).notes = c.notes := by
 simp [Chip.portOff]
@[simp] theorem Chip.portOff_notesDue (c : Chip) (q k : Nat) : (c.portOff q k).notesDue = c.notesDue := by
 simp [Chip.portOff]
@[simp] theorem Chip.portOff_gap (c : Chip) (q k : Nat) : (c.portOff q k).gap = c.gap := by
 simp [Chip.portOff]
@[simp] theorem Chip.portOff_snap (c : Chip) (q k : Nat) : (c.portOff q k).snap = c.snap := by
 simp [Chip.portOff]
@[simp] theorem Chip.portOff_mon (c : Chip) (q k : Nat) : (c.portOff q k).mon = c.mon := by
 simp [Chip.portOff]
@[simp] theorem Chip.portOff_tap (c : Chip) (q k : Nat) : (c.portOff q k).tap = c.tap := by
 simp [Chip.portOff]
@[simp] theorem Chip.portOff_flash (c : Chip) (q k : Nat) : (c.portOff q k).flash = c.flash := by
 simp [Chip.portOff]
@[simp] theorem Chip.portOff_tm (c : Chip) (q k : Nat) : (c.portOff q k).tm = c.tm := by
 simp [Chip.portOff]
@[simp] theorem Chip.portOff_align (c : Chip) (q k : Nat) : (c.portOff q k).align = c.align := by
 simp [Chip.portOff]
@[simp] theorem Chip.portOff_free (c : Chip) (q k : Nat) : (c.portOff q k).free = c.free := by
 simp [Chip.portOff]
@[simp] theorem Chip.portOff_mem (c : Chip) (q k : Nat) : (c.portOff q k).mem = c.mem := by
 simp [Chip.portOff]
@[simp] theorem Chip.portOff_images (c : Chip) (q k : Nat) : (c.portOff q k).images = c.images := by
 simp [Chip.portOff]
@[simp] theorem Chip.portOff_sched (c : Chip) (q k : Nat) : (c.portOff q k).sched = c.sched := by
 simp [Chip.portOff]
@[simp] theorem Chip.portOff_groups (c : Chip) (q k : Nat) : (c.portOff q k).groups = c.groups := by
 simp [Chip.portOff]
@[simp] theorem Chip.portOff_mor (c : Chip) (q k : Nat) : (c.portOff q k).mor = c.mor := by
 simp [Chip.portOff]
@[simp] theorem Chip.portOff_tdc (c : Chip) (q k : Nat) : (c.portOff q k).tdc = c.tdc := by
 simp [Chip.portOff]
@[simp] theorem Chip.portOff_adc (c : Chip) (q k : Nat) : (c.portOff q k).adc = c.adc := by
 simp [Chip.portOff]
@[simp] theorem Chip.portOff_cal (c : Chip) (q k : Nat) : (c.portOff q k).cal = c.cal := by
 simp [Chip.portOff]
@[simp] theorem Chip.portOff_crcDma (c : Chip) (q k : Nat) : (c.portOff q k).crcDma = c.crcDma := by
 simp [Chip.portOff]
@[simp] theorem Chip.portOff_sb (c : Chip) (q k : Nat) : (c.portOff q k).sb = c.sb := by
 simp [Chip.portOff]
@[simp] theorem Chip.portOff_balls (c : Chip) (q k : Nat) : (c.portOff q k).balls = c.balls := by
 simp [Chip.portOff]

/-- The NOTIFY frames that are ready take their places among a port's ready frames; nothing else changes (R315, R317). -/
theorem Chip.notifyFrames_shape (n : Nat) : ∀ c : Chip, ∃ p, c.notifyFrames n = { c with ports := p } := by
  induction n with
  | zero => intro c; exact ⟨c.ports, rfl⟩
  | succ n ih =>
    intro c
    unfold Chip.notifyFrames
    split
    · obtain ⟨p, h⟩ := ih (c.enqueue c.notifyPort noteSlot)
      exact ⟨p, h⟩
    · exact ⟨c.ports, rfl⟩

@[simp] theorem Chip.notifyFrames_dev (c : Chip) (n : Nat) : (c.notifyFrames n).dev = c.dev := by
 obtain ⟨p, h⟩ := Chip.notifyFrames_shape n c; rw [h]
@[simp] theorem Chip.notifyFrames_regs (c : Chip) (n : Nat) : (c.notifyFrames n).regs = c.regs := by
 obtain ⟨p, h⟩ := Chip.notifyFrames_shape n c; rw [h]
@[simp] theorem Chip.notifyFrames_led (c : Chip) (n : Nat) : (c.notifyFrames n).led = c.led := by
 obtain ⟨p, h⟩ := Chip.notifyFrames_shape n c; rw [h]
@[simp] theorem Chip.notifyFrames_epoch (c : Chip) (n : Nat) : (c.notifyFrames n).epoch = c.epoch := by
 obtain ⟨p, h⟩ := Chip.notifyFrames_shape n c; rw [h]
@[simp] theorem Chip.notifyFrames_staging (c : Chip) (n : Nat) : (c.notifyFrames n).staging = c.staging := by
 obtain ⟨p, h⟩ := Chip.notifyFrames_shape n c; rw [h]
@[simp] theorem Chip.notifyFrames_cirque (c : Chip) (n : Nat) : (c.notifyFrames n).cirque = c.cirque := by
 obtain ⟨p, h⟩ := Chip.notifyFrames_shape n c; rw [h]
@[simp] theorem Chip.notifyFrames_counters (c : Chip) (n : Nat) : (c.notifyFrames n).counters = c.counters := by
 obtain ⟨p, h⟩ := Chip.notifyFrames_shape n c; rw [h]
@[simp] theorem Chip.notifyFrames_frozen (c : Chip) (n : Nat) : (c.notifyFrames n).frozen = c.frozen := by
 obtain ⟨p, h⟩ := Chip.notifyFrames_shape n c; rw [h]
@[simp] theorem Chip.notifyFrames_cmd (c : Chip) (n : Nat) : (c.notifyFrames n).cmd = c.cmd := by
 obtain ⟨p, h⟩ := Chip.notifyFrames_shape n c; rw [h]
@[simp] theorem Chip.notifyFrames_failover (c : Chip) (n : Nat) : (c.notifyFrames n).failover = c.failover := by
 obtain ⟨p, h⟩ := Chip.notifyFrames_shape n c; rw [h]
@[simp] theorem Chip.notifyFrames_notes (c : Chip) (n : Nat) : (c.notifyFrames n).notes = c.notes := by
 obtain ⟨p, h⟩ := Chip.notifyFrames_shape n c; rw [h]
@[simp] theorem Chip.notifyFrames_notesDue (c : Chip) (n : Nat) : (c.notifyFrames n).notesDue = c.notesDue := by
 obtain ⟨p, h⟩ := Chip.notifyFrames_shape n c; rw [h]
@[simp] theorem Chip.notifyFrames_gap (c : Chip) (n : Nat) : (c.notifyFrames n).gap = c.gap := by
 obtain ⟨p, h⟩ := Chip.notifyFrames_shape n c; rw [h]
@[simp] theorem Chip.notifyFrames_snap (c : Chip) (n : Nat) : (c.notifyFrames n).snap = c.snap := by
 obtain ⟨p, h⟩ := Chip.notifyFrames_shape n c; rw [h]
@[simp] theorem Chip.notifyFrames_mon (c : Chip) (n : Nat) : (c.notifyFrames n).mon = c.mon := by
 obtain ⟨p, h⟩ := Chip.notifyFrames_shape n c; rw [h]
@[simp] theorem Chip.notifyFrames_tap (c : Chip) (n : Nat) : (c.notifyFrames n).tap = c.tap := by
 obtain ⟨p, h⟩ := Chip.notifyFrames_shape n c; rw [h]
@[simp] theorem Chip.notifyFrames_flash (c : Chip) (n : Nat) : (c.notifyFrames n).flash = c.flash := by
 obtain ⟨p, h⟩ := Chip.notifyFrames_shape n c; rw [h]
@[simp] theorem Chip.notifyFrames_tm (c : Chip) (n : Nat) : (c.notifyFrames n).tm = c.tm := by
 obtain ⟨p, h⟩ := Chip.notifyFrames_shape n c; rw [h]
@[simp] theorem Chip.notifyFrames_align (c : Chip) (n : Nat) : (c.notifyFrames n).align = c.align := by
 obtain ⟨p, h⟩ := Chip.notifyFrames_shape n c; rw [h]
@[simp] theorem Chip.notifyFrames_time (c : Chip) (n : Nat) : (c.notifyFrames n).time = c.time := by
 obtain ⟨p, h⟩ := Chip.notifyFrames_shape n c; rw [h]
@[simp] theorem Chip.notifyFrames_free (c : Chip) (n : Nat) : (c.notifyFrames n).free = c.free := by
 obtain ⟨p, h⟩ := Chip.notifyFrames_shape n c; rw [h]
@[simp] theorem Chip.notifyFrames_mem (c : Chip) (n : Nat) : (c.notifyFrames n).mem = c.mem := by
 obtain ⟨p, h⟩ := Chip.notifyFrames_shape n c; rw [h]
@[simp] theorem Chip.notifyFrames_images (c : Chip) (n : Nat) : (c.notifyFrames n).images = c.images := by
 obtain ⟨p, h⟩ := Chip.notifyFrames_shape n c; rw [h]
@[simp] theorem Chip.notifyFrames_sched (c : Chip) (n : Nat) : (c.notifyFrames n).sched = c.sched := by
 obtain ⟨p, h⟩ := Chip.notifyFrames_shape n c; rw [h]
@[simp] theorem Chip.notifyFrames_groups (c : Chip) (n : Nat) : (c.notifyFrames n).groups = c.groups := by
 obtain ⟨p, h⟩ := Chip.notifyFrames_shape n c; rw [h]
@[simp] theorem Chip.notifyFrames_mor (c : Chip) (n : Nat) : (c.notifyFrames n).mor = c.mor := by
 obtain ⟨p, h⟩ := Chip.notifyFrames_shape n c; rw [h]
@[simp] theorem Chip.notifyFrames_tdc (c : Chip) (n : Nat) : (c.notifyFrames n).tdc = c.tdc := by
 obtain ⟨p, h⟩ := Chip.notifyFrames_shape n c; rw [h]
@[simp] theorem Chip.notifyFrames_adc (c : Chip) (n : Nat) : (c.notifyFrames n).adc = c.adc := by
 obtain ⟨p, h⟩ := Chip.notifyFrames_shape n c; rw [h]
@[simp] theorem Chip.notifyFrames_cal (c : Chip) (n : Nat) : (c.notifyFrames n).cal = c.cal := by
 obtain ⟨p, h⟩ := Chip.notifyFrames_shape n c; rw [h]
@[simp] theorem Chip.notifyFrames_crcDma (c : Chip) (n : Nat) : (c.notifyFrames n).crcDma = c.crcDma := by
 obtain ⟨p, h⟩ := Chip.notifyFrames_shape n c; rw [h]
@[simp] theorem Chip.notifyFrames_sb (c : Chip) (n : Nat) : (c.notifyFrames n).sb = c.sb := by
 obtain ⟨p, h⟩ := Chip.notifyFrames_shape n c; rw [h]
@[simp] theorem Chip.notifyFrames_balls (c : Chip) (n : Nat) : (c.notifyFrames n).balls = c.balls := by
 obtain ⟨p, h⟩ := Chip.notifyFrames_shape n c; rw [h]

@[simp] theorem Chip.makeNotify_dev (c : Chip) : (c.makeNotify).dev = c.dev := by
 simp [Chip.makeNotify]
@[simp] theorem Chip.makeNotify_regs (c : Chip) : (c.makeNotify).regs = c.regs := by
 simp [Chip.makeNotify]
@[simp] theorem Chip.makeNotify_led (c : Chip) : (c.makeNotify).led = c.led := by
 simp [Chip.makeNotify]
@[simp] theorem Chip.makeNotify_epoch (c : Chip) : (c.makeNotify).epoch = c.epoch := by
 simp [Chip.makeNotify]
@[simp] theorem Chip.makeNotify_staging (c : Chip) : (c.makeNotify).staging = c.staging := by
 simp [Chip.makeNotify]
@[simp] theorem Chip.makeNotify_cirque (c : Chip) : (c.makeNotify).cirque = c.cirque := by
 simp [Chip.makeNotify]
@[simp] theorem Chip.makeNotify_counters (c : Chip) : (c.makeNotify).counters = c.counters := by
 simp [Chip.makeNotify]
@[simp] theorem Chip.makeNotify_frozen (c : Chip) : (c.makeNotify).frozen = c.frozen := by
 simp [Chip.makeNotify]
@[simp] theorem Chip.makeNotify_cmd (c : Chip) : (c.makeNotify).cmd = c.cmd := by
 simp [Chip.makeNotify]
@[simp] theorem Chip.makeNotify_failover (c : Chip) : (c.makeNotify).failover = c.failover := by
 simp [Chip.makeNotify]
@[simp] theorem Chip.makeNotify_notes (c : Chip) : (c.makeNotify).notes = c.notes := by
 simp [Chip.makeNotify]
@[simp] theorem Chip.makeNotify_notesDue (c : Chip) : (c.makeNotify).notesDue = c.notesDue := by
 simp [Chip.makeNotify]
@[simp] theorem Chip.makeNotify_gap (c : Chip) : (c.makeNotify).gap = c.gap := by
 simp [Chip.makeNotify]
@[simp] theorem Chip.makeNotify_snap (c : Chip) : (c.makeNotify).snap = c.snap := by
 simp [Chip.makeNotify]
@[simp] theorem Chip.makeNotify_mon (c : Chip) : (c.makeNotify).mon = c.mon := by
 simp [Chip.makeNotify]
@[simp] theorem Chip.makeNotify_tap (c : Chip) : (c.makeNotify).tap = c.tap := by
 simp [Chip.makeNotify]
@[simp] theorem Chip.makeNotify_flash (c : Chip) : (c.makeNotify).flash = c.flash := by
 simp [Chip.makeNotify]
@[simp] theorem Chip.makeNotify_tm (c : Chip) : (c.makeNotify).tm = c.tm := by
 simp [Chip.makeNotify]
@[simp] theorem Chip.makeNotify_align (c : Chip) : (c.makeNotify).align = c.align := by
 simp [Chip.makeNotify]
@[simp] theorem Chip.makeNotify_time (c : Chip) : (c.makeNotify).time = c.time := by
 simp [Chip.makeNotify]
@[simp] theorem Chip.makeNotify_free (c : Chip) : (c.makeNotify).free = c.free := by
 simp [Chip.makeNotify]
@[simp] theorem Chip.makeNotify_mem (c : Chip) : (c.makeNotify).mem = c.mem := by
 simp [Chip.makeNotify]
@[simp] theorem Chip.makeNotify_images (c : Chip) : (c.makeNotify).images = c.images := by
 simp [Chip.makeNotify]
@[simp] theorem Chip.makeNotify_sched (c : Chip) : (c.makeNotify).sched = c.sched := by
 simp [Chip.makeNotify]
@[simp] theorem Chip.makeNotify_groups (c : Chip) : (c.makeNotify).groups = c.groups := by
 simp [Chip.makeNotify]
@[simp] theorem Chip.makeNotify_mor (c : Chip) : (c.makeNotify).mor = c.mor := by
 simp [Chip.makeNotify]
@[simp] theorem Chip.makeNotify_tdc (c : Chip) : (c.makeNotify).tdc = c.tdc := by
 simp [Chip.makeNotify]
@[simp] theorem Chip.makeNotify_adc (c : Chip) : (c.makeNotify).adc = c.adc := by
 simp [Chip.makeNotify]
@[simp] theorem Chip.makeNotify_cal (c : Chip) : (c.makeNotify).cal = c.cal := by
 simp [Chip.makeNotify]
@[simp] theorem Chip.makeNotify_crcDma (c : Chip) : (c.makeNotify).crcDma = c.crcDma := by
 simp [Chip.makeNotify]
@[simp] theorem Chip.makeNotify_sb (c : Chip) : (c.makeNotify).sb = c.sb := by
 simp [Chip.makeNotify]
@[simp] theorem Chip.makeNotify_balls (c : Chip) : (c.makeNotify).balls = c.balls := by
 simp [Chip.makeNotify]

@[simp] theorem Chip.failOver_dev (c : Chip) (q : Nat) (p : PortLink) : (c.failOver q p).dev = c.dev := by
 simp [Chip.failOver]
@[simp] theorem Chip.failOver_regs (c : Chip) (q : Nat) (p : PortLink) : (c.failOver q p).regs = c.regs := by
 simp [Chip.failOver]
@[simp] theorem Chip.failOver_led (c : Chip) (q : Nat) (p : PortLink) : (c.failOver q p).led = c.led := by
 simp [Chip.failOver]
@[simp] theorem Chip.failOver_epoch (c : Chip) (q : Nat) (p : PortLink) : (c.failOver q p).epoch = c.epoch := by
 simp [Chip.failOver]
@[simp] theorem Chip.failOver_staging (c : Chip) (q : Nat) (p : PortLink) : (c.failOver q p).staging = c.staging := by
 simp [Chip.failOver]
@[simp] theorem Chip.failOver_cirque (c : Chip) (q : Nat) (p : PortLink) : (c.failOver q p).cirque = c.cirque := by
 simp [Chip.failOver]
@[simp] theorem Chip.failOver_counters (c : Chip) (q : Nat) (p : PortLink) : (c.failOver q p).counters = c.counters := by
 simp [Chip.failOver]
@[simp] theorem Chip.failOver_frozen (c : Chip) (q : Nat) (p : PortLink) : (c.failOver q p).frozen = c.frozen := by
 simp [Chip.failOver]
@[simp] theorem Chip.failOver_cmd (c : Chip) (q : Nat) (p : PortLink) : (c.failOver q p).cmd = c.cmd := by
 simp [Chip.failOver]
@[simp] theorem Chip.failOver_notes (c : Chip) (q : Nat) (p : PortLink) : (c.failOver q p).notes = c.notes := by
 simp [Chip.failOver]
@[simp] theorem Chip.failOver_notesDue (c : Chip) (q : Nat) (p : PortLink) : (c.failOver q p).notesDue = c.notesDue := by
 simp [Chip.failOver]
@[simp] theorem Chip.failOver_gap (c : Chip) (q : Nat) (p : PortLink) : (c.failOver q p).gap = c.gap := by
 simp [Chip.failOver]
@[simp] theorem Chip.failOver_snap (c : Chip) (q : Nat) (p : PortLink) : (c.failOver q p).snap = c.snap := by
 simp [Chip.failOver]
@[simp] theorem Chip.failOver_mon (c : Chip) (q : Nat) (p : PortLink) : (c.failOver q p).mon = c.mon := by
 simp [Chip.failOver]
@[simp] theorem Chip.failOver_tap (c : Chip) (q : Nat) (p : PortLink) : (c.failOver q p).tap = c.tap := by
 simp [Chip.failOver]
@[simp] theorem Chip.failOver_flash (c : Chip) (q : Nat) (p : PortLink) : (c.failOver q p).flash = c.flash := by
 simp [Chip.failOver]
@[simp] theorem Chip.failOver_tm (c : Chip) (q : Nat) (p : PortLink) : (c.failOver q p).tm = c.tm := by
 simp [Chip.failOver]
@[simp] theorem Chip.failOver_align (c : Chip) (q : Nat) (p : PortLink) : (c.failOver q p).align = c.align := by
 simp [Chip.failOver]
@[simp] theorem Chip.failOver_time (c : Chip) (q : Nat) (p : PortLink) : (c.failOver q p).time = c.time := by
 simp [Chip.failOver]
@[simp] theorem Chip.failOver_free (c : Chip) (q : Nat) (p : PortLink) : (c.failOver q p).free = c.free := by
 simp [Chip.failOver]
@[simp] theorem Chip.failOver_mem (c : Chip) (q : Nat) (p : PortLink) : (c.failOver q p).mem = c.mem := by
 simp [Chip.failOver]
@[simp] theorem Chip.failOver_images (c : Chip) (q : Nat) (p : PortLink) : (c.failOver q p).images = c.images := by
 simp [Chip.failOver]
@[simp] theorem Chip.failOver_sched (c : Chip) (q : Nat) (p : PortLink) : (c.failOver q p).sched = c.sched := by
 simp [Chip.failOver]
@[simp] theorem Chip.failOver_groups (c : Chip) (q : Nat) (p : PortLink) : (c.failOver q p).groups = c.groups := by
 simp [Chip.failOver]
@[simp] theorem Chip.failOver_mor (c : Chip) (q : Nat) (p : PortLink) : (c.failOver q p).mor = c.mor := by
 simp [Chip.failOver]
@[simp] theorem Chip.failOver_tdc (c : Chip) (q : Nat) (p : PortLink) : (c.failOver q p).tdc = c.tdc := by
 simp [Chip.failOver]
@[simp] theorem Chip.failOver_adc (c : Chip) (q : Nat) (p : PortLink) : (c.failOver q p).adc = c.adc := by
 simp [Chip.failOver]
@[simp] theorem Chip.failOver_cal (c : Chip) (q : Nat) (p : PortLink) : (c.failOver q p).cal = c.cal := by
 simp [Chip.failOver]
@[simp] theorem Chip.failOver_crcDma (c : Chip) (q : Nat) (p : PortLink) : (c.failOver q p).crcDma = c.crcDma := by
 simp [Chip.failOver]
@[simp] theorem Chip.failOver_sb (c : Chip) (q : Nat) (p : PortLink) : (c.failOver q p).sb = c.sb := by
 simp [Chip.failOver]
@[simp] theorem Chip.failOver_balls (c : Chip) (q : Nat) (p : PortLink) : (c.failOver q p).balls = c.balls := by
 simp [Chip.failOver]

@[simp] theorem Chip.portDown_dev (c : Chip) (q k : Nat) : (c.portDown q k).dev = c.dev := by
 unfold Chip.portDown; simp only; (repeat' split) <;> simp
@[simp] theorem Chip.portDown_epoch (c : Chip) (q k : Nat) : (c.portDown q k).epoch = c.epoch := by
 unfold Chip.portDown; simp only; (repeat' split) <;> simp
@[simp] theorem Chip.portDown_staging (c : Chip) (q k : Nat) : (c.portDown q k).staging = c.staging := by
 unfold Chip.portDown; simp only; (repeat' split) <;> simp
@[simp] theorem Chip.portDown_frozen (c : Chip) (q k : Nat) : (c.portDown q k).frozen = c.frozen := by
 unfold Chip.portDown; simp only; (repeat' split) <;> simp
@[simp] theorem Chip.portDown_cmd (c : Chip) (q k : Nat) : (c.portDown q k).cmd = c.cmd := by
 unfold Chip.portDown; simp only; (repeat' split) <;> simp
@[simp] theorem Chip.portDown_notes (c : Chip) (q k : Nat) : (c.portDown q k).notes = c.notes := by
 unfold Chip.portDown; simp only; (repeat' split) <;> simp
@[simp] theorem Chip.portDown_notesDue (c : Chip) (q k : Nat) : (c.portDown q k).notesDue = c.notesDue := by
 unfold Chip.portDown; simp only; (repeat' split) <;> simp
@[simp] theorem Chip.portDown_gap (c : Chip) (q k : Nat) : (c.portDown q k).gap = c.gap := by
 unfold Chip.portDown; simp only; (repeat' split) <;> simp
@[simp] theorem Chip.portDown_snap (c : Chip) (q k : Nat) : (c.portDown q k).snap = c.snap := by
 unfold Chip.portDown; simp only; (repeat' split) <;> simp
@[simp] theorem Chip.portDown_mon (c : Chip) (q k : Nat) : (c.portDown q k).mon = c.mon := by
 unfold Chip.portDown; simp only; (repeat' split) <;> simp
@[simp] theorem Chip.portDown_tap (c : Chip) (q k : Nat) : (c.portDown q k).tap = c.tap := by
 unfold Chip.portDown; simp only; (repeat' split) <;> simp
@[simp] theorem Chip.portDown_flash (c : Chip) (q k : Nat) : (c.portDown q k).flash = c.flash := by
 unfold Chip.portDown; simp only; (repeat' split) <;> simp
@[simp] theorem Chip.portDown_tm (c : Chip) (q k : Nat) : (c.portDown q k).tm = c.tm := by
 unfold Chip.portDown; simp only; (repeat' split) <;> simp
@[simp] theorem Chip.portDown_align (c : Chip) (q k : Nat) : (c.portDown q k).align = c.align := by
 unfold Chip.portDown; simp only; (repeat' split) <;> simp
@[simp] theorem Chip.portDown_free (c : Chip) (q k : Nat) : (c.portDown q k).free = c.free := by
 unfold Chip.portDown; simp only; (repeat' split) <;> simp
@[simp] theorem Chip.portDown_mem (c : Chip) (q k : Nat) : (c.portDown q k).mem = c.mem := by
 unfold Chip.portDown; simp only; (repeat' split) <;> simp
@[simp] theorem Chip.portDown_images (c : Chip) (q k : Nat) : (c.portDown q k).images = c.images := by
 unfold Chip.portDown; simp only; (repeat' split) <;> simp
@[simp] theorem Chip.portDown_sched (c : Chip) (q k : Nat) : (c.portDown q k).sched = c.sched := by
 unfold Chip.portDown; simp only; (repeat' split) <;> simp
@[simp] theorem Chip.portDown_groups (c : Chip) (q k : Nat) : (c.portDown q k).groups = c.groups := by
 unfold Chip.portDown; simp only; (repeat' split) <;> simp
@[simp] theorem Chip.portDown_mor (c : Chip) (q k : Nat) : (c.portDown q k).mor = c.mor := by
 unfold Chip.portDown; simp only; (repeat' split) <;> simp
@[simp] theorem Chip.portDown_tdc (c : Chip) (q k : Nat) : (c.portDown q k).tdc = c.tdc := by
 unfold Chip.portDown; simp only; (repeat' split) <;> simp
@[simp] theorem Chip.portDown_adc (c : Chip) (q k : Nat) : (c.portDown q k).adc = c.adc := by
 unfold Chip.portDown; simp only; (repeat' split) <;> simp
@[simp] theorem Chip.portDown_cal (c : Chip) (q k : Nat) : (c.portDown q k).cal = c.cal := by
 unfold Chip.portDown; simp only; (repeat' split) <;> simp
@[simp] theorem Chip.portDown_crcDma (c : Chip) (q k : Nat) : (c.portDown q k).crcDma = c.crcDma := by
 unfold Chip.portDown; simp only; (repeat' split) <;> simp
@[simp] theorem Chip.portDown_sb (c : Chip) (q k : Nat) : (c.portDown q k).sb = c.sb := by
 unfold Chip.portDown; simp only; (repeat' split) <;> simp
@[simp] theorem Chip.portDown_balls (c : Chip) (q k : Nat) : (c.portDown q k).balls = c.balls := by
 unfold Chip.portDown; simp only; (repeat' split) <;> simp

@[simp] theorem Chip.loseClocks_regs (c : Chip) : (c.loseClocks).regs = c.regs := (rfl)
@[simp] theorem Chip.loseClocks_led (c : Chip) : (c.loseClocks).led = c.led := (rfl)
@[simp] theorem Chip.loseClocks_epoch (c : Chip) : (c.loseClocks).epoch = c.epoch := (rfl)
@[simp] theorem Chip.loseClocks_staging (c : Chip) : (c.loseClocks).staging = c.staging := (rfl)
@[simp] theorem Chip.loseClocks_cirque (c : Chip) : (c.loseClocks).cirque = c.cirque := (rfl)
@[simp] theorem Chip.loseClocks_counters (c : Chip) : (c.loseClocks).counters = c.counters := (rfl)
@[simp] theorem Chip.loseClocks_frozen (c : Chip) : (c.loseClocks).frozen = c.frozen := (rfl)
@[simp] theorem Chip.loseClocks_cmd (c : Chip) : (c.loseClocks).cmd = c.cmd := (rfl)
@[simp] theorem Chip.loseClocks_ports (c : Chip) : (c.loseClocks).ports = c.ports := (rfl)
@[simp] theorem Chip.loseClocks_failover (c : Chip) : (c.loseClocks).failover = c.failover := (rfl)
@[simp] theorem Chip.loseClocks_notes (c : Chip) : (c.loseClocks).notes = c.notes := (rfl)
@[simp] theorem Chip.loseClocks_notesDue (c : Chip) : (c.loseClocks).notesDue = c.notesDue := (rfl)
@[simp] theorem Chip.loseClocks_gap (c : Chip) : (c.loseClocks).gap = c.gap := (rfl)
@[simp] theorem Chip.loseClocks_snap (c : Chip) : (c.loseClocks).snap = c.snap := (rfl)
@[simp] theorem Chip.loseClocks_mon (c : Chip) : (c.loseClocks).mon = c.mon := (rfl)
@[simp] theorem Chip.loseClocks_tap (c : Chip) : (c.loseClocks).tap = c.tap := (rfl)
@[simp] theorem Chip.loseClocks_flash (c : Chip) : (c.loseClocks).flash = c.flash := (rfl)
@[simp] theorem Chip.loseClocks_tm (c : Chip) : (c.loseClocks).tm = c.tm := (rfl)
@[simp] theorem Chip.loseClocks_align (c : Chip) : (c.loseClocks).align = c.align := (rfl)
@[simp] theorem Chip.loseClocks_time (c : Chip) : (c.loseClocks).time = c.time := (rfl)
@[simp] theorem Chip.loseClocks_free (c : Chip) : (c.loseClocks).free = c.free := (rfl)
@[simp] theorem Chip.loseClocks_mem (c : Chip) : (c.loseClocks).mem = c.mem := (rfl)
@[simp] theorem Chip.loseClocks_images (c : Chip) : (c.loseClocks).images = c.images := (rfl)
@[simp] theorem Chip.loseClocks_sched (c : Chip) : (c.loseClocks).sched = c.sched := (rfl)
@[simp] theorem Chip.loseClocks_groups (c : Chip) : (c.loseClocks).groups = c.groups := (rfl)
@[simp] theorem Chip.loseClocks_mor (c : Chip) : (c.loseClocks).mor = c.mor := (rfl)
@[simp] theorem Chip.loseClocks_tdc (c : Chip) : (c.loseClocks).tdc = c.tdc := (rfl)
@[simp] theorem Chip.loseClocks_adc (c : Chip) : (c.loseClocks).adc = c.adc := (rfl)
@[simp] theorem Chip.loseClocks_cal (c : Chip) : (c.loseClocks).cal = c.cal := (rfl)
@[simp] theorem Chip.loseClocks_crcDma (c : Chip) : (c.loseClocks).crcDma = c.crcDma := (rfl)
@[simp] theorem Chip.loseClocks_sb (c : Chip) : (c.loseClocks).sb = c.sb := (rfl)
@[simp] theorem Chip.loseClocks_balls (c : Chip) : (c.loseClocks).balls = c.balls := (rfl)

@[simp] theorem Chip.stopClocks_epoch (c : Chip) : (c.stopClocks).epoch = c.epoch := by
 simp [Chip.stopClocks, Chip.portStays]
@[simp] theorem Chip.stopClocks_staging (c : Chip) : (c.stopClocks).staging = c.staging := by
 simp [Chip.stopClocks, Chip.portStays]
@[simp] theorem Chip.stopClocks_frozen (c : Chip) : (c.stopClocks).frozen = c.frozen := by
 simp [Chip.stopClocks, Chip.portStays]
@[simp] theorem Chip.stopClocks_cmd (c : Chip) : (c.stopClocks).cmd = c.cmd := by
 simp [Chip.stopClocks, Chip.portStays]
@[simp] theorem Chip.stopClocks_notes (c : Chip) : (c.stopClocks).notes = c.notes := by
 simp [Chip.stopClocks, Chip.portStays]
@[simp] theorem Chip.stopClocks_notesDue (c : Chip) : (c.stopClocks).notesDue = c.notesDue := by
 simp [Chip.stopClocks, Chip.portStays]
@[simp] theorem Chip.stopClocks_gap (c : Chip) : (c.stopClocks).gap = c.gap := by
 simp [Chip.stopClocks, Chip.portStays]
@[simp] theorem Chip.stopClocks_snap (c : Chip) : (c.stopClocks).snap = c.snap := by
 simp [Chip.stopClocks, Chip.portStays]
@[simp] theorem Chip.stopClocks_mon (c : Chip) : (c.stopClocks).mon = c.mon := by
 simp [Chip.stopClocks, Chip.portStays]
@[simp] theorem Chip.stopClocks_tap (c : Chip) : (c.stopClocks).tap = c.tap := by
 simp [Chip.stopClocks, Chip.portStays]
@[simp] theorem Chip.stopClocks_flash (c : Chip) : (c.stopClocks).flash = c.flash := by
 simp [Chip.stopClocks, Chip.portStays]
@[simp] theorem Chip.stopClocks_tm (c : Chip) : (c.stopClocks).tm = c.tm := by
 simp [Chip.stopClocks, Chip.portStays]
@[simp] theorem Chip.stopClocks_align (c : Chip) : (c.stopClocks).align = c.align := by
 simp [Chip.stopClocks, Chip.portStays]
@[simp] theorem Chip.stopClocks_free (c : Chip) : (c.stopClocks).free = c.free := by
 simp [Chip.stopClocks, Chip.portStays]
@[simp] theorem Chip.stopClocks_mem (c : Chip) : (c.stopClocks).mem = c.mem := by
 simp [Chip.stopClocks, Chip.portStays]
@[simp] theorem Chip.stopClocks_images (c : Chip) : (c.stopClocks).images = c.images := by
 simp [Chip.stopClocks, Chip.portStays]
@[simp] theorem Chip.stopClocks_sched (c : Chip) : (c.stopClocks).sched = c.sched := by
 simp [Chip.stopClocks, Chip.portStays]
@[simp] theorem Chip.stopClocks_groups (c : Chip) : (c.stopClocks).groups = c.groups := by
 simp [Chip.stopClocks, Chip.portStays]
@[simp] theorem Chip.stopClocks_mor (c : Chip) : (c.stopClocks).mor = c.mor := by
 simp [Chip.stopClocks, Chip.portStays]
@[simp] theorem Chip.stopClocks_tdc (c : Chip) : (c.stopClocks).tdc = c.tdc := by
 simp [Chip.stopClocks, Chip.portStays]
@[simp] theorem Chip.stopClocks_adc (c : Chip) : (c.stopClocks).adc = c.adc := by
 simp [Chip.stopClocks, Chip.portStays]
@[simp] theorem Chip.stopClocks_cal (c : Chip) : (c.stopClocks).cal = c.cal := by
 simp [Chip.stopClocks, Chip.portStays]
@[simp] theorem Chip.stopClocks_crcDma (c : Chip) : (c.stopClocks).crcDma = c.crcDma := by
 simp [Chip.stopClocks, Chip.portStays]
@[simp] theorem Chip.stopClocks_sb (c : Chip) : (c.stopClocks).sb = c.sb := by
 simp [Chip.stopClocks, Chip.portStays]
@[simp] theorem Chip.stopClocks_balls (c : Chip) : (c.stopClocks).balls = c.balls := by
 simp [Chip.stopClocks, Chip.portStays]

end Sys2Proof.Machine
end

