-- ==== Sys2Proof/Laws/Link.lean ====
section
/-! SUPPORT. Link.lean: laws of the Oction link: how a request runs and completes, and what a port going down changes. -/

namespace Sys2Proof.Machine

/-! ### Requests and completions -/

/-- A request that nothing holds back runs on the device with its tag outstanding (R314, R315). -/
theorem Chip.request_takes (c : Chip) (q : Nat) (t : Txn) (run : Chip → Chip) (h : c.takes q t.tag)
    (hf : c.txnFault t = none) :
    c.request q t run = run (c.setPort q { c.port q with tags := (c.port q).tags ++ [t.tag.toNat] }) := by
  obtain ⟨hup, hheld, hrx, htag, _⟩ := h
  unfold Chip.request
  dsimp only
  rw [if_neg (by simp [hheld])]
  split
  · rename_i h; rw [hrx] at h; cases h
  · rw [if_neg (by simp [hup]), if_neg htag]
    show (match c.txnFault t with
      | some st => _
      | none => _) = _
    rw [hf]

/-- A completion joins the frames that are ready on its port. -/
theorem Chip.answerAt_ready (c : Chip) (s q : Nat) (tag : Byte) (status : Nat) (last : Bool) (word state : Nat)
    (data : List Word) (h : (c.port q).redirect = false) :
    ((c.answerAt s q tag status last word state data).port q) =
      { c.port q with ready := (c.port q).ready ++ [cplFrame tag last word state status s data] } := by
  unfold Chip.answerAt
  simp only [h, Bool.false_eq_true, if_false]
  split <;> simp [h]

theorem Chip.replyAt_port (c : Chip) (s q : Nat) (tag : Byte) (status word state : Nat) (data : List Word)
    (h : (c.port q).redirect = false) :
    ((c.replyAt s q tag status word state data).port q) =
      { c.port q with
        ready := (c.port q).ready ++ [cplFrame tag true word state status s data]
        tags := (c.port q).tags.erase tag.toNat } := by
  unfold Chip.replyAt
  rw [Chip.port_updPort_same, Chip.answerAt_ready _ _ _ _ _ _ _ _ _ h]

/-- A reply completes its request. -/
theorem Chip.reply_completed (c : Chip) (q : Nat) (tag : Byte) (status word state : Nat) (data : List Word)
    (h : (c.port q).redirect = false) :
    (c.reply q tag status word state data).completed q tag status data word state :=
  ⟨(c.port q).ready, c.lastSeq, by
    unfold Chip.reply; rw [Chip.replyAt_port _ _ _ _ _ _ _ _ h]⟩

/-- Registers but DEV_CNT_CONFLICT are not touched by a completion. -/
theorem Chip.reg_replyAt (c : Chip) (s q : Nat) (tag : Byte) (status word state : Nat) (data : List Word) {a : Nat}
    (h : a ≠ 0x00010024) : (c.replyAt s q tag status word state data).reg a = c.reg a := by
  unfold Chip.replyAt Chip.answerAt
  simp only [Chip.reg_updPort]
  split <;> split <;> simp [Chip.reg_cntUp_other _ _ h]

theorem Chip.reg_reply (c : Chip) (q : Nat) (tag : Byte) (status word state : Nat) (data : List Word) {a : Nat}
    (h : a ≠ 0x00010024) : (c.reply q tag status word state data).reg a = c.reg a := Chip.reg_replyAt _ _ _ _ _ _ _ _ h

theorem Chip.reg_reply_ok (c : Chip) (q : Nat) (tag : Byte) (status word state : Nat) (data : List Word) (a : Nat)
    (h : status ≠ 1) : (c.reply q tag status word state data).reg a = c.reg a := by
  unfold Chip.reply Chip.replyAt Chip.answerAt
  simp only [if_neg h]
  split <;> simp

/-- The command that executes ends with a COMMAND_DONE that holds its completion (R29, R408). -/
theorem Chip.cmdFinish_eq (c : Chip) (h : CmdHdr) (x : Cmd) (status : Nat) (r : List Word) (state : Nat)
    (he : c.active = some (h, x)) :
    c.cmdFinish status r state = ({ c with cmd := { c.cmd with done := true } } : Chip).raise (srcOf 15 51) 0x80D1
      [.cplt h.port h.tag status state (cmdResult h r) true] := by
  unfold Chip.cmdFinish
  rw [he]

theorem Chip.cmdFinish_ended (c : Chip) (h : CmdHdr) (x : Cmd) (status : Nat) (r : List Word) (state : Nat)
    (he : c.active = some (h, x)) : (c.cmdFinish status r state).ended h status r state := by
  rw [Chip.cmdFinish_eq c h x status r state he]
  exact ⟨by simp, Chip.raise_waitsTo _ _ _ _ _ _ (by decide) (by simp)⟩

/-- No command is active once one has ended. -/
theorem Chip.cmdFinish_active (c : Chip) (status : Nat) (r : List Word) (state : Nat) :
    (c.cmdFinish status r state).active = none := by
  unfold Chip.cmdFinish
  split
  · assumption
  · simp [Chip.active]

/-- The acceptance of a COMMAND_DONE issues its completion (R29, R314). -/
theorem Chip.cmdIssue_completed (c : Chip) (q : Nat) (tag : Byte) (status state : Nat) (data : List Word) (own : Bool)
    (h : (c.port q).redirect = false) : (c.cmdIssue q tag status state data own).completed q tag status data 0 state := by
  unfold Chip.cmdIssue
  refine Chip.reply_completed _ _ _ _ _ _ _ ?_
  cases own <;> exact h

/-! ### Ports going down -/

@[simp] theorem Chip.port_timePort (c : Chip) (q : Nat) : c.timePort.port q = c.port q := Chip.port_of_ports (by simp) q
@[simp] theorem Chip.port_withdraw (c : Chip) (q r : Nat) : (c.withdraw q).port r = c.port r :=
  Chip.port_of_ports (by simp) r
@[simp] theorem Chip.port_setMode (c : Chip) (m : DevMode) (q : Nat) : (c.setMode m).port q = c.port q := (rfl)
@[simp] theorem Chip.port_loseClocks (c : Chip) (q : Nat) : c.loseClocks.port q = c.port q := (rfl)

/-- A field of a port that an update keeps. -/
theorem Chip.keep_updPort {α : Type} (k : PortLink → α) (c : Chip) (q r : Nat) (f : PortLink → PortLink)
    (hf : ∀ p, k (f p) = k p) : k ((c.updPort q f).port r) = k (c.port r) := by
  by_cases h : r = q
  · subst h; rw [Chip.port_updPort_same, hf]
  · rw [Chip.port_updPort_other _ _ h]

/-- Moving posted traffic between the ports changes nothing of them but what is ready. -/
theorem Chip.keep_rehome {α : Type} (k : PortLink → α) (hk : ∀ p r, k { p with ready := r } = k p) (c : Chip)
    (q r : Nat) : k ((c.rehome q).port r) = k (c.port r) := by
  unfold Chip.rehome
  simp only
  split
  · rfl
  · refine (Chip.keep_updPort k _ _ _ _ fun p => hk _ _).trans ?_
    by_cases h : r = q
    · subst h; rw [Chip.port_setPort_same, hk]
    · rw [Chip.port_setPort_other _ _ h]

theorem Chip.port_bringup_other (c : Chip) {q r : Nat} (k : Bool) (h : r ≠ q) : (c.bringup q k).port r = c.port r := by
  have e : ∀ (ls : List Nat) (c : Chip), (ls.foldl (fun c l =>
      c.setReg (laneReg q l) (c.reg (laneReg q l) &&& 0x007F0000)) c).port r = c.port r := by
    intro ls
    induction ls with
    | nil => intro c; rfl
    | cons l ls ih => intro c; exact ih _
  unfold Chip.bringup
  simp only
  rw [Chip.port_updPort_other _ _ h, e]
theorem Chip.up_bringup (c : Chip) (q : Nat) (k : Bool) : ((c.bringup q k).port q).up = false := by
  unfold Chip.bringup
  simp only [Chip.port_updPort_same]

theorem Chip.port_portOff_other (c : Chip) {q r : Nat} (k : Nat) (h : r ≠ q) : (c.portOff q k).port r = c.port r := by
  unfold Chip.portOff
  simp only [Chip.port_timePort, Chip.port_bringup_other _ _ h, Chip.port_raiseErr, Chip.port_count, Chip.port_cntUp,
    Chip.port_setPort_other _ _ h, Chip.port_withdraw]
theorem Chip.up_portOff (c : Chip) (q k : Nat) : ((c.portOff q k).port q).up = false := by
  unfold Chip.portOff
  simp only [Chip.port_timePort, Chip.up_bringup]

/-- NOTIFY frames change nothing of the ports but what is ready. -/
theorem Chip.keep_notifyFrames {α : Type} (k : PortLink → α) (hk : ∀ p r, k { p with ready := r } = k p) (r : Nat)
    (n : Nat) : ∀ c : Chip, k ((c.notifyFrames n).port r) = k (c.port r) := by
  induction n with
  | zero => intro c; rfl
  | succ n ih =>
    intro c
    unfold Chip.notifyFrames
    split
    · exact (ih _).trans (Chip.keep_updPort k c c.notifyPort r _ fun p => hk _ _)
    · rfl

theorem Chip.keep_failOver {α : Type} (k : PortLink → α) (h1 : ∀ p r, k { p with ready := r } = k p)
    (h2 : ∀ (p : PortLink) r n, k { p with replay := r, replays := n } = k p)
    (h3 : ∀ (p : PortLink) x, k { p with ctrl := x } = k p) (c : Chip) (q r : Nat) (p : PortLink) :
    k ((c.failOver q p).port r) = k (c.port r) := by
  unfold Chip.failOver
  refine (Chip.keep_updPort k _ _ _ _ fun p => h3 _ _).trans ?_
  refine (Chip.keep_rehome k h1 _ _ _).trans ?_
  exact (Chip.keep_updPort k _ _ _ _ fun p => h2 _ _ _)

/-- A port that goes down is down; the other port stays up or down (R304, R320). -/
theorem Chip.up_portDown (c : Chip) (q r k : Nat) :
    ((c.portDown q k).port r).up = if r = q then false else (c.port r).up := by
  have e : ((c.portOff q k).port r).up = if r = q then false else (c.port r).up := by
    split
    · rename_i h; subst h; exact Chip.up_portOff _ _ _
    · rename_i h; rw [Chip.port_portOff_other _ _ h]
  unfold Chip.portDown
  simp only
  split
  · rename_i h
    split
    · rename_i hr; subst hr; simpa using h
    · rfl
  · split
    · rw [Chip.keep_failOver (·.up) (fun _ _ => rfl) (fun _ _ _ => rfl) (fun _ _ => rfl), e]
    · exact e

theorem Chip.running_portDown (c : Chip) {q r : Nat} (k : Nat) (h : r ≠ q) :
    ((c.portDown q k).port r).running = (c.port r).running := by
  unfold Chip.portDown
  simp only
  split
  · rfl
  · split
    · rw [Chip.keep_failOver (·.running) (fun _ _ => rfl) (fun _ _ _ => rfl) (fun _ _ => rfl),
        Chip.port_portOff_other _ _ h]
    · rw [Chip.port_portOff_other _ _ h]

/-! ### Registers below the link's -/

theorem Chip.reg_bringup (c : Chip) (q : Nat) (k : Bool) {a : Nat} (h : a < 0x00311000) :
    (c.bringup q k).reg a = c.reg a := by
  have e : ∀ (ls : List Nat) (c : Chip), (ls.foldl (fun c l =>
      c.setReg (laneReg q l) (c.reg (laneReg q l) &&& 0x007F0000)) c).reg a = c.reg a := by
    intro ls
    induction ls with
    | nil => intro c; rfl
    | cons l ls ih =>
      intro c
      exact (ih _).trans (Chip.reg_setReg_other _ _ (by unfold laneReg portB; omega))
  unfold Chip.bringup
  simp only
  rw [Chip.reg_updPort]
  exact e _ c

theorem Chip.reg_bringupAll (c : Chip) {a : Nat} (h : a < 0x00311000) : c.bringupAll.reg a = c.reg a := by
  unfold Chip.bringupAll
  split
  · simp only [List.foldl]
    split <;> split <;> simp only [Chip.reg_bringup _ _ _ h]
  · rfl

theorem Chip.reg_servo (c : Chip) (st : Nat) {a : Nat} (h : a < 0x00320000) : (c.servo st).reg a = c.reg a := by
  have h1 : a ≠ 0x0032005C := by omega
  have h2 : a ≠ 0x00320004 := by omega
  unfold Chip.servo Chip.setUncert
  simp only
  rw [Chip.reg_setReg_other _ _ h1, Chip.reg_setField_other _ _ _ _ h2, Chip.reg_setField_other _ _ _ _ h2]
  rfl
theorem Chip.reg_setRate (c : Chip) (f p : Int) {a : Nat} (h : a < 0x00320000) : (c.setRate f p).reg a = c.reg a := by
  have h1 : a ≠ 0x00320040 := by omega
  have h2 : a ≠ 0x00320044 := by omega
  have h3 : a ≠ 0x00320048 := by omega
  unfold Chip.setRate
  simp only
  rw [Chip.reg_setReg_other _ _ h3, Chip.reg_setReg_other _ _ h2, Chip.reg_setReg_other _ _ h1]
  rfl
theorem Chip.reg_routeChange (c : Chip) {a : Nat} (h : a < 0x00320000) : c.routeChange.reg a = c.reg a := by
  have h1 : a ≠ 0x00320090 := by omega
  unfold Chip.routeChange
  simp only
  split
  · rfl
  · split
    · rw [Chip.reg_cntUp_other _ _ h1]; rfl
    · split
      · rfl
      · rw [Chip.reg_cntUp_other _ _ h1, Chip.reg_setRate _ _ _ h, Chip.reg_servo _ _ h]; rfl

theorem Chip.reg_timePort (c : Chip) {a : Nat} (h : a < 0x00320000) : c.timePort.reg a = c.reg a := by
  unfold Chip.timePort
  simp only
  split
  · rfl
  · rw [Chip.reg_routeChange _ h, Chip.reg_setField_other _ _ _ _ (by omega)]; rfl

theorem Chip.reg_portDown (c : Chip) (q k : Nat) {a : Nat} (h : a < 0x00311000) :
    (c.portDown q k).reg a = c.reg a := by
  have e : (c.portOff q k).reg a = c.reg a := by
    have h' : a < 0x00320000 := Nat.lt_trans h (by decide)
    unfold Chip.portOff
    simp only
    rw [Chip.reg_timePort _ h', Chip.reg_bringup _ _ _ h, Chip.reg_raiseErr, Chip.reg_count,
      Chip.reg_cntUp_other _ _ (by unfold portB; omega), Chip.reg_setPort]
    exact Chip.reg_of_regs (Chip.withdraw_regs c q) a
  unfold Chip.portDown
  simp only
  split
  · rfl
  · split
    · refine Eq.trans (Chip.reg_of_regs ?_ a) e
      simp
    · exact e

/-! ### What waits in Cirque stays -/

theorem Chip.portDown_keeps (c : Chip) (q k : Nat) {src typ : Nat} (h : c.waits src typ) :
    (c.portDown q k).waits src typ := by
  have e : (c.portOff q k).waits src typ := by
    unfold Chip.portOff
    refine waits_congr (Chip.timePort_cirque _) (waits_congr (Chip.bringup_cirque _ _ _) ?_)
    refine Chip.raiseErr_keeps _ _ _ _ _ _ (Chip.count_keeps _ _ _ (waits_congr (c := c) ?_ h))
    simp
  unfold Chip.portDown
  simp only
  split
  · exact h
  · split
    · exact waits_congr (Chip.failOver_cirque _ _ _) e
    · exact e

/-- The clocks stop: both ports are down and stay down; nothing below the link's registers changes, and what waits in
Cirque stays. -/
theorem Chip.stopClocks_spec (c : Chip) :
    c.stopClocks.clocked = false ∧
    (∀ q : Port, (c.stopClocks.port q).up = false ∧ (c.stopClocks.port q).running = false) ∧
    c.stopClocks.dev = { c.dev with clocksLost := true } ∧
    (∀ a, a < 0x00311000 → c.stopClocks.reg a = c.reg a) ∧
    (∀ src typ, c.waits src typ → c.stopClocks.waits src typ) := by
  have hs : ∀ (c : Chip) (q : Nat), ((c.portStays q).port q).up = false ∧ ((c.portStays q).port q).running = false := by
    intro c q
    unfold Chip.portStays
    rw [Chip.port_updPort_same]
    exact ⟨by simp [Chip.up_portDown], rfl⟩
  have ho : ∀ (c : Chip) {q r : Nat}, r ≠ q →
      ((c.portStays q).port r).up = (c.port r).up ∧ ((c.portStays q).port r).running = (c.port r).running := by
    intro c q r h
    unfold Chip.portStays
    rw [Chip.port_updPort_other _ _ h]
    exact ⟨by simp [Chip.up_portDown, h], Chip.running_portDown _ _ h⟩
  refine ⟨?_, fun q => ?_, ?_, fun a h => ?_, fun src typ h => ?_⟩
  · simp [Chip.clocked, Chip.stopClocks, Chip.portStays, Chip.loseClocks]
  · unfold Chip.stopClocks
    fin_cases q
    · obtain ⟨h1, h2⟩ := ho (c.loseClocks.portStays 0) (q := 1) (r := 0) (by decide)
      exact ⟨h1.trans (hs _ _).1, h2.trans (hs _ _).2⟩
    · exact hs _ 1
  · simp [Chip.stopClocks, Chip.portStays, Chip.loseClocks]
  · unfold Chip.stopClocks Chip.portStays
    rw [Chip.reg_updPort, Chip.reg_portDown _ _ _ h, Chip.reg_updPort, Chip.reg_portDown _ _ _ h]; rfl
  · unfold Chip.stopClocks Chip.portStays
    exact waits_congr (Chip.updPort_cirque _ _ _) (Chip.portDown_keeps _ _ _ (waits_congr (Chip.updPort_cirque _ _ _)
      (Chip.portDown_keeps _ _ _ (waits_congr (Chip.loseClocks_cirque c) h))))

end Sys2Proof.Machine
end

