-- ==== Sys2Proof/Laws/Access.lean ====
section
/-! SUPPORT. Access.lean: laws of arrival: how a command starts and how a register write of one word, or of both words of a
pair, takes effect. -/

namespace Sys2Proof.Machine

/-! ### Commands (R369) -/

/-- The device with the tag of a request of port q outstanding (R314). -/
def Chip.tagged (c : Chip) (q : Nat) (tag : Byte) : Chip :=
  c.setPort q { c.port q with tags := (c.port q).tags ++ [tag.toNat] }

theorem Chip.port_tagged (c : Chip) (q : Nat) (tag : Byte) :
    (c.tagged q tag).port q = { c.port q with tags := (c.port q).tags ++ [tag.toNat] } := Chip.port_setPort_same _ _ _
@[simp] theorem Chip.redirect_tagged (c : Chip) (q : Nat) (tag : Byte) (r : Nat) :
    ((c.tagged q tag).port r).redirect = (c.port r).redirect := by
  by_cases h : r = q
  · subst h; rw [Chip.port_tagged]
  · unfold Chip.tagged; rw [Chip.port_setPort_other _ _ h]
@[simp] theorem Chip.ready_tagged (c : Chip) (q : Nat) (tag : Byte) (r : Nat) :
    ((c.tagged q tag).port r).ready = (c.port r).ready := by
  by_cases h : r = q
  · subst h; rw [Chip.port_tagged]
  · unfold Chip.tagged; rw [Chip.port_setPort_other _ _ h]
@[simp] theorem Chip.reg_tagged (c : Chip) (q : Nat) (tag : Byte) (a : Nat) : (c.tagged q tag).reg a = c.reg a := (rfl)
@[simp] theorem Chip.reg64_tagged (c : Chip) (q : Nat) (tag : Byte) (a : Nat) :
    (c.tagged q tag).reg64 a = c.reg64 a := (rfl)
@[simp] theorem Chip.field_tagged (c : Chip) (q : Nat) (tag : Byte) (a hi lo : Nat) :
    (c.tagged q tag).field a hi lo = c.field a hi lo := (rfl)
theorem Chip.tagged_others (c : Chip) (q : Nat) (tag : Byte) : c.tagged q tag = { c with ports := (c.tagged q tag).ports } :=
  rfl

/-- The device as an accepted command begins: its tag is outstanding, and it is counted. -/
def Chip.heard (c : Chip) (h : CmdHdr) : Chip := ((c.tagged h.port h.tag).cntWrap 0x00010044).count 291

/-- A command that nothing holds back starts as its descriptor comes. -/
theorem Chip.cmdArrive_hears (c : Chip) (h : CmdHdr) (x : Cmd) (hc : c.hears h x) :
    c.cmdArrive h x = (c.heard h).startCmd c h x := by
  obtain ⟨⟨hup, hheld, hrx, htag, _⟩, hok, hd, hb, ht, he, _, hq⟩ := hc
  have hq' : ¬ (32 ≤ c.cmd.queue.length ∨ (c.port h.port).heldUp = true) := by
    rintro (h1 | h1)
    · rw [hq] at h1; exact absurd h1 (by decide)
    · rw [hheld] at h1; cases h1
  unfold Chip.cmdArrive
  rw [if_neg hq']
  simp only
  split
  · rename_i h1; rw [hrx] at h1; cases h1
  · rw [if_neg (by simp [hup]), if_neg htag]
    unfold Chip.judgeCmd
    have h1 : (c.setPort (h.port : Nat) { c.port h.port with tags := (c.port h.port).tags ++ [h.tag.toNat] }).cmdOk x
        = true := hok
    have h3 : (c.setPort (h.port : Nat) { c.port h.port with tags := (c.port h.port).tags ++ [h.tag.toNat] }).badOperand x
        = false := hb
    have h2 : (c.setPort (h.port : Nat) { c.port h.port with tags := (c.port h.port).tags ++ [h.tag.toNat] }).busyTraining x
        = false := ht
    rw [if_neg (by rw [h1]; decide), if_neg (by rw [hd, h3]; decide), if_neg (by rw [h2]; decide)]
    simp only
    rw [if_pos]
    · rfl
    · simp [he, hq]

/-- What a beginning command leaves alone. -/
theorem Chip.heard_shape (c : Chip) (h : CmdHdr) :
    ∃ ps rs q k, c.heard h = { c with ports := ps, regs := rs, cirque := q, counters := k } := by
  obtain ⟨k, q, e⟩ := ((c.tagged h.port h.tag).cntWrap 0x00010044).count_shape 291 1
  exact ⟨_, _, q, k, e⟩
theorem Chip.heard_redirect (c : Chip) (h : CmdHdr) (q : Nat) :
    ((c.heard h).port q).redirect = (c.port q).redirect := by
  unfold Chip.heard
  rw [Chip.port_count, Chip.port_cntWrap, Chip.redirect_tagged]
theorem Chip.heard_reg (c : Chip) (h : CmdHdr) {a : Nat} (ha : a ≠ 0x00010044) : (c.heard h).reg a = c.reg a := by
  unfold Chip.heard
  rw [Chip.reg_count, Chip.reg_cntWrap_other _ _ ha, Chip.reg_tagged]

/-! ### Register writes (R313, R405, R406) -/

/-- A register write that nothing holds back runs with its tag outstanding. -/
theorem State.onReg_takes (s : State) (q : Port) (tag : Byte) (a : Nat) (vs : List Word) (h : s.chip.takes q tag)
    (ha : a < 2 ^ 64) (h1 : 1 ≤ vs.length) (h2 : vs.length ≤ 64) :
    s.onReg q tag a vs = .next { s with chip := (s.chip.tagged q tag).writeRegs q tag a vs } := by
  have e : (BitVec.ofNat 64 a).toNat = a := by
    rw [BitVec.toNat_ofNat]; exact Nat.mod_eq_of_lt ha
  have hl : (BitVec.ofNat 16 vs.length).toNat = vs.length := by
    rw [BitVec.toNat_ofNat]; exact Nat.mod_eq_of_lt (by omega)
  show Host.Outcome.next { s with chip := s.chip.request q _ _ } = _
  rw [Chip.request_takes _ _ _ _ h]
  · show Host.Outcome.next { s with chip := (s.chip.tagged q tag).writeRegs q tag (BitVec.ofNat 64 a).toNat vs } = _
    rw [e]
  · unfold Chip.txnFault
    simp only [hl]
    show (if vs.length = 0 ∨ 64 < vs.length then some 5 else if (0 : Word) ≠ 0 ∨ vs.length ≠ vs.length then some 2 else none)
      = none
    rw [if_neg (by omega), if_neg (by simp)]

/-- A write of one word that is no half of a pair answers what the word's write answers. -/
theorem Chip.writeRegs_one (c : Chip) (q : Nat) (tag : Byte) (a : Nat) (v : Word) (r : RegRow) (ix : List Nat) (w : Nat)
    (ha : a % 4 = 0) (hf : c.findReg a = some (r, ix, w)) (hr : c.responds a = true) (hp : r.pair = false)
    (hw : (c.writeWord r w a v).1 ≠ Machine.waits) :
    c.writeRegs q tag a [v] = (c.writeWord r w a v).2.reply q tag (c.writeWord r w a v).1 := by
  have hb : ¬ a / 0x10000 ≠ (a + 4 * [v].length - 1) / 0x10000 := by
    simp only [List.length_cons, List.length_nil]; omega
  have e : c.regWrWords {} 0 a [v] = ((({} : RegWr).note 0 (c.writeWord r w a v).1), (c.writeWord r w a v).2) := by
    simp only [Chip.regWrWords, Chip.regWrWord, hf, hr, hp, Bool.not_true, Bool.false_eq_true, if_false]
    rw [if_neg hw]
  unfold Chip.writeRegs
  rw [if_neg (by omega), if_neg hb]
  simp only [e]
  unfold RegWr.note
  by_cases h0 : (c.writeWord r w a v).1 = 0
  · simp [h0, Chip.keepAckErr]
  · simp [h0, Chip.keepAckErr]

theorem Chip.regWrWord_low (c : Chip) (x : RegWr) (i a : Nat) (v : Word) (r : RegRow) (ix : List Nat)
    (hf : c.findReg a = some (r, ix, 0)) (hr : c.responds a = true) (hp : r.pair = true) :
    c.regWrWord x i a v true = ({ x with low := some v }, c) := by
  unfold Chip.regWrWord
  rw [hf]
  simp only [hr, hp, Bool.not_true, Bool.false_eq_true, if_false, if_true, Bool.and_self, decide_true]
theorem Chip.regWrWord_high (c : Chip) (x : RegWr) (i a : Nat) (l v : Word) (more : Bool) (r : RegRow) (ix : List Nat)
    (hf : c.findReg a = some (r, ix, 1)) (hr : c.responds a = true) (hp : r.pair = true) (hl : x.low = some l) :
    c.regWrWord x i a v more =
      (let s := ({ c with staging := tabDel (tabDel c.staging (a - 4)) a } : Chip).writePair (a - 4)
        (l.toNat + 2 ^ 32 * v.toNat)
      (({ x with low := none }.note (i - 1) s.1).noteAck (a - 4) s.1, s.2)) := by
  unfold Chip.regWrWord
  rw [hf]
  simp only [hr, hp, hl, Bool.not_true, Bool.false_eq_true, if_false, if_true]
  rfl

/-- A write of both words of a pair in one transaction writes the pair; a refused acknowledgement of a ring keeps its error
bit (R10). -/
theorem Chip.writeRegs_pair (c : Chip) (q : Nat) (tag : Byte) (a : Nat) (x y : Word) (r : RegRow) (ix : List Nat)
    (ha : a % 8 = 0) (hf : c.findReg a = some (r, ix, 0)) (hf' : c.findReg (a + 4) = some (r, ix, 1))
    (hr : c.responds a = true) (hr' : c.responds (a + 4) = true) (hp : r.pair = true) :
    c.writeRegs q tag a [x, y] =
      (let s := ({ c with staging := tabDel (tabDel c.staging a) (a + 4) } : Chip).writePair a
        (x.toNat + 2 ^ 32 * y.toNat)
      (s.2.keepAckErr (({} : RegWr).noteAck a s.1)).reply q tag s.1) := by
  have hb : ¬ a / 0x10000 ≠ (a + 4 * [x, y].length - 1) / 0x10000 := by
    simp only [List.length_cons, List.length_nil]; omega
  have e : c.regWrWords {} 0 a [x, y] =
      (let s := ({ c with staging := tabDel (tabDel c.staging a) (a + 4) } : Chip).writePair a
        (x.toNat + 2 ^ 32 * y.toNat)
      ((({} : RegWr).note 0 s.1).noteAck a s.1, s.2)) := by
    show (let s := c.regWrWord {} 0 a x true
      s.2.regWrWords s.1 1 (a + 4) [y]) = _
    rw [Chip.regWrWord_low c {} 0 a x r ix hf hr hp]
    show (let s := c.regWrWord { ({} : RegWr) with low := some x } 1 (a + 4) y false
      s.2.regWrWords s.1 2 (a + 8) []) = _
    rw [Chip.regWrWord_high c _ 1 (a + 4) x y false r ix hf' hr' hp rfl]
    rfl
  unfold Chip.writeRegs
  rw [if_neg (by omega), if_neg hb, e]
  generalize ({ c with staging := tabDel (tabDel c.staging a) (a + 4) } : Chip).writePair a (x.toNat + 2 ^ 32 * y.toNat) = s
  unfold RegWr.note RegWr.noteAck
  by_cases h0 : s.1 = 0
  · simp [h0]
  · by_cases h6 : s.1 = 6 <;> simp [h0, h6, Chip.keepAckErr]

end Sys2Proof.Machine
end

