-- ==== Sys2Proof/Laws/Memory.lean ====
section
/-! SUPPORT. Memory.lean: what a request of one or more lines does: each line joins the queue of its class on its channel,
what waits there waits on, and nothing but the queues changes (R274). -/

namespace Sys2Proof.Machine

/-- A chip whose channels alone differ. -/
def Chip.withChans (c : Chip) (t : Table MemCh) : Chip := { c with mem := { c.mem with ch := t } }

@[simp] theorem Chip.withChans_withChans (c : Chip) (t u : Table MemCh) :
    (c.withChans t).withChans u = c.withChans u := rfl

theorem Chip.memPut_eq (c : Chip) (cls : SlotClass) (r : Req) :
    c.memPut cls r = c.withChans (c.memPut cls r).mem.ch := rfl

theorem Chip.memCh_setMemCh (c : Chip) (i k : Nat) (m : MemCh) :
    (c.setMemCh i m).memCh k = if k = i then m else c.memCh k :=
  tabGet_tabSet ({} : MemCh) c.mem.ch i k m

/-- A request of host class waits on its channel. -/
theorem Chip.mem_memPut_self (c : Chip) (r : Req) : r ∈ ((c.memPut .host r).memCh (chanOf r.addr)).host := by
  simp [Chip.memPut, Chip.memCh_setMemCh]

/-- What waits for a host slot waits on when another request comes. -/
theorem Chip.mem_memPut_of_mem (c : Chip) (cls : SlotClass) (r x : Req) (k : Nat) (h : x ∈ (c.memCh k).host) :
    x ∈ ((c.memPut cls r).memCh k).host := by
  simp only [Chip.memPut, Chip.memCh_setMemCh]
  split
  · rename_i hk; subst hk; cases cls <;> simp [h]
  · exact h

/-- Requests made one after another: each waits at the end, what waited before waits on, and only the queues change. -/
theorem Chip.foldl_memPut {α : Type} (f : α → Req) (l : List α) (c : Chip) :
    let d := l.foldl (fun c e => c.memPut .host (f e)) c
    (∀ e ∈ l, f e ∈ (d.memCh (chanOf (f e).addr)).host) ∧
    (∀ k x, x ∈ (c.memCh k).host → x ∈ (d.memCh k).host) ∧ d = c.withChans d.mem.ch := by
  induction l generalizing c with
  | nil => exact ⟨by simp, fun _ _ h => h, rfl⟩
  | cons e l ih =>
    obtain ⟨h1, h2, h3⟩ := ih (c.memPut .host (f e))
    refine ⟨?_, fun k x h => h2 k x (c.mem_memPut_of_mem .host _ x k h), ?_⟩
    · intro y hy
      rcases List.mem_cons.1 hy with rfl | hy
      · exact h2 _ _ (c.mem_memPut_self _)
      · exact h1 y hy
    · rw [List.foldl_cons, h3, c.memPut_eq]; rfl

/-- A read of n lines: line i waits for a host slot of its channel. -/
theorem Chip.memReadReqs_host (c : Chip) (a n : Nat) (f : Nat → Who) :
    let d := c.memReadReqs .host a n f
    (∀ i, i < n → ({ addr := a + 128 * i, who := f i } : Req) ∈ (d.memCh (chanOf (a + 128 * i))).host) ∧
    d = c.memTouch.withChans d.mem.ch := by
  obtain ⟨h1, -, h3⟩ := Chip.foldl_memPut (fun i => ({ addr := a + 128 * i, who := f i } : Req)) (List.range n) c.memTouch
  exact ⟨fun i hi => h1 i (List.mem_range.2 hi), h3⟩

/-- Line i of bytes is the 128 bytes from 128 i on. -/
theorem linesOf_go_getElem? (n : Nat) (bs : List Byte) (i : Nat) (h : i < n) :
    (linesOf.go n bs)[i]? = some ((bs.drop (128 * i)).take 128) := by
  induction n generalizing bs i with
  | zero => omega
  | succ n ih =>
    cases i with
    | zero => simp [linesOf.go]
    | succ i => simp [linesOf.go, ih (bs.drop 128) i (by omega), Nat.mul_add, Nat.add_comm]

/-- A write: line i waits for a host slot of its channel with its 128 bytes. -/
theorem Chip.memWriteReqs_host (c : Chip) (a : Nat) (bs : List Byte) (f : Nat → Who) :
    let d := c.memWriteReqs .host a bs f
    (∀ i, i < (bs.length + 127) / 128 →
      ({ addr := a + 128 * i, data := some ((bs.drop (128 * i)).take 128), who := f i } : Req) ∈
        (d.memCh (chanOf (a + 128 * i))).host) ∧
    d = c.memTouch.withChans d.mem.ch := by
  obtain ⟨h1, -, h3⟩ := Chip.foldl_memPut
    (fun e : List Byte × Nat => ({ addr := a + 128 * e.2, data := some e.1, who := f e.2 } : Req))
    (linesOf bs).zipIdx c.memTouch
  refine ⟨fun i hi => h1 ((bs.drop (128 * i)).take 128, i) ?_, h3⟩
  exact List.mem_zipIdx_iff_getElem?.2 (linesOf_go_getElem? _ bs i hi)

end Sys2Proof.Machine
end

