-- ==== Sys2Proof/Tests/Slice0.lean ====
section
/-! SUPPORT. Slice0.lean: the smoke test of WellFormed; values of the spec's own worked examples; and, for each
statement with hypotheses, a state and operands that meet them, clause by clause at boundary values. -/

set_option maxRecDepth 20000

namespace Sys2Proof.Tests

open Machine

/-! ### WellFormed refuses an ill-formed command of each kind -/

theorem test_refuses_density : Instr.wf (.flashReadyPoll true 0 65536) = false := by decide
theorem test_refuses_flash : Instr.wf (.configImageApplied [(2 ^ 26 - 1, [0, 0])] []) = false := by decide
theorem test_refuses_cal_unit : Instr.wf (.calUnitTimeout 108) = false := by decide
theorem test_refuses_cal_result : Instr.wf (.calUnitDone 0 (.octant [1, 2, 3])) = false := by decide
theorem test_refuses_cal_adc : Instr.wf (.calUnitDone 0 (.adc [0] [0] 0)) = false := by decide
theorem test_refuses_temperatures : Instr.wf (.calStepDone [40000]) = false := by decide
theorem test_refuses_eyes : Instr.wf (.trainFspDone 0 0 []) = false := by decide
theorem test_refuses_lanes : Instr.wf (.bringupStepDone 0 [0, 0, 0, 0, 0] []) = false := by decide
theorem test_refuses_register_words : Instr.wf (.regWr 0 1 0 (List.replicate 65536 0)) = false :=
  (congrArg regWordsOk List.length_replicate).trans (by decide)
theorem test_refuses_block_bytes : Instr.wf (.blkWr 0 1 0 [1, 2, 3]) = false := by decide
theorem test_refuses_observations : Instr.wf (.compareResultsComplete 0 (List.replicate 10 { volts := [], changed := 0 })) = false := by decide
theorem test_refuses_phases : Instr.wf (.fckLock 0 [0]) = false := by decide
theorem test_accepts_well_formed : Instr.wf (.blkWr 0 1 0 [1, 2, 3, 4]) = true := by decide

/-! ### The spec's worked examples -/

/-- R250: check value of CRC-32C over 123456789. -/
theorem test_crc32c_check : crc32c [0x31, 0x32, 0x33, 0x34, 0x35, 0x36, 0x37, 0x38, 0x39] = 0xE3069283 := by decide
/-- R256, example: CRC_RUN and CRC_RESULT of unit 3 in context mode. -/
def unit3 : Chip :=
  let c : Chip := { regs := [(0x00240000, 1), (crcB 3, 0x30500000)] }
  (c.crcInit 3).crcFeedBytes 3 [0x31, 0x32, 0x33, 0x34, 0x35, 0x36, 0x37, 0x38, 0x39]
theorem test_crc_run : unit3.reg (crcB 3 + 0x40) = 0x1CF96D7C := by decide
theorem test_crc_result : unit3.crcResult 3 = 0xE3069283 := by decide
/-- R402, example: the checker and TDC registers of P45. -/
theorem test_addresses_of_p45 : pinB 45 + 0x70 = 0x0015A870 ∧ tdcB 45 + 0x90 = 0x00223D90 := by decide
/-- R410, example: TDC_LED_NO_STOP[45] lies at body offset 8,888 of a snapshot. -/
theorem test_snapshot_offset : 8 * snapAddrs.findIdx (· == 0x00223D90) = 8888 := by decide
/-- R270, example: channel, bank and row of a header. -/
theorem test_interleave : chanOf 0x100020000 = 0 ∧ bankOf 0x100020000 = 0 ∧ rowOf 0x100020000 = 16384 := by decide
/-- R55, example: UIs 637 to 639 under PA0, and the first UI under PA1. -/
theorem test_ui_starts :
    uiStart 628292358729 637 = 186367 ∧ uiStart 628292358729 638 = 186660 ∧ uiStart 628292358729 639 = 186953 ∧
      uiFrom (2 ^ 39) (uiStart 628292358729 640) = 732 ∧ uiStart (2 ^ 39) 732 = 187392 := by decide
/-- R84, example: P45 in CH in UI 10, in the three streamed encodings. -/
theorem test_state_of_p45 :
    uiState 0 0 0 (List.replicate 42 0 ++ [0xD0]) 5 10 = (.CH, true) ∧
      uiState 1 0x20 0 (List.replicate 21 0 ++ [0x04]) 5 10 = (.CH, false) ∧
      uiState 2 0 0x0400 (List.replicate 10 0 ++ [0x20]) 5 10 = (.CH, false) := by decide
/-- R126, example: the edge at 1,013.0 ns of G7's SYNC in frame 500 places the next word at frame 516. -/
theorem test_sync_frame :
    ((({ regs := [(grpB 7, 0), (grpB 7 + 4, 0x80)]
         groups := [(7, { owner := some 0, st := 2, judged := false, syncFrame := 500, syncFrom := 500 * 64 * 256
                          syncUi := 500 * 64
                          prog := [{ op := 0x0F, flags := 0, b2 := 4, b3 := 0, w1 := 0, w2 := 0, w3 := 100000 }] })] } :
        Chip).syncEdge (1013 * 16 * 512)).group 7).syncEnd = some 516 := by decide
/-- The worked jitter measurement of file 09: mean and standard deviation of the eight results. -/
theorem test_tdc_statistics :
    ({ count := 8, sum := 328180, sumsq := 13473730294 } : TdcAcc).mean = 41023 ∧
      ({ count := 8, sum := 328180, sumsq := 13473730294 } : TdcAcc).sd = 1171 := by decide
/-- The worked calibration of file 17: lane 20 passes with 5.08. -/
theorem test_chi_square :
    chiSquare (2 ^ 20) [131290, 130801, 131512, 130944, 131105, 130688, 131420, 130816] (List.replicate 8 1) =
      (666134 : Rat) / 131072 := by decide +kernel
/-- The worked time example of file 15: θ of +16 ns steers FREQ and PHASE. -/
theorem test_time_steer :
    let c : Chip := { regs := [(0x00320008, 1000000)], time := { st := 2, freq := 3298535 } }
    (c.steer (16 * 65536)).time.freq = 3280943 ∧ (c.steer (16 * 65536)).time.rate = 3210574 := by decide
/-- The worked ADC example of file 10: a steady 25 mV, differential, at gain 16 and OSR 1 reads 10,486 (10,485.76). -/
theorem test_adc_code :
    (adcCode true false 0 [adcConvert 0x480 25000000]).1 = 10486 ∧ (adcConvert 0x480 (-90000000)).2 = some false := by
  decide

/-! ### Witnesses of the statements -/

/-- A port in data exchange. -/
def up : PortLink := { running := true, step := 6, up := true }
/-- A device in READY with 16 GiB, every feature agreed and both ports up. -/
def rdy : Chip :=
  { dev := { mode := .ready, committed := true, pllLocked := true }
    regs := [(0x40, 0xFFFFFFFF), (0x44, 0x1FF), (0x00300000, 0x10), (0x00300004, 0x0E000000)]
    ports := [(0, up), (1, up)], tm := 1600 }
/-- A state of that device. -/
def st (c : Chip) : State := { chip := c }
def S : State := st rdy
/-- The same device in another mode, or with port 0 changed, or with some registers besides. -/
def inMode (m : DevMode) (c : Chip := rdy) : Chip := { c with dev := { c.dev with mode := m } }
def lnk (p : PortLink) : State := st { rdy with ports := [(0, p), (1, up)] }
def wr (rs : List (Nat × Word)) (c : Chip := rdy) : Chip := rs.foldl (fun c e => c.setReg e.1 e.2) c
def hd : CmdHdr := { port := 0, tag := 5, cmdId := 7, dirty := false }
/-- BOOT before and after the master PLL locks. -/
def boot : State := st {}
def locked : Chip := { dev := { pllLocked := true } }
/-- Bring-up at step k, in coding b. -/
def bring (k b : Nat) : State := lnk { up with up := false, step := k, coding := b }
/-- A configuration image with BOARD_MEM alone (R350 to R353): 64 bytes. -/
def flash : List (Nat × List Byte) :=
  [(0, [0x42, 0x4E, 0x56, 0x4D, 0x0, 0x1, 0x1, 0x0, 0x0, 0x0, 0x10, 0x0, 0x0, 0x0, 0x20, 0x0, 0x0, 0x0, 0x0, 0x0,
   0x0, 0x0, 0x0, 0x0, 0x2E, 0x80, 0x31, 0xB0, 0xFB, 0x5F, 0x34, 0x9E, 0x1, 0x0, 0x0, 0x0, 0x30, 0x0, 0x0, 0x0,
   0x10, 0x0, 0x0, 0x0, 0x21, 0xA, 0xAA, 0xBF, 0x0, 0x1, 0x0, 0x8, 0x10, 0x0, 0x0, 0x0, 0x0, 0x0, 0x0, 0x0, 0x0,
   0x0, 0x0, 0x0])]
def flashed (mb : Nat) : State := st { locked with dev := { locked.dev with flashReady := true, flashMb := mb } }
/-- A REG_RD of tag 9, and port 0 with eight buffers granted for host requests. -/
def rd : Txn := { ttype := 2, tag := 9, tlen := 1, param := 0, addr := 0, data := [] }
def granted : State := st { rdy with led := [(credAdv 0 1, 8)] }
def fr (w : Word) : Frame := { cls := 2, txn := cplFrame 1 true 0 0 0 0 [w] |>.txn }
/-- Port 0 with three frames unacknowledged, after k replays. -/
def sent3 (k : Nat) : State := lnk { up with txSeq := 1, replay := [(254, fr 1), (255, fr 2), (0, fr 3)], replays := k }
/-- Image 0 is loaded, and context 0 holds a task of it, in state k. -/
def env0 : Env := { groups := 3, siteCount := 2, tdcPins := 1 }
def imaged : Chip := { rdy with images := { loaded := [(0, { base := 0x1000, len := 0x1000, env := env0 })] } }
def task (x : Ctx) (c : Chip := imaged) : Chip := { c with sched := { c.sched with ctxs := [(0, x)], gens := [(0, x.gen)] } }
def ctx (k : Nat) : Ctx := { gen := 1, st := k, createSeq := 1 }
def T (k : Nat) : State := st (task (ctx k))
/-- Context 0 holds its resources. -/
def held (c : Chip := imaged) : Chip := task { ctx 6 with held := true } c
/-- Exactly the contexts of a list are live. -/
def crowd (l : List Nat) : State := st { imaged with sched := { ctxs := l.map (fun i => (i, ctx 6)) } }
theorem tabGet_all {α : Type} (d x : α) (n : Nat) : ∀ l : List Nat, n ∈ l → tabGet d (l.map (fun i => (i, x))) n = x
  | j :: l, h => by
    by_cases e : j = n
    · simp [tabGet, e]
    · simpa [tabGet, e, Ne.symm e] using tabGet_all d x n l (by simpa [Ne.symm e] using h)
theorem crowd_none {l : List Nat} (h : ∀ n, n < 4096 → n ∈ l) : (crowd l).chip.freeCtx = none := by
  refine List.find?_eq_none.mpr fun n k => ?_
  have e : (crowd l).chip.ctx n = ctx 6 := tabGet_all ({} : Ctx) (ctx 6) n l (h n (List.mem_range.mp k))
  have : ((crowd l).chip.ctx n).live = true := by rw [e]; decide
  simp [this]
def ops : TaskOps :=
  { image := 0, siteBase := 126, prio := 7, cflags := 0, delay := 0, flags := 0, waitMask := 0, admitTimeout := 0
    linkHandle := 0xFFFFFFFF, linkMask := 0, userTag := 0 }
/-- A calibration at step k with unit 0 on its n-th retry. -/
def cal (k n : Nat) (cmd : Bool) : Chip :=
  { rdy with
    cal := { run := some { byCmd := cmd, groups := 1, hits := 20, step := k, steps := [5], units := [(0, n)], start := 0 } }
    cmd := if cmd then { exec := some (hd, .calRun 0 1 20) } else {} }
/-- Ring 0 is on, 64 KiB, with two committed lines of which one is acknowledged. -/
def ringed : Chip := wr [(ringCfg 0, 0x80100000), (ringWr 0, 256), (Machine.ringAck 0, 128)]
/-- A time exchange on port 0 that began at FRC 100. -/
def ex0 : Exch := { seqid := 5, route := 0, t2 := 0, at2 := 100 }
def exchg (e : Exch) : State := st { rdy with time := { exch := [(0, e)], reqOwed := some 0 } }
/-- Event e waits at the front of the scheduler's port, which Cirque serves next. -/
def evq (e : Event) (c : Chip := rdy) : State := st { c with cirque := { queues := [(15, [e])], last := 14 } }
def ev (acts : List Act) (typ : Nat := 0x8003) : Event := { src := 0x8000, typ := typ, acts := acts }
/-- A READY task of an image with this envelope, before an admission pass that is due. -/
def waiting (e : Env) (others : List (Nat × Ctx) := []) : State :=
  st { imaged with images := { loaded := [(0, { len := 0x1000, env := e })] }, sched := { ctxs := (0, ctx 3) :: others, passDue := true } }
def word (op : Nat) (b2 b3 w1 w2 w3 : Nat := 0) : SeqWord := { op := op, flags := 0, b2 := b2, b3 := b3, w1 := w1, w2 := w2, w3 := w3 }
/-- Group 0 plays frame 0 of a resident DATA1 segment under word 0; word 1 follows, and word 2 is END. -/
def playing (w : SeqWord) : Group :=
  { owner := some 0, prog := [word 2, w, word 0x10], segs := [(0, { enc := 2, frames := 8 })]
    res := (List.range 8).map (fun i => (i, List.replicate 64 0)), st := 1, frame := 1, ui := 64
    walk := { npc := 1, seg := some 0, pos := 1 } }
/-- The same group while word 1 owns the frame that now ends, or its pause or hold. -/
def at1 (w : SeqWord) (k : Nat := 1) : Group :=
  { playing w with st := k, judged := false, walk := { pc := 1, npc := 2, seg := some 0, pos := 2 } }
/-- Its segment streamed, with nothing in the ring. -/
def dry (x : Group) : Group := { x with segs := [(0, { enc := 2, frames := 8, resident := false })] }
def burst (x : Group) (v : Dword := 0) : State :=
  st { task { ctx 6 with held := true, startTm := 1600, view := v } with groups := [(0, x)] }
/-- A frame whose results are not complete, a record, and a converter plan of one entry: launched, by crossing, by timer. -/
def frec : FrameRec := { num := 0, start := 0, mcount := 0, enc := 2, data := List.replicate 64 0x5A, modes := 0 }
def rec0 : Rec := { site := 0, wide := false, words := [1, 2] }
def plan (b0 b2 lim : Byte) : List Byte := [b0, 1, b2, 0, 1, 0, 0, 0, 0, 0, 0, 0, lim] ++ List.replicate 51 0
def run0 : AdcRun := { plan := plan 0 0 0, index := 0, src := 3, task := none }
def samp (kind : Nat) : Samp := { unit := 0, kind := kind, value := 5, signed := false, align := false, ovr := false }
def tdcEntry : List Byte := [0, 0, 0, 0, 16, 0, 0, 0, 32, 0, 0, 0] ++ List.replicate 20 0
def tdc0 (x : Tdc) : State := st { wr [(pinB 0 + 4, 0x10000000)] with tdc := { pins := [(0, x)] } }
/-- A request of ring 0 for the first line of the LPDDR5X. -/
def req0 : Req := { addr := 0, data := some (List.replicate 128 7), who := .ring 0 0 }
def rdq : Req := { addr := 0, who := .blkRd 0 0 }
def rdq1 : Req := { addr := 128, who := .blkRd 0 1 }
def fillq : Req := { addr := 0, who := .fill 0 0 0 }
def mch (m : MemCh) : State := st { rdy with mem := { ch := [(0, m)] } }
/-- A SYNC message. -/
def sync0 : Txn := { ttype := 0x20, tag := 0, tlen := 0, param := 5, addr := 0, data := [] }
/-- Port 0 with one buffer granted for posted requests. -/
def posted : State := st { rdy with led := [(credAdv 0 0, 1)] }
/-- Group 0 plays, and pin 0 is measured from its strobe. -/
def shot (x : Tdc) : State := st { (tdc0 x).chip with groups := [(0, { st := 1, frame := 3 })] }
def sbf : SbFrame := { time := 0, lastAt := 1600 }
/-- Completions wait in every request buffer of port 0, one of which host requests may still take. -/
def full : State := st { rdy with led := [(credAdv 0 1, 1)], ports := [(0, { up with ready := List.replicate 64 (fr 1) }), (1, up)] }
/-- A calibration slot of four body bytes with a SEQ (R358), and the flash that holds A and B. -/
def slotImg (seq : List Byte) : List Byte :=
  [0x42, 0x43, 0x41, 0x4C] ++ seq ++ [4, 0, 0, 0, 0xF4, 0x8C, 0x30, 0x29] ++ List.replicate 44 0 ++ [0x3C, 0x5A, 0xC3, 0xA5, 1, 2, 3, 4]
def slotted (a b : List Byte) : Chip :=
  { rdy with flash := [(8, 0), (9, 0), (10, 16), (11, 0), (12, 0), (13, 0), (14, 32), (15, 0)] ++
      a.zipIdx.map (fun x => (2 ^ 20 + x.2, x.1)) ++ b.zipIdx.map (fun x => (2 ^ 21 + x.2, x.1)) }
theorem runs {i : Instr} {s : State} {P : State → Prop} (h : ∃ t, exec i s = .next t ∧ P t) : ∃ t, exec i s = .next t :=
  h.elim fun t k => ⟨t, k.1⟩

theorem meets_Resets (H : Obligations.Resets) :
    (∃ t, exec (.powerOnReset 10000 3 (⟨false, true⟩)) S = .next t) ∧
    (∃ t, exec (.systemReset 1000 15) S = .next t) ∧
    (∃ t, exec .commandResetStart (st
      { rdy with dev := { rdy.dev with resetWait := some { port := 0, tag := 5, frame := some noteSlot } } }) = .next t) :=
  ⟨runs (H.1 S 10000 3 (⟨false, true⟩) (by decide)),
   runs (H.2.1 S 1000 15 (by decide)),
   runs (H.2.2 (st { rdy with dev := { rdy.dev with resetWait := some { port := 0, tag := 5, frame := some noteSlot } } })
      { port := 0, tag := 5, frame := some noteSlot } (by decide) (by decide))⟩

theorem meets_Clocks (H : Obligations.Clocks) :
    (∃ t, exec (.masterPllLock 4294967294) boot = .next t) ∧
    (∃ t, exec .pllLockTimeout boot = .next t) ∧
    (∃ t, exec .pllUnlock S = .next t) ∧
    (∃ t, exec .refclkLoss boot = .next t) ∧
    (∃ t, exec .refclkLoss S = .next t) ∧
    (∃ t, exec (.refclkRange 501) S = .next t) ∧
    (∃ t, exec (.refclkRange (-501)) (st { rdy with mon := { rangeBlocked := 3 } }) = .next t) ∧
    (∃ t, exec (.refclkRange (-500)) S = .next t) ∧
    (∃ t, exec (.masterPllLock 0) (st { dev := { porst := true } }) = .next t) :=
  ⟨runs (H.1 boot 4294967294 (by decide) (by decide) (by decide) (by decide)),
   runs (H.2.1 boot (by decide) (by decide) (by decide) (by decide)),
   runs (H.2.2.1 S (by decide)),
   runs (H.2.2.2.1 boot (by decide) (by decide) (by decide)),
   runs (H.2.2.2.2.1 S (by decide) (by decide)),
   runs (H.2.2.2.2.2.1 S 501 (by decide) (by decide) (by decide)),
   runs (H.2.2.2.2.2.2.1 (st { rdy with mon := { rangeBlocked := 3 } }) (-501) (by decide) (by decide) (by decide)),
   runs (H.2.2.2.2.2.2.2.1 S (-500) (by decide) (by decide)),
   runs (H.2.2.2.2.2.2.2.2 (st { dev := { porst := true } }) 0 501 (by decide))⟩

theorem meets_DieTemperature (H : Obligations.DieTemperature) :
    (∃ t, exec (.tjHigh 3 1101) S = .next t) ∧
    (∃ t, exec (.tjHigh 3 2000) (st { rdy with mon := { tjHigh := [3] } }) = .next t) ∧
    (∃ t, exec (.tjHighRearm 3 1049) (st { rdy with mon := { tjHigh := [3] } }) = .next t) ∧
    (∃ t, exec (.tjTrip 0 1201) S = .next t) :=
  ⟨runs (H.1 S 3 1101 (by decide) (by decide) (by decide)),
   runs (H.2.1 (st { rdy with mon := { tjHigh := [3] } }) 3 2000 (by decide)),
   runs (H.2.2.1 (st { rdy with mon := { tjHigh := [3] } }) 3 1049 (by decide) (by decide)),
   runs (H.2.2.2 S 0 1201 (by decide) (by decide))⟩

theorem meets_TestAccessPort (H : Obligations.TestAccessPort) :
    (∃ t, exec .faultread S = .next t) ∧
    (∃ t, exec .extest S = .next t) ∧
    (∃ t, exec .extest (st (inMode .fault)) = .next t) ∧
    (∃ t, exec .testLogicReset S = .next t) :=
  ⟨runs (H.1 S),
   runs (H.2.1 S),
   runs (H.2.1 (st (inMode .fault))),
   runs (H.2.2 S)⟩

theorem meets_ConfigFlash (H : Obligations.ConfigFlash) :
    (∃ t, exec (.flashReadyPoll true true 64) (st locked) = .next t) ∧
    (∃ t, exec (.flashReadyPoll true true 512) (st locked) = .next t) ∧
    (∃ t, exec (.flashReadyPoll true true 513) (st locked) = .next t) ∧
    (∃ t, exec (.flashReadyPoll false true 64) (st locked) = .next t) ∧
    (∃ t, exec .nvmTimeout (st locked) = .next t) ∧
    (∃ t, exec .spiReadTimeout (flashed 64) = .next t) ∧
    (∃ t, exec .spiReadTimeout (st
      { rdy with cal := { storing := some (0, 1) }, cmd := { exec := some (hd, .calStore) } }) = .next t) ∧
    (∃ t, exec (.configImageApplied [] []) (flashed 64) = .next t) ∧
    (∃ t, exec (.configImageApplied flash []) (flashed 64) = .next t) :=
  ⟨runs (H.1 (st locked) 64 (by decide) (by decide) (by decide) (by decide) (by decide)),
   runs (H.1 (st locked) 512 (by decide) (by decide) (by decide) (by decide) (by decide)),
   runs (H.2.1 (st locked) true true 513 (by decide) (by decide) (by decide) (by decide) (by decide)),
   runs (H.2.1 (st locked) false true 64 (by decide) (by decide) (by decide) (by decide) (by decide)),
   runs (H.2.2.1 (st locked) (by decide) (by decide) (by decide) (by decide)),
   runs (H.2.2.2.1 (flashed 64) (by decide) (by decide) (by decide)),
   runs (H.2.2.2.2.1 (st { rdy with cal := { storing := some (0, 1) }, cmd := { exec := some (hd, .calStore) } }) hd (0, 1)
      (by decide) (by decide) (by decide)),
   runs (H.2.2.2.2.2.1 (flashed 64) [] [] (by decide) (by decide) (by decide) (by decide)),
   runs (H.2.2.2.2.2.2 (flashed 64) flash [] (by decide +kernel) (by decide +kernel) (by decide +kernel) (by decide +kernel))⟩

theorem meets_LinkLanes (H : Obligations.LinkLanes) :
    (∃ t, exec (.clockCheckWindow 0 false 0) S = .next t) ∧
    (∃ t, exec (.clockCheckWindow 1 true 301) S = .next t) ∧
    (∃ t, exec (.clockCheckWindow 0 true (-300)) S = .next t) ∧
    (∃ t, exec (.linkMarkerReceived 0 3 (BitVec.ofNat 8 3) 9) S = .next t) ∧
    (∃ t, exec (.linkMarkerReceived 0 3 (BitVec.ofNat 8 3) 9) (st
      { rdy with tm := 100000, ports := [(0, { up with markers := [(2, 9, 99000), (1, 8, 73785)] })] }) = .next t) ∧
    (∃ t, exec (.linkMarkerReceived 0 3 2 9) S = .next t) ∧
    (∃ t, exec (.linkMarkerReceived 0 3 3 9) (lnk { up with markers := [(2, 8, 1600)] }) = .next t) ∧
    (∃ t, exec (.linkMarkerReceived 0 2 1 9) (lnk { up with compat := true }) = .next t) ∧
    (∃ t, exec (.lossOfCommaAlignment 0 3 [.code]) (lnk { up with compat := true }) = .next t) ∧
    (∃ t, exec (.linkMarkerTimeout 0 3) S = .next t) ∧
    (∃ t, exec (.mfSweepDone 0 1 0) (st (wr [(0x0031000C, 0x00000410)])) = .next t) ∧
    (∃ t, exec (.mfSweepDone 0 1 (BitVec.ofNat 128 (2 ^ 64))) S = .next t) ∧
    (∃ t, exec (.lossOfCommaAlignment 1 2 [.code, .code, .code, .code]) S = .next t) ∧
    (∃ t, exec (.lossOfCommaAlignment 1 2 [.good, .spare, .stray]) S = .next t) ∧
    (∃ t, exec (.lossOfCommaAlignment 0 0 [.stray, .good]) (bring 6 0) = .next t) :=
  ⟨runs (H.1 S 0 false 0 (by decide) (by decide)),
   runs (H.1 S 1 true 301 (by decide) (by decide)),
   runs (H.2.1 S 0 (-300) (by decide) (by decide)),
   runs (H.2.2.1 S 0 3 9 (by decide) (by decide) (by decide)),
   runs (H.2.2.1 (st { rdy with tm := 100000, ports := [(0, { up with markers := [(2, 9, 99000), (1, 8, 73785)] })] }) 0 3 9
      (by decide) (by decide) (by decide)),
   runs (H.2.2.2.1 S 0 3 2 9 (by decide) (by decide) (by decide) (by decide)),
   runs (H.2.2.2.1 (lnk { up with markers := [(2, 8, 1600)] }) 0 3 3 9 (by decide) (by decide) (by decide) (by decide)),
   runs ((H.2.2.2.2.1 (lnk { up with compat := true }) 0 2 1 9 [.spare] (by decide)).1),
   runs ((H.2.2.2.2.1 (lnk { up with compat := true }) 0 3 1 9 [.code] (by decide)).2),
   runs (H.2.2.2.2.2.1 S 0 3 (by decide) (by decide)),
   runs (H.2.2.2.2.2.2.1 (st (wr [(0x0031000C, 0x00000410)])) 0 1 0 (by decide) (by decide)),
   runs (H.2.2.2.2.2.2.1 S 0 1 (BitVec.ofNat 128 (2 ^ 64)) (by decide) (by decide)),
   runs (H.2.2.2.2.2.2.2.1 S 1 2 (by decide) (by decide) (by decide) (by decide)),
   runs (H.2.2.2.2.2.2.2.2.1 S 1 2 [.good, .spare, .stray] (by decide) (by decide) (by decide) (by decide)),
   runs (H.2.2.2.2.2.2.2.2.2 (bring 6 0) 0 0 [.stray, .good] (by decide) (by decide) (by decide))⟩

theorem meets_BringUp (H : Obligations.BringUp) :
    (∃ t, exec (.bringupStepDone 0 [] []) (bring 0 0) = .next t) ∧
    (∃ t, exec (.bringupStepDone 0 [] []) (bring 1 0) = .next t) ∧
    (∃ t, exec (.bringupStepDone 0 [] []) (bring 3 0) = .next t) ∧
    (∃ t, exec (.bringupStepDone 0 [] [0, 48, 20, 1]) (bring 4 0) = .next t) ∧
    (∃ t, exec (.bringupStepDone 0 [] [0, 49, 20, 1]) (bring 4 0) = .next t) ∧
    (∃ t, exec (.bringupStepDone 0 [] []) (bring 5 0) = .next t) ∧
    (∃ t, exec (.dataFrameSend 0) (st
      { rdy with ports := [(0, { up with up := false, ctrl := [.init [1, 2, 3] false 0] }), (1, up)] }) = .next t) ∧
    (∃ t, exec (.bringupTimeout 0) (bring 2 0) = .next t) ∧
    (∃ t, exec (.autoCodingSwitch 0) (bring 2 2) = .next t) ∧
    (∃ t, exec (.initReceived 0 1024 0 1 ⟨true, 3⟩) (bring 6 0) = .next t) ∧
    (∃ t, exec (.initReceived 0 1 0 1 ⟨true, 0⟩) (st (inMode .linking (bring 6 0).chip)) = .next t) ∧
    (∃ t, exec (.initReceived 0 1 0 1 ⟨true, 0⟩) S = .next t) ∧
    (∃ t, exec (.initReceived 0 1 0 1 ⟨true, 0⟩) (lnk { up with coding := 1, compat := true }) = .next t) :=
  ⟨runs (H.1 (bring 0 0) 0 [] [] (by decide) (by decide) (by decide) (by decide)),
   runs (H.1 (bring 1 0) 0 [] [] (by decide) (by decide) (by decide) (by decide)),
   runs (H.1 (bring 3 0) 0 [] [] (by decide) (by decide) (by decide) (by decide)),
   runs (H.2.1 (bring 4 0) 0 [] [0, 48, 20, 1] (by decide) (by decide) (by decide) (by decide)),
   runs (H.2.1 (bring 4 0) 0 [] [0, 49, 20, 1] (by decide) (by decide) (by decide) (by decide)),
   runs (H.2.2.1 (bring 5 0) 0 [] [] (by decide) (by decide) (by decide) (by decide)),
   runs (H.2.2.2.1 (st { rdy with ports := [(0, { up with up := false, ctrl := [.init [1, 2, 3] false 0] }), (1, up)] }) 0
      (by decide) (by decide) (by decide) (by decide)),
   runs (H.2.2.2.2.1 (bring 2 0) 0 (by decide) (by decide) (by decide)),
   runs (H.2.2.2.2.2.1 (bring 2 2) 0 (by decide) (by decide) (by decide)),
   runs (H.2.2.2.2.2.2.1 (bring 6 0) 0 1024 0 1 3 (by decide) (by decide) (by decide) (by decide)),
   runs (H.2.2.2.2.2.2.1 (st (inMode .linking (bring 6 0).chip)) 0 1 0 1 0 (by decide) (by decide) (by decide) (by decide)),
   runs (H.2.2.2.2.2.2.2 S 0 1 0 1 true 0 (by decide)),
   runs (H.2.2.2.2.2.2.2 (lnk { up with coding := 1, compat := true }) 0 1 0 1 true 0 (by decide))⟩

theorem meets_DataFrames (H : Obligations.DataFrames) :
    (∃ t, exec (.dataFrameReceived 0 (BitVec.ofNat 8 (granted.chip.port 0).rxSeq) 1 none rd) granted = .next t) ∧
    (∃ t, exec (.dataFrameReceived 0 (BitVec.ofNat 8 (full.chip.port 0).rxSeq) 1 none rd) full = .next t) ∧
    (∃ t, exec (.dataFrameReceived 0 (BitVec.ofNat 8 (S.chip.port 0).rxSeq) 2 none rd) S = .next t) ∧
    (∃ t, exec (.dataFrameReceived 0 (BitVec.ofNat 8 ((S.chip.port 0).rxSeq + 256 - 1)) 1 none rd) S = .next t) ∧
    (∃ t, exec (.dataFrameReceived 0 (BitVec.ofNat 8 ((S.chip.port 0).rxSeq + 256 - 64)) 2 none rd) S = .next t) ∧
    (∃ t, exec (.dataFrameReceived 0 (BitVec.ofNat 8 ((S.chip.port 0).rxSeq + 191)) 1 none rd) S = .next t) ∧
    (∃ t, exec (.dataFrameReceived 0 (BitVec.ofNat 8 ((S.chip.port 0).rxSeq + 1)) 2 none rd) S = .next t) ∧
    (∃ t, exec (.dataFrameReceived 0 (BitVec.ofNat 8 (posted.chip.port 0).rxSeq) 0 none sync0) posted = .next t) ∧
    (∃ t, exec (.dataFrameReceived 0 (BitVec.ofNat 8 (posted.chip.port 0).rxSeq) 0 none
      { sync0 with tag := 1 }) posted = .next t) ∧
    (∃ t, exec (.dataFrameReceived 0 0 3 none rd) S = .next t) ∧
    (∃ t, exec (.dataFrameReceived 0 0 1 (some 255) { rd with data := List.replicate 133 0 }) S = .next t) ∧
    (∃ t, exec (.badFrameReceived 1 ⟨true, [(3, [.stray, .good])]⟩) S = .next t) ∧
    (∃ t, exec (.badFrameReceived 0 ⟨false, [(3, [.code, .code, .code, .code])]⟩) S = .next t) ∧
    (∃ t, exec (.badFrameReceived 0 ⟨true, [(0, [.good]), (3, [.stray])]⟩) S = .next t) :=
  ⟨runs (H.1 granted 0 rd (by decide) (by decide) (by decide) (by decide) (by decide) (by decide) (by decide) (by decide)),
   runs (H.2.1 full 0 rd (by decide) (by decide) (by decide) (by decide) (by decide)),
   runs (H.2.2.1 S 0 2 rd (by decide) (by decide) (by decide) (by decide) (by decide)),
   runs (H.2.2.2.1 S 0 1 1 rd (by decide) (by decide) (by decide) (by decide) (by decide) (by decide)),
   runs (H.2.2.2.1 S 0 2 64 rd (by decide) (by decide) (by decide) (by decide) (by decide) (by decide)),
   runs (H.2.2.2.2.1 S 0 1 191 rd (by decide) (by decide) (by decide) (by decide) (by decide) (by decide) (by decide)),
   runs (H.2.2.2.2.1 S 0 2 1 rd (by decide) (by decide) (by decide) (by decide) (by decide) (by decide) (by decide)),
   runs (H.2.2.2.2.2.1 posted 0 sync0 (by decide) (by decide) (by decide) (by decide)),
   runs (H.2.2.2.2.2.1 posted 0 { sync0 with tag := 1 } (by decide) (by decide) (by decide) (by decide)),
   runs (H.2.2.2.2.2.2.1 S 0 3 0 none rd (by decide) (by decide) (by decide)),
   runs (H.2.2.2.2.2.2.1 S 0 1 0 (some 255) { rd with data := List.replicate 133 0 } (by decide) (by decide) (by decide)),
   runs (H.2.2.2.2.2.2.2.1 S 1 true 3 [.stray, .good] (by decide) (by decide) (by decide) (by decide)),
   runs (H.2.2.2.2.2.2.2.2.1 S 0 false 3 (by decide) (by decide) (by decide)),
   runs (H.2.2.2.2.2.2.2.2.2 S 0 true [(0, [.good]), (3, [.stray])] (by decide) (by decide) (by decide) (by decide))⟩

theorem meets_Replay (H : Obligations.Replay) :
    (∃ t, exec (.ackReceived 0 (some 254)) (sent3 2) = .next t) ∧
    (∃ t, exec (.ackReceived 0 none) (sent3 2) = .next t) ∧
    (∃ t, exec (.nakReceived 0 none) (sent3 2) = .next t) ∧
    (∃ t, exec (.nakReceived 0 (some 255)) (sent3 2) = .next t) ∧
    (∃ t, exec (.replayTimeout 0) (sent3 2) = .next t) ∧
    (∃ t, exec (.replayTimeout 0) (sent3 3) = .next t) ∧
    (∃ t, exec (.nakResendTimeout 0) (lnk { up with nakOut := true }) = .next t) :=
  ⟨runs (H.1 (sent3 2) 0 254 [] [(255, fr 2), (0, fr 3)] (fr 1) (by decide) (by decide) (by decide)),
   runs (H.2.1 (sent3 2) 0 (by decide)),
   runs (H.2.2.1 (sent3 2) 0 (by decide) (by decide) (by decide)),
   runs (H.2.2.2.1 (sent3 2) 0 255 [(254, fr 1)] [(0, fr 3)] (fr 2) (by decide) (by decide) (by decide) (by decide)),
   runs (H.2.2.2.2.1 (sent3 2) 0 (by decide) (by decide) (by decide)),
   runs (H.2.2.2.2.2.1 (sent3 3) 0 (by decide) (by decide) (by decide)),
   runs (H.2.2.2.2.2.2 (lnk { up with nakOut := true }) 0 (by decide) (by decide))⟩

theorem meets_Credit (H : Obligations.Credit) :
    (∃ t, exec (.creditReceived ⟨0, none⟩ 1024 0 1024) S = .next t) ∧
    (∃ t, exec (.creditReceived ⟨0, (some 255)⟩ 0 5 0) (sent3 0) = .next t) ∧
    (∃ t, exec (.creditReceived ⟨0, none⟩ 1025 0 0) S = .next t) ∧
    (∃ t, exec (.creditTimer 0) (st { rdy with led := [(credFreed 0 1, 3)] }) = .next t) :=
  ⟨runs (H.1 S 0 1024 0 1024 none (by decide) (by decide)),
   runs (H.1 (sent3 0) 0 0 5 0 (some 255) (by decide) (by decide)),
   runs (H.2.1 S 0 1025 0 0 none (by decide) (by decide)),
   runs (H.2.2 (st { rdy with led := [(credFreed 0 1, 3)] }) 0 1 (by decide) (by decide))⟩

theorem meets_FailOver (H : Obligations.FailOver) :
    (∃ t, exec (.clockCheckWindow 0 false 301) (sent3 0) = .next t) ∧
    (∃ t, exec (.resumeReceived ⟨0, none⟩ 3 true) (st
      { rdy with failover := some { failed := 1, held := [(3, fr 1), (4, fr 2)] } }) = .next t) ∧
    (∃ t, exec .resumeTimeout (st { rdy with failover := some { failed := 1, held := [(3, fr 1), (4, fr 2)] } }) = .next t) :=
  ⟨runs (H.1 (sent3 0) 0 301 (by decide) (by decide) (by decide) (by decide)),
   runs (H.2.1 (st { rdy with failover := some { failed := 1, held := [(3, fr 1), (4, fr 2)] } }) 0 none 3 [(3, fr 1),
      (4, fr 2)] [(4, fr 2)] [] (fr 1) 1 (by decide) (by decide) (by decide) (by decide) (by decide) (by decide)),
   runs (H.2.2 (st { rdy with failover := some { failed := 1, held := [(3, fr 1), (4, fr 2)] } })
      { failed := 1, held := [(3, fr 1), (4, fr 2)] } (by decide))⟩

theorem meets_Sending (H : Obligations.Sending) :
    (∃ t, exec (.dataFrameSend 0) (lnk { up with ready := [fr 1], txSeq := 255, hostCc := [(2, 1)] }) = .next t) ∧
    (∃ t, exec (.dataFrameSend 0) (lnk
      { up with ready := [fr 1], replay := (List.range 64).map (fun i => (i, fr 2)) }) = .next t) ∧
    (∃ t, exec (.dataFrameSend 0) (lnk { up with ackOwed := true, rxSeq := 9, ready := [fr 1] }) = .next t) ∧
    (∃ t, exec (.dataFrameSend 0) (st
      { rdy with ports := [(0, { up with timeReady := [{ cls := 0, txn := { ttype := 0x22, tag := 0, tlen := 8, param := 5, addr := 0, data := [0, 0] } }], hostCc := [(0, 1)] })], time := { exch := [(0, { seqid := 5, route := 0, t2 := 0, at2 := 100 })] } }) = .next t) ∧
    (∃ t, exec (.dataFrameSend 0) (st
      { rdy with notes := (List.range 23).map (fun i => { seq := i, frc := 0, src := 0, typ := 0, count := 1 }), ports := [(0, { up with ready := [noteSlot], hostCc := [(0, 1)] })] }) = .next t) ∧
    (∃ t, exec (.notifyHoldExpiry 0) (st
      { rdy with notes := (List.range 22).map (fun i => { seq := i, frc := 0, src := 0, typ := 0, count := 1 }) }) = .next t) ∧
    (∃ t, exec (.dataFrameSend 0) (lnk { up with ready := [noteSlot] }) = .next t) :=
  ⟨runs (H.1 (lnk { up with ready := [fr 1], txSeq := 255, hostCc := [(2, 1)] }) 0 (fr 1) (by decide) (by decide) (by decide)
      (by decide) (by decide)),
   runs (H.2.1 (lnk { up with ready := [fr 1], replay := (List.range 64).map (fun i => (i, fr 2)) }) 0 (by decide) (by decide)
      (by decide)),
   runs (H.2.2.1 (lnk { up with ackOwed := true, rxSeq := 9, ready := [fr 1] }) 0 (by decide) (by decide) (by decide) (by decide)
      (by decide)),
   runs (H.2.2.2.1 (st { rdy with ports := [(0, { up with timeReady := [{ cls := 0, txn := { ttype := 0x22, tag := 0, tlen := 8, param := 5, addr := 0, data := [0, 0] } }], hostCc := [(0, 1)] })], time := { exch := [(0, { seqid := 5, route := 0, t2 := 0, at2 := 100 })] } }) 0
      ({ cls := 0, txn := { ttype := 0x22, tag := 0, tlen := 8, param := 5, addr := 0, data := [0, 0] } })
      { seqid := 5, route := 0, t2 := 0, at2 := 100 } (by decide) (by decide) (by decide) (by decide) (by decide) (by decide)
      (by decide)),
   runs (H.2.2.2.2.1 (st { rdy with notes := (List.range 23).map (fun i => { seq := i, frc := 0, src := 0, typ := 0, count := 1 }), ports := [(0, { up with ready := [noteSlot], hostCc := [(0, 1)] })] }) 0
      (by decide) (by decide) (by decide) (by decide)),
   runs (H.2.2.2.2.2.1 (st { rdy with notes := (List.range 22).map (fun i => { seq := i, frc := 0, src := 0, typ := 0, count := 1 }) }) 0
      (by decide) (by decide) (by decide) (by decide)),
   runs (H.2.2.2.2.2.2 (lnk { up with ready := [noteSlot] }) 0 (by decide) (by decide) (by decide) (by decide) (by decide))⟩

theorem meets_DeviceStates (H : Obligations.DeviceStates) :
    (∃ t, exec (.negotiateCommit hd 3) (st (wr [(0x20, 5), (0x30, 7)] (inMode .negotiate))) = .next t) ∧
    (∃ t, exec (.devReset hd) S = .next t) ∧
    (∃ t, exec (.devQuiesce hd) S = .next t) ∧
    (∃ t, exec (.devResume hd) (st (inMode .quiesce)) = .next t) ∧
    (∃ t, exec (.devLowpower hd) S = .next t) ∧
    (∃ t, exec (.devWake hd) (st (inMode .lowpower)) = .next t) ∧
    (∃ t, exec .wakeDone (st { inMode .lowpower with cmd := { exec := some (hd, .devWake) } }) = .next t) :=
  ⟨runs (H.1 (st (wr [(0x20, 5), (0x30, 7)] (inMode .negotiate))) hd 3 (by decide)),
   runs (H.2.1 S hd (by decide)),
   runs (H.2.2.1 S hd (by decide) (by decide)),
   runs (H.2.2.2.1 (st (inMode .quiesce)) hd (by decide)),
   runs (H.2.2.2.2.1 S hd (by decide)),
   runs (H.2.2.2.2.2.1 (st (inMode .lowpower)) hd (by decide)),
   runs (H.2.2.2.2.2.2 (st { inMode .lowpower with cmd := { exec := some (hd, .devWake) } }) hd (by decide) (by decide))⟩

theorem meets_CommandJudgement (H : Obligations.CommandJudgement) :
    (∃ t, exec (.devWake hd) S = .next t) ∧
    (∃ t, exec (.memRetrain hd 4) S = .next t) ∧
    (∃ t, exec (.calStore hd) (st
      { wr [(0x00300004, 0x10000000)] with cmd := { exec := some ({ hd with tag := 1 }, .memRetrain 3) } }) = .next t) ∧
    (∃ t, exec (.snapshot hd) (st { rdy with cmd := { exec := some ({ hd with tag := 1 }, .devReset) } }) = .next t) ∧
    (∃ t, exec (.snapshot hd) (st
      { rdy with cmd := { queue := List.replicate 31 ({ hd with tag := 1 }, .devReset) } }) = .next t) ∧
    (∃ t, exec (.snapshot hd) (st
      { rdy with cmd := { queue := List.replicate 32 ({ hd with tag := 1 }, .devReset) } }) = .next t) ∧
    (∃ t, exec .commandStart (st
      { inMode .ready with cmd := { queue := [(hd, .devWake)] }, snap := { held := [63] } }) = .next t) ∧
    (∃ t, exec .commandStart (st
      { inMode .ready with cmd := { queue := [(hd, .snapRelease 63)] }, snap := { held := [63] } }) = .next t) ∧
    (∃ t, exec .commandStart (st { rdy with cmd := { exec := some ({ hd with tag := 1 }, .devReset) } }) = .next t) :=
  ⟨runs (H.1 S (.devWake hd) hd .devWake (by decide) (by decide) (by decide) (by decide)),
   runs (H.2.1 S (.memRetrain hd 4) hd (.memRetrain 4) (by decide) (by decide) (by decide) (by decide) (by decide)),
   runs (H.2.2.1 (st { wr [(0x00300004, 0x10000000)] with cmd := { exec := some ({ hd with tag := 1 }, .memRetrain 3) } })
      (.calStore hd) hd .calStore (by decide) (by decide) (by decide) (by decide) (by decide) (by decide)),
   runs (H.2.2.2.1 (st { rdy with cmd := { exec := some ({ hd with tag := 1 }, .devReset) } }) (.snapshot hd) hd .snapshot
      (by decide) (by decide) (by decide) (by decide) (by decide) (by decide) (by decide)),
   runs (H.2.2.2.1 (st { rdy with cmd := { queue := List.replicate 31 ({ hd with tag := 1 }, .devReset) } })
      (.snapshot hd) hd .snapshot (by decide) (by decide) (by decide) (by decide) (by decide) (by decide) (by decide)),
   runs (H.2.2.2.2.1 (st { rdy with cmd := { queue := List.replicate 32 ({ hd with tag := 1 }, .devReset) } })
      (.snapshot hd) hd .snapshot (by decide) (by decide)),
   runs (H.2.2.2.2.2.1 (st { inMode .ready with cmd := { queue := [(hd, .devWake)] }, snap := { held := [63] } }) hd .devWake []
      (by decide) (by decide) (by decide) (by decide) (by decide)),
   runs (H.2.2.2.2.2.2.1 (st
      { inMode .ready with cmd := { queue := [(hd, .snapRelease 63)] }, snap := { held := [63] } }) hd 63 [] (by decide)
      (by decide) (by decide) (by decide) (by decide) (by decide)),
   runs (H.2.2.2.2.2.2.2 (st { rdy with cmd := { exec := some ({ hd with tag := 1 }, .devReset) } }) (by decide))⟩

theorem meets_Snapshots (H : Obligations.Snapshots) :
    (∃ t, exec (.snapshot hd) (st { rdy with snap := { held := [0] } }) = .next t) ∧
    (∃ t, exec (.snapshot hd) (st { rdy with snap := { held := List.range 64 } }) = .next t) ∧
    (∃ t, exec (.snapshot hd) (st { inMode .fault with dev := { rdy.dev with mode := .fault, memFailed := true } }) = .next t) ∧
    (∃ t, exec .snapshotFrameWritten (st
      { rdy with snap := { held := [3], busy := some (3, 9, 100, []) }, cmd := { exec := some (hd, .snapshot) } }) = .next t) ∧
    (∃ t, exec .snapshotFrameWritten (st
      { wr [(0x00300004, 0)] with mem := { ch := [(0, { host := [{ addr := 0, who := .snap 0 }] })] } }) = .next t) ∧
    (∃ t, exec (.snapRelease hd 63) (st { rdy with snap := { held := [63] } }) = .next t) ∧
    (∃ t, exec (.snapRelease hd 64) (st { rdy with snap := { held := [63] } }) = .next t) :=
  ⟨runs (H.1 (st { rdy with snap := { held := [0] } }) hd 1 (by decide) (by decide) (by decide) (by decide) (by decide)),
   runs (H.2.2.1 (st { rdy with snap := { held := List.range 64 } }) hd (by decide) (by decide)
      (fun j h => List.mem_range.mpr h)),
   runs (H.2.2.2.1 (st { inMode .fault with dev := { rdy.dev with mode := .fault, memFailed := true } }) hd (by decide)
      (by decide) (by decide)),
   runs (H.2.2.2.2.1 (st { rdy with snap := { held := [3], busy := some (3, 9, 100, []) }, cmd := { exec := some (hd, .snapshot) } }) hd 3 9 100 []
      (by decide) (by decide) (by decide)),
   runs (H.2.2.2.2.2.1 (st { wr [(0x00300004, 0)] with mem := { ch := [(0, { host := [{ addr := 0, who := .snap 0 }] })] } })
      (by decide) (by decide)),
   runs (H.2.2.2.2.2.2.1 (st { rdy with snap := { held := [63] } }) hd 63 (by decide) (by decide)),
   runs (H.2.2.2.2.2.2.2 (st { rdy with snap := { held := [63] } }) hd 64 (by decide) (by decide))⟩

theorem meets_ImageCommands (H : Obligations.ImageCommands) :
    (∃ t, exec (.imageLoad hd 0x1000) S = .next t) ∧
    (∃ t, exec (.imageLoad hd 0) (st { rdy with images := { loaded := List.replicate 256 (0, {}) } }) = .next t) ∧
    (∃ t, exec (.imageLoad hd 0x800) S = .next t) ∧
    (∃ t, exec (.imageLoad hd 0x400000000) S = .next t) ∧
    (∃ t, exec (.imageCheckDone none) (st
      { rdy with images := { check := some (0, 256), asked := 1, got := 1 }, cmd := { exec := some (hd, .imageLoad 0) } }) = .next t) ∧
    (∃ t, exec (.imageCheckDone none) (st (wr [(0x00300004, 0)])) = .next t) ∧
    (∃ t, exec (.imageUnload hd 0) (st imaged) = .next t) ∧
    (∃ t, exec (.imageUnload hd 0) (T 6) = .next t) ∧
    (∃ t, exec (.imageUnload hd 1) (st imaged) = .next t) :=
  ⟨runs (H.1 S hd 0x1000 (by decide) (by decide)),
   runs (H.2.1 (st { rdy with images := { loaded := List.replicate 256 (0, {}) } }) hd 0 (by decide +kernel) (by decide +kernel)),
   runs (H.2.2.1 S hd 0x800 (by decide) (by decide) (by decide) (by decide)),
   runs (H.2.2.1 S hd 0x400000000 (by decide) (by decide) (by decide) (by decide)),
   runs (H.2.2.2.1 (st { rdy with images := { check := some (0, 256), asked := 1, got := 1 }, cmd := { exec := some (hd, .imageLoad 0) } }) hd none 0 256 0
      (by decide) (by decide) (by decide) (by decide) (by decide) (fun _ h => absurd h (Nat.not_lt_zero _))),
   runs (H.2.2.2.2.1 (st (wr [(0x00300004, 0)])) none (by decide) (by decide)),
   runs (H.2.2.2.2.2.1 (st imaged) hd 0 (by decide) (by decide) (by decide)),
   runs (H.2.2.2.2.2.2.1 (T 6) hd 0 (by decide) (by decide) (by decide)),
   runs (H.2.2.2.2.2.2.2 (st imaged) hd 1 (by decide) (by decide))⟩

theorem meets_TaskCreation (H : Obligations.TaskCreation) :
    (∃ t, exec (.taskCreate hd ops) (st imaged) = .next t) ∧
    (∃ t, exec (.taskCreate hd { ops with cflags := 1, waitMask := 3, flags := 1, delay := 5 }) (st imaged) = .next t) ∧
    (∃ t, exec (.taskCreate hd { ops with delay := 5 }) (st imaged) = .next t) ∧
    (∃ t, exec (.taskCreate hd { ops with linkMask := 1 }) (st imaged) = .next t) ∧
    (∃ t, exec (.taskCreate hd { ops with prio := 8 }) (st imaged) = .next t) ∧
    (∃ t, exec (.taskCreate hd { ops with image := 1 }) (st imaged) = .next t) ∧
    (∃ t, exec (.taskCreate hd ops) (crowd (List.range 4096)) = .next t) :=
  ⟨runs (H.1 (st imaged) hd ops 0 (by decide) (by decide) (by decide) (by decide) (by decide)),
   runs (H.1 (st imaged) hd { ops with cflags := 1, waitMask := 3, flags := 1, delay := 5 } 0 (by decide) (by decide) (by decide)
      (by decide) (by decide)),
   runs (H.1 (st imaged) hd { ops with delay := 5 } 0 (by decide) (by decide) (by decide) (by decide) (by decide)),
   runs (H.2.1 (st imaged) hd { ops with linkMask := 1 } (by decide) (by decide) (by decide) (by decide)),
   runs (H.2.1 (st imaged) hd { ops with prio := 8 } (by decide) (by decide) (by decide) (by decide)),
   runs (H.2.2.1 (st imaged) hd { ops with image := 1 } (by decide) (by decide)),
   runs (H.2.2.2 (crowd (List.range 4096)) hd ops (by decide) (by decide) (by decide) (by decide)
      (crowd_none fun _ h => List.mem_range.mpr h))⟩

theorem meets_TaskCommands (H : Obligations.TaskCommands) :
    (∃ t, exec (.taskCancel hd 4096) (T 5) = .next t) ∧
    (∃ t, exec (.taskCancel hd 4096) (T 6) = .next t) ∧
    (∃ t, exec (.taskCancel hd 4096) (T 7) = .next t) ∧
    (∃ t, exec (.taskCancel hd 4096) (st (task { ctx 7 with pend := some 8 })) = .next t) ∧
    (∃ t, exec (.taskFlags hd 4096 1 2) (T 1) = .next t) ∧
    (∃ t, exec (.taskPrio hd 4096 7) (T 4) = .next t) ∧
    (∃ t, exec (.taskPrio hd 4096 7) (T 5) = .next t) ∧
    (∃ t, exec (.taskPrio hd 4096 8) (T 4) = .next t) ∧
    (∃ t, exec (.taskCancel hd 8192) (T 4) = .next t) ∧
    (∃ t, exec (.taskFlags hd 8192 0 0) (T 4) = .next t) ∧
    (∃ t, exec (.taskPrio hd 8192 7) (T 4) = .next t) :=
  ⟨runs (H.1 (T 5) hd 4096 0 (by decide) (by decide) (by decide) (by decide)),
   runs (H.2.1 (T 6) hd 4096 0 (by decide) (by decide) (by decide) (by decide)),
   runs (H.2.2.1 (T 7) hd 4096 0 (by decide) (by decide) (by decide) (by decide)),
   runs (H.2.2.2.1 (st (task { ctx 7 with pend := some 8 })) hd 4096 0 8 (by decide) (by decide) (by decide) (by decide)
      (by decide)),
   runs (H.2.2.2.2.1 (T 1) hd 4096 1 2 0 (by decide) (by decide)),
   runs (H.2.2.2.2.2.1 (T 4) hd 4096 7 0 (by decide) (by decide) (by decide)),
   runs (H.2.2.2.2.2.2.1 (T 5) hd 4096 7 0 (by decide) (by decide) (by decide)),
   runs (H.2.2.2.2.2.2.2.1 (T 4) hd 4096 8 (by decide) (by decide) (by decide) (by decide)),
   runs ((H.2.2.2.2.2.2.2.2 (T 4) hd 8192 0 0 7 (by decide)).1 (by decide)),
   runs ((H.2.2.2.2.2.2.2.2 (T 4) hd 8192 0 0 7 (by decide)).2.1 (by decide)),
   runs ((H.2.2.2.2.2.2.2.2 (T 4) hd 8192 0 0 7 (by decide)).2.2 (by decide))⟩

theorem meets_MemoryCommands (H : Obligations.MemoryCommands) :
    (∃ t, exec (.memRetrain hd 1) S = .next t) ∧
    (∃ t, exec (.memRetrain hd 3) S = .next t) ∧
    (∃ t, exec (.memRetrain hd 2) (st (held)) = .next t) ∧
    (∃ t, exec (.memFsp hd 0 1) S = .next t) ∧
    (∃ t, exec (.memFsp hd 1 0) (st (wr [(0x00300004, 0x0A000000)])) = .next t) ∧
    (∃ t, exec (.memFsp hd 1 1) S = .next t) ∧
    (∃ t, exec (.fspSwitchDone 200) (st
      { wr [(0x00300004, 0x2C000000)] with mem := { switch := some (1, 100) }, cmd := { exec := some (hd, .memFsp 1 0) } }) = .next t) ∧
    (∃ t, exec .autoFspTimer (st { wr [(0x00300008, 5)] with mem := { idleFrom := some 100 } }) = .next t) :=
  ⟨runs (H.1 S hd 1 (by decide) (by decide)),
   runs (H.1 S hd 3 (by decide) (by decide)),
   runs (H.2.1 (st (held)) hd 2 (by decide) (by decide)),
   runs (H.2.2.1 S hd 0 1 (by decide) (by decide) (by decide)),
   runs (H.2.2.2.1 (st (wr [(0x00300004, 0x0A000000)])) hd 1 0 (by decide) (by decide) (by decide) (by decide)),
   runs (H.2.2.2.2.1 S hd 1 1 (by decide) (by decide) (by decide) (by decide) (by decide)),
   runs (H.2.2.2.2.2.1 (st { wr [(0x00300004, 0x2C000000)] with mem := { switch := some (1, 100) }, cmd := { exec := some (hd, .memFsp 1 0) } }) hd 0 1 100 200
      (by decide) (by decide) (by decide) (by decide) (by decide) (by decide) (by decide)),
   runs (H.2.2.2.2.2.2 (st { wr [(0x00300008, 5)] with mem := { idleFrom := some 100 } }) 100 (by decide) (by decide) (by decide)
      (by decide) (by decide) (by decide) (by decide) (by decide))⟩

theorem meets_Calibration (H : Obligations.Calibration) :
    (∃ t, exec (.calRun hd 0x7C 0xFFF 20) S = .next t) ∧
    (∃ t, exec (.calRun hd 0 1 0) S = .next t) ∧
    (∃ t, exec (.calRun hd 4 1 24) S = .next t) ∧
    (∃ t, exec (.calUnitDone 0 (.source 750000 true)) (st (cal 0 0 true)) = .next t) ∧
    (∃ t, exec (.calUnitDone 0 (.source 1150000 true)) (st (cal 0 0 true)) = .next t) ∧
    (∃ t, exec (.calUnitDone 0 (.source 749999 true)) (st (cal 0 0 true)) = .next t) ∧
    (∃ t, exec (.calUnitDone 0 (.source 1150001 true)) (st (cal 0 0 true)) = .next t) ∧
    (∃ t, exec (.calUnitTimeout 0) (st (inMode .calibrate (cal 1 0 false))) = .next t) ∧
    (∃ t, exec (.calUnitTimeout 0) (st (cal 2 2 true)) = .next t) ∧
    (∃ t, exec (.calUnitTimeout 0) (st (cal 2 3 true)) = .next t) ∧
    (∃ t, exec (.calStepDone [300, 300, 300, 300]) (st
      { inMode .calibrate with cal := { run := some { byCmd := false, groups := 1, hits := 20, step := 4, steps := [5], units := [], start := 0 } } }) = .next t) ∧
    (∃ t, exec (.calStepDone [300, 300, 300, 300]) (st
      { inMode .calibrate with cal := { run := some { byCmd := false, groups := 1, hits := 20, step := 7, steps := [], units := [], start := 0 } } }) = .next t) ∧
    (∃ t, exec (.calStepDone [300, 300, 300, 300]) (st
      { inMode .fault with cal := { run := some { byCmd := false, groups := 1, hits := 20, step := 7, steps := [], units := [], start := 0 } } }) = .next t) ∧
    (∃ t, exec (.calStore hd) (st
      { rdy with flash := [(8, 0), (9, 0), (10, 16), (11, 0), (12, 0), (13, 0), (14, 32), (15, 0), (0x100004, 1)] }) = .next t) ∧
    (∃ t, exec (.calStore hd) (st (slotted (slotImg [0xFE, 0xFF, 0xFF, 0xFF]) [])) = .next t) ∧
    (∃ t, exec (.calStoreCommit ⟨[300, 300, 300, 300], none⟩) (st
      { rdy with flash := [(8, 0), (9, 0), (10, 16), (11, 0), (12, 0), (13, 0), (14, 32), (15, 0)], cal := { storing := some (1, 9) }, cmd := { exec := some (hd, .calStore) } }) = .next t) ∧
    (∃ t, exec (.calDrift [300, 300, 401, 300]) (st
      { wr [(0x0033000C, 10)] with cal := { tempAt := [(2, [300, 300, 300, 300])] } }) = .next t) ∧
    (∃ t, exec (.calUnitDone 0 (.octant [131290, 130801, 131512, 130944, 131105, 130688, 131420, 130816])) (st
      (cal 1 0 true)) = .next t) ∧
    (∃ t, exec (.calUnitDone 0 (.delay (List.replicate 5 (List.replicate 544 1928)))) (st (cal 4 0 true)) = .next t) ∧
    (∃ t, exec (.calUnitDone 0 (.delay (List.replicate 5 (List.replicate 8 (131037 :: List.replicate 67 1)).flatten))) (st
      (cal 4 3 true)) = .next t) ∧
    (∃ t, exec (.calUnitDone 0 (.delay (List.replicate 5 (List.replicate 544 1)))) (st (cal 4 2 true)) = .next t) :=
  ⟨runs (H.1 S hd 0x7C 0xFFF 20 (by decide)),
   runs (H.1 S hd 0 1 0 (by decide)),
   runs (H.1 S hd 4 1 24 (by decide)),
   runs (H.2.1 (st (cal 0 0 true))
      { byCmd := true, groups := 1, hits := 20, step := 0, steps := [5], units := [(0, 0)], start := 0 } 0 0 750000 (by decide)
      (by decide) (by decide) (by decide) (by decide)),
   runs (H.2.1 (st (cal 0 0 true))
      { byCmd := true, groups := 1, hits := 20, step := 0, steps := [5], units := [(0, 0)], start := 0 } 0 0 1150000 (by decide)
      (by decide) (by decide) (by decide) (by decide)),
   runs (H.2.2.1 (st (cal 0 0 true))
      { byCmd := true, groups := 1, hits := 20, step := 0, steps := [5], units := [(0, 0)], start := 0 } hd
      (.calRun 0 1 20) 0 0 749999 (by decide) (by decide) (by decide) (by decide) (by decide) (by decide)),
   runs (H.2.2.1 (st (cal 0 0 true))
      { byCmd := true, groups := 1, hits := 20, step := 0, steps := [5], units := [(0, 0)], start := 0 } hd
      (.calRun 0 1 20) 0 0 1150001 (by decide) (by decide) (by decide) (by decide) (by decide) (by decide)),
   runs (H.2.2.2.1 (st (inMode .calibrate (cal 1 0 false)))
      { byCmd := false, groups := 1, hits := 20, step := 1, steps := [5], units := [(0, 0)], start := 0 } 0 0 (by decide)
      (by decide) (by decide) (by decide) (by decide) (by decide)),
   runs (H.2.2.2.2.1 (st (cal 2 2 true))
      { byCmd := true, groups := 1, hits := 20, step := 2, steps := [5], units := [(0, 2)], start := 0 } 0 2 (by decide)
      (by decide) (by decide) (by decide)),
   runs (H.2.2.2.2.2.1 (st (cal 2 3 true))
      { byCmd := true, groups := 1, hits := 20, step := 2, steps := [5], units := [(0, 3)], start := 0 } 0 3 (by decide)
      (by decide) (by decide) (by decide)),
   runs (H.2.2.2.2.2.2.1 (st
      { inMode .calibrate with cal := { run := some { byCmd := false, groups := 1, hits := 20, step := 4, steps := [5], units := [], start := 0 } } })
      { byCmd := false, groups := 1, hits := 20, step := 4, steps := [5], units := [], start := 0 } [300, 300, 300, 300] 5 []
      (by decide) (by decide) (by decide) (by decide)),
   runs (H.2.2.2.2.2.2.2.1 (st
      { inMode .calibrate with cal := { run := some { byCmd := false, groups := 1, hits := 20, step := 7, steps := [], units := [], start := 0 } } })
      { byCmd := false, groups := 1, hits := 20, step := 7, steps := [], units := [], start := 0 } [300, 300, 300, 300]
      (by decide) (by decide) (by decide) (by decide) (by decide) (by decide)),
   runs (H.2.2.2.2.2.2.2.2.1 (st
      { inMode .fault with cal := { run := some { byCmd := false, groups := 1, hits := 20, step := 7, steps := [], units := [], start := 0 } } })
      { byCmd := false, groups := 1, hits := 20, step := 7, steps := [], units := [], start := 0 } [300, 300, 300, 300]
      (by decide) (by decide) (by decide) (by decide) (by decide)),
   runs (H.2.2.2.2.2.2.2.2.2.2.2.1 (st
      { rdy with flash := [(8, 0), (9, 0), (10, 16), (11, 0), (12, 0), (13, 0), (14, 32), (15, 0), (0x100004, 1)] }) hd
      (by decide) (by decide) (by decide)),
   runs (H.2.2.2.2.2.2.2.2.2.2.2.2.1 (st (slotted (slotImg [0xFE, 0xFF, 0xFF, 0xFF]) [])) hd (by decide +kernel)
      (by decide +kernel) (by decide +kernel)),
   runs (H.2.2.2.2.2.2.2.2.2.2.2.2.2.1 (st
      { rdy with flash := [(8, 0), (9, 0), (10, 16), (11, 0), (12, 0), (13, 0), (14, 32), (15, 0)], cal := { storing := some (1, 9) }, cmd := { exec := some (hd, .calStore) } }) hd [300, 300, 300, 300] 1 9
      (by decide) (by decide) (by decide) (by decide)),
   runs (H.2.2.2.2.2.2.2.2.2.2.2.2.2.2.2.1 (st
      { wr [(0x0033000C, 10)] with cal := { tempAt := [(2, [300, 300, 300, 300])] } }) [300, 300, 401, 300]
      (2, [300, 300, 300, 300]) 2 (by decide) (by decide) (by decide) (by decide)),
   runs (H.2.2.2.2.2.2.2.2.2.2.2.2.2.2.2.2.1 (st (cal 1 0 true))
      { byCmd := true, groups := 1, hits := 20, step := 1, steps := [5], units := [(0, 0)], start := 0 } 0 0 [131290, 130801, 131512, 130944, 131105, 130688, 131420, 130816]
      (by decide +kernel) (by decide +kernel) (by decide +kernel) (by decide +kernel) (by decide +kernel) (by decide +kernel)),
   runs (H.2.2.2.2.2.2.2.2.2.2.2.2.2.2.2.2.2.1 (st (cal 4 0 true))
      { byCmd := true, groups := 1, hits := 20, step := 4, steps := [5], units := [(0, 0)], start := 0 } 0 0 (List.replicate 5
      (List.replicate 544 1928)) (by decide +kernel) (by decide +kernel) (by decide +kernel) (by decide +kernel)
      (by decide +kernel)),
   runs (H.2.2.2.2.2.2.2.2.2.2.2.2.2.2.2.2.2.2.1 (st (cal 4 3 true))
      { byCmd := true, groups := 1, hits := 20, step := 4, steps := [5], units := [(0, 3)], start := 0 } 0 3 (List.replicate 5
      (List.replicate 8 (131037 :: List.replicate 67 1)).flatten) ((List.replicate 8 (131037 :: List.replicate 67 1)).flatten)
      (by decide +kernel) (by decide +kernel) (by decide +kernel) (by decide +kernel) (by decide +kernel) (by decide +kernel)),
   runs (H.2.2.2.2.2.2.2.2.2.2.2.2.2.2.2.2.2.2.2 (st (cal 4 2 true))
      { byCmd := true, groups := 1, hits := 20, step := 4, steps := [5], units := [(0, 2)], start := 0 } 0 2 (List.replicate 5
      (List.replicate 544 1)) (List.replicate 544 1) (by decide +kernel) (by decide +kernel) (by decide +kernel)
      (by decide +kernel) (by decide +kernel) (by decide +kernel))⟩

theorem meets_Training (H : Obligations.Training) :
    (∃ t, exec (.trainFspDone 1 0 [1]) (st
      { inMode .train (wr [(0x00300004, 0x10000000)]) with mem := { trainLeft := [1, 0] } }) = .next t) ∧
    (∃ t, exec (.trainFspDone 0 0 [1]) (st
      { inMode .train (wr [(0x00300004, 0x10000000)]) with mem := { trainLeft := [0] } }) = .next t) ∧
    (∃ t, exec (.trainFspDone 0 1 []) (st
      { inMode .train (wr [(0x00300004, 0x10000000)]) with mem := { trainLeft := [0] } }) = .next t) ∧
    (∃ t, exec (.trainFspDone 1 0 [1]) (st
      { wr [(0x00300004, 0x18000000)] with mem := { trainLeft := [1] }, cmd := { exec := some (hd, .memRetrain 2) } }) = .next t) :=
  ⟨runs (H.1 (st { inMode .train (wr [(0x00300004, 0x10000000)]) with mem := { trainLeft := [1, 0] } }) [1] (by decide)
      (by decide) (by decide) (by decide)),
   runs (H.2.1 (st { inMode .train (wr [(0x00300004, 0x10000000)]) with mem := { trainLeft := [0] } }) [1] (by decide) (by decide)
      (by decide) (by decide)),
   runs (H.2.2.1 (st { inMode .train (wr [(0x00300004, 0x10000000)]) with mem := { trainLeft := [0] } }) 1 [] (by decide)
      (by decide) (by decide) (by decide) (by decide) (by decide)),
   runs (H.2.2.2 (st { wr [(0x00300004, 0x18000000)] with mem := { trainLeft := [1] }, cmd := { exec := some (hd, .memRetrain 2) } }) hd 2 1 [1]
      (by decide) (by decide) (by decide) (by decide) (by decide) (by decide) (by decide))⟩

theorem meets_RegisterReads (H : Obligations.RegisterReads) :
    (∃ t, exec (.regRd 0 6 0x00300010 1) S = .next t) ∧
    (∃ t, exec (.regRd 0 6 0x00342000 64) S = .next t) ∧
    (∃ t, exec (.regRd 0 6 (BitVec.ofNat 64 (portB 1 + 8 + 4 * 9)) 1) S = .next t) ∧
    (∃ t, exec (.regRd 0 6 (BitVec.ofNat 64 (portB 0 + 8)) 1) S = .next t) ∧
    (∃ t, exec (.regRd 0 6 0x00300010 0) S = .next t) ∧
    (∃ t, exec (.regRd 0 6 0x00300010 65) S = .next t) ∧
    (∃ t, exec (.regRd 0 6 0x00300011 1) S = .next t) ∧
    (∃ t, exec (.regRd 0 6 0x0034FFFC 64) S = .next t) ∧
    (∃ t, exec (.regRd 0 6 0x00300010 1) (st
      { inMode .negotiate with dev := { mode := .negotiate, pllLocked := true } }) = .next t) ∧
    (∃ t, exec (.regRd 0 6 2 1) S = .next t) ∧
    (∃ t, exec (.regRd 0 6 0x0FFFFFFC 1) S = .next t) ∧
    (∃ t, exec (.regRd 0 6 0x00320008 1) (st
      { inMode .negotiate with dev := { mode := .negotiate, pllLocked := true } }) = .next t) :=
  ⟨runs (H.1 S 0 6 0x00300010 1 (by decide +kernel) (by decide +kernel) (by decide +kernel) (by decide +kernel)),
   runs (H.1 S 0 6 0x00342000 64 (by decide +kernel) (by decide +kernel) (by decide +kernel) (by decide +kernel)),
   runs (H.2.1 S 0 1 6 9 (by decide +kernel) (by decide +kernel)),
   runs (H.2.2.1 S 0 6 (BitVec.ofNat 64 (portB 0 + 8)) (((rdy.findReg (portB 0 + 8)).get rfl).1) (((rdy.findReg
      (portB 0 + 8)).get rfl).2.1) (((rdy.findReg (portB 0 + 8)).get rfl).2.2) (by decide +kernel) (by decide +kernel) rfl),
   runs (H.2.2.2.1 S 0 6 0x00300010 0 (by decide +kernel) (by decide +kernel)),
   runs (H.2.2.2.1 S 0 6 0x00300010 65 (by decide +kernel) (by decide +kernel)),
   runs (H.2.2.2.2.1 S 0 6 0x00300011 1 4 (by decide +kernel) (by decide +kernel) (by decide +kernel) (by decide +kernel)),
   runs (H.2.2.2.2.1 S 0 6 0x0034FFFC 64 4 (by decide +kernel) (by decide +kernel) (by decide +kernel) (by decide +kernel)),
   runs (H.2.2.2.2.1 (st { inMode .negotiate with dev := { mode := .negotiate, pllLocked := true } }) 0 6 0x00300010 1 1
      (by decide +kernel) (by decide +kernel) (by decide +kernel) (by decide +kernel)),
   runs (H.2.2.2.2.2.1 S 0 6 2 (by decide +kernel) (by decide +kernel)),
   runs (H.2.2.2.2.2.1 S 0 6 0x0FFFFFFC (by decide +kernel) (by decide +kernel)),
   runs (H.2.2.2.2.2.2 (st { inMode .negotiate with dev := { mode := .negotiate, pllLocked := true } }) 0 6 (by decide +kernel)
      (by decide +kernel))⟩

theorem meets_RegisterWrites (H : Obligations.RegisterWrites) :
    (∃ t, exec (.regWr 0 6 1 [9]) S = .next t) ∧
    (∃ t, exec (.regWr 0 6 0x0FFFFFFC [9]) S = .next t) ∧
    (∃ t, exec (.regWr 0 6 0x00300010 [100]) (st
      { inMode .negotiate with dev := { mode := .negotiate, pllLocked := true } }) = .next t) ∧
    (∃ t, exec (.regWr 0 6 0x00300010 [100]) S = .next t) ∧
    (∃ t, exec (.regWr 0 6 0x00300010 [10000]) S = .next t) ∧
    (∃ t, exec (.regWr 0 6 0x00300010 [99]) S = .next t) ∧
    (∃ t, exec (.regWr 0 6 0x00300010 [10001]) S = .next t) ∧
    (∃ t, exec (.regWr 0 6 0x00230008 [1, 2]) S = .next t) ∧
    (∃ t, exec (.regWr 0 6 0x00230008 [1]) S = .next t) ∧
    (∃ t, exec (.regWr 0 6 0x0023000C [2]) (st { rdy with staging := [(0x00230008, 1)] }) = .next t) ∧
    (∃ t, exec (.regWr 0 6 0 (List.replicate 65 0)) S = .next t) ∧
    (∃ t, exec (.regWr 0 6 0x00300010 []) (lnk { up with tags := [6] }) = .next t) :=
  ⟨runs (H.1 S 0 6 1 9 (by decide) (by decide)),
   runs (H.1 S 0 6 0x0FFFFFFC 9 (by decide) (by decide)),
   runs (H.2.1 (st { inMode .negotiate with dev := { mode := .negotiate, pllLocked := true } }) 0 6 100 (by decide) (by decide)),
   runs (H.2.2.1 S 0 6 100 (by decide)),
   runs (H.2.2.1 S 0 6 10000 (by decide)),
   runs (H.2.2.1 S 0 6 99 (by decide)),
   runs (H.2.2.1 S 0 6 10001 (by decide)),
   runs (H.2.2.2.1 S 0 6 1 2 (by decide)),
   runs (H.2.2.2.2.1 S 0 6 1 (by decide) (by decide)),
   runs (H.2.2.2.2.2.1 (st { rdy with staging := [(0x00230008, 1)] }) 0 6 1 2 (by decide) (by decide)),
   runs (H.2.2.2.2.2.2.1 S 0 6 0 (List.replicate 65 0) (by decide) (by decide) (by decide)),
   runs (H.2.2.2.2.2.2.2 (lnk { up with tags := [6] }) 0 6 0x00300010 [] (by decide) (by decide) (by decide) (by decide)
      (by decide))⟩

theorem meets_BlockTransfers (H : Obligations.BlockTransfers) :
    (∃ t, exec (.blkWr 0 6 0x1000 (List.replicate 128 7)) S = .next t) ∧
    (∃ t, exec (.blkWr 0 6 0 (List.replicate 512 7)) S = .next t) ∧
    (∃ t, exec (.blkWr 0 6 0x3FFE00000 (List.replicate 128 7)) S = .next t) ∧
    (∃ t, exec (.blkWr 0 6 0x400000000 (List.replicate 128 7)) S = .next t) ∧
    (∃ t, exec (.blkWr 0 6 0 (List.replicate 128 7)) (st
      { wr [(0x00300004, 0x1E000000)] with cmd := { exec := some ({ hd with tag := 1 }, .memRetrain 3) } }) = .next t) ∧
    (∃ t, exec (.blkWr 0 6 0 []) S = .next t) ∧
    (∃ t, exec (.blkWr 0 6 0 (List.replicate 640 7)) S = .next t) ∧
    (∃ t, exec (.blkWr 0 6 64 (List.replicate 128 7)) S = .next t) ∧
    (∃ t, exec (.blkRd 0 6 127 8192) S = .next t) ∧
    (∃ t, exec (.blkRd 0 6 0x3FFFFFF80 1) S = .next t) ∧
    (∃ t, exec (.blkRd 0 6 0 8192) S = .next t) ∧
    (∃ t, exec (.blkRd 0 6 0 0) S = .next t) ∧
    (∃ t, exec (.blkRd 0 6 0 8193) S = .next t) ∧
    (∃ t, exec (.blkRd 0 6 0x3FFFFFF80 2) S = .next t) ∧
    (∃ t, exec (.blkRd 0 6 0 1) (st
      { wr [(0x00300004, 0x1E000000)] with cmd := { exec := some ({ hd with tag := 1 }, .memRetrain 3) } }) = .next t) ∧
    (∃ t, exec (.memReadData 0 .good) (st
      { rdy with mem := { rds := [(0, { q := 0, tag := 6, lines := 2, got := [(0, [7])] })], ch := [(0, { reads := [(rdq1, (List.replicate 128 7))] })] } }) = .next t) ∧
    (∃ t, exec (.memReadData 0 .uncorrectable) (st
      { wr [(0x00300000, 0x10000010)] with mem := { rds := [(0, { q := 0, tag := 6, lines := 2, got := [(0, [7])] })], ch := [(0, { reads := [({ rdq1 with retry := true }, (List.replicate 128 7))] })] } }) = .next t) :=
  ⟨runs (H.1 S 0 6 0x1000 (List.replicate 128 7) (by decide) (by decide) (by decide) (by decide) (by decide) (by decide)),
   runs (H.1 S 0 6 0 (List.replicate 512 7) (by decide) (by decide) (by decide) (by decide) (by decide) (by decide)),
   runs (H.2.1 S 0 6 0x3FFE00000 (List.replicate 128 7) (by decide +kernel) (by decide +kernel) (by decide +kernel)
      (by decide +kernel)),
   runs (H.2.1 S 0 6 0x400000000 (List.replicate 128 7) (by decide) (by decide) (by decide) (by decide)),
   runs (H.2.2.1 (st { wr [(0x00300004, 0x1E000000)] with cmd := { exec := some ({ hd with tag := 1 }, .memRetrain 3) } }) 0 6 0
      (List.replicate 128 7) (by decide) (by decide) (by decide) (by decide) (by decide) (by decide)),
   runs (H.2.2.2.1 S 0 6 0 [] (by decide) (by decide) (by decide)),
   runs (H.2.2.2.1 S 0 6 0 (List.replicate 640 7) (by decide +kernel) (by decide +kernel) (by decide +kernel)),
   runs ((H.2.2.2.2.1 S 0 6 64 (List.replicate 128 7) 1 (by decide) (by decide)).1 (by decide)),
   runs ((H.2.2.2.2.1 S 0 6 127 (List.replicate 128 7) 8192 (by decide) (by decide)).2 (by decide) (by decide)),
   runs (H.2.2.2.2.2.1 S 0 6 0x3FFFFFF80 1 (by decide) (by decide) (by decide) (by decide) (by decide) (by decide)),
   runs (H.2.2.2.2.2.1 S 0 6 0 8192 (by decide) (by decide) (by decide) (by decide) (by decide) (by decide)),
   runs (H.2.2.2.2.2.2.1 S 0 6 0 0 (by decide) (by decide)),
   runs (H.2.2.2.2.2.2.1 S 0 6 0 8193 (by decide) (by decide)),
   runs ((H.2.2.2.2.2.2.2.1 S 0 6 0x3FFFFFF80 2 (by decide) (by decide) (by decide) (by decide)).1 (by decide)),
   runs ((H.2.2.2.2.2.2.2.1 (st
      { wr [(0x00300004, 0x1E000000)] with cmd := { exec := some ({ hd with tag := 1 }, .memRetrain 3) } }) 0 6 0 1 (by decide)
      (by decide) (by decide) (by decide)).2 (by decide) (by decide)),
   runs ((H.2.2.2.2.2.2.2.2.2 (st
      { rdy with mem := { rds := [(0, { q := 0, tag := 6, lines := 2, got := [(0, [7])] })], ch := [(0, { reads := [(rdq1, (List.replicate 128 7))] })] } }) 0 0 1 rdq1
      (List.replicate 128 7) [] { q := 0, tag := 6, lines := 2, got := [(0, [7])] } (by decide) (by decide) (by decide)
      (by decide) (by decide) (by decide) (by decide)).1 (by decide)),
   runs ((H.2.2.2.2.2.2.2.2.2 (st
      { wr [(0x00300000, 0x10000010)] with mem := { rds := [(0, { q := 0, tag := 6, lines := 2, got := [(0, [7])] })], ch := [(0, { reads := [({ rdq1 with retry := true }, (List.replicate 128 7))] })] } }) 0 0 1
      { rdq1 with retry := true } (List.replicate 128 7) [] { q := 0, tag := 6, lines := 2, got := [(0, [7])] } (by decide)
      (by decide) (by decide) (by decide) (by decide) (by decide) (by decide)).2 (by decide) rfl (by decide))⟩

theorem meets_RingControl (H : Obligations.RingControl) :
    (∃ t, exec (.ringAck 0 6 0 128) (st ringed) = .next t) ∧
    (∃ t, exec (.ringAck 0 6 0 256) (st ringed) = .next t) ∧
    (∃ t, exec (.ringAck 0 6 0 0) (st ringed) = .next t) ∧
    (∃ t, exec (.ringAck 0 6 0 129) (st ringed) = .next t) ∧
    (∃ t, exec (.ringAck 0 6 0 384) (st ringed) = .next t) ∧
    (∃ t, exec (.ringAck 0 6 15 0) S = .next t) ∧
    (∃ t, exec (.ringAckWrite 0 6 0 256) (st ringed) = .next t) ∧
    (∃ t, exec (.ringAckWrite 0 6 0 0) (st ringed) = .next t) ∧
    (∃ t, exec (.ringAckWrite 0 6 0 129) (st ringed) = .next t) ∧
    (∃ t, exec (.ringAckWrite 0 6 0 384) (st ringed) = .next t) ∧
    (∃ t, exec (.ringAckWrite 0 6 15 0) S = .next t) ∧
    (∃ t, exec (.ringEnable 0 6 0 0x80100000) (st ringed) = .next t) ∧
    (∃ t, exec (.ringDisable 0 6 0 0x00110000) (st ringed) = .next t) ∧
    (∃ t, exec (.ringDisable 0 6 0 0x40100000) (st ringed) = .next t) ∧
    (∃ t, exec (.regWr 0 6 (BitVec.ofNat 64 (Machine.ringB 0)) [0, 0]) (st ringed) = .next t) ∧
    (∃ t, exec (.ringEnable 0 6 15 0x800F0000) S = .next t) ∧
    (∃ t, exec (.ringEnable 0 6 15 0x80210000) S = .next t) ∧
    (∃ t, exec (.ringDisable 0 6 15 0x000F0000) S = .next t) ∧
    (∃ t, exec (.ringDisable 0 6 15 0x00210000) S = .next t) ∧
    (∃ t, exec (.ringEnable 0 6 15 0x80100000) S = .next t) ∧
    (∃ t, exec (.ringEnable 0 6 15 0x80200000) S = .next t) ∧
    (∃ t, exec (.ringEnable 0 6 15 0x80100000) (st (wr [(ringB 15, 0x800)])) = .next t) ∧
    (∃ t, exec (.ringDisable 0 6 0 0x00100000) (st ringed) = .next t) ∧
    (∃ t, exec (.ringDisable 0 6 0 0x00100000) (st
      { ringed with mor := { rings := [(0, { held := [({ site := 0, wide := false, words := [0, 0] }, 0)] })] } }) = .next t) ∧
    (∃ t, exec (.regWr 0 6 (BitVec.ofNat 64 (siteRingReg 127)) [0x3F]) (st ringed) = .next t) ∧
    (∃ t, exec (.regWr 0 6 (BitVec.ofNat 64 (siteRingReg 0)) [1]) (st
      { ringed with images := { loaded := [(0, { env := { env0 with siteQuota := [1], siteRate := [1] } })] }, sched := { ctxs := [(0, { ctx 6 with held := true })] } }) = .next t) :=
  ⟨runs (H.1 (st ringed) 0 6 0 128 (by decide) (by decide) (by decide) (by decide) (by decide)),
   runs (H.1 (st ringed) 0 6 0 256 (by decide) (by decide) (by decide) (by decide) (by decide)),
   runs (H.2.1 (st ringed) 0 6 0 0 (by decide) (by decide) (by decide)),
   runs (H.2.1 (st ringed) 0 6 0 129 (by decide) (by decide) (by decide)),
   runs (H.2.1 (st ringed) 0 6 0 384 (by decide) (by decide) (by decide)),
   runs (H.2.2.1 S 0 6 15 0 (by decide) (by decide)),
   runs (H.2.2.2.1 (st ringed) 0 6 0 256 (by decide) (by decide) (by decide) (by decide) (by decide)),
   runs (H.2.2.2.2.1 (st ringed) 0 6 0 0 (by decide) (by decide) (by decide)),
   runs (H.2.2.2.2.1 (st ringed) 0 6 0 129 (by decide) (by decide) (by decide)),
   runs (H.2.2.2.2.1 (st ringed) 0 6 0 384 (by decide) (by decide) (by decide)),
   runs (H.2.2.2.2.2.1 S 0 6 15 0 (by decide) (by decide)),
   runs (H.2.2.2.2.2.2.1 (st ringed) 0 6 0 0x80100000 (by decide) (by decide) (by decide)),
   runs (H.2.2.2.2.2.2.2.1 (st ringed) 0 6 0 0x00110000 (by decide) (by decide) (by decide) (by decide)),
   runs (H.2.2.2.2.2.2.2.1 (st ringed) 0 6 0 0x40100000 (by decide) (by decide) (by decide) (by decide)),
   runs (H.2.2.2.2.2.2.2.2.1 (st ringed) 0 6 0 0 0 (by decide) (by decide)),
   runs ((H.2.2.2.2.2.2.2.2.2.1 S 0 6 15 0x800F0000 (by decide) (by decide) (by decide)).1 (by decide)),
   runs ((H.2.2.2.2.2.2.2.2.2.1 S 0 6 15 0x80210000 (by decide) (by decide) (by decide)).1 (by decide)),
   runs ((H.2.2.2.2.2.2.2.2.2.1 S 0 6 15 0x000F0000 (by decide) (by decide) (by decide)).2 (by decide) (by decide) (by decide)),
   runs ((H.2.2.2.2.2.2.2.2.2.1 S 0 6 15 0x00210000 (by decide) (by decide) (by decide)).2 (by decide) (by decide) (by decide)),
   runs (H.2.2.2.2.2.2.2.2.2.2.1 S 0 6 15 0x80100000 (by decide) (by decide) (by decide) (by decide) (by decide) (by decide)),
   runs (H.2.2.2.2.2.2.2.2.2.2.1 S 0 6 15 0x80200000 (by decide) (by decide) (by decide) (by decide) (by decide) (by decide)),
   runs (H.2.2.2.2.2.2.2.2.2.2.2.1 (st (wr [(ringB 15, 0x800)])) 0 6 15 0x80100000 (by decide) (by decide) (by decide) (by decide)
      (by decide) (by decide)),
   runs (H.2.2.2.2.2.2.2.2.2.2.2.2.1 (st ringed) 0 6 0 0x00100000 (by decide) (by decide) (by decide) (by decide) (by decide)
      (by decide) (by decide) (by decide)),
   runs (H.2.2.2.2.2.2.2.2.2.2.2.2.2.1 (st
      { ringed with mor := { rings := [(0, { held := [({ site := 0, wide := false, words := [0, 0] }, 0)] })] } }) 0 6 0 0x00100000
      (by decide) (by decide) (by decide) (by decide) (by decide)),
   runs ((H.2.2.2.2.2.2.2.2.2.2.2.2.2.2 (st ringed) 0 6 127 0x3F (by decide)).1 (by decide)),
   runs ((H.2.2.2.2.2.2.2.2.2.2.2.2.2.2 (st
      { ringed with images := { loaded := [(0, { env := { env0 with siteQuota := [1], siteRate := [1] } })] }, sched := { ctxs := [(0, { ctx 6 with held := true })] } }) 0 6 0 1
      (by decide)).2 (by decide))⟩

theorem meets_TimeExchange (H : Obligations.TimeExchange) :
    (∃ t, exec (.syncMessage 0 5 0 true 0) S = .next t) ∧
    (∃ t, exec (.syncMessage 0 5 0 false 0) S = .next t) ∧
    (∃ t, exec (.follow 0 5 0 0 0 true) (exchg ex0) = .next t) ∧
    (∃ t, exec (.follow 0 6 0 0 0 true) (exchg ex0) = .next t) ∧
    (∃ t, exec (.follow 0 5 1 0 0 true) (exchg ex0) = .next t) ∧
    (∃ t, exec (.delayReq 0 false) (exchg ex0) = .next t) ∧
    (∃ t, exec (.delayResp 0 5 0 0 0 true) (exchg { ex0 with t1 := some 0, t3 := some 0 }) = .next t) ∧
    (∃ t, exec (.delayResp 0 5 0 100000 0 true) (exchg { ex0 with t1 := some 0, t3 := some 0 }) = .next t) ∧
    (∃ t, exec (.delayResp 0 5 0 0 0 true) S = .next t) ∧
    (∃ t, exec (.delayResp 0 6 0 0 0 true) (exchg { ex0 with t1 := some 0, t3 := some 0 }) = .next t) ∧
    (∃ t, exec (.delayResp 0 5 1 0 0 true) (exchg { ex0 with t1 := some 0, t3 := some 0 }) = .next t) ∧
    (∃ t, exec .exchangeMissed S = .next t) ∧
    (∃ t, exec .exchangeMissed (st { rdy with time := { st := 2, missed := 3 } }) = .next t) ∧
    (∃ t, exec .exchangeMissed (st { rdy with time := { st := 2, missed := 2 } }) = .next t) ∧
    (∃ t, exec (.delayReq 0 true) (st
      { rdy with ports := [(0, { up with hostCc := [(0, 1)] })], time := { exch := [(0, ex0)], reqOwed := some 0 } }) = .next t) :=
  ⟨runs (H.1 S 0 5 0 0 (by decide) (by decide)),
   runs (H.2.1 S 0 5 0 0 (by decide) (by decide)),
   runs (H.2.2.1 (exchg ex0) 0 5 0 0 0 ex0 (by decide) (by decide) (by decide) (by decide) (by decide) (by decide)),
   runs (H.2.2.2.1 (exchg ex0) 0 6 0 0 0 ex0 (by decide) (by decide) (by decide) (by decide)),
   runs (H.2.2.2.1 (exchg ex0) 0 5 1 0 0 ex0 (by decide) (by decide) (by decide) (by decide)),
   runs (H.2.2.2.2.1 (exchg ex0) 0 ex0 (by decide) (by decide) (by decide) (by decide)),
   runs (H.2.2.2.2.2.1 (exchg { ex0 with t1 := some 0, t3 := some 0 }) 0 5 0 0 0 { ex0 with t1 := some 0, t3 := some 0 } 0 0
      (by decide) (by decide) (by decide) (by decide) (by decide) (by decide) (by decide) (by decide) (by decide) (by decide)
      (by decide) (by decide) (by decide)),
   runs (H.2.2.2.2.2.1 (exchg { ex0 with t1 := some 0, t3 := some 0 }) 0 5 0 100000 0 { ex0 with t1 := some 0, t3 := some 0 } 0 0
      (by decide) (by decide) (by decide) (by decide) (by decide) (by decide) (by decide) (by decide) (by decide) (by decide)
      (by decide) (by decide) (by decide)),
   runs (H.2.2.2.2.2.2.1 S 0 5 0 0 0 (by decide) (by decide) (by decide)),
   runs (H.2.2.2.2.2.2.2.1 (exchg { ex0 with t1 := some 0, t3 := some 0 }) 0 6 0 0 0 { ex0 with t1 := some 0, t3 := some 0 }
      (by decide) (by decide) (by decide) (by decide)),
   runs (H.2.2.2.2.2.2.2.1 (exchg { ex0 with t1 := some 0, t3 := some 0 }) 0 5 1 0 0 { ex0 with t1 := some 0, t3 := some 0 }
      (by decide) (by decide) (by decide) (by decide)),
   runs (H.2.2.2.2.2.2.2.2.1 S),
   runs (H.2.2.2.2.2.2.2.2.1 (st { rdy with time := { st := 2, missed := 3 } })),
   runs (H.2.2.2.2.2.2.2.2.1 (st { rdy with time := { st := 2, missed := 2 } })),
   runs (H.2.2.2.2.2.2.2.2.2 (st
      { rdy with ports := [(0, { up with hostCc := [(0, 1)] })], time := { exch := [(0, ex0)], reqOwed := some 0 } }) 0 ex0
      (by decide) (by decide) (by decide) (by decide) (by decide) (by decide) (by decide) (by decide) (by decide))⟩

theorem meets_TimeBase (H : Obligations.TimeBase) :
    (∃ t, exec .rateFold S = .next t) ∧
    (∃ t, exec .timeHoldEnd (st { rdy with time := { hold := some 0 } }) = .next t) ∧
    (∃ t, exec .timeHoldEnd (st { rdy with time := { hold := some 6700000 } }) = .next t) ∧
    (∃ t, exec (.timeRearm hd) S = .next t) ∧
    (∃ t, exec (.timeAlign hd) (st (wr [(0x00320000, 0x20000000)] )) = .next t) ∧
    (∃ t, exec (.timeAlign hd) (st (wr [(0x40, 0), (0x00320000, 0x20000000)])) = .next t) ∧
    (∃ t, exec (.timeAlign hd) (st (wr [(0x00320000, 0x20000000)] (held))) = .next t) ∧
    (∃ t, exec (.syncinEdge true 16) (st { wr [(0x00320000, 0x60000000)] with time := { alignArmed := true } }) = .next t) ∧
    (∃ t, exec (.syncinEdge false 16) (st (wr [(0x00320000, 0x40000000)])) = .next t) ∧
    (∃ t, exec (.trigIn 3 true 16) S = .next t) ∧
    (∃ t, exec (.syncinEdge true 3) S = .next t) ∧
    (∃ t, exec (.syncinEdge true 15) S = .next t) ∧
    (∃ t, exec (.trigIn 3 false 4) S = .next t) ∧
    (∃ t, exec (.syncinLong 4) S = .next t) ∧
    (∃ t, exec (.inputRearm 4) (st { rdy with time := { blocked := [4, 0] } }) = .next t) :=
  ⟨runs (H.1 S (by decide)),
   runs (H.2.1 (st { rdy with time := { hold := some 0 } }) 0 (by decide) (by decide) (by decide)),
   runs (H.2.2.1 (st { rdy with time := { hold := some 6700000 } }) 6700000 (by decide) (by decide) (by decide) (by decide)),
   runs (H.2.2.2.1 S hd (by decide)),
   runs (H.2.2.2.2.1 (st (wr [(0x00320000, 0x20000000)] )) hd (by decide)),
   runs (H.2.2.2.2.1 (st (wr [(0x40, 0), (0x00320000, 0x20000000)])) hd (by decide)),
   runs (H.2.2.2.2.1 (st (wr [(0x00320000, 0x20000000)] (held))) hd (by decide)),
   runs (H.2.2.2.2.2.1 (st { wr [(0x00320000, 0x60000000)] with time := { alignArmed := true } }) true 16 (by decide) (by decide)
      (by decide) (by decide) (by decide) (by decide) (by decide)),
   runs (H.2.2.2.2.2.2.1 (st (wr [(0x00320000, 0x40000000)])) false 16 (by decide) (by decide) (by decide) (by decide) (by decide)
      (by decide)),
   runs (H.2.2.2.2.2.2.2.1 S 3 true 16 (by decide) (by decide) (by decide)),
   runs ((H.2.2.2.2.2.2.2.2.1 S 0 true 3 (by decide) (by decide)).1 (by decide)),
   runs ((H.2.2.2.2.2.2.2.2.1 S 0 true 15 (by decide) (by decide)).1 (by decide)),
   runs ((H.2.2.2.2.2.2.2.2.1 S 3 false 4 (by decide) (by decide)).2 (by decide)),
   runs (H.2.2.2.2.2.2.2.2.2.1 S 4 (by decide) (by decide)),
   runs (H.2.2.2.2.2.2.2.2.2.2 (st { rdy with time := { blocked := [4, 0] } }) 4 (by decide))⟩

theorem meets_TimedOutputs (H : Obligations.TimedOutputs) :
    (∃ t, exec (.timTrigArm 0 6 3 0x80000003) (st (wr [(trigCtrl 3, 0), (trigTime 3, 100)])) = .next t) ∧
    (∃ t, exec (.timTrigArm 0 6 3 0x80000000) (st (wr [(trigCtrl 3, 0), (trigTime 3, 99)])) = .next t) ∧
    (∃ t, exec (.timTrigArm 0 6 3 0x80000000) (st (wr [(trigCtrl 3, 0x80000000), (trigTime 3, 99)])) = .next t) ∧
    (∃ t, exec (.trigFire 3) (st (wr [(trigCtrl 3, 0x80000000), (trigTime 3, 100)])) = .next t) ∧
    (∃ t, exec (.trigFire 3) (st (wr [(trigCtrl 3, 0x80000002), (trigTime 3, 100)])) = .next t) ∧
    (∃ t, exec (.trigFire 3) (st
      { (wr [(trigCtrl 3, 0x80000002), (trigTime 3, 100)]) with time := { pulses := [(0, 1601)] } }) = .next t) ∧
    (∃ t, exec (.trigFire 3) (st (wr [(trigCtrl 3, 0x80000004), (trigTime 3, 100)])) = .next t) ∧
    (∃ t, exec (.syncoutPulse 0 6 0x80000008) S = .next t) ∧
    (∃ t, exec (.syncoutPulse 0 6 0x800000C8) S = .next t) ∧
    (∃ t, exec (.syncoutPulse 0 6 0x80000008) (st { rdy with time := { pulses := [(0, 1601)] } }) = .next t) ∧
    (∃ t, exec (.syncoutPulse 0 6 7) S = .next t) ∧
    (∃ t, exec (.syncoutPulse 0 6 0x800000C9) S = .next t) ∧
    (∃ t, exec (.asymUncertainClear 0 6 0x08000000) S = .next t) :=
  ⟨runs (H.1 (st (wr [(trigCtrl 3, 0), (trigTime 3, 100)])) 0 6 3 0x80000003 (by decide) (by decide) (by decide) (by decide)
      (by decide) (by decide)),
   runs (H.2.1 (st (wr [(trigCtrl 3, 0), (trigTime 3, 99)])) 0 6 3 0x80000000 (by decide) (by decide) (by decide) (by decide)
      (by decide) (by decide) (by decide)),
   runs (H.2.2.1 (st (wr [(trigCtrl 3, 0x80000000), (trigTime 3, 99)])) 0 6 3 0x80000000 (by decide) (by decide) (by decide)),
   runs (H.2.2.2.1 (st (wr [(trigCtrl 3, 0x80000000), (trigTime 3, 100)])) 3 (by decide) (by decide) (by decide) (by decide)
      (by decide)),
   runs (H.2.2.2.2.1 (st (wr [(trigCtrl 3, 0x80000002), (trigTime 3, 100)])) 3 (by decide) (by decide) (by decide) (by decide)
      (by decide)),
   runs (H.2.2.2.2.1 (st { (wr [(trigCtrl 3, 0x80000002), (trigTime 3, 100)]) with time := { pulses := [(0, 1601)] } }) 3
      (by decide) (by decide) (by decide) (by decide) (by decide)),
   runs (H.2.2.2.2.2.1 (st (wr [(trigCtrl 3, 0x80000004), (trigTime 3, 100)])) 3 (by decide) (by decide) (by decide) (by decide)
      (by decide) (by decide)),
   runs (H.2.2.2.2.2.2.1 S 0 6 0x80000008 (by decide) (by decide) (by decide) (by decide) (by decide)),
   runs (H.2.2.2.2.2.2.1 S 0 6 0x800000C8 (by decide) (by decide) (by decide) (by decide) (by decide)),
   runs (H.2.2.2.2.2.2.2.1 (st { rdy with time := { pulses := [(0, 1601)] } }) 0 6 0x80000008 (by decide) (by decide) (by decide)
      (by decide) (by decide)),
   runs (H.2.2.2.2.2.2.2.2.1 S 0 6 7 (by decide) (by decide)),
   runs (H.2.2.2.2.2.2.2.2.1 S 0 6 0x800000C9 (by decide) (by decide)),
   runs (H.2.2.2.2.2.2.2.2.2 S 0 6 0x08000000 (by decide) (by decide))⟩

theorem meets_EventOrder (H : Obligations.EventOrder) :
    (∃ t, exec .eventAccept (evq (ev []) (wr [(0x00310004, 0)])) = .next t) ∧
    (∃ t, exec .eventAccept (evq (ev []) (wr [(0x00310004, 0x80000001)])) = .next t) ∧
    (∃ t, exec .eventAccept (st
      { task (ctx 3) (wr [(0x00310004, 0x80000001)] imaged) with cirque := { linkWrite := [{ ev [.flags 0 1 2 5 2] with src := 0x1000 }], queues := [(15, [ev []])], last := 14 } }) = .next t) ∧
    (∃ t, exec .eventAccept S = .next t) ∧
    (∃ t, exec .linkWrite (st { task (ctx 3) with cirque := { linkWrite := [ev [.flags 0 1 2 5 2]] } }) = .next t) ∧
    (∃ t, exec .linkWrite (st { rdy with cirque := { linkWrite := [ev [.flags 0 1 2 5 2]] } }) = .next t) :=
  ⟨runs (H.1 (evq (ev []) (wr [(0x00310004, 0)])) 15 (ev []) [] (by decide) (by decide) (by decide) (by decide) (by decide)),
   runs (H.2.1 (evq (ev []) (wr [(0x00310004, 0x80000001)])) 15 (ev []) [] (by decide) (by decide) (by decide) (by decide)
      (by decide) (by decide) (by decide)),
   runs (H.2.2.1 (st { task (ctx 3) (wr [(0x00310004, 0x80000001)] imaged) with cirque := { linkWrite := [{ ev [.flags 0 1 2 5 2] with src := 0x1000 }], queues := [(15, [ev []])], last := 14 } }) 15
      { ev [.flags 0 1 2 5 2] with src := 0x1000 } (ev []) [] 0 1 5 2 (by decide) (by decide) (by decide) (by decide) (by decide)
      (by decide) (by decide) (by decide) (by decide) (by decide) (by decide) (by decide) (by decide) (by decide) (by decide)
      (by decide) (by decide)),
   runs (H.2.2.2.1 S (by decide) (by decide)),
   runs (H.2.2.2.2.1 (st { task (ctx 3) with cirque := { linkWrite := [ev [.flags 0 1 2 5 2]] } }) (ev [.flags 0 1 2 5 2]) 0 1 5 2
      (by decide) (by decide) (by decide) (by decide) (by decide) (by decide) (by decide) (by decide)),
   runs (H.2.2.2.2.2 (st { rdy with cirque := { linkWrite := [ev [.flags 0 1 2 5 2]] } }) (ev [.flags 0 1 2 5 2]) 0 1 5 2
      (by decide) (by decide) (by decide) (by decide))⟩

theorem meets_EventEffects (H : Obligations.EventEffects) :
    (∃ t, exec .eventAccept (evq (ev [.task 0 1 3]) (task { ctx 1 with pend := some 3 })) = .next t) ∧
    (∃ t, exec .eventAccept (evq (ev [.task 0 1 8]) (task { ctx 7 with pend := some 8 })) = .next t) ∧
    (∃ t, exec .eventAccept (evq (ev [.task 0 1 10]) (task { ctx 7 with pend := some 10 })) = .next t) ∧
    (∃ t, exec .eventAccept (evq (ev [.flags 0 1 1 5 2])
      { task (ctx 3) with cmd := { exec := some (hd, .taskFlags 4096 5 2) } }) = .next t) ∧
    (∃ t, exec .eventAccept (evq (ev [.cancel 0 1] 0x8009)
      { task (ctx 5) with cmd := { exec := some (hd, .taskCancel 4096) } }) = .next t) ∧
    (∃ t, exec .eventAccept (evq { ev [] with err := some { cls := 2, unit := 0, task := noTask, detail := 0 } }) = .next t) ∧
    (∃ t, exec .eventAccept (evq { ev [] with err := some { cls := 3, unit := 0, task := noTask, detail := 0 } }) = .next t) ∧
    (∃ t, exec .eventAccept (evq (ev [.cplt 0 5 0 0 [] true])
      { wr [(0x00310004, 0)] with cmd := { exec := some (hd, .devReset), done := true } }) = .next t) :=
  ⟨runs (H.1 (evq (ev [.task 0 1 3]) (task { ctx 1 with pend := some 3 })) 15 0 1 (ev [.task 0 1 3]) [] (by decide) (by decide)
      (by decide) (by decide) (by decide) (by decide) (by decide) (by decide)),
   runs (H.2.1 (evq (ev [.task 0 1 8]) (task { ctx 7 with pend := some 8 })) 15 0 1 0 (ev [.task 0 1 8]) [] (by decide)
      (by decide) (by decide) (by decide) (by decide) (by decide) (by decide) (by decide) (by decide)),
   runs (H.2.1 (evq (ev [.task 0 1 10]) (task { ctx 7 with pend := some 10 })) 15 0 1 2 (ev [.task 0 1 10]) [] (by decide)
      (by decide) (by decide) (by decide) (by decide) (by decide) (by decide) (by decide) (by decide)),
   runs (H.2.2.1 (evq (ev [.flags 0 1 1 5 2])
      { task (ctx 3) with cmd := { exec := some (hd, .taskFlags 4096 5 2) } }) 15 0 1 5 2 hd (ev [.flags 0 1 1 5 2]) []
      (by decide) (by decide) (by decide) (by decide) (by decide) (by decide) (by decide) (by decide) (by decide)),
   runs (H.2.2.2.1 (evq (ev [.cancel 0 1] 0x8009) { task (ctx 5) with cmd := { exec := some (hd, .taskCancel 4096) } }) 15 0 1 hd
      (ev [.cancel 0 1] 0x8009) [] (by decide) (by decide) (by decide) (by decide) (by decide) (by decide) (by decide) (by decide)
      (by decide) (by decide)),
   runs (H.2.2.2.2.1 (evq { ev [] with err := some { cls := 2, unit := 0, task := noTask, detail := 0 } }) 15
      { ev [] with err := some { cls := 2, unit := 0, task := noTask, detail := 0 } }
      { cls := 2, unit := 0, task := noTask, detail := 0 } [] (by decide) (by decide) (by decide) (by decide)),
   runs (H.2.2.2.2.2.1 (evq { ev [] with err := some { cls := 3, unit := 0, task := noTask, detail := 0 } }) 15
      { ev [] with err := some { cls := 3, unit := 0, task := noTask, detail := 0 } }
      { cls := 3, unit := 0, task := noTask, detail := 0 } [] (by decide) (by decide) (by decide) (by decide) (by decide)
      (by decide)),
   runs (H.2.2.2.2.2.2 (evq (ev [.cplt 0 5 0 0 [] true])
      { wr [(0x00310004, 0)] with cmd := { exec := some (hd, .devReset), done := true } }) 15 0 5 0 0 []
      (ev [.cplt 0 5 0 0 [] true]) [] (by decide) (by decide) (by decide) (by decide) (by decide) (by decide))⟩

theorem meets_SchedulerTime (H : Obligations.SchedulerTime) :
    (∃ t, exec .tickBoundary (st (task { ctx 2 with expiry := 1 })) = .next t) ∧
    (∃ t, exec (.admitTimeout 0) (st (task { ctx 4 with admitTimeout := 1 })) = .next t) ∧
    (∃ t, exec (.admitTimeout 0) (T 5) = .next t) ∧
    (∃ t, exec (.admitTimeout 0) (waiting env0) = .next t) ∧
    (∃ t, exec .coreLoadWindow S = .next t) ∧
    (∃ t, exec (.tskAgeLimitWrite 0 6 9) S = .next t) :=
  ⟨runs (H.1 (st (task { ctx 2 with expiry := 1 }))),
   runs (H.2.1 (st (task { ctx 4 with admitTimeout := 1 })) 0 (by decide) (by decide) (by decide) (by decide) (by decide)),
   runs (H.2.2.1 (T 5) 0 (by decide) (by decide)),
   runs (H.2.2.2.1 (waiting env0) 0 (ctx 3) (by decide) (by decide) (by decide) (by decide) (by decide) (by decide)),
   runs (H.2.2.2.2.1 S (by decide)),
   runs (H.2.2.2.2.2 S 0 6 9 (by decide))⟩

theorem meets_Admission (H : Obligations.Admission) :
    (∃ t, exec .admissionPass (waiting env0) = .next t) ∧
    (∃ t, exec .admissionPass (waiting { env0 with fillLines := [2 ^ 31] }) = .next t) ∧
    (∃ t, exec .admissionPass (waiting env0 [(1, { ctx 6 with held := true })]) = .next t) ∧
    (∃ t, exec .admissionPass S = .next t) :=
  ⟨runs (H.1 (waiting env0) 0 (ctx 3) (by decide) (by decide) (by decide) (by decide) (by decide) (by decide)),
   runs (H.2.1 (waiting { env0 with fillLines := [2 ^ 31] }) 0 (ctx 3) (by decide) (by decide) (by decide) (by decide)),
   runs (H.2.2.1 (waiting env0 [(1, { ctx 6 with held := true })]) 0 (ctx 3) (by decide) (by decide) (by decide) (by decide)
      (by decide) (by decide) (by decide) (by decide)),
   runs (H.2.2.2 S (by decide))⟩

theorem meets_FreezeThaw (H : Obligations.FreezeThaw) :
    (∃ t, exec (.freezeDone 0) (st (task { ctx 1 with move := some (false, 5) })) = .next t) ∧
    (∃ t, exec (.freezeDone 0) (T 1) = .next t) ∧
    (∃ t, exec (.freezeDone 0) (st
      { task ({ ctx 1 with move := some (false, 5) }) (wr [(0x00300004, 0)] imaged) with mem := { ch := [(0, { host := [{ addr := 0, who := .freeze 0 0 }] })] } }) = .next t) ∧
    (∃ t, exec (.thawDone 0 true) (st (task { ctx 1 with resident := true, move := some (true, 5) })) = .next t) ∧
    (∃ t, exec (.thawDone 0 false) (st
      { imaged with sched := { ctxs := [(0, { ctx 1 with resident := true, move := some (true, 5) })], selWait := [{ q := 0, tag := 6, word := 0, n := 0, gen := 1, s := 9 }] } }) = .next t) ∧
    (∃ t, exec (.thawDone 0 false) (st (task
      { ctx 5 with resident := true, move := some (true, 5), thawBad := true })) = .next t) ∧
    (∃ t, exec (.thawDone 0 false) (st
      { task ({ ctx 1 with resident := true, move := some (true, 5) }) (wr [(0x00300004, 0)] imaged) with mem := { ch := [(0, { host := [{ addr := 0, who := .thaw 0 0 }] })] } }) = .next t) ∧
    (∃ t, exec (.tskCtxSel 0 6 4096) (T 4) = .next t) ∧
    (∃ t, exec (.tskCtxSel 0 6 4096) (st (task { ctx 1 with resident := false })) = .next t) ∧
    (∃ t, exec (.tskCtxSel 0 6 4096) (st (task { ctx 1 with resident := false, wantSlot := some 3 })) = .next t) ∧
    (∃ t, exec (.tskCtxSel 0 6 8192) (T 4) = .next t) :=
  ⟨runs (H.1 (st (task { ctx 1 with move := some (false, 5) })) 0 (by decide) (by decide) (by decide)),
   runs (H.2.1 (T 1) 0 (by decide)),
   runs (H.2.1 (st { task ({ ctx 1 with move := some (false, 5) }) (wr [(0x00300004, 0)] imaged) with mem := { ch := [(0, { host := [{ addr := 0, who := .freeze 0 0 }] })] } }) 0
      (by decide)),
   runs (H.2.2.1 (st (task { ctx 1 with resident := true, move := some (true, 5) })) 0 true 5 (by decide) (by decide)
      (by decide)),
   runs (H.2.2.2.1 (st { imaged with sched := { ctxs := [(0, { ctx 1 with resident := true, move := some (true, 5) })], selWait := [{ q := 0, tag := 6, word := 0, n := 0, gen := 1, s := 9 }] } }) 0 5
      { q := 0, tag := 6, word := 0, n := 0, gen := 1, s := 9 } (by decide) (by decide) (by decide) (by decide) (by decide)
      (by decide) (by decide)),
   runs (H.2.2.2.2.1 (st (task { ctx 5 with resident := true, move := some (true, 5), thawBad := true })) 0 false 5 (by decide)
      (by decide) (by decide) (by decide)),
   runs (H.2.2.2.2.2.1 (st { task ({ ctx 1 with resident := true, move := some (true, 5) }) (wr [(0x00300004, 0)] imaged) with mem := { ch := [(0, { host := [{ addr := 0, who := .thaw 0 0 }] })] } }) 0 false
      (by decide) (by decide)),
   runs (H.2.2.2.2.2.2.1 (T 4) 0 6 4096 0 (by decide) (by decide) (by decide)),
   runs (H.2.2.2.2.2.2.2.1 (st (task { ctx 1 with resident := false })) 0 6 4096 0 (by decide) (by decide) (by decide) (by decide)
      (by decide)),
   runs (H.2.2.2.2.2.2.2.1 (st (task { ctx 1 with resident := false, wantSlot := some 3 })) 0 6 4096 0 (by decide) (by decide)
      (by decide) (by decide) (by decide)),
   runs (H.2.2.2.2.2.2.2.2 (T 4) 0 6 8192 (by decide) (by decide))⟩

theorem meets_BurstLife (H : Obligations.BurstLife) :
    (∃ t, exec (.preloadEnd 0) (st (task { ctx 5 with preloading := true })) = .next t) ∧
    (∃ t, exec (.preloadEnd 0) (st
      { task { ctx 5 with preloading := true } (wr [(0x00300004, 0)] imaged) with groups := [(0, { owner := some 0, hdrNeed := [0] })] }) = .next t) ∧
    (∃ t, exec (.burstStart 0) (st (task { ctx 5 with startTm := 1600 })) = .next t) ∧
    (∃ t, exec (.envelopeWindow 0) (st (task { ctx 6 with startTm := 1600 })) = .next t) ∧
    (∃ t, exec (.taskDrainDone 0) (st
      { task (ctx 7) with groups := [(0, { owner := some 0, cause := 5 }), (1, { owner := some 0, cause := 1 })] }) = .next t) ∧
    (∃ t, exec (.taskDrainDone 0) (st
      { task (ctx 7) with groups := [(0, { owner := some 0, cause := 2 }), (1, { owner := some 0, cause := 3 })] }) = .next t) ∧
    (∃ t, exec (.taskDrainDone 0) (st
      { task (ctx 7) with groups := [(0, { owner := some 0, cause := 4 }), (1, { owner := some 0, cause := 1 })] }) = .next t) ∧
    (∃ t, exec (.taskDrainDone 0) (st
      { task (ctx 7) with groups := [(0, { owner := some 0, cause := 1 }), (1, { owner := some 0, cause := 1 })] }) = .next t) ∧
    (∃ t, exec (.taskDrainDone 0) (st
      { task (ctx 7) with groups := [(0, { pipe := [{ num := 0, start := 0, mcount := 0, enc := 2 }] })] }) = .next t) :=
  ⟨runs (H.1 (st (task { ctx 5 with preloading := true })) 0 (by decide) (by decide) (by decide) (by decide) (by decide)),
   runs (H.2.1 (st { task { ctx 5 with preloading := true } (wr [(0x00300004, 0)] imaged) with groups := [(0, { owner := some 0, hdrNeed := [0] })] }) 0 0
      (by decide) (by decide) (by decide) (by decide)),
   runs (H.2.2.1 (st (task { ctx 5 with startTm := 1600 })) 0 (by decide) (by decide) (by decide) (by decide) (by decide)
      (by decide)),
   runs (H.2.2.2.1 (st (task { ctx 6 with startTm := 1600 })) 0 (by decide) (by decide) (by decide) (by decide)),
   runs (H.2.2.2.2.1 (st { task (ctx 7) with groups := [(0, { owner := some 0, cause := 5 }), (1, { owner := some 0, cause := 1 })] }) 0
      (by decide) (by decide) (by decide)),
   runs (H.2.2.2.2.1 (st { task (ctx 7) with groups := [(0, { owner := some 0, cause := 2 }), (1, { owner := some 0, cause := 3 })] }) 0
      (by decide) (by decide) (by decide)),
   runs (H.2.2.2.2.1 (st { task (ctx 7) with groups := [(0, { owner := some 0, cause := 4 }), (1, { owner := some 0, cause := 1 })] }) 0
      (by decide) (by decide) (by decide)),
   runs (H.2.2.2.2.1 (st { task (ctx 7) with groups := [(0, { owner := some 0, cause := 1 }), (1, { owner := some 0, cause := 1 })] }) 0
      (by decide) (by decide) (by decide)),
   runs (H.2.2.2.2.2 (st { task (ctx 7) with groups := [(0, { pipe := [{ num := 0, start := 0, mcount := 0, enc := 2 }] })] }) 0 0
      (by decide) (by decide) (by decide))⟩

theorem meets_ProgramWords (H : Obligations.ProgramWords) :
    (∃ t, exec (.frames 0) (burst (playing (word 1 (w1 := 4)))) = .next t) ∧
    (∃ t, exec (.seg 0) (burst (playing (word 2 (w1 := 7)))) = .next t) ∧
    (∃ t, exec (.loop 0) (burst (playing (word 3 (w1 := 2)))) = .next t) ∧
    (∃ t, exec (.endl 0) (burst (playing (word 4))) = .next t) ∧
    (∃ t, exec (.jmp 0) (burst (playing (word 5))) = .next t) ∧
    (∃ t, exec (.jcond 0) (burst (playing (word 6 (w2 := 1)))) = .next t) ∧
    (∃ t, exec (.mode 0) (burst (playing (word 7 (b2 := 3) (b3 := 255)))) = .next t) ∧
    (∃ t, exec (.tset 0) (burst (playing (word 8 (b2 := 63)))) = .next t) ∧
    (∃ t, exec (.pslot 0) (burst (playing (word 9 (b2 := 3)))) = .next t) ∧
    (∃ t, exec (.armt 0) (burst (playing (word 10 (w2 := 1)))) = .next t) ∧
    (∃ t, exec (.adct 0) (burst (playing (word 11))) = .next t) ∧
    (∃ t, exec (.setf 0) (burst (playing (word 12 (w1 := 1)))) = .next t) ∧
    (∃ t, exec (.waitf 0) (burst (playing (word 13 (w1 := 1)))) = .next t) ∧
    (∃ t, exec (.capm 0) (burst (playing (word 14 (b2 := 3) (w1 := 256)))) = .next t) ∧
    (∃ t, exec (.sync 0) (burst (playing (word 15 (b2 := 4) (w3 := 9)))) = .next t) ∧
    (∃ t, exec (.endWord 0) (burst (playing (word 16))) = .next t) ∧
    (∃ t, exec (.endWord 11) S = .next t) ∧
    (∃ t, exec (.endl 0) (burst
      { playing (word 4) with walk := { npc := 1, seg := some 0, pos := 1, loops := [(1, 2)] } }) = .next t) ∧
    (∃ t, exec (.endWord 0) (burst (at1 (word 16))) = .next t) :=
  ⟨runs (H.1 (burst (playing (word 1 (w1 := 4)))) 0 1 0 .frames rfl (by decide +kernel) (by decide +kernel) (by decide +kernel)),
   runs (H.1 (burst (playing (word 2 (w1 := 7)))) 0 2 0 .seg rfl (by decide +kernel) (by decide +kernel) (by decide +kernel)),
   runs (H.1 (burst (playing (word 3 (w1 := 2)))) 0 3 0 .loop rfl (by decide +kernel) (by decide +kernel) (by decide +kernel)),
   runs (H.1 (burst (playing (word 4))) 0 4 0 .endl rfl (by decide +kernel) (by decide +kernel) (by decide +kernel)),
   runs (H.1 (burst (playing (word 5))) 0 5 0 .jmp rfl (by decide +kernel) (by decide +kernel) (by decide +kernel)),
   runs (H.1 (burst (playing (word 6 (w2 := 1)))) 0 6 0 .jcond rfl (by decide +kernel) (by decide +kernel) (by decide +kernel)),
   runs (H.1 (burst (playing (word 7 (b2 := 3) (b3 := 255)))) 0 7 0 .mode rfl (by decide +kernel) (by decide +kernel)
      (by decide +kernel)),
   runs (H.1 (burst (playing (word 8 (b2 := 63)))) 0 8 0 .tset rfl (by decide +kernel) (by decide +kernel) (by decide +kernel)),
   runs (H.1 (burst (playing (word 9 (b2 := 3)))) 0 9 0 .pslot rfl (by decide +kernel) (by decide +kernel) (by decide +kernel)),
   runs (H.1 (burst (playing (word 10 (w2 := 1)))) 0 10 0 .armt rfl (by decide +kernel) (by decide +kernel) (by decide +kernel)),
   runs (H.1 (burst (playing (word 11))) 0 11 0 .adct rfl (by decide +kernel) (by decide +kernel) (by decide +kernel)),
   runs (H.1 (burst (playing (word 12 (w1 := 1)))) 0 12 0 .setf rfl (by decide +kernel) (by decide +kernel) (by decide +kernel)),
   runs (H.1 (burst (playing (word 13 (w1 := 1)))) 0 13 0 .waitf rfl (by decide +kernel) (by decide +kernel) (by decide +kernel)),
   runs (H.1 (burst (playing (word 14 (b2 := 3) (w1 := 256)))) 0 14 0 .capm rfl (by decide +kernel) (by decide +kernel)
      (by decide +kernel)),
   runs (H.1 (burst (playing (word 15 (b2 := 4) (w3 := 9)))) 0 15 0 .sync rfl (by decide +kernel) (by decide +kernel)
      (by decide +kernel)),
   runs (H.1 (burst (playing (word 16))) 0 16 0 .endWord rfl (by decide +kernel) (by decide +kernel) (by decide +kernel)),
   runs (H.2.1 S 11 16 .endWord rfl (by decide)),
   runs (H.2.2.1 (burst { playing (word 4) with walk := { npc := 1, seg := some 0, pos := 1, loops := [(1, 2)] } }) 0 0
      (by decide +kernel) (by decide +kernel) (by decide +kernel) (by decide +kernel)),
   runs (H.2.2.2 (burst (at1 (word 16))) 0 0 (by decide +kernel) (by decide +kernel) (by decide +kernel))⟩

theorem meets_FrameBoundaries (H : Obligations.FrameBoundaries) :
    (∃ t, exec (.frameBoundary 11) S = .next t) ∧
    (∃ t, exec (.frameBoundary 0) (burst (playing (word 1 (w1 := 1)))) = .next t) ∧
    (∃ t, exec (.frameBoundary 0) (burst (at1 (word 15 (b2 := 4) (w3 := 9)) 2)) = .next t) ∧
    (∃ t, exec (.frameBoundary 0) (burst (at1 (word 13 (w1 := 1)))) = .next t) ∧
    (∃ t, exec (.frameBoundary 0) (burst ({ dry (playing (word 1 (w1 := 1))) with elastic := true })) = .next t) ∧
    (∃ t, exec (.frameBoundary 0) (burst (at1 (word 16))) = .next t) ∧
    (∃ t, exec (.frameBoundary 0) (burst (dry (playing (word 1 (w1 := 1))))) = .next t) ∧
    (∃ t, exec (.frameBoundary 0) (burst (at1 (word 5))) = .next t) ∧
    (∃ t, exec (.frameBoundary 0) (burst (at1 (word 6 (b2 := 130)))) = .next t) ∧
    (∃ t, exec (.jcondTimeout 0) (burst ({ at1 (word 6 (b2 := 2) (w3 := 2)) with tests := 2 })) = .next t) ∧
    (∃ t, exec (.jcondTimeout 11) S = .next t) ∧
    (∃ t, exec (.underrun 0) (burst (dry (playing (word 1 (w1 := 1))))) = .next t) ∧
    (∃ t, exec (.stall 0) (burst ({ dry (playing (word 1 (w1 := 1))) with elastic := true })) = .next t) ∧
    (∃ t, exec (.underrun 0) (burst (playing (word 1 (w1 := 1)))) = .next t) ∧
    (∃ t, exec (.stall 0) (burst (playing (word 1 (w1 := 1)))) = .next t) ∧
    (∃ t, exec (.seqFault 0 .program) (burst (playing (word 1 (w1 := 1)))) = .next t) ∧
    (∃ t, exec (.seqFault 0 .nowhere) (burst ({ at1 (word 13 (w1 := 1)) 2 with faultDue := true })) = .next t) ∧
    (∃ t, exec (.seqFault 0 .program) (burst (at1 (word 13 (w1 := 1)) 3)) = .next t) ∧
    (∃ t, exec (.seqFault 0 .nowhere) (burst (playing (word 1))) = .next t) ∧
    (∃ t, exec (.seqFault 0 (.block 65535)) S = .next t) :=
  ⟨runs (H.1 S 11),
   runs (H.1 (burst (playing (word 1 (w1 := 1)))) 0),
   runs (H.1 (burst (at1 (word 15 (b2 := 4) (w3 := 9)) 2)) 0),
   runs (H.1 (burst (at1 (word 13 (w1 := 1)))) 0),
   runs (H.1 (burst ({ dry (playing (word 1 (w1 := 1))) with elastic := true })) 0),
   runs (H.1 (burst (at1 (word 16))) 0),
   runs (H.1 (burst (dry (playing (word 1 (w1 := 1))))) 0),
   runs (H.2.1 (burst (at1 (word 5))) 0 0 (by decide +kernel) (by decide +kernel) (by decide +kernel) (by decide +kernel)
      (by decide +kernel)),
   runs (H.2.1 (burst (at1 (word 6 (b2 := 130)))) 0 0 (by decide +kernel) (by decide +kernel) (by decide +kernel)
      (by decide +kernel) (by decide +kernel)),
   runs (H.2.2.1 (burst ({ at1 (word 6 (b2 := 2) (w3 := 2)) with tests := 2 })) 0 (by decide +kernel)),
   runs (H.2.2.2.1 S 11 (by decide)),
   runs (H.2.2.2.2.1 (burst (dry (playing (word 1 (w1 := 1))))) 0 (by decide +kernel)),
   runs (H.2.2.2.2.2.1 (burst ({ dry (playing (word 1 (w1 := 1))) with elastic := true })) 0 (by decide +kernel)),
   runs ((H.2.2.2.2.2.2.1 (burst (playing (word 1 (w1 := 1)))) 0 (by decide +kernel)).1),
   runs ((H.2.2.2.2.2.2.1 (burst (playing (word 1 (w1 := 1)))) 0 (by decide +kernel)).2),
   runs (H.2.2.2.2.2.2.2.1 (burst (playing (word 1 (w1 := 1)))) 0 0 .program (by decide +kernel) (by decide +kernel)
      (by decide +kernel) (by decide +kernel) (by decide +kernel)),
   runs (H.2.2.2.2.2.2.2.1 (burst ({ at1 (word 13 (w1 := 1)) 2 with faultDue := true })) 0 0 .nowhere (by decide +kernel)
      (by decide +kernel) (by decide +kernel) (by decide +kernel) (by decide +kernel)),
   runs (H.2.2.2.2.2.2.2.2.1 (burst (at1 (word 13 (w1 := 1)) 3)) 0 (by decide) (by decide)),
   runs (H.2.2.2.2.2.2.2.2.2.1 (burst (playing (word 1))) 0 (by decide)),
   runs (H.2.2.2.2.2.2.2.2.2.2 S 0 65535)⟩

theorem meets_PausesAndHolds (H : Obligations.PausesAndHolds) :
    (∃ t, exec (.waitfResume 0) (burst (at1 (word 13 (w1 := 1)) 3) 1) = .next t) ∧
    (∃ t, exec (.waitfResume 0) (st
      { (burst (at1 (word 13 (w1 := 1)) 3)).chip with sched := { ctxs := [(0, { ctx 6 with held := true, startTm := 1600, viewPend := [(900000, 819712, 1, 0)] })], gens := [(0, 1)] } }) = .next t) ∧
    (∃ t, exec (.waitfResume 0) (burst (at1 (word 13 (w1 := 1)) 3)) = .next t) ∧
    (∃ t, exec (.waitTimeout 0) (burst (at1 (word 13 (w1 := 1) (w3 := 1)) 3)) = .next t) ∧
    (∃ t, exec (.waitTimeout 0) (burst (at1 (word 13 (w1 := 1)) 3)) = .next t) ∧
    (∃ t, exec (.stallResume 0) (burst (at1 (word 1 (w1 := 1)) 4)) = .next t) ∧
    (∃ t, exec (.stallResume 0) (burst ({ dry (at1 (word 1 (w1 := 1)) 4) with elastic := true })) = .next t) ∧
    (∃ t, exec (.syncHoldEnd 0) (burst ({ at1 (word 15 (b2 := 4) (w3 := 9)) with syncEnd := some 3 })) = .next t) ∧
    (∃ t, exec (.syncTimeout 0) (burst (at1 (word 15 (b2 := 4) (w3 := 2)))) = .next t) ∧
    (∃ t, exec (.syncHoldEnd 11) S = .next t) ∧
    (∃ t, exec (.syncTimeout 11) S = .next t) :=
  ⟨runs (H.1 (burst (at1 (word 13 (w1 := 1)) 3) 1) 0 0 819200 (by decide +kernel) (by decide +kernel) (by decide +kernel)
      (by decide +kernel) (by decide +kernel)),
   runs (H.2.1 (st { (burst (at1 (word 13 (w1 := 1)) 3)).chip with sched := { ctxs := [(0, { ctx 6 with held := true, startTm := 1600, viewPend := [(900000, 819712, 1, 0)] })], gens := [(0, 1)] } }) 0 0 900000 819712 1 0 []
      (by decide +kernel) (by decide +kernel) (by decide +kernel) (by decide +kernel) (by decide +kernel) (by decide +kernel)
      (by decide +kernel)),
   runs (H.2.2.1 (burst (at1 (word 13 (w1 := 1)) 3)) 0 0 (by decide +kernel) (by decide +kernel)),
   runs (H.2.2.2.1 (burst (at1 (word 13 (w1 := 1) (w3 := 1)) 3)) 0 0 (by decide) (by decide) (by decide)),
   runs (H.2.2.2.2.1 (burst (at1 (word 13 (w1 := 1)) 3)) 0 (by decide)),
   runs (H.2.2.2.2.2.1 (burst (at1 (word 1 (w1 := 1)) 4)) 0 (by decide +kernel) (by decide +kernel) (by decide +kernel)),
   runs (H.2.2.2.2.2.2.1 (burst ({ dry (at1 (word 1 (w1 := 1)) 4) with elastic := true })) 0 (by decide +kernel)
      (by decide +kernel)),
   runs (H.2.2.2.2.2.2.2.1 (burst ({ at1 (word 15 (b2 := 4) (w3 := 9)) with syncEnd := some 3 })) 0 0 3 (by decide +kernel)
      (by decide +kernel) (by decide +kernel) (by decide +kernel) (by decide +kernel) (by decide +kernel) (by decide +kernel)),
   runs (H.2.2.2.2.2.2.2.2.1 (burst (at1 (word 15 (b2 := 4) (w3 := 2)))) 0 0 (by decide +kernel) (by decide +kernel)
      (by decide +kernel) (by decide +kernel) (by decide +kernel) (by decide +kernel) (by decide +kernel)),
   runs ((H.2.2.2.2.2.2.2.2.2 S 11 (by decide)).1),
   runs ((H.2.2.2.2.2.2.2.2.2 S 11 (by decide)).2)⟩

theorem meets_CompareResults (H : Obligations.CompareResults) :
    (∃ t, exec (.compareResultsComplete 0 []) (burst { playing (word 1) with pipe := [frec], st := 5 }) = .next t) ∧
    (∃ t, exec (.compareResultsComplete 0 [{ volts := [], changed := 0 }]) (burst
      { playing (word 1) with pipe := [frec], frame := 2 }) = .next t) ∧
    (∃ t, exec (.compareResultsComplete 0 []) (burst
      ({ playing (word 1) with pipe := [{ frec with enc := 3 }], st := 5 })) = .next t) ∧
    (∃ t, exec (.compareResultsComplete 0 []) (burst ({ playing (word 1) with pipe := [frec], frame := 1 })) = .next t) :=
  ⟨runs (H.1 (burst { playing (word 1) with pipe := [frec], st := 5 }) 0 0 [] frec [] (by decide +kernel) (by decide +kernel)
      (by decide +kernel) (by decide +kernel)),
   runs (H.1 (burst { playing (word 1) with pipe := [frec], frame := 2 }) 0 0 [{ volts := [], changed := 0 }] frec []
      (by decide +kernel) (by decide +kernel) (by decide +kernel) (by decide +kernel)),
   runs (H.2.1 (burst ({ playing (word 1) with pipe := [{ frec with enc := 3 }], st := 5 })) 0 0 [] { frec with enc := 3 } []
      (by decide +kernel) (by decide +kernel) (by decide +kernel)),
   runs (H.2.2.1 (burst ({ playing (word 1) with pipe := [frec], frame := 1 })) 0 [] (by decide +kernel))⟩

theorem meets_RingLines (H : Obligations.RingLines) :
    (∃ t, exec (.firnLineFilled 0) (burst
      { playing (word 1) with arrived := [(3, false, [9])], ring := [{ id := 3, seg := 0, play := 0, idx := 0, st := 1 }] }) = .next t) ∧
    (∃ t, exec (.firnLineFilled 0) (burst { playing (word 1) with arrived := [(3, true, [9])], orphans := [3] }) = .next t) ∧
    (∃ t, exec (.firnLineFilled 11) S = .next t) :=
  ⟨runs (H.1 (burst { playing (word 1) with arrived := [(3, false, [9])], ring := [{ id := 3, seg := 0, play := 0, idx := 0, st := 1 }] }) 0 3 false [9] []
      (by decide +kernel) (by decide +kernel)),
   runs (H.2.1 (burst { playing (word 1) with arrived := [(3, true, [9])], orphans := [3] }) 0 3 true [9] [] (by decide +kernel)
      (by decide +kernel)),
   runs (H.2.2 S 11 (by decide) (by decide))⟩

theorem meets_LaneMode (H : Obligations.LaneMode) :
    (∃ t, exec (.fckLock 0 (List.replicate 16 0)) (st
      { wr [(grpB 0 + 0x2C, 0x80000000)] with groups := [(0, { st := 1 })] }) = .next t) ∧
    (∃ t, exec (.fckLock 0 (0 :: List.replicate 15 100000)) (st
      { wr [(grpB 0 + 0x2C, 0x80000000)] with groups := [(0, { st := 1 })] }) = .next t) ∧
    (∃ t, exec (.fckLock 0 (List.replicate 16 0)) S = .next t) ∧
    (∃ t, exec (.fckUnlock 0 (List.replicate 16 0)) S = .next t) ∧
    (∃ t, exec (.fckLock 0 (List.replicate 16 0)) (st
      { wr [(grpB 0 + 0x2C, 0x80000000)] with groups := [(0, { st := 1, fckFrozen := true })] }) = .next t) ∧
    (∃ t, exec (.fckUnlock 0 (List.replicate 16 0)) (st
      { wr [(grpB 0 + 0x2C, 0x80000000)] with groups := [(0, { st := 1, fckFrozen := true })] }) = .next t) ∧
    (∃ t, exec (.fckUnlock 0 (List.replicate 16 100000)) (st
      { wr [(grpB 0 + 0x2C, 0x80000000)] with groups := [(0, { st := 1 })] }) = .next t) ∧
    (∃ t, exec (.checkerSync 0) (st { rdy with groups := [(0, { laneMode := true, chks := [{ synced := true }] })] }) = .next t) ∧
    (∃ t, exec (.checkerSyncLost 0) (st
      { rdy with groups := [(0, { laneMode := true, chks := [{ lossDue := true }] })] }) = .next t) ∧
    (∃ t, exec (.laneMarkerReceived 0 5 0) (st
      { wr [(pinB 0 + 4, 0x50000000), (pinB 0 + 0x60, 0x20000500)] with groups := [(0, { laneMode := true })] }) = .next t) ∧
    (∃ t, exec (.laneMarkerReceived 0 4 0) (st
      { wr [(pinB 0 + 4, 0x50000000), (pinB 0 + 0x60, 0x30000500)] with groups := [(0, { laneMode := true })] }) = .next t) ∧
    (∃ t, exec (.markerTimeout 0) (st
      { wr [(pinB 0 + 0x7C, 0x80000000), (chkStatus 0, 0x40000000)] with groups := [(0, { laneMode := true })] }) = .next t) ∧
    (∃ t, exec (.markerTimeout 0) (st { wr [(chkStatus 0, 0x40000000)] with groups := [(0, { laneMode := true })] }) = .next t) ∧
    (∃ t, exec (.markerTimeout 95) S = .next t) ∧
    (∃ t, exec (.pinChkClear 0 6 95 0x34000001) S = .next t) ∧
    (∃ t, exec (.pinChkClear 0 6 15 0) (st { rdy with groups := [(1, { owner := some 0 })] }) = .next t) :=
  ⟨runs (H.1 (st { wr [(grpB 0 + 0x2C, 0x80000000)] with groups := [(0, { st := 1 })] }) 0 (List.replicate 16 0) (by decide)
      (by decide) (by decide) (by decide)),
   runs (H.1 (st { wr [(grpB 0 + 0x2C, 0x80000000)] with groups := [(0, { st := 1 })] }) 0 (0 :: List.replicate 15 100000)
      (by decide) (by decide) (by decide) (by decide)),
   runs ((H.2.1 S 0 (List.replicate 16 0) (by decide)).1),
   runs ((H.2.1 S 0 (List.replicate 16 0) (by decide)).2),
   runs ((H.2.1 (st { wr [(grpB 0 + 0x2C, 0x80000000)] with groups := [(0, { st := 1, fckFrozen := true })] }) 0
      (List.replicate 16 0) (by decide)).1),
   runs ((H.2.1 (st { wr [(grpB 0 + 0x2C, 0x80000000)] with groups := [(0, { st := 1, fckFrozen := true })] }) 0
      (List.replicate 16 0) (by decide)).2),
   runs (H.2.2.1 (st { wr [(grpB 0 + 0x2C, 0x80000000)] with groups := [(0, { st := 1 })] }) 0 (List.replicate 16 100000)
      (by decide) (by decide) (by decide) (by decide)),
   runs (H.2.2.2.1 (st { rdy with groups := [(0, { laneMode := true, chks := [{ synced := true }] })] }) 0 (by decide) (by decide)
      (by decide)),
   runs (H.2.2.2.2.1 (st { rdy with groups := [(0, { laneMode := true, chks := [{ lossDue := true }] })] }) 0 (by decide)),
   runs (H.2.2.2.2.2.1 (st { wr [(pinB 0 + 4, 0x50000000), (pinB 0 + 0x60, 0x20000500)] with groups := [(0, { laneMode := true })] }) 0 5 0
      (by decide) (by decide) (by decide) (by decide)),
   runs (H.2.2.2.2.2.1 (st { wr [(pinB 0 + 4, 0x50000000), (pinB 0 + 0x60, 0x30000500)] with groups := [(0, { laneMode := true })] }) 0 4 0
      (by decide) (by decide) (by decide) (by decide)),
   runs (H.2.2.2.2.2.2.1 (st
      { wr [(pinB 0 + 0x7C, 0x80000000), (chkStatus 0, 0x40000000)] with groups := [(0, { laneMode := true })] }) 0 (by decide)
      (by decide)),
   runs (H.2.2.2.2.2.2.2.1 (st { wr [(chkStatus 0, 0x40000000)] with groups := [(0, { laneMode := true })] }) 0 (by decide)
      (by decide)),
   runs (H.2.2.2.2.2.2.2.2.1 S 95 (by decide)),
   runs (H.2.2.2.2.2.2.2.2.2.1 S 0 6 95 0x34000001 (by decide) (by decide) (by decide) (by decide) (by decide) (by decide)),
   runs (H.2.2.2.2.2.2.2.2.2.2 (st { rdy with groups := [(1, { owner := some 0 })] }) 0 6 15 0 (by decide) (by decide))⟩

theorem meets_Records (H : Obligations.Records) :
    (∃ t, exec (.recordAdmission 0) (st { ringed with mor := { queues := [(0, [rec0])] } }) = .next t) ∧
    (∃ t, exec (.recordAdmission 0) (st
      { ringed with mor := { queues := [(0, [rec0])] }, images := { loaded := [(0, { env := { env0 with siteQuota := [1], siteRate := [1] } })] }, sched := { ctxs := [(0, { ctx 6 with held := true })] } }) = .next t) ∧
    (∃ t, exec (.recordAdmission 0) (st
      { ringed with mor := { queues := [(0, [rec0])] }, images := { loaded := [(0, { env := { env0 with siteQuota := [0xFFFFFFFF], siteRate := [1] } })] }, sched := { ctxs := [(0, { ctx 6 with held := true })] } }) = .next t) ∧
    (∃ t, exec (.recordAdmission 0) (st
      { ringed with mor := { queues := [(0, [rec0])] }, images := { loaded := [(0, { env := { env0 with siteQuota := [1], siteRate := [0] } })] }, sched := { ctxs := [(0, { ctx 6 with held := true })] } }) = .next t) ∧
    (∃ t, exec (.recordAdmission 0) (st { ringed with mor := { queues := [(0, [rec0])] }, led := [(morLed 0, 0)] }) = .next t) ∧
    (∃ t, exec (.recordAdmission 0) (st { rdy with mor := { queues := [(0, [rec0])] } }) = .next t) ∧
    (∃ t, exec (.recordAdmission 0) (st
      { wr [(ringB 0 + 0xC, 1)] ringed with mor := { queues := [(0, [rec0])], rings := [(0, { held := [(rec0, 0)] })] } }) = .next t) ∧
    (∃ t, exec (.recordAdmission 0) (st
      { ringed with mor := { queues := [(0, [rec0])] }, images := { loaded := [(0, { env := { env0 with siteQuota := [0], siteRate := [1] } })] }, sched := { ctxs := [(0, { ctx 6 with held := true })] } }) = .next t) ∧
    (∃ t, exec (.ringLineWrite 0) (st
      { ringed with mor := { rings := [(0, { held := [(rec0, 0)], flushDue := true })] } }) = .next t) ∧
    (∃ t, exec (.ringLineWrite 15) S = .next t) ∧
    (∃ t, exec (.flushTimeout 0) (st { ringed with mor := { rings := [(0, { held := [(rec0, 0)] })] } }) = .next t) ∧
    (∃ t, exec (.ringLineCommit 0) (st
      { ringed with mor := { rings := [(0, { lines := [{ off := 256, sites := [0], written := true }] })] } }) = .next t) ∧
    (∃ t, exec (.ringLineCommit 0) (st
      { wr [(0x00300004, 0)] ringed with mor := { rings := [(0, { lines := [{ off := 256, sites := [0] }] })] } }) = .next t) ∧
    (∃ t, exec (.regWr 0 6 (BitVec.ofNat 64 (ringB 0 + 0x28)) [0x00020064]) (st ringed) = .next t) ∧
    (∃ t, exec (.pushMaxage 0) (st { ringed with mor := { rings := [(0, { ages := [5] })] } }) = .next t) :=
  ⟨runs (H.1 (st { ringed with mor := { queues := [(0, [rec0])] } }) 0 rec0 [] (by decide) (by decide) (by decide) (by decide)
      (by decide) (by decide)),
   runs (H.2.1 (st { ringed with mor := { queues := [(0, [rec0])] }, images := { loaded := [(0, { env := { env0 with siteQuota := [1], siteRate := [1] } })] }, sched := { ctxs := [(0, { ctx 6 with held := true })] } }) 0 rec0 [] 0
      (by decide) (by decide) (by decide) (by decide) (by decide) (by decide) (by decide) (by decide)),
   runs (H.2.1 (st { ringed with mor := { queues := [(0, [rec0])] }, images := { loaded := [(0, { env := { env0 with siteQuota := [0xFFFFFFFF], siteRate := [1] } })] }, sched := { ctxs := [(0, { ctx 6 with held := true })] } }) 0 rec0 [] 0
      (by decide) (by decide) (by decide) (by decide) (by decide) (by decide) (by decide) (by decide)),
   runs (H.2.2.1 (st { ringed with mor := { queues := [(0, [rec0])] }, images := { loaded := [(0, { env := { env0 with siteQuota := [1], siteRate := [0] } })] }, sched := { ctxs := [(0, { ctx 6 with held := true })] } }) 0 rec0 [] 0
      (by decide) (by decide) (by decide) (by decide) (by decide)),
   runs (H.2.2.2.1 (st { ringed with mor := { queues := [(0, [rec0])] }, led := [(morLed 0, 0)] }) 0 rec0 [] (by decide)
      (by decide) (by decide) (by decide) (by decide) (by decide)),
   runs (H.2.2.2.2.1 (st { rdy with mor := { queues := [(0, [rec0])] } }) 0 rec0 [] (by decide) (by decide) (by decide)
      (by decide)),
   runs (H.2.2.2.2.1 (st { wr [(ringB 0 + 0xC, 1)] ringed with mor := { queues := [(0, [rec0])], rings := [(0, { held := [(rec0, 0)] })] } }) 0 rec0 []
      (by decide) (by decide) (by decide) (by decide)),
   runs (H.2.2.2.2.2.1 (st { ringed with mor := { queues := [(0, [rec0])] }, images := { loaded := [(0, { env := { env0 with siteQuota := [0], siteRate := [1] } })] }, sched := { ctxs := [(0, { ctx 6 with held := true })] } }) 0 rec0 [] 0
      (by decide) (by decide) (by decide) (by decide) (by decide)),
   runs (H.2.2.2.2.2.2.1 (st { ringed with mor := { rings := [(0, { held := [(rec0, 0)], flushDue := true })] } }) 0 (by decide)),
   runs (H.2.2.2.2.2.2.2.1 S 15 (by decide)),
   runs (H.2.2.2.2.2.2.2.2.1 (st { ringed with mor := { rings := [(0, { held := [(rec0, 0)] })] } }) 0 (by decide) (by decide)),
   runs (H.2.2.2.2.2.2.2.2.2.1 (st
      { ringed with mor := { rings := [(0, { lines := [{ off := 256, sites := [0], written := true }] })] } }) 0
      { off := 256, sites := [0], written := true } [] (by decide) (by decide)),
   runs (H.2.2.2.2.2.2.2.2.2.2.1 (st
      { wr [(0x00300004, 0)] ringed with mor := { rings := [(0, { lines := [{ off := 256, sites := [0] }] })] } }) 0
      { off := 256, sites := [0] } [] (by decide) (by decide) (by decide)),
   runs (H.2.2.2.2.2.2.2.2.2.2.2.1 (st ringed) 0 6 0 0x00020064 (by decide) (by decide) (by decide) (by decide) (by decide)),
   runs (H.2.2.2.2.2.2.2.2.2.2.2.2 (st { ringed with mor := { rings := [(0, { ages := [5] })] } }) 0 5 [] (by decide))⟩

theorem meets_TdcAttempts (H : Obligations.TdcAttempts) :
    (∃ t, exec (.tdcStart ⟨0, 0⟩) (shot { dead := true }) = .next t) ∧
    (∃ t, exec (.tdcStart ⟨0, 0⟩) (shot { opened := true }) = .next t) ∧
    (∃ t, exec (.tdcStart ⟨0, 0⟩) (shot { opened := true, entry := [1] }) = .next t) ∧
    (∃ t, exec (.tdcStop 0 16 0) (tdc0 { opened := true, started := true, entry := tdcEntry }) = .next t) ∧
    (∃ t, exec (.tdcStop 0 0 0) (tdc0 { opened := true }) = .next t) ∧
    (∃ t, exec (.tdcStop 0 0 0) (tdc0 { opened := true, started := true, entry := tdcEntry, earlyAt := some 500000 }) = .next t) ∧
    (∃ t, exec (.tdcStop 0 0 0) (tdc0 { opened := true, started := true, entry := tdcEntry, earlyAt := some 499999 }) = .next t) ∧
    (∃ t, exec (.tdcStop 0 400 0) (tdc0 { opened := true, started := true, entry := tdcEntry }) = .next t) ∧
    (∃ t, exec (.tdcStart ⟨0, 0⟩) (st { rdy with tdc := { pins := [(0, { opened := true, entry := [3] })] } }) = .next t) ∧
    (∃ t, exec (.tdcStart ⟨0, 0⟩) (tdc0 { opened := true }) = .next t) ∧
    (∃ t, exec (.tdcStop 95 1 0) S = .next t) ∧
    (∃ t, exec (.tdcWindowClose 0) (tdc0 { opened := true, started := true }) = .next t) ∧
    (∃ t, exec (.tdcResult 0) (tdc0 { conv := some (70, true) }) = .next t) ∧
    (∃ t, exec (.tdcResult 0) (tdc0 { conv := some (700, false), acc := { count := 2 ^ 32 - 1 } }) = .next t) ∧
    (∃ t, exec (.tdcResult 95) S = .next t) ∧
    (∃ t, exec (.tdcDeadTimeEnd 0) (tdc0 { dead := true, armed := true }) = .next t) ∧
    (∃ t, exec (.tdcSnapGo 0 6 1) (st (wr [(0x00220008, 0x80000000)])) = .next t) ∧
    (∃ t, exec (.tdcSnapGo 0 6 3) (st (wr [(0x00220008, 0x80000000)])) = .next t) ∧
    (∃ t, exec (.tdcSnapGo 0 6 1) (st { rdy with tdc := { busy := some { seq := 0, byGo := true, copies := [] } } }) = .next t) ∧
    (∃ t, exec .tdcSnapDone (st
      { rdy with tdc := { busy := some { seq := 4, byGo := true, copies := [(0, {}), (95, {})] } } }) = .next t) ∧
    (∃ t, exec .tdcSnapDone S = .next t) ∧
    (∃ t, exec .eventAccept (evq (ev [.tdcResults])
      { rdy with tdc := { busy := some { seq := 4, byGo := true, copies := [(0, {}), (95, {})], done := true } } }) = .next t) :=
  ⟨runs (H.1 (shot { dead := true }) 0 0 (by decide) (by decide)),
   runs (H.2.1 (shot { opened := true }) 0 0 (by decide) (by decide) (by decide) (by decide)),
   runs (H.2.1 (shot { opened := true, entry := [1] }) 0 0 (by decide) (by decide) (by decide) (by decide)),
   runs (H.2.2.1 (tdc0 { opened := true, started := true, entry := tdcEntry }) 0 16 0 (by decide) (by decide) (by decide)
      (by decide) (by decide) (by decide)),
   runs ((H.2.2.2.1 (tdc0 { opened := true }) 0 0 0 (by decide) (by decide) (by decide) (by decide)).1 (fun m h => by cases h)),
   runs ((H.2.2.2.1 (tdc0 { opened := true, started := true, entry := tdcEntry, earlyAt := some 500000 }) 0 0 0 (by decide)
      (by decide) (by decide) (by decide)).1 (fun m h => by cases h; decide)),
   runs ((H.2.2.2.1 (tdc0 { opened := true, started := true, entry := tdcEntry, earlyAt := some 499999 }) 0 0 0 (by decide)
      (by decide) (by decide) (by decide)).2 499999 rfl (by decide) (by decide)),
   runs (H.2.2.2.2.1 (tdc0 { opened := true, started := true, entry := tdcEntry }) 0 400 0 (by decide) (by decide) (by decide)
      (by decide) (by decide) (by decide)),
   runs ((H.2.2.2.2.2.1 (st { rdy with tdc := { pins := [(0, { opened := true, entry := [3] })] } }) 0 0 1 0).1 (by decide)),
   runs ((H.2.2.2.2.2.1 (tdc0 { opened := true }) 0 0 1 0).1 (by decide)),
   runs ((H.2.2.2.2.2.1 S 95 63 1 0).2 (by decide)),
   runs (H.2.2.2.2.2.2.1 (tdc0 { opened := true, started := true }) 0 (by decide) (by decide)),
   runs (H.2.2.2.2.2.2.2.1 (tdc0 { conv := some (70, true) }) 0 70 true (by decide) (by decide)),
   runs (H.2.2.2.2.2.2.2.1 (tdc0 { conv := some (700, false), acc := { count := 2 ^ 32 - 1 } }) 0 700 false (by decide)
      (by decide)),
   runs (H.2.2.2.2.2.2.2.2.1 S 95 (by decide)),
   runs (H.2.2.2.2.2.2.2.2.2.1 (tdc0 { dead := true, armed := true }) 0 (by decide) (by decide) (by decide)),
   runs (H.2.2.2.2.2.2.2.2.2.2.1 (st (wr [(0x00220008, 0x80000000)])) 0 6 1 (by decide) (by decide) (by decide) (by decide)),
   runs (H.2.2.2.2.2.2.2.2.2.2.1 (st (wr [(0x00220008, 0x80000000)])) 0 6 3 (by decide) (by decide) (by decide) (by decide)),
   runs (H.2.2.2.2.2.2.2.2.2.2.2.1 (st { rdy with tdc := { busy := some { seq := 0, byGo := true, copies := [] } } }) 0 6 1
      (by decide) (by decide) (by decide)),
   runs (H.2.2.2.2.2.2.2.2.2.2.2.2.1 (st
      { rdy with tdc := { busy := some { seq := 4, byGo := true, copies := [(0, {}), (95, {})] } } })
      { seq := 4, byGo := true, copies := [(0, {}), (95, {})] } (by decide) (by decide)),
   runs (H.2.2.2.2.2.2.2.2.2.2.2.2.2.1 S (by decide)),
   runs (H.2.2.2.2.2.2.2.2.2.2.2.2.2.2 (evq (ev [.tdcResults])
      { rdy with tdc := { busy := some { seq := 4, byGo := true, copies := [(0, {}), (95, {})], done := true } } }) 15
      (ev [.tdcResults]) [] { seq := 4, byGo := true, copies := [(0, {}), (95, {})], done := true } (by decide) (by decide)
      (by decide) (by decide) (by decide) (by decide) (by decide))⟩

theorem meets_AdcSequences (H : Obligations.AdcSequences) :
    (∃ t, exec (.adcSample 0 [100] [] []) (st { rdy with adc := { conv := [(0, { run := some run0 })] } }) = .next t) ∧
    (∃ t, exec (.adcSample 0 [1300000000] [5] []) (st
      { rdy with adc := { conv := [(0, { run := some { run0 with disc := 1 } })] } }) = .next t) ∧
    (∃ t, exec (.adcSample 0 [] [] []) (st { rdy with adc := { conv := [(0, { run := some run0 })] } }) = .next t) ∧
    (∃ t, exec (.adcSample 0 [5] [] [6]) (st
      { rdy with adc := { conv := [(0, { run := some { run0 with stopping := true } })] } }) = .next t) ∧
    (∃ t, exec (.adcSample 0 [5] [] []) S = .next t) ∧
    (∃ t, exec (.adcSample 0 [5] [] []) (st
      { rdy with adc := { conv := [(0, { run := some { run0 with entry := 1 } })] } }) = .next t) ∧
    (∃ t, exec (.adcSampleJudged 0) (st { rdy with adc := { conv := [(0, { samples := [samp 0] })] } }) = .next t) ∧
    (∃ t, exec (.adcSampleJudged 0) (st { rdy with adc := { conv := [(0, { samples := [samp 1] })] } }) = .next t) ∧
    (∃ t, exec (.adcSampleJudged 0) (st { rdy with adc := { conv := [(0, { samples := [samp 2] })] } }) = .next t) ∧
    (∃ t, exec (.adcSampleJudged 0) (st
      { rdy with adc := { conv := [(0, { samples := [samp 0] })], acc := [(0, { count := 2 ^ 31 })] } }) = .next t) ∧
    (∃ t, exec (.xcmpCrossing 0 1) (st
      { rdy with adc := { xcmp := [(0, { watch := plan 4 4 0, low := true, armed := some (plan 4 4 0, 0, none) })] } }) = .next t) ∧
    (∃ t, exec (.xcmpCrossing 0 (-1)) (st
      { rdy with adc := { xcmp := [(0, { watch := plan 4 8 1, high := true, armed := some (plan 4 8 1, 0, none), left := 1 })] } }) = .next t) ∧
    (∃ t, exec (.xcmpCrossing 0 1) (st { rdy with adc := { xcmp := [(0, { watch := plan 4 4 0, low := true })] } }) = .next t) ∧
    (∃ t, exec (.xcmpCrossing 0 1) (st
      { rdy with adc := { xcmp := [(0, { watch := plan 4 4 0, armed := some (plan 4 4 0, 0, none) })] } }) = .next t) ∧
    (∃ t, exec (.xcmpCrossing 15 5) S = .next t) ∧
    (∃ t, exec (.adcTimer 0) (st
      { rdy with adc := { conv := [(0, { timer := some (plan 8 0 10, 0, none, 100) })] } }) = .next t) ∧
    (∃ t, exec (.adcTimer 0) (st
      { rdy with adc := { conv := [(0, { run := some run0, timer := some (plan 8 0 10, 0, none, 100) })] } }) = .next t) ∧
    (∃ t, exec (.adcSequenceEnd 0) (st
      { rdy with adc := { conv := [(0, { run := some { run0 with entry := 1, plan := plan 0 0x22 0 } })] } }) = .next t) ∧
    (∃ t, exec (.adcSequenceEnd 0) (st { rdy with adc := { conv := [(0, { run := some run0 })] } }) = .next t) :=
  ⟨runs (H.1 (st { rdy with adc := { conv := [(0, { run := some run0 })] } }) 0 [100] [] [] run0 (by decide) (by decide)
      (by decide) (by decide) (by decide)),
   runs (H.1 (st { rdy with adc := { conv := [(0, { run := some { run0 with disc := 1 } })] } }) 0 [1300000000] [5] []
      { run0 with disc := 1 } (by decide) (by decide) (by decide) (by decide) (by decide)),
   runs (H.2.1 (st { rdy with adc := { conv := [(0, { run := some run0 })] } }) 0 [] [] [] run0 (by decide) (by decide)
      (by decide) (by decide)),
   runs (H.2.2.1 (st { rdy with adc := { conv := [(0, { run := some { run0 with stopping := true } })] } }) 0 [5] [] [6]
      { run0 with stopping := true } (by decide) (by decide) (by decide) (by decide) (by decide)),
   runs (H.2.2.2.1 S 0 [5] [] [] (fun r h => by cases h)),
   runs (H.2.2.2.1 (st { rdy with adc := { conv := [(0, { run := some { run0 with entry := 1 } })] } }) 0 [5] [] []
      (fun r h => by cases h; decide)),
   runs (H.2.2.2.2.1 (st { rdy with adc := { conv := [(0, { samples := [samp 0] })] } }) 0 (samp 0) [] (by decide)),
   runs (H.2.2.2.2.1 (st { rdy with adc := { conv := [(0, { samples := [samp 1] })] } }) 0 (samp 1) [] (by decide)),
   runs (H.2.2.2.2.1 (st { rdy with adc := { conv := [(0, { samples := [samp 2] })] } }) 0 (samp 2) [] (by decide)),
   runs (H.2.2.2.2.1 (st { rdy with adc := { conv := [(0, { samples := [samp 0] })], acc := [(0, { count := 2 ^ 31 })] } }) 0
      (samp 0) [] (by decide)),
   runs ((H.2.2.2.2.2.1 (st
      { rdy with adc := { xcmp := [(0, { watch := plan 4 4 0, low := true, armed := some (plan 4 4 0, 0, none) })] } }) 0 1
      (by decide)).1 (.inl (by decide))),
   runs ((H.2.2.2.2.2.1 (st
      { rdy with adc := { xcmp := [(0, { watch := plan 4 8 1, high := true, armed := some (plan 4 8 1, 0, none), left := 1 })] } }) 0
      (-1) (by decide)).1 (.inr (by decide))),
   runs ((H.2.2.2.2.2.1 (st { rdy with adc := { xcmp := [(0, { watch := plan 4 4 0, low := true })] } }) 0 1 (by decide)).1 (.inl
      (by decide))),
   runs ((H.2.2.2.2.2.1 (st
      { rdy with adc := { xcmp := [(0, { watch := plan 4 4 0, armed := some (plan 4 4 0, 0, none) })] } }) 0 1 (by decide)).2
      (by decide)),
   runs (H.2.2.2.2.2.2.1 S 15 5 (by decide)),
   runs (H.2.2.2.2.2.2.2.1 (st { rdy with adc := { conv := [(0, { timer := some (plan 8 0 10, 0, none, 100) })] } }) 0
      (plan 8 0 10) 0 100 none (by decide)),
   runs (H.2.2.2.2.2.2.2.1 (st
      { rdy with adc := { conv := [(0, { run := some run0, timer := some (plan 8 0 10, 0, none, 100) })] } }) 0
      (plan 8 0 10) 0 100 none (by decide)),
   runs (H.2.2.2.2.2.2.2.2.1 (st
      { rdy with adc := { conv := [(0, { run := some { run0 with entry := 1, plan := plan 0 0x22 0 } })] } }) 0
      { run0 with entry := 1, plan := plan 0 0x22 0 } (by decide) (by decide)),
   runs (H.2.2.2.2.2.2.2.2.2 (st { rdy with adc := { conv := [(0, { run := some run0 })] } }) 0 run0 (by decide) (by decide))⟩

theorem meets_AdcWrites (H : Obligations.AdcWrites) :
    (∃ t, exec (.adcLaunch 0 6 0 1) (st (wr [(convB 0, 0x100), (convB 0 + 4, 1), (convB 0 + 12, 0)])) = .next t) ∧
    (∃ t, exec (.adcArm 0 6 0 2) (st (wr [(convB 0, 0x40104), (convB 0 + 4, 1), (convB 0 + 12, 0)])) = .next t) ∧
    (∃ t, exec (.adcArm 0 6 0 2) (st (wr [(convB 0, 0x108), (convB 0 + 4, 1), (convB 0 + 12, 10)])) = .next t) ∧
    (∃ t, exec (.adcDisarm 0 6 3 4) S = .next t) ∧
    (∃ t, exec (.adcLaunch 0 6 0 1) (st (held
      { imaged with images := { loaded := [(0, { env := { env0 with adcConv := 1, adcAcc := 1, crcUnits := 1, sbPorts := 1 } })] } })) = .next t) ∧
    (∃ t, exec (.adcArm 0 6 0 2) (st (held
      { imaged with images := { loaded := [(0, { env := { env0 with adcConv := 1, adcAcc := 1, crcUnits := 1, sbPorts := 1 } })] } })) = .next t) ∧
    (∃ t, exec (.adcDisarm 0 6 0 4) (st (held
      { imaged with images := { loaded := [(0, { env := { env0 with adcConv := 1, adcAcc := 1, crcUnits := 1, sbPorts := 1 } })] } })) = .next t) ∧
    (∃ t, exec (.adcLaunch 0 6 0 1) S = .next t) ∧
    (∃ t, exec (.adcSnapGo 0 6 3) (st (wr [(0x00230008, 3)])) = .next t) ∧
    (∃ t, exec (.adcSnapGo 0 6 1) (st { rdy with adc := { snap := some (3, []) } }) = .next t) ∧
    (∃ t, exec .eventAccept (evq (ev [.adcResults]) { rdy with adc := { snap := some (3, [(0, {}), (63, {})]) } }) = .next t) ∧
    (∃ t, exec (.adcMuxselWrite 0 6 0x0B170005) S = .next t) ∧
    (∃ t, exec (.adcMuxselWrite 0 6 0x0C000000) S = .next t) ∧
    (∃ t, exec (.adcMuxselWrite 0 6 0x00050000) S = .next t) ∧
    (∃ t, exec (.adcMuxselWrite 0 6 0x00180000) S = .next t) ∧
    (∃ t, exec (.adcMuxselWrite 0 6 6) S = .next t) ∧
    (∃ t, exec (.adcMuxselWrite 0 6 0) (st (held
      { imaged with images := { loaded := [(0, { env := { env0 with adcConv := 1, adcAcc := 1, crcUnits := 1, sbPorts := 1 } })] } })) = .next t) :=
  ⟨runs (H.1 (st (wr [(convB 0, 0x100), (convB 0 + 4, 1), (convB 0 + 12, 0)])) 0 6 0 (by decide +kernel) (by decide +kernel)
      (by decide +kernel) (by decide +kernel) (by decide +kernel) (by decide +kernel)),
   runs ((H.2.1 (st (wr [(convB 0, 0x40104), (convB 0 + 4, 1), (convB 0 + 12, 0)])) 0 6 0 (by decide +kernel) (by decide +kernel)
      (by decide +kernel) (by decide +kernel) (by decide +kernel)).1 (by decide +kernel)),
   runs ((H.2.1 (st (wr [(convB 0, 0x108), (convB 0 + 4, 1), (convB 0 + 12, 10)])) 0 6 0 (by decide +kernel) (by decide +kernel)
      (by decide +kernel) (by decide +kernel) (by decide +kernel)).2 (by decide +kernel)),
   runs (H.2.2.1 S 0 6 3 (by decide) (by decide)),
   runs ((H.2.2.2.1 (st (held
      { imaged with images := { loaded := [(0, { env := { env0 with adcConv := 1, adcAcc := 1, crcUnits := 1, sbPorts := 1 } })] } })) 0 6 0 1
      (by decide) (by decide)).1),
   runs ((H.2.2.2.1 (st (held
      { imaged with images := { loaded := [(0, { env := { env0 with adcConv := 1, adcAcc := 1, crcUnits := 1, sbPorts := 1 } })] } })) 0 6 0 2
      (by decide) (by decide)).2.1),
   runs ((H.2.2.2.1 (st (held
      { imaged with images := { loaded := [(0, { env := { env0 with adcConv := 1, adcAcc := 1, crcUnits := 1, sbPorts := 1 } })] } })) 0 6 0 4
      (by decide) (by decide)).2.2),
   runs (H.2.2.2.2.1 S 0 6 0 (by decide +kernel) (by decide +kernel) (by decide +kernel) (by decide +kernel)),
   runs (H.2.2.2.2.2.1 (st (wr [(0x00230008, 3)])) 0 6 3 (by decide +kernel) (by decide +kernel) (by decide +kernel)
      (by decide +kernel)),
   runs (H.2.2.2.2.2.2.1 (st { rdy with adc := { snap := some (3, []) } }) 0 6 1 (by decide) (by decide) (by decide)),
   runs (H.2.2.2.2.2.2.2.1 (evq (ev [.adcResults]) { rdy with adc := { snap := some (3, [(0, {}), (63, {})]) } }) 15
      (ev [.adcResults]) [] 3 [(0, {}), (63, {})] (by decide) (by decide) (by decide) (by decide) (by decide)),
   runs ((H.2.2.2.2.2.2.2.2.1 S 0 6 0x0B170005 (by decide +kernel) (by decide +kernel)).1 (by decide +kernel) (by decide +kernel)
      (by decide +kernel) (by decide +kernel)),
   runs ((H.2.2.2.2.2.2.2.2.1 S 0 6 0x0C000000 (by decide +kernel) (by decide +kernel)).2 (by decide +kernel)),
   runs ((H.2.2.2.2.2.2.2.2.1 S 0 6 0x00050000 (by decide +kernel) (by decide +kernel)).2 (by decide +kernel)),
   runs ((H.2.2.2.2.2.2.2.2.1 S 0 6 0x00180000 (by decide +kernel) (by decide +kernel)).2 (by decide +kernel)),
   runs ((H.2.2.2.2.2.2.2.2.1 S 0 6 6 (by decide +kernel) (by decide +kernel)).2 (by decide +kernel)),
   runs (H.2.2.2.2.2.2.2.2.2 (st (held
      { imaged with images := { loaded := [(0, { env := { env0 with adcConv := 1, adcAcc := 1, crcUnits := 1, sbPorts := 1 } })] } })) 0 6 0
      (by decide +kernel) (by decide +kernel))⟩

theorem meets_CheckValues (H : Obligations.CheckValues) :
    (∃ t, exec (.crcInit 0 6 31 1) S = .next t) ∧
    (∃ t, exec (.crcData32 0 6 0 0x31323334) (st (wr [(crcB 0, 0x00500000), (crcB 0 + 0x30, 0)] )) = .next t) ∧
    (∃ t, exec (.crcData8 0 6 0 0x31) (st (wr [(crcB 0, 0x00500000), (crcB 0 + 0x30, 0)] )) = .next t) ∧
    (∃ t, exec (.crcData32 0 6 0 1) S = .next t) ∧
    (∃ t, exec (.crcData8 0 6 0 1) (st (wr [(crcB 0, 0x00500000), (crcB 0 + 0x30, 0)] (held
      { imaged with images := { loaded := [(0, { env := { env0 with adcConv := 1, adcAcc := 1, crcUnits := 1, sbPorts := 1 } })] } }))) = .next t) ∧
    (∃ t, exec (.crcDmaGo 0 6 0 2) (st
      { wr [(crcB 0, 0x00400000), (crcB 0 + 0x30, 1), (0x00300004, 0x1E000000)] with cmd := { exec := some ({ hd with tag := 1 }, .memRetrain 3) } }) = .next t) ∧
    (∃ t, exec (.crcDmaGo 0 6 0 2) (st (wr [(crcB 0, 0x00400000), (crcB 0 + 0x30, 1)] )) = .next t) ∧
    (∃ t, exec (.crcDmaGo 0 6 0 2) (st (wr [(crcB 0, 0x00400000), (crcB 0 + 0x30, 0)] )) = .next t) ∧
    (∃ t, exec (.crcDone 0 none) (st
      { rdy with crcDma := [(0, { addr := 0, left := 2, fin := some (true, [7, 8]) })] }) = .next t) ∧
    (∃ t, exec (.crcDone 0 none) (st (wr [(0x00300004, 0)])) = .next t) ∧
    (∃ t, exec (.memReadData 0 .good) (st
      { rdy with crcDma := [(0, { addr := 254, left := 2 })], mem := { ch := [(0, { reads := [({ addr := 128, who := .dma 0 1 }, List.replicate 128 7)] })] } }) = .next t) ∧
    (∃ t, exec (.crcModeWrite 0 6 1) (st { inMode .negotiate with dev := { mode := .negotiate, pllLocked := true } }) = .next t) ∧
    (∃ t, exec (.crcModeWrite 0 6 1) S = .next t) ∧
    (∃ t, exec (.crcRestore 0 6 15 true 9) (st (wr [(0x00240000, 1)])) = .next t) ∧
    (∃ t, exec (.crcRestore 0 6 31 false 9) S = .next t) :=
  ⟨runs (H.1 S 0 6 31 (by decide +kernel) (by decide +kernel) (by decide +kernel)),
   runs ((H.2.1 (st (wr [(crcB 0, 0x00500000), (crcB 0 + 0x30, 0)] )) 0 6 0 0x31323334 (by decide +kernel) (by decide +kernel)
      (by decide +kernel) (by decide +kernel)).1),
   runs ((H.2.1 (st (wr [(crcB 0, 0x00500000), (crcB 0 + 0x30, 0)] )) 0 6 0 0x31 (by decide +kernel) (by decide +kernel)
      (by decide +kernel) (by decide +kernel)).2),
   runs ((H.2.2.1 S 0 6 0 1 (by decide +kernel) (by decide +kernel) (by decide +kernel)).1),
   runs ((H.2.2.1 (st (wr [(crcB 0, 0x00500000), (crcB 0 + 0x30, 0)] (held
      { imaged with images := { loaded := [(0, { env := { env0 with adcConv := 1, adcAcc := 1, crcUnits := 1, sbPorts := 1 } })] } }))) 0 6 0 1
      (by decide +kernel) (by decide +kernel) (by decide +kernel)).2),
   runs ((H.2.2.2.1 (st { wr [(crcB 0, 0x00400000), (crcB 0 + 0x30, 1), (0x00300004, 0x1E000000)] with cmd := { exec := some ({ hd with tag := 1 }, .memRetrain 3) } }) 0 6 0
      (by decide +kernel) (by decide +kernel) (by decide +kernel) (by decide +kernel) (by decide +kernel)).1 (by decide +kernel)
      (by decide +kernel) (by decide +kernel)),
   runs ((H.2.2.2.1 (st (wr [(crcB 0, 0x00400000), (crcB 0 + 0x30, 1)] )) 0 6 0 (by decide +kernel) (by decide +kernel)
      (by decide +kernel) (by decide +kernel) (by decide +kernel)).2.1 (by decide +kernel) (by decide +kernel)
      (by decide +kernel)),
   runs ((H.2.2.2.1 (st (wr [(crcB 0, 0x00400000), (crcB 0 + 0x30, 0)] )) 0 6 0 (by decide +kernel) (by decide +kernel)
      (by decide +kernel) (by decide +kernel) (by decide +kernel)).2.2 (by decide +kernel)),
   runs (H.2.2.2.2.1 (st { rdy with crcDma := [(0, { addr := 0, left := 2, fin := some (true, [7, 8]) })] }) 0 none
      { addr := 0, left := 2, fin := some (true, [7, 8]) } true [7, 8] (by decide +kernel) (by decide +kernel)),
   runs (H.2.2.2.2.2.1 (st (wr [(0x00300004, 0)])) 0 none (by decide +kernel) (by decide +kernel)),
   runs (H.2.2.2.2.2.2.1 (st
      { rdy with crcDma := [(0, { addr := 254, left := 2 })], mem := { ch := [(0, { reads := [({ addr := 128, who := .dma 0 1 }, List.replicate 128 7)] })] } }) 0 0 1
      { addr := 254, left := 2 } { addr := 128, who := .dma 0 1 } (List.replicate 128 7) [] (by decide +kernel)
      (by decide +kernel) (by decide +kernel) (by decide +kernel)),
   runs ((H.2.2.2.2.2.2.2.1 (st { inMode .negotiate with dev := { mode := .negotiate, pllLocked := true } }) 0 6 1 (by decide)).1
      (by decide)),
   runs ((H.2.2.2.2.2.2.2.1 S 0 6 1 (by decide)).2 (by decide)),
   runs ((H.2.2.2.2.2.2.2.2 (st (wr [(0x00240000, 1)])) 0 6 15 true 9 (by decide +kernel) (by decide +kernel)).1
      (by decide +kernel) (by decide +kernel)),
   runs ((H.2.2.2.2.2.2.2.2 S 0 6 31 false 9 (by decide +kernel) (by decide +kernel)).2 (by decide +kernel))⟩

theorem meets_Sideband (H : Obligations.Sideband) :
    (∃ t, exec (.sbRead 2 ((true :: true :: List.replicate 40 true).map (fun b => (true, b)))) (st
      (wr [(sbB 2, 0x80000000)])) = .next t) ∧
    (∃ t, exec (.sbRead 2 ((true :: true :: List.replicate 8 false).map (fun b => (true, b)))) (st
      (wr [(sbB 2, 0x80000000)])) = .next t) ∧
    (∃ t, exec (.sbRead 2 ((true :: true :: List.replicate 39 false).map (fun b => (true, b)))) (st
      (wr [(sbB 2, 0x80000000)])) = .next t) ∧
    (∃ t, exec (.sbWrite 2 [(true, true)] ((false :: List.replicate 40 true).map (fun b => (true, b)))) (st
      (wr [(sbB 2, 0x80000000)])) = .next t) ∧
    (∃ t, exec (.sbWrite 2 [(true, true)] ((false :: List.replicate 40 true).map (fun b => (true, b)))) (st
      (wr [(sbB 2, 0x90000000)])) = .next t) ∧
    (∃ t, exec (.sbAbort 2) (st
      { wr [(sbB 2, 0x80000000)] with sb := [(2, { frame := some sbf, out := some true })] }) = .next t) ∧
    (∃ t, exec (.sbFrameTimeout 2) (st
      { wr [(sbB 2, 0x80000000)] with sb := [(2, { frame := some sbf, out := some true })] }) = .next t) ∧
    (∃ t, exec (.sbRead 2 [(true, true)]) S = .next t) ∧
    (∃ t, exec (.sbWrite 2 [(true, true)] [(true, false)]) S = .next t) ∧
    (∃ t, exec (.sbAbort 2) S = .next t) ∧
    (∃ t, exec (.sbFrameTimeout 2) S = .next t) ∧
    (∃ t, exec (.sbClockWindow 2 9799 500) (st (wr [(sbB 2, 0x80000000)])) = .next t) ∧
    (∃ t, exec (.sbClockWindow 2 816001 500) (st (wr [(sbB 2, 0x80000000)])) = .next t) ∧
    (∃ t, exec (.sbClockWindow 2 9800 499) (st (wr [(sbB 2, 0x80000000)])) = .next t) ∧
    (∃ t, exec (.sbClockWindow 2 9800 500) (st (wr [(sbB 2, 0x80000000)])) = .next t) ∧
    (∃ t, exec (.sbClockWindow 2 816000 500) (st
      { wr [(sbB 2, 0x80000000)] with sb := [(2, { faulted := true, good := 2 })] }) = .next t) ∧
    (∃ t, exec (.sbClockWindow 2 816000 500) (st
      { wr [(sbB 2, 0x80000000)] with sb := [(2, { faulted := true, good := 3 })] }) = .next t) ∧
    (∃ t, exec (.sbrDisable 0 6 2 2) (st (wr [(sbB 2, 0x80000002)])) = .next t) ∧
    (∃ t, exec (.sbrHitClear 0 6 2 7 9) S = .next t) ∧
    (∃ t, exec (.sbrTableWrite 0 6 2 255 9) S = .next t) ∧
    (∃ t, exec (.sbrDisable 0 6 0 9) (st (held
      { imaged with images := { loaded := [(0, { env := { env0 with adcConv := 1, adcAcc := 1, crcUnits := 1, sbPorts := 1 } })] } })) = .next t) ∧
    (∃ t, exec (.sbrHitClear 0 6 0 0 9) (st (held
      { imaged with images := { loaded := [(0, { env := { env0 with adcConv := 1, adcAcc := 1, crcUnits := 1, sbPorts := 1 } })] } })) = .next t) ∧
    (∃ t, exec (.sbrTableWrite 0 6 0 0 9) (st (held
      { imaged with images := { loaded := [(0, { env := { env0 with adcConv := 1, adcAcc := 1, crcUnits := 1, sbPorts := 1 } })] } })) = .next t) :=
  ⟨runs ((H.1 (st (wr [(sbB 2, 0x80000000)])) 2 (List.replicate 40 true) (by decide) (by decide)).1 (by decide)),
   runs ((H.1 (st (wr [(sbB 2, 0x80000000)])) 2 (List.replicate 8 false) (by decide) (by decide)).2 (by decide) (by decide)),
   runs ((H.1 (st (wr [(sbB 2, 0x80000000)])) 2 (List.replicate 39 false) (by decide) (by decide)).2 (by decide) (by decide)),
   runs (H.2.1 (st (wr [(sbB 2, 0x80000000)])) 2 (List.replicate 40 true) [(true, true)] ((false :: List.replicate 40 true).map
      (fun b => (true, b))) (by decide) (by decide) (by decide) (by decide)),
   runs (H.2.1 (st (wr [(sbB 2, 0x90000000)])) 2 (List.replicate 40 true) [(true, true)] ((false :: List.replicate 40 true).map
      (fun b => (true, b))) (by decide) (by decide) (by decide) (by decide)),
   runs ((H.2.2.1 (st { wr [(sbB 2, 0x80000000)] with sb := [(2, { frame := some sbf, out := some true })] }) 2 sbf
      (by decide)).1),
   runs ((H.2.2.1 (st { wr [(sbB 2, 0x80000000)] with sb := [(2, { frame := some sbf, out := some true })] }) 2 sbf (by decide)).2
      (by decide)),
   runs ((H.2.2.2.1 S 2 [(true, true)] [(true, false)]).1 (by decide) |>.1),
   runs ((H.2.2.2.1 S 2 [(true, true)] [(true, false)]).1 (by decide) |>.2),
   runs ((H.2.2.2.1 S 2 [(true, true)] [(true, false)]).2 (by decide) |>.1),
   runs ((H.2.2.2.1 S 2 [(true, true)] [(true, false)]).2 (by decide) |>.2),
   runs (H.2.2.2.2.1 (st (wr [(sbB 2, 0x80000000)])) 2 9799 500 (by decide)),
   runs (H.2.2.2.2.1 (st (wr [(sbB 2, 0x80000000)])) 2 816001 500 (by decide)),
   runs (H.2.2.2.2.1 (st (wr [(sbB 2, 0x80000000)])) 2 9800 499 (by decide)),
   runs (H.2.2.2.2.2.1 (st (wr [(sbB 2, 0x80000000)])) 2 9800 500 (by decide) (by decide) (by decide)),
   runs (H.2.2.2.2.2.1 (st { wr [(sbB 2, 0x80000000)] with sb := [(2, { faulted := true, good := 2 })] }) 2 816000 500 (by decide)
      (by decide) (by decide)),
   runs (H.2.2.2.2.2.1 (st { wr [(sbB 2, 0x80000000)] with sb := [(2, { faulted := true, good := 3 })] }) 2 816000 500 (by decide)
      (by decide) (by decide)),
   runs (H.2.2.2.2.2.2.1 (st (wr [(sbB 2, 0x80000002)])) 0 6 2 2 (by decide) (by decide) (by decide) (by decide) (by decide)),
   runs ((H.2.2.2.2.2.2.2.1 S 0 6 2 7 255 9 (by decide) (by decide)).1),
   runs ((H.2.2.2.2.2.2.2.1 S 0 6 2 7 255 9 (by decide) (by decide)).2),
   runs ((H.2.2.2.2.2.2.2.2 (st (held
      { imaged with images := { loaded := [(0, { env := { env0 with adcConv := 1, adcAcc := 1, crcUnits := 1, sbPorts := 1 } })] } })) 0 6 0 0 0 9
      (by decide) (by decide)).1),
   runs ((H.2.2.2.2.2.2.2.2 (st (held
      { imaged with images := { loaded := [(0, { env := { env0 with adcConv := 1, adcAcc := 1, crcUnits := 1, sbPorts := 1 } })] } })) 0 6 0 0 0 9
      (by decide) (by decide)).2.1),
   runs ((H.2.2.2.2.2.2.2.2 (st (held
      { imaged with images := { loaded := [(0, { env := { env0 with adcConv := 1, adcAcc := 1, crcUnits := 1, sbPorts := 1 } })] } })) 0 6 0 0 0 9
      (by decide) (by decide)).2.2)⟩

theorem meets_MemorySlots (H : Obligations.MemorySlots) :
    (∃ t, exec (.memSlot 0 [] []) (st (wr [(0x00300004, 0)])) = .next t) ∧
    (∃ t, exec (.memSlot 7 [] []) S = .next t) ∧
    (∃ t, exec (.memSlot 0 [] []) (mch { pos := 4095 }) = .next t) ∧
    (∃ t, exec (.memReadData 0 .uncorrectable) (st
      { wr [(0x00300000, 0x10000010)] with mem := { ch := [(0, { reads := [(rdq, [])] })] } }) = .next t) ∧
    (∃ t, exec (.memReadData 0 .uncorrectable) (st
      { wr [(0x00300000, 0x10000010)] with mem := { ch := [(0, { reads := [({ fillq with retry := true }, [7])] })] } }) = .next t) ∧
    (∃ t, exec (.memReadData 0 .corrected) (st
      { wr [(0x00300000, 0x10000010)] with mem := { ch := [(0, { reads := [(fillq, [7])] })] } }) = .next t) ∧
    (∃ t, exec (.memReadData 0 .good) (st
      { wr [(0x00300000, 0x10000010)] with mem := { ch := [(0, { reads := [(fillq, [7])] })] } }) = .next t) ∧
    (∃ t, exec (.memReadData 0 .uncorrectable) (st
      { wr [(0x00300000, 0x10000010)] with mem := { ch := [(0, { reads := [({ addr := 0, who := .thaw 0 0, retry := true }, [7])] })] } }) = .next t) ∧
    (∃ t, exec (.memReadData 7 .good) S = .next t) :=
  ⟨runs (H.1 (st (wr [(0x00300004, 0)])) 0 [] [] (by decide)),
   runs (H.2.1 S 7 [] [] (by decide)),
   runs (H.2.1 (mch { pos := 4095 }) 0 [] [] (by decide)),
   runs (H.2.2.2.1 (st { wr [(0x00300000, 0x10000010)] with mem := { ch := [(0, { reads := [(rdq, [])] })] } }) 0 .uncorrectable rdq [] []
      (by decide) (by decide) (by decide) (by decide)),
   runs ((H.2.2.2.2.1 (st { wr [(0x00300000, 0x10000010)] with mem := { ch := [(0, { reads := [({ fillq with retry := true }, [7])] })] } }) 0
      { fillq with retry := true } [7] [] 0 0 0 (by decide) (by decide) (by decide)).1 (by decide)),
   runs ((H.2.2.2.2.1 (st { wr [(0x00300000, 0x10000010)] with mem := { ch := [(0, { reads := [(fillq, [7])] })] } }) 0 fillq [7] [] 0 0 0
      (by decide) (by decide) (by decide)).2.1),
   runs ((H.2.2.2.2.1 (st { wr [(0x00300000, 0x10000010)] with mem := { ch := [(0, { reads := [(fillq, [7])] })] } }) 0 fillq [7] [] 0 0 0
      (by decide) (by decide) (by decide)).2.2),
   runs (H.2.2.2.2.2.1 (st { wr [(0x00300000, 0x10000010)] with mem := { ch := [(0, { reads := [({ addr := 0, who := .thaw 0 0, retry := true }, [7])] })] } }) 0
      { addr := 0, who := .thaw 0 0, retry := true } [7] [] 0 0 (by decide) (by decide) (by decide) (by decide)),
   runs (H.2.2.2.2.2.2 S 7 .good (by decide))⟩

theorem meets_MemoryService (H : Obligations.MemoryService) :
    (∃ t, exec (.refresh 7) S = .next t) ∧
    (∃ t, exec (.refresh 7) (st (wr [(0x00300004, 0)])) = .next t) ∧
    (∃ t, exec .selfRefreshEntry (st (inMode .lowpower)) = .next t) ∧
    (∃ t, exec .selfRefreshEntry S = .next t) ∧
    (∃ t, exec (.selfRefreshExit 500) (st
      { wr [(0x00300004, 0x4C000000)] with mem := { ch := [(0, { host := [rdq], pos := 9 })] } }) = .next t) ∧
    (∃ t, exec (.selfRefreshExit 500) S = .next t) ∧
    (∃ t, exec (.memMitigWrite 0 6 8) S = .next t) ∧
    (∃ t, exec (.memMitigWrite 0 6 16) S = .next t) ∧
    (∃ t, exec (.memMitigWrite 0 6 7) S = .next t) ∧
    (∃ t, exec (.memMitigWrite 0 6 17) S = .next t) ∧
    (∃ t, exec (.memMitigWrite 0 6 9) (st (held)) = .next t) :=
  ⟨runs (H.1 S 7 (by decide) (by decide)),
   runs (H.2.1 (st (wr [(0x00300004, 0)])) 7 (by decide)),
   runs (H.2.2.1 (st (inMode .lowpower)) (by decide) (by decide) (by decide)),
   runs (H.2.2.2.1 S (by decide)),
   runs (H.2.2.2.2.1 (st { wr [(0x00300004, 0x4C000000)] with mem := { ch := [(0, { host := [rdq], pos := 9 })] } }) 500
      (by decide) (by decide) (by decide)),
   runs (H.2.2.2.2.2.1 S 500 (by decide)),
   runs ((H.2.2.2.2.2.2.2.2 S 0 6 8 (by decide)).1 (by decide) (by decide) (by decide)),
   runs ((H.2.2.2.2.2.2.2.2 S 0 6 16 (by decide)).1 (by decide) (by decide) (by decide)),
   runs ((H.2.2.2.2.2.2.2.2 S 0 6 7 (by decide)).2.1 (by decide) (by decide)),
   runs ((H.2.2.2.2.2.2.2.2 S 0 6 17 (by decide)).2.1 (by decide) (by decide)),
   runs ((H.2.2.2.2.2.2.2.2 (st (held)) 0 6 9 (by decide)).2.2 (by decide) (by decide))⟩

theorem meets_EventCounters (H : Obligations.EventCounters) :
    (∃ t, exec (.evtCntCfgWrite 0 6 63 0x8000013F) S = .next t) ∧
    (∃ t, exec (.evtCntCfgWrite 0 6 63 0x140) S = .next t) ∧
    (∃ t, exec (.counterFreeze 0 6 0x80000000) S = .next t) ∧
    (∃ t, exec (.clearAll 0 6 0x40000000) S = .next t) :=
  ⟨runs ((H.1 S 0 6 63 0x8000013F (by decide)).1 (by decide)),
   runs ((H.1 S 0 6 63 0x140 (by decide)).2 (by decide)),
   runs (H.2.1 S 0 6 0x80000000 (by decide)),
   runs (H.2.2.1 S 0 6 0x40000000 (by decide) (by decide))⟩

/-- A clocked device and a dark one, with nothing waiting. -/
theorem meets_IdleStep (H : Obligations.IdleStep) :
    (∃ t, step (st { rdy with tm := 1600 }) = .next t ∧ t.chip.frc = 101) ∧ ∃ t, step boot = .next t ∧ t = boot :=
  ⟨(H (st { rdy with tm := 1600 }) rfl).elim fun t h => ⟨t, h.1, h.2.2.2.1 (by decide)⟩,
   (H boot rfl).elim fun t h => ⟨t, h.1, h.2.2.2.2 (by decide)⟩⟩
/-- Five bytes up from 0 the LPDDR5X holds a 1, and one command waits. -/
def mem : State := { S with dram := [(5, 1)], pending := [.testLogicReset] }
theorem meets_MemoryFormKept (H : Obligations.MemoryFormKept) : ∃ t, step mem = .next t ∧ t.dramOk :=
  ⟨_, rfl, H mem _ (by unfold State.dramOk; decide) rfl⟩
theorem meets_QueueIsTheStepsOwn (H : Obligations.QueueIsTheStepsOwn) :
    ∃ t, exec .testLogicReset mem = .next t ∧ t.pending = [.testLogicReset] :=
  ⟨_, rfl, H mem _ .testLogicReset rfl⟩
theorem meets_MemoryFrame (H : Obligations.MemoryFrame) :
    ∃ t, exec .testLogicReset mem = .next t ∧ memRead t.dram 5 = memRead mem.dram 5 :=
  ⟨_, rfl, (H mem _ .testLogicReset rfl trivial).2 5⟩
/-- Pulses of 99 ns and of 500 ns. -/
theorem meets_NoPartialReset (H : Obligations.NoPartialReset) :
    (∃ t, exec (.powerOnReset 99 3 ⟨false, false⟩) S = .next t ∧ t = S) ∧
    ∃ t, exec (.systemReset 500 3) S = .next t ∧
      ((t.dram = S.dram ∧ ∃ k, t.chip = { S.chip with free := k }) ∨ t.dram = [] ∧ S.chip.resetTo t.chip) :=
  ⟨⟨_, rfl, (H S _ _ 99 3 ⟨false, false⟩ (.inl rfl) rfl).1 (by decide)⟩,
   ⟨_, rfl, (H S _ _ 500 3 ⟨false, false⟩ (.inr rfl) rfl).2⟩⟩
theorem meets_CreditsBalance (H : Obligations.CreditsBalance) :
    ∃ t, exec (.creditTimer 0) S = .next t ∧ t.chip.creditsBalance :=
  ⟨_, rfl, H S _ (.creditTimer 0) (by unfold Chip.creditsBalance; decide) trivial rfl⟩
theorem meets_BurstFrame (H : Obligations.BurstFrame) :
    (∃ t, exec (.frameBoundary 0) S = .next t ∧ t.dram = S.dram ∧ S.chip.hostSideKept t.chip) ∧
    ∃ t, exec (.markerTimeout 95) S = .next t ∧ t.chip.reg 0x000FFFFC = S.chip.reg 0x000FFFFC ∧
      t.chip.reg 0x001C0000 = S.chip.reg 0x001C0000 :=
  ⟨⟨_, rfl, H.1 S _ (.frameBoundary 0) trivial rfl⟩,
   ⟨_, rfl, H.2 S _ (.markerTimeout 95) 0x000FFFFC trivial (by decide) (by decide) (by decide) (by decide) (by decide) rfl,
    H.2 S _ (.markerTimeout 95) 0x001C0000 trivial (by decide) (by decide) (by decide) (by decide) (by decide) rfl⟩⟩
theorem meets_MeasurementFrame (H : Obligations.MeasurementFrame) :
    (∃ t, exec (.flushTimeout 0) S = .next t ∧ t.dram = S.dram) ∧
    ∃ t, exec (.tdcStart ⟨95, 0⟩) S = .next t ∧ t.chip.reg 0x001FFFFC = S.chip.reg 0x001FFFFC ∧
      t.chip.reg 0x00260000 = S.chip.reg 0x00260000 :=
  ⟨⟨_, rfl, (H.1 S _ (.flushTimeout 0) trivial rfl).1⟩,
   ⟨_, rfl, H.2 S _ (.tdcStart ⟨95, 0⟩) 0x001FFFFC trivial (by decide) rfl, H.2 S _ (.tdcStart ⟨95, 0⟩) 0x00260000 trivial (by decide) rfl⟩⟩
/-- A frozen block, and a counter one short of its threshold. -/
theorem meets_EventCounters_counting (H : Obligations.EventCounters) :
    ({ rdy with frozen := true } : Chip).count 3 1 = { rdy with frozen := true } ∧
    (tabGet {} (({ rdy with counters := [(2, { en := true, src := 3, thresh := 5, count := 4 })] } : Chip).count 3 1).counters
      2).thrHit = true :=
  ⟨H.2.2.2.1 { rdy with frozen := true } 3 1 rfl,
   ((H.2.2.2.2 { rdy with counters := [(2, { en := true, src := 3, thresh := 5, count := 4 })] } 3 1 2
     { en := true, src := 3, thresh := 5, count := 4 } [] [] rfl rfl (by decide) (by decide)).2 rfl rfl).2.2.2.2 (by decide) (by decide) |>.1⟩
/-- The levels at 500 and 1,000 times 0.1 mV, at both edges. -/
theorem meets_CompareResults_levels (H : Obligations.CompareResults) :
    compareLevel 500 1000 1499 = .L ∧ compareLevel 500 1000 1500 = .M ∧ compareLevel 500 1000 3000 = .M ∧
      compareLevel 500 1000 3001 = .H :=
  ⟨(H.2.2.2 500 1000 1499).1 (by decide), (H.2.2.2 500 1000 1500).2.2 (by decide) (by decide),
   (H.2.2.2 500 1000 3000).2.2 (by decide) (by decide), (H.2.2.2 500 1000 3001).2.1 (by decide) (by decide)⟩

/-- The frame of snapshot 0 (R33, R410). -/
theorem meets_Snapshots_frame (H : Obligations.Snapshots) : (rdy.snapFrame 0 7 100).length = 0x4000 := (H.2.1 rdy 0 7 100).1
/-- The slots of CAL_STORE: both valid, either one, none. -/
theorem meets_Calibration_target (H : Obligations.Calibration) :
    (slotted (slotImg [1, 0, 0, 0]) (slotImg [2, 0, 0, 0])).storeTarget 0 = (0, 3) ∧
    (slotted (slotImg [4, 0, 0, 0]) (slotImg [3, 0, 0, 0])).storeTarget 0 = (1, 5) :=
  ⟨((H.2.2.2.2.2.2.2.2.2.1 (slotted (slotImg [1, 0, 0, 0]) (slotImg [2, 0, 0, 0])) (by decide +kernel) (by decide +kernel)).1
      (by decide +kernel)).trans (by decide +kernel),
   ((H.2.2.2.2.2.2.2.2.2.1 (slotted (slotImg [4, 0, 0, 0]) (slotImg [3, 0, 0, 0])) (by decide +kernel) (by decide +kernel)).2
      (by decide +kernel)).trans (by decide +kernel)⟩
theorem meets_Calibration_target_one (H : Obligations.Calibration) :
    (slotted (slotImg [4, 0, 0, 0]) []).storeTarget 0 = (1, 5) ∧ (slotted [] (slotImg [3, 0, 0, 0])).storeTarget 0 = (0, 4) ∧
    rdy.storeTarget 0 = (0, 1) :=
  ⟨((H.2.2.2.2.2.2.2.2.2.2.1 (slotted (slotImg [4, 0, 0, 0]) [])).1 (by decide +kernel) (by decide +kernel)).trans
      (by decide +kernel),
   ((H.2.2.2.2.2.2.2.2.2.2.1 (slotted [] (slotImg [3, 0, 0, 0]))).2.1 (by decide +kernel) (by decide +kernel)).trans
      (by decide +kernel),
   (H.2.2.2.2.2.2.2.2.2.2.1 rdy).2.2 (by decide +kernel) (by decide +kernel)⟩
/-- A body that reads back otherwise: one of two that differ in their CRC. -/
theorem meets_Calibration_readBack (H : Obligations.Calibration) :
    ∃ back t, exec (.calStoreCommit ⟨[300, 300, 300, 300], some back⟩)
      (st { rdy with cal := { storing := some (0, 1) }, cmd := { exec := some (hd, .calStore) } }) = .next t := by
  let s := st { rdy with cal := { storing := some (0, 1) }, cmd := { exec := some (hd, .calStore) } }
  have two : ∃ back, crc32c back ≠ crc32c (s.chip.slotBytes [300, 300, 300, 300]) := by
    by_cases h : crc32c [] = crc32c (s.chip.slotBytes [300, 300, 300, 300])
    · exact ⟨[0], fun k => absurd (h.trans k.symm) (by decide)⟩
    · exact ⟨[], h⟩
  obtain ⟨back, h⟩ := two
  obtain ⟨t, _, k⟩ := H.2.2.2.2.2.2.2.2.2.2.2.2.2.2.1 s hd [300, 300, 300, 300] back 0 1 rfl rfl h
  exact ⟨back, t, k.1⟩
/-- A channel at HOST slots whose next requests are the last, and not the last, line of a BLK_WR. -/
def wrLine (left : Nat) : Chip :=
  { rdy with mem := { wrs := [(0, { q := 0, tag := 6, left := left })]
                      ch := [(0, { pos := 128, host := [{ addr := 0, data := some [7], who := .blkWr 0 }] })] } }
theorem meets_BlockTransfers_lines (H : Obligations.BlockTransfers) :
    (slotOf 0 0 0 [] (wrLine 1)).2.completed 0 6 0 ∧ (slotOf 0 0 0 [] (wrLine 2)).2.ports = rdy.ports :=
  ⟨(H.2.2.2.2.2.2.2.2.1 (wrLine 1) [] 0 0 0 0 _ [] [7] { q := 0, tag := 6, left := 1 } (by decide) (by decide) rfl rfl rfl rfl).2.2.1
      (by decide) rfl,
   ((H.2.2.2.2.2.2.2.2.1 (wrLine 2) [] 0 0 0 0 _ [] [7] { q := 0, tag := 6, left := 2 } (by decide) (by decide) rfl rfl rfl
      rfl).2.2.2 (by decide)).1⟩
/-- Slots of each class on channel 0: maintenance, capture with and without a line, HOST with none, a write and a read. -/
def slotAt (m : MemCh) : Chip := (mch m).chip
theorem meets_MemorySlots_classes (H : Obligations.MemorySlots) :
    (slotOf 0 0 0 [] (slotAt {})).1 = [] ∧ ((slotOf 0 0 0 [] (slotAt { pos := 144, capture := [req0] })).2.memCh 0).capture = [] ∧
    (slotOf 0 0 0 [] (slotAt { pos := 144 })).1 = [] ∧ (slotOf 0 0 0 [] (slotAt { pos := 128 })).1 = [] ∧
    ((slotOf 0 0 0 [] (slotAt { pos := 128, host := [req0] })).2.memCh 0).host = [] ∧
    (slotOf 0 0 0 [] (slotAt { pos := 128, host := [rdq] })).1 = [] := by
  have h := fun m => H.2.2.1 (slotAt m) [] 0 0 0
  refine ⟨(h {}).2.2.2.2.1 (.inl (by decide)), ?_, ?_, ?_, ?_, ?_⟩
  · exact ((h { pos := 144, capture := [req0] }).2.2.2.2.2.2.1 (by decide) req0 [] _ rfl rfl).1
  · exact ((h { pos := 144 }).2.2.2.2.2.2.2.1 (by decide) rfl).1
  · exact ((h { pos := 128 }).2.2.2.2.2.2.2.2.1 (by decide) rfl).1
  · exact ((h { pos := 128, host := [req0] }).2.2.2.2.2.2.2.2.2.1 (by decide) req0 [] _ rfl rfl).1
  · exact ((h { pos := 128, host := [rdq] }).2.2.2.2.2.2.2.2.2.2 (by decide) rdq [] rfl rfl).1
/-- A request, and one that makes two line requests, in self-refresh. -/
theorem meets_MemoryService_late (H : Obligations.MemoryService) :
    (wr [(0x00300004, 0x4C000000)]).counted ((wr [(0x00300004, 0x4C000000)]).memReq .host rdq) 0x00300020 ∧
    (wr [(0x00300004, 0x4C000000)]).counted ((wr [(0x00300004, 0x4C000000)]).memReadReqs .host 0 2 (fun _ => .gone)) 0x00300020 :=
  ⟨H.2.2.2.2.2.2.1 _ .host rdq (by decide) (by decide),
   (H.2.2.2.2.2.2.2.1 _ .host 0 2 [] (fun _ => .gone) (by decide) (by decide)).2⟩

end Sys2Proof.Tests
end

section
/-! SUPPORT. Transactions: how a request of a port ends before it runs, and how a register read takes effect. -/

namespace Sys2Proof.Machine

/-! ### Requests that do not run (R313, R314) -/

/-- A request that R313 refuses completes with its fault. -/
theorem Chip.request_refused (c : Chip) (q : Nat) (t : Txn) (run : Chip → Chip) (st : Nat) (h : c.takes q t.tag)
    (hf : c.txnFault t = some st) : c.request q t run = (c.tagged q t.tag).badTxn q t.tag st := by
  obtain ⟨hup, hheld, hrx, htag, _⟩ := h
  have hf' : (c.setPort q { c.port q with tags := (c.port q).tags ++ [t.tag.toNat] }).txnFault t = some st := hf
  unfold Chip.request
  simp only
  rw [if_neg (by simp [hheld])]
  split
  · rename_i h; rw [hrx] at h; cases h
  · rw [if_neg (by simp [hup]), if_neg htag]
    simp only [hf']
    rfl

/-- A request whose tag is outstanding is answered with TAG_IN_USE. -/
theorem Chip.request_tagUsed (c : Chip) (q : Nat) (t : Txn) (run : Chip → Chip) (hup : (c.port q).up = true)
    (hheld : (c.port q).heldUp = false) (hrx : (c.port q).rxq = []) (ht : t.tag.toNat ∈ (c.port q).tags) :
    c.request q t run = c.tagInUse q t.tag := by
  unfold Chip.request
  simp only [hheld, hrx, hup, ht, Bool.false_eq_true, Bool.not_true, if_false, if_true]

/-- A completion that joined the frames of a port stays the last of them while the port's frames do. -/
theorem completed_congr {c d : Chip} {q : Nat} {tag : Byte} {st : Nat} {data : List Word} {word state : Nat}
    (h : (d.port q).ready = (c.port q).ready) (hc : c.completed q tag st data word state) :
    d.completed q tag st data word state := by
  obtain ⟨fs, s, e⟩ := hc
  exact ⟨fs, s, h.trans e⟩

theorem Chip.badTxn_completed (c : Chip) (q : Nat) (tag : Byte) (st : Nat) (data : List Word)
    (h : (c.port q).redirect = false) : (c.badTxn q tag st data).completed q tag st data := by
  have hr : (c.reply q tag st 0 0 data).completed q tag st data := Chip.reply_completed c q tag st 0 0 data h
  unfold Chip.badTxn
  by_cases h4 : st = 4
  · simpa only [h4, if_true] using hr
  · simp only [h4, if_false]
    exact completed_congr (congrArg PortLink.ready (Chip.port_guardReject _ q)) hr

theorem Chip.reg_badTxn (c : Chip) (q : Nat) (tag : Byte) (st : Nat) (data : List Word) (a : Nat) (h : st ≠ 1) :
    (c.badTxn q tag st data).reg a = c.reg a := by
  have hr := Chip.reg_reply_ok c q tag st 0 0 data a h
  unfold Chip.badTxn
  by_cases h4 : st = 4
  · simpa only [h4, if_true] using hr
  · simpa only [h4, if_false, Chip.reg_guardReject] using hr

/-- A request that a port takes is answered on that port. -/
theorem Chip.redirect_of_takes (c : Chip) {q : Nat} {tag : Byte} (h : c.takes q tag) :
    ((c.tagged q tag).port q).redirect = false := by
  obtain ⟨_, _, _, _, hr⟩ := h
  rw [Chip.redirect_tagged, hr]

/-! ### Where a register stands -/

/-- Outside the check-value units the register map does not depend on the device (R249). -/
theorem Chip.findReg_plain (c : Chip) {a : Nat} (h : a < 0x00240100 ∨ 0x00241100 ≤ a) :
    c.findReg a = Machine.findReg a := by
  unfold Chip.findReg
  rw [if_neg (by omega)]

/-- After NEGOTIATE_COMMIT every register responds (R11). -/
theorem Chip.responds_committed (c : Chip) (a : Nat) (h : c.dev.committed = true) : c.responds a = true := by
  simp [Chip.responds, h]

@[simp] theorem Chip.peakNow_tagged (c : Chip) (q : Nat) (tag : Byte) (a : Nat) :
    (c.tagged q tag).peakNow a = c.peakNow a := (rfl)

/-! ### What refuses a register read (R5, R11, R35) -/

theorem Chip.readFault_cases (c : Chip) (a n st : Nat) (h : c.readFault a n = some st) : st = 4 ∨ st = 1 := by
  unfold Chip.readFault at h
  simp only at h
  split at h
  · exact .inl (Option.some.inj h).symm
  · split at h
    · exact .inr (Option.some.inj h).symm
    · cases h

/-- A word at a misaligned or unlisted address cannot be read. -/
theorem Chip.readFault_unlisted (c : Chip) (a : Nat) (h : a % 4 ≠ 0 ∨ c.findReg a = none) : c.readFault a 1 = some 4 := by
  have hc : a % 4 ≠ 0 ∨ a / 0x10000 ≠ (a + 4 * 1 - 1) / 0x10000 ∨
      (wordAddrs a 1).any (fun x => (c.findReg x).isNone) = true :=
    h.imp id fun hf => .inr (by simp [wordAddrs, hf])
  unfold Chip.readFault
  simp only [hc, if_true]

/-- A listed word reads when it responds, and is a state conflict when it does not. -/
theorem Chip.readFault_listed (c : Chip) (a : Nat) (x : RegRow × List Nat × Nat) (ha : a % 4 = 0)
    (hf : c.findReg a = some x) : c.readFault a 1 = if c.responds a then none else some 1 := by
  have hc : ¬ (a % 4 ≠ 0 ∨ a / 0x10000 ≠ (a + 4 * 1 - 1) / 0x10000 ∨
      (wordAddrs a 1).any (fun x => (c.findReg x).isNone) = true) := by
    rintro (h | h | h)
    · exact h ha
    · omega
    · simp [wordAddrs, hf] at h
  unfold Chip.readFault
  simp only [hc, if_false]
  cases hr : c.responds a <;> simp [wordAddrs, hr]

/-! ### Clearing reads (R10) -/

theorem Chip.clearRead_ports (c : Chip) (a : Nat) : (c.clearRead a).ports = c.ports := by
  unfold Chip.clearRead
  split
  · split <;> rfl
  · rfl

theorem Chip.foldl_clearRead_ports (as : List Nat) (c : Chip) :
    (as.foldl (fun c a => c.clearRead a) c).ports = c.ports := by
  induction as generalizing c with
  | nil => rfl
  | cons a as ih => exact (ih _).trans (Chip.clearRead_ports c a)

theorem Chip.reg_clearRead_other (c : Chip) {a b : Nat} (h : b ≠ a) : (c.clearRead a).reg b = c.reg b := by
  unfold Chip.clearRead
  split
  · split
    · rfl
    · exact Chip.reg_setReg_other _ _ h
  · rfl

/-- The RCL bits of a word that is read take what they restart from; a word without such bits keeps its value. -/
theorem Chip.reg_clearRead_same (c : Chip) (a : Nat) (r : RegRow) (ix : List Nat) (w : Nat)
    (hf : c.findReg a = some (r, ix, w)) :
    (c.clearRead a).reg a = (c.reg a &&& ~~~wordOf r.rcl w) ||| (c.peakNow a &&& wordOf r.rcl w) := by
  unfold Chip.clearRead
  simp only [hf]
  split
  · rename_i h
    have h0 : wordOf 0 w = 0#32 := by simp [wordOf]
    rw [h, h0, BitVec.not_zero, BitVec.and_allOnes, BitVec.and_zero, BitVec.or_zero]
  · exact Chip.reg_setReg_same _ _ _

/-! ### Register reads (R35, R313, R437) -/

/-- A read of 1 to 64 words that nothing holds back takes effect with its tag outstanding. -/
theorem regRd_runs (s : State) (q : Port) (tag : Byte) (addr : Dword) (n : BitVec 16) (h : s.chip.takes q tag)
    (h1 : 1 ≤ n.toNat) (h2 : n.toNat ≤ 64) :
    exec (.regRd q tag addr n) s =
      .next { s with chip := (s.chip.tagged q tag).readRegs s.chip q tag addr.toNat n.toNat } := by
  have hf : s.chip.txnFault { ttype := 2, tag := tag, tlen := n, param := 0, addr := addr, data := [] } = none := by
    show (if n.toNat = 0 ∨ 64 < n.toNat then some 5 else if (0 : Word) ≠ 0 ∨ 0 ≠ 0 then some 2 else none) = none
    rw [if_neg (by omega), if_neg (by simp)]
  exact congrArg (fun c => Host.Outcome.next { s with chip := c }) (Chip.request_takes s.chip q _ _ h hf)

/-- A read of no word, or of more than 64, is a LENGTH_ERROR. -/
theorem regRd_length (s : State) (q : Port) (tag : Byte) (addr : Dword) (n : BitVec 16) (h : s.chip.takes q tag)
    (hn : n.toNat = 0 ∨ 64 < n.toNat) :
    exec (.regRd q tag addr n) s = .next { s with chip := (s.chip.tagged q tag).badTxn q tag 5 } := by
  have hf : s.chip.txnFault { ttype := 2, tag := tag, tlen := n, param := 0, addr := addr, data := [] } = some 5 :=
    if_pos hn
  exact congrArg (fun c => Host.Outcome.next { s with chip := c }) (Chip.request_refused s.chip q _ _ 5 h hf)

theorem Chip.readRegs_ok (c c0 : Chip) (q : Nat) (tag : Byte) (a n : Nat) (h : c.readFault a n = none) :
    c.readRegs c0 q tag a n = ((wordAddrs a n).foldl (fun c x => c.clearRead x) c).reply q tag 0 0 0
      ((wordAddrs a n).map (fun x => c0.readWord x)) := by
  unfold Chip.readRegs
  simp only [h]

theorem Chip.readRegs_refused (c c0 : Chip) (q : Nat) (tag : Byte) (a n st : Nat) (h : c.readFault a n = some st) :
    c.readRegs c0 q tag a n = c.reply q tag st 0 0 (if n = 1 then [0] else []) := by
  unfold Chip.readRegs
  simp only [h]

/-- A read that is not refused returns the words as they stood, and completes. -/
theorem regRd_completes (s : State) (q : Port) (tag : Byte) (addr : Dword) (n : BitVec 16) (h : s.chip.takes q tag)
    (h1 : 1 ≤ n.toNat) (h2 : n.toNat ≤ 64) (hf : s.chip.readFault addr.toNat n.toNat = none) :
    ∃ t, exec (.regRd q tag addr n) s = .next t ∧
      t.chip.completed q tag 0 ((wordAddrs addr.toNat n.toNat).map (fun a => s.chip.readWord a)) ∧ t.dram = s.dram := by
  refine ⟨_, regRd_runs s q tag addr n h h1 h2, ?_, rfl⟩
  rw [Chip.readRegs_ok (s.chip.tagged q tag) _ _ _ _ _ hf]
  refine Chip.reply_completed _ _ _ _ _ _ _ ?_
  rw [Chip.port_of_ports (Chip.foldl_clearRead_ports _ _)]
  exact Chip.redirect_of_takes _ h

/-- A read of one word clears its RCL bits and changes no other word. -/
theorem regRd_one (s : State) (q : Port) (tag : Byte) (addr : Dword) (r : RegRow) (ix : List Nat) (w : Nat)
    (h : s.chip.takes q tag) (hf : s.chip.readFault addr.toNat 1 = none)
    (hr : s.chip.findReg addr.toNat = some (r, ix, w)) :
    ∃ t, exec (.regRd q tag addr 1) s = .next t ∧ t.chip.completed q tag 0 [s.chip.readWord addr.toNat] ∧
      t.chip.reg addr.toNat = (s.chip.reg addr.toNat &&& ~~~wordOf r.rcl w) |||
        (s.chip.peakNow addr.toNat &&& wordOf r.rcl w) ∧
      ∀ b, b ≠ addr.toNat → t.chip.reg b = s.chip.reg b := by
  obtain ⟨t, ht, hc, _⟩ := regRd_completes s q tag addr 1 h (by decide) (by decide) hf
  have e : t.chip = ((s.chip.tagged q tag).clearRead addr.toNat).reply q tag 0 0 0 [s.chip.readWord addr.toNat] := by
    rw [regRd_runs s q tag addr 1 h (by decide) (by decide)] at ht
    rw [← Host.Outcome.next.inj ht]
    exact Chip.readRegs_ok _ _ _ _ _ 1 hf
  have hreg : ∀ b, t.chip.reg b = ((s.chip.tagged q tag).clearRead addr.toNat).reg b := fun b => by
    rw [e, Chip.reg_reply_ok _ _ _ _ _ _ _ _ (by decide)]
  refine ⟨t, ht, hc, ?_, fun b hb => ?_⟩
  · rw [hreg, Chip.reg_clearRead_same (s.chip.tagged q tag) _ r ix w hr, Chip.reg_tagged, Chip.peakNow_tagged]
  · rw [hreg, Chip.reg_clearRead_other _ hb, Chip.reg_tagged]

/-- A refused read of 1 to 64 words changes no register but DEV_CNT_CONFLICT. -/
theorem regRd_refused (s : State) (q : Port) (tag : Byte) (addr : Dword) (n : BitVec 16) (st : Nat)
    (h : s.chip.takes q tag) (h1 : 1 ≤ n.toNat) (h2 : n.toNat ≤ 64)
    (hf : s.chip.readFault addr.toNat n.toNat = some st) :
    ∃ t, exec (.regRd q tag addr n) s = .next t ∧ t.chip.completed q tag st (if n.toNat = 1 then [0] else []) ∧
      ∀ a, a ≠ 0x00010024 → t.chip.reg a = s.chip.reg a := by
  refine ⟨_, regRd_runs s q tag addr n h h1 h2, ?_, fun a ha => ?_⟩
  · rw [Chip.readRegs_refused (s.chip.tagged q tag) _ _ _ _ _ st hf]
    exact Chip.reply_completed _ _ _ _ _ _ _ (Chip.redirect_of_takes _ h)
  · rw [Chip.readRegs_refused (s.chip.tagged q tag) _ _ _ _ _ st hf, Chip.reg_reply _ _ _ _ _ _ _ ha, Chip.reg_tagged]

/-! ### The counters of a port (R324) -/

theorem findReg_portCounter (p : Port) (i : Fin 10) :
    Machine.findReg (portB p + 8 + 4 * i) = some (rclRow 0x00311008 [portDim, (10, 4)], [p.val, i.val], 0) := by
  revert p i; decide

theorem portCounter_addr (p : Port) (i : Fin 10) :
    (BitVec.ofNat 64 (portB p + 8 + 4 * i)).toNat = portB p + 8 + 4 * i := by
  rw [BitVec.toNat_ofNat]
  exact Nat.mod_eq_of_lt (by unfold portB; omega)

theorem Chip.readWord_portCounter (c : Chip) (p : Port) (i : Fin 10) :
    c.readWord (portB p + 8 + 4 * i) = c.reg (portB p + 8 + 4 * i) := by
  have hb : (portB p + 8 + 4 * i) / 0x10000 = 0x31 := by unfold portB; omega
  have ho : (portB p + 8 + 4 * i) % 0x10000 = 0x1000 + 0x1000 * p + 8 + 4 * i := by unfold portB; omega
  have hi : (0x1000 + 0x1000 * p.val + 8 + 4 * i.val) % 0x1000 = 8 + 4 * i := by omega
  have hl : c.lnkWord (portB p + 8 + 4 * i) = c.reg (portB p + 8 + 4 * i) := by
    unfold Chip.lnkWord
    simp only [ho, hi]
    rw [if_neg (by omega), if_neg (by omega), if_neg (by omega), if_neg (by omega)]
  unfold Chip.readWord
  rw [Chip.findReg_plain c (by unfold portB; omega), findReg_portCounter]
  show c.liveWord _ = _
  unfold Chip.liveWord
  rw [hb]
  exact hl

/-- A counter of a port restarts from 0. -/
theorem Chip.peakNow_portCounter (c : Chip) (p : Port) (i : Fin 10) : c.peakNow (portB p + 8 + 4 * i) = 0 := by
  have ha : portB p + 8 + 4 * i = 0x00311008 + 0x1000 * p + 4 * i := by unfold portB; omega
  unfold Chip.peakNow
  rw [ha, if_neg (by omega), if_neg (by omega), if_neg (by omega), if_neg (by omega), if_neg (by omega)]

/-- A read of a counter of a port returns it and clears it (R10). -/
theorem regRd_portCounter (s : State) (q p : Port) (tag : Byte) (i : Fin 10) (h : s.chip.takes q tag)
    (hc : s.chip.dev.committed = true) :
    ∃ t, exec (.regRd q tag (BitVec.ofNat 64 (portB p + 8 + 4 * i)) 1) s = .next t ∧
      t.chip.completed q tag 0 [s.chip.reg (portB p + 8 + 4 * i)] ∧ t.chip.reg (portB p + 8 + 4 * i) = 0 ∧
      ∀ a, a ≠ portB p + 8 + 4 * i → t.chip.reg a = s.chip.reg a := by
  have hf : s.chip.findReg (portB p + 8 + 4 * i) = some (rclRow 0x00311008 [portDim, (10, 4)], [p.val, i.val], 0) :=
    (Chip.findReg_plain _ (by unfold portB; omega)).trans (findReg_portCounter p i)
  have hn : s.chip.readFault (portB p + 8 + 4 * i) 1 = none := by
    rw [Chip.readFault_listed _ _ _ (by unfold portB; omega) hf, Chip.responds_committed _ _ hc, if_pos rfl]
  have ha := portCounter_addr p i
  obtain ⟨t, ht, hd, hr, ho⟩ := regRd_one s q tag (BitVec.ofNat 64 (portB p + 8 + 4 * i)) _ _ _ h
    (by rw [ha]; exact hn) (by rw [ha]; exact hf)
  rw [ha] at hd hr ho
  refine ⟨t, ht, ?_, ?_, ho⟩
  · rwa [Chip.readWord_portCounter] at hd
  · rw [hr, Chip.peakNow_portCounter, show wordOf (rclRow 0x00311008 [portDim, (10, 4)]).rcl 0 = BitVec.allOnes 32 from rfl]
    simp

/-! ### The obligation -/

/-- Settles O31: a read runs on the device as it stood; a refused one is answered by the status that refuses it. -/
theorem registerReads : Obligations.RegisterReads := by
  unfold Obligations.RegisterReads
  refine ⟨regRd_completes, fun s q p tag i => regRd_portCounter s q p tag i,
    fun s q tag addr r ix w h => regRd_one s q tag addr r ix w h, ?_, ?_, ?_, ?_⟩
  · intro s q tag addr n h hn
    exact ⟨_, regRd_length s q tag addr n h hn, Chip.badTxn_completed _ _ _ _ _ (Chip.redirect_of_takes _ h),
      fun a => (Chip.reg_badTxn _ _ _ _ _ a (by decide)).trans (Chip.reg_tagged _ _ _ a)⟩
  · intro s q tag addr n st h h1 h2 hf
    obtain ⟨t, ht, hc, ho⟩ := regRd_refused s q tag addr n st h h1 h2 hf
    exact ⟨t, ht, Chip.readFault_cases _ _ _ _ hf, hc, ho⟩
  · intro s q tag addr h ha
    obtain ⟨t, ht, hc, _⟩ := regRd_refused s q tag addr 1 4 h (by decide) (by decide)
      (Chip.readFault_unlisted _ _ ha)
    exact ⟨t, ht, hc⟩
  · intro s q tag h hc
    have hf : s.chip.readFault 0x00320008 1 = some 1 := by
      rw [Chip.readFault_listed _ _ _ (by decide) ((Chip.findReg_plain _ (.inr (by decide))).trans rfl),
        show s.chip.responds 0x00320008 = false by simp [Chip.responds, hc, early]]
      rfl
    obtain ⟨t, ht, hd, _⟩ := regRd_refused s q tag 0x00320008 1 1 h (by decide) (by decide) hf
    exact ⟨t, ht, hd⟩

end Sys2Proof.Machine
end

section
/-! SUPPORT. Writes: how the words of a register write are refused, take effect, or wait as one half of a pair. -/

namespace Sys2Proof.Machine

/-! ### Register writes that do not run (R313, R314) -/

/-- A write of 1 to 64 words that nothing holds back runs with its tag outstanding. -/
theorem regWr_runs (s : State) (q : Port) (tag : Byte) (addr : Dword) (vs : List Word) (h : s.chip.takes q tag)
    (h1 : 1 ≤ vs.length) (h2 : vs.length ≤ 64) :
    exec (.regWr q tag addr vs) s = .next { s with chip := (s.chip.tagged q tag).writeRegs q tag addr.toNat vs } := by
  rw [← State.onReg_takes s q tag addr.toNat vs h addr.isLt h1 h2]
  unfold State.onReg
  rw [BitVec.ofNat_toNat, BitVec.setWidth_eq]
  rfl

/-- A write of more than 64 words is a LENGTH_ERROR. -/
theorem regWr_length (s : State) (q : Port) (tag : Byte) (addr : Dword) (vs : List Word) (h : s.chip.takes q tag)
    (h1 : 64 < vs.length) (h2 : vs.length < 65536) :
    exec (.regWr q tag addr vs) s = .next { s with chip := (s.chip.tagged q tag).badTxn q tag 5 } := by
  have hl : (BitVec.ofNat 16 vs.length).toNat = vs.length := by
    rw [BitVec.toNat_ofNat]; exact Nat.mod_eq_of_lt h2
  have hf : s.chip.txnFault
      { ttype := 1, tag := tag, tlen := BitVec.ofNat 16 vs.length, param := 0, addr := addr, data := vs } = some 5 :=
    if_pos (.inr (by rw [hl]; exact h1))
  exact congrArg (fun c => Host.Outcome.next { s with chip := c }) (Chip.request_refused s.chip q _ _ 5 h hf)

theorem Chip.reg_answer_ok (c : Chip) (q : Nat) (tag : Byte) (st : Nat) (last : Bool) (word state : Nat)
    (data : List Word) (a : Nat) (h : st ≠ 1) : (c.answer q tag st last word state data).reg a = c.reg a := by
  unfold Chip.answer Chip.answerAt
  simp only [if_neg h]
  split <;> exact Chip.reg_enqueue _ _ _ _

/-- TAG_IN_USE completes on the port and leaves the tag with its owner. -/
theorem Chip.port_tagInUse (c : Chip) (q : Nat) (tag : Byte) (data : List Word) (h : (c.port q).redirect = false) :
    (c.tagInUse q tag data).port q =
      { c.port q with ready := (c.port q).ready ++ [cplFrame tag true 0 0 8 c.lastSeq data] } := by
  unfold Chip.tagInUse
  rw [Chip.port_guardReject, Chip.port_cntUp]
  exact Chip.answerAt_ready c c.lastSeq q tag 8 true 0 0 data h

theorem Chip.reg_tagInUse_same (c : Chip) (q : Nat) (tag : Byte) (data : List Word) :
    c.counted (c.tagInUse q tag data) (portB q + 0x02C) := by
  unfold Chip.tagInUse
  rw [Chip.counted, Chip.reg_guardReject, Chip.reg_cntUp_same, Chip.reg_answer_ok _ _ _ _ _ _ _ _ _ (by decide)]

theorem Chip.reg_tagInUse_other (c : Chip) (q : Nat) (tag : Byte) (data : List Word) {a : Nat}
    (h : a ≠ portB q + 0x02C) : (c.tagInUse q tag data).reg a = c.reg a := by
  unfold Chip.tagInUse
  rw [Chip.reg_guardReject, Chip.reg_cntUp_other _ _ h, Chip.reg_answer_ok _ _ _ _ _ _ _ _ _ (by decide)]

/-- A write whose tag is outstanding is answered with TAG_IN_USE, whatever it writes. -/
theorem regWr_tagUsed (s : State) (q : Port) (tag : Byte) (addr : Dword) (vs : List Word)
    (hup : (s.chip.port q).up = true) (hheld : (s.chip.port q).heldUp = false) (hrx : (s.chip.port q).rxq = [])
    (ht : tag.toNat ∈ (s.chip.port q).tags) :
    exec (.regWr q tag addr vs) s = .next { s with chip := s.chip.tagInUse q tag } := by
  show Host.Outcome.next { s with chip := s.chip.request q _ _ } = _
  rw [Chip.request_tagUsed _ _ _ _ hup hheld hrx ht]

/-! ### Writes of one word (R313, R405) -/

/-- A write of one word completes with the status that its word was answered with. -/
theorem Chip.writeRegs_single (c d : Chip) (q : Nat) (tag : Byte) (a : Nat) (v : Word) (st : Nat) (ha : a % 4 = 0)
    (hw : c.regWrWord {} 0 a v false = (({} : RegWr).note 0 st, d)) : c.writeRegs q tag a [v] = d.reply q tag st := by
  have hb : ¬ a / 0x10000 ≠ (a + 4 * [v].length - 1) / 0x10000 := by
    simp only [List.length_cons, List.length_nil]; omega
  have e : c.regWrWords {} 0 a [v] = (({} : RegWr).note 0 st, d) := by
    show ((c.regWrWord {} 0 a v false).2.regWrWords (c.regWrWord {} 0 a v false).1 (0 + 1) (a + 4) []) = _
    rw [hw]
    rfl
  unfold Chip.writeRegs
  rw [if_neg (by omega), if_neg hb]
  simp only [e]
  unfold RegWr.note
  by_cases h0 : st = 0
  · simp [h0, Chip.keepAckErr]
  · simp [h0, Chip.keepAckErr]

/-- A misaligned or unlisted word is an ADDR_ERROR. -/
theorem Chip.writeRegs_unlisted (c : Chip) (q : Nat) (tag : Byte) (a : Nat) (v : Word)
    (h : a % 4 ≠ 0 ∨ c.findReg a = none) : c.writeRegs q tag a [v] = c.reply q tag 4 := by
  by_cases ha : a % 4 = 0
  · refine Chip.writeRegs_single c c q tag a v 4 ha ?_
    unfold Chip.regWrWord
    rw [h.resolve_left (· ha)]
  · unfold Chip.writeRegs
    rw [if_pos ha]

/-- A word that does not respond before NEGOTIATE_COMMIT is a STATE_CONFLICT (R11). -/
theorem Chip.writeRegs_silent (c : Chip) (q : Nat) (tag : Byte) (a : Nat) (v : Word) (x : RegRow × List Nat × Nat)
    (ha : a % 4 = 0) (hf : c.findReg a = some x) (hr : c.responds a = false) :
    c.writeRegs q tag a [v] = c.reply q tag 1 := by
  refine Chip.writeRegs_single c c q tag a v 1 ha ?_
  unfold Chip.regWrWord
  simp only [hf, hr, Bool.not_false, if_true]

/-! ### One half of a pair (R405) -/

/-- One half of a pair, written alone, answers what the write of the half answers, which no acknowledgement refused. -/
theorem Chip.writeRegs_half (c d : Chip) (q : Nat) (tag : Byte) (a : Nat) (v : Word) (r : RegRow) (ix : List Nat)
    (w : Nat) (ha : a % 4 = 0) (hf : c.findReg a = some (r, ix, w)) (hr : c.responds a = true) (hp : r.pair = true)
    (hw : c.writeHalf w a v = (0, d)) : c.writeRegs q tag a [v] = d.reply q tag 0 := by
  refine Chip.writeRegs_single c d q tag a v 0 ha ?_
  have hl : (if w = 1 then ({} : RegWr).low else none) = none := ite_self _
  unfold Chip.regWrWord
  simp only [hf, hr, hp, hl, hw, Bool.not_true, Bool.and_false, Bool.false_eq_true, if_false, if_true]
  rfl

/-- The low half waits while the high half is not staged. -/
theorem Chip.writeHalf_low_waits (c : Chip) (a : Nat) (v : Word) (hc : c.conflict a = false)
    (hs : c.staged (a + 4) = none) : c.writeHalf 0 a v = (0, { c with staging := tabSet c.staging a v }) := by
  unfold Chip.writeHalf
  simp only [Nat.mul_zero, Nat.sub_zero, hc, hs, Bool.false_eq_true, if_false, if_true]

/-- The high half writes the pair whose low half is staged. -/
theorem Chip.writeHalf_high_completes (c : Chip) (a : Nat) (x v : Word) (hc : c.conflict a = false)
    (hs : c.staged a = some x) : c.writeHalf 1 (a + 4) v =
      ({ c with staging := tabDel (tabDel c.staging a) (a + 4) } : Chip).writePair a (x.toNat + 2 ^ 32 * v.toNat) := by
  have ha : a + 4 - 4 * 1 = a := by omega
  unfold Chip.writeHalf
  simp only [ha, hc, hs, Bool.false_eq_true, if_false, Nat.one_ne_zero]

theorem find?_tabSet_same {α : Type} (t : Table α) (i : Nat) (v : α) :
    (tabSet t i v).find? (fun e => e.1 == i) = some (i, v) := by
  induction t with
  | nil => simp [tabSet]
  | cons e t ih =>
    simp only [tabSet]
    split
    · simp
    · split
      · simp
      · rename_i hne _
        have he : (e.1 == i) = false := by simpa using fun h => hne h.symm
        rw [List.find?_cons_of_neg (by simp [he]), ih]

theorem Chip.staged_of_staging {c d : Chip} (h : d.staging = c.staging) (a : Nat) : d.staged a = c.staged a := by
  unfold Chip.staged
  rw [h]

/-- A half that is set aside is staged. -/
theorem Chip.staged_tabSet (c : Chip) (a : Nat) (v : Word) :
    ({ c with staging := tabSet c.staging a v } : Chip).staged a = some v := by
  unfold Chip.staged
  simp only [find?_tabSet_same, Option.map_some]

/-- A half that is discarded is staged no longer. -/
theorem Chip.staged_tabDel (c : Chip) (t : Table Word) (a b : Nat) :
    ({ c with staging := tabDel (tabDel t a) b } : Chip).staged a = none := by
  have h : (tabDel (tabDel t a) b).find? (fun e => e.1 == a) = none := by
    rw [List.find?_eq_none]
    intro e he
    obtain ⟨he, _⟩ := List.mem_filter.1 he
    obtain ⟨_, he⟩ := List.mem_filter.1 he
    simpa using he
  unfold Chip.staged
  simp only [h, Option.map_none]

/-! ### What a plain write leaves -/

/-- A field all of whose bits software writes reads back as it was written. -/
theorem RegRow.field_merge (r : RegRow) (w hi lo : Nat) (old v : Word) (hhi : hi < 32) (hlo : lo ≤ hi)
    (h : ∀ i, i ≤ hi → lo ≤ i → (wordOf r.rw w).getLsbD i = true ∧ (wordOf r.clr w).getLsbD i = false) :
    bitsOf (r.merge w old v).toNat hi lo = bitsOf v.toNat hi lo := by
  apply Nat.eq_of_testBit_eq
  intro i
  rw [testBit_bitsOf, testBit_bitsOf]
  by_cases hi' : i < hi - lo + 1
  · obtain ⟨hrw, hclr⟩ := h (lo + i) (by omega) (by omega)
    have h32 : lo + i < 32 := by omega
    rw [BitVec.testBit_toNat, BitVec.testBit_toNat]
    simp only [RegRow.merge, BitVec.getLsbD_and, BitVec.getLsbD_or, BitVec.getLsbD_not, hrw, hclr, h32, decide_true,
      Bool.not_true, Bool.and_false, Bool.not_false, Bool.and_true, Bool.false_or]
  · simp [hi']

theorem ofNat_pair_low (x y : Word) : BitVec.ofNat 32 (x.toNat + 2 ^ 32 * y.toNat) = x := by
  apply BitVec.eq_of_toNat_eq
  rw [BitVec.toNat_ofNat, Nat.add_mul_mod_self_left]
  exact Nat.mod_eq_of_lt x.isLt

theorem ofNat_pair_high (x y : Word) : BitVec.ofNat 32 ((x.toNat + 2 ^ 32 * y.toNat) / 2 ^ 32) = y := by
  rw [Nat.add_mul_div_left _ _ (Nat.two_pow_pos 32), Nat.div_eq_of_lt x.isLt, Nat.zero_add]
  exact (BitVec.ofNat_toNat 32 y).trans (BitVec.setWidth_eq y)

theorem Chip.reg_setReg64_low (c : Chip) (a v : Nat) : (c.setReg64 a v).reg a = BitVec.ofNat 32 v := by
  unfold Chip.setReg64
  rw [Chip.reg_setReg_other _ _ (by omega : a ≠ a + 4), Chip.reg_setReg_same]

theorem Chip.reg_setReg64_high (c : Chip) (a v : Nat) : (c.setReg64 a v).reg (a + 4) = BitVec.ofNat 32 (v / 2 ^ 32) := by
  unfold Chip.setReg64
  rw [Chip.reg_setReg_same]

/-! ### MEM_POLL (R291) -/

/-- The row of MEM_POLL in the register map. -/
def memPollRow : RegRow := { base := 0x00300010, rw := ones 16, reset := 1000 }

theorem Chip.findReg_memPoll (c : Chip) : c.findReg 0x00300010 = some (memPollRow, [], 0) :=
  (Chip.findReg_plain c (.inr (by decide))).trans (by decide)

/-- MEM_POLL takes 100 to 10,000. -/
theorem Chip.writeWord_memPoll (c : Chip) (v : Word) :
    c.writeWord memPollRow 0 0x00300010 v =
      if 100 ≤ v.toNat % 2 ^ 16 ∧ v.toNat % 2 ^ 16 ≤ 10000 then
        (0, c.setReg 0x00300010 (memPollRow.merge 0 (c.reg 0x00300010) v))
      else (6, c) := by
  have e : c.writeWord memPollRow 0 0x00300010 v = c.plainIf
      (decide (100 ≤ v.toNat % 2 ^ 16) && decide (v.toNat % 2 ^ 16 ≤ 10000)) 6 memPollRow 0 0x00300010 v := rfl
  rw [e]
  by_cases h : 100 ≤ v.toNat % 2 ^ 16 ∧ v.toNat % 2 ^ 16 ≤ 10000
  · rw [if_pos h]
    simp only [Chip.plainIf, h, decide_true, Bool.and_self, if_true]
    exact congrArg (Prod.mk 0) (if_neg (by decide))
  · rw [if_neg h]
    simp only [Chip.plainIf, ← Bool.decide_and, h, decide_false, Bool.false_eq_true, if_false]

theorem Chip.writeRegs_memPoll (c : Chip) (q : Nat) (tag : Byte) (v : Word) (h : c.dev.committed = true) :
    c.writeRegs q tag 0x00300010 [v] =
      if 100 ≤ v.toNat % 2 ^ 16 ∧ v.toNat % 2 ^ 16 ≤ 10000 then
        (c.setReg 0x00300010 (memPollRow.merge 0 (c.reg 0x00300010) v)).reply q tag 0
      else c.reply q tag 6 := by
  rw [Chip.writeRegs_one c q tag 0x00300010 v memPollRow [] 0 (by decide) c.findReg_memPoll
    (c.responds_committed _ h) rfl, Chip.writeWord_memPoll]
  · split <;> rfl
  · rw [Chip.writeWord_memPoll]
    split <;> simp [Machine.waits]

theorem Chip.field_memPoll (c : Chip) (v : Word) :
    (c.setReg 0x00300010 (memPollRow.merge 0 (c.reg 0x00300010) v)).field 0x00300010 15 0 = v.toNat % 2 ^ 16 := by
  unfold Chip.field
  rw [Chip.reg_setReg_same, RegRow.field_merge _ _ _ _ _ _ (by decide) (by decide) (by decide)]
  simp [bitsOf]

/-! ### ADC_SNAP_MASK, a pair without a rule of its own (R248) -/

/-- The row of ADC_SNAP_MASK in the register map. -/
def adcMaskRow : RegRow := { base := 0x00230008, words := 2, pair := true, rw := ones 64 }

theorem Chip.findReg_adcMask_low (c : Chip) : c.findReg 0x00230008 = some (adcMaskRow, [], 0) :=
  (Chip.findReg_plain c (.inl (by decide))).trans (by decide)
theorem Chip.findReg_adcMask_high (c : Chip) : c.findReg 0x0023000C = some (adcMaskRow, [], 1) :=
  (Chip.findReg_plain c (.inl (by decide))).trans (by decide)
theorem Chip.writePair_adcMask (c : Chip) (v : Nat) : c.writePair 0x00230008 v = (0, c.setReg64 0x00230008 v) := rfl

/-- Both halves in one transaction write the pair. -/
theorem Chip.writeRegs_adcMask (c : Chip) (q : Nat) (tag : Byte) (lo hi : Word) (h : c.dev.committed = true) :
    c.writeRegs q tag 0x00230008 [lo, hi] =
      (({ c with staging := tabDel (tabDel c.staging 0x00230008) 0x0023000C } : Chip).setReg64 0x00230008
        (lo.toNat + 2 ^ 32 * hi.toNat)).reply q tag 0 := by
  rw [Chip.writeRegs_pair c q tag 0x00230008 lo hi adcMaskRow [] (by decide) c.findReg_adcMask_low
    c.findReg_adcMask_high (c.responds_committed _ h) (c.responds_committed _ h) rfl, Chip.writePair_adcMask]
  rfl

/-- The low half alone is staged. -/
theorem Chip.writeRegs_adcMask_low (c : Chip) (q : Nat) (tag : Byte) (lo : Word) (h : c.dev.committed = true)
    (hs : c.staged 0x0023000C = none) :
    c.writeRegs q tag 0x00230008 [lo] =
      ({ c with staging := tabSet c.staging 0x00230008 lo } : Chip).reply q tag 0 :=
  Chip.writeRegs_half c _ q tag 0x00230008 lo adcMaskRow [] 0 (by decide) c.findReg_adcMask_low
    (c.responds_committed _ h) rfl (c.writeHalf_low_waits _ _ rfl hs)

/-- The high half completes a staged low half. -/
theorem Chip.writeRegs_adcMask_high (c : Chip) (q : Nat) (tag : Byte) (lo hi : Word) (h : c.dev.committed = true)
    (hs : c.staged 0x00230008 = some lo) :
    c.writeRegs q tag 0x0023000C [hi] =
      (({ c with staging := tabDel (tabDel c.staging 0x00230008) 0x0023000C } : Chip).setReg64 0x00230008
        (lo.toNat + 2 ^ 32 * hi.toNat)).reply q tag 0 :=
  Chip.writeRegs_half c _ q tag 0x0023000C hi adcMaskRow [] 1 (by decide) c.findReg_adcMask_high
    (c.responds_committed _ h) rfl
    ((c.writeHalf_high_completes 0x00230008 lo hi rfl hs).trans (Chip.writePair_adcMask _ _))

/-! ### The clauses of the obligation -/

theorem regWr_unlisted (s : State) (q : Port) (tag : Byte) (addr : Dword) (v : Word) (h : s.chip.takes q tag)
    (ha : addr.toNat % 4 ≠ 0 ∨ s.chip.findReg addr.toNat = none) :
    ∃ t, exec (.regWr q tag addr [v]) s = .next t ∧ t.chip.completed q tag 4 ∧ ∀ a, t.chip.reg a = s.chip.reg a := by
  have e := Chip.writeRegs_unlisted (s.chip.tagged q tag) q tag addr.toNat v ha
  refine ⟨_, regWr_runs s q tag addr [v] h (by simp) (by simp), ?_, fun a => ?_⟩
  · simp only [e]
    exact Chip.reply_completed _ _ _ _ _ _ _ (Chip.redirect_of_takes _ h)
  · simp only [e]
    rw [Chip.reg_reply_ok _ _ _ _ _ _ _ _ (by decide), Chip.reg_tagged]

theorem regWr_uncommitted (s : State) (q : Port) (tag : Byte) (v : Word) (h : s.chip.takes q tag)
    (hc : s.chip.dev.committed = false) :
    ∃ t, exec (.regWr q tag 0x00300010 [v]) s = .next t ∧ t.chip.completed q tag 1 ∧
      ∀ a, a ≠ 0x00010024 → t.chip.reg a = s.chip.reg a := by
  have hr : s.chip.responds 0x00300010 = false := by simp [Chip.responds, hc, early]
  have e := Chip.writeRegs_silent (s.chip.tagged q tag) q tag 0x00300010 v _ (by decide) (Chip.findReg_memPoll _) hr
  refine ⟨_, regWr_runs s q tag 0x00300010 [v] h (by simp) (by simp), ?_, fun a ha => ?_⟩
  · exact e ▸ Chip.reply_completed _ _ _ _ _ _ _ (Chip.redirect_of_takes _ h)
  · exact (congrArg (fun c : Chip => c.reg a) e).trans (Chip.reg_reply _ _ _ _ _ _ _ ha)

theorem regWr_memPoll (s : State) (q : Port) (tag : Byte) (v : Word) (h : s.chip.writable q tag) :
    ∃ t, exec (.regWr q tag 0x00300010 [v]) s = .next t ∧
      (100 ≤ v.toNat % 2 ^ 16 → v.toNat % 2 ^ 16 ≤ 10000 →
        t.chip.completed q tag 0 ∧ t.chip.field 0x00300010 15 0 = v.toNat % 2 ^ 16) ∧
      (v.toNat % 2 ^ 16 < 100 ∨ 10000 < v.toNat % 2 ^ 16 →
        t.chip.completed q tag 6 ∧ t.chip.reg 0x00300010 = s.chip.reg 0x00300010) ∧
      ∀ a, a ≠ 0x00300010 → t.chip.reg a = s.chip.reg a := by
  obtain ⟨h, hc⟩ := h
  have hp := Chip.redirect_of_takes _ h
  have e := Chip.writeRegs_memPoll (s.chip.tagged q tag) q tag v hc
  refine ⟨_, regWr_runs s q tag 0x00300010 [v] h (by simp) (by simp), ?_⟩
  show let d := (s.chip.tagged q tag).writeRegs q tag 0x00300010 [v]
    (_ → _ → d.completed q tag 0 ∧ d.field 0x00300010 15 0 = _) ∧
      (_ → d.completed q tag 6 ∧ d.reg 0x00300010 = _) ∧ ∀ a, a ≠ 0x00300010 → d.reg a = _
  simp only [e]
  by_cases hv : 100 ≤ v.toNat % 2 ^ 16 ∧ v.toNat % 2 ^ 16 ≤ 10000
  · simp only [if_pos hv]
    refine ⟨fun _ _ => ⟨Chip.reply_completed _ _ _ _ _ _ _ hp, ?_⟩, fun hn => absurd hv (by omega), fun a ha => ?_⟩
    · exact (congrArg (fun w : Word => bitsOf w.toNat 15 0) (Chip.reg_reply_ok _ _ _ _ _ _ _ _ (by decide))).trans
        (Chip.field_memPoll _ v)
    · rw [Chip.reg_reply_ok _ _ _ _ _ _ _ _ (by decide), Chip.reg_setReg_other _ _ ha, Chip.reg_tagged]
  · simp only [if_neg hv]
    have hr : ∀ a, ((s.chip.tagged q tag).reply q tag 6).reg a = s.chip.reg a := fun a =>
      Chip.reg_reply_ok _ _ _ _ _ _ _ a (by decide)
    exact ⟨fun h1 h2 => absurd ⟨h1, h2⟩ hv, fun _ => ⟨Chip.reply_completed _ _ _ _ _ _ _ hp, hr _⟩, fun a _ => hr a⟩

theorem regWr_pair (s : State) (q : Port) (tag : Byte) (lo hi : Word) (h : s.chip.writable q tag) :
    ∃ t, exec (.regWr q tag 0x00230008 [lo, hi]) s = .next t ∧ t.chip.completed q tag 0 ∧
      t.chip.reg 0x00230008 = lo ∧ t.chip.reg 0x0023000C = hi ∧
      ∀ a, a ≠ 0x00230008 → a ≠ 0x0023000C → t.chip.reg a = s.chip.reg a := by
  obtain ⟨h, hc⟩ := h
  have e := Chip.writeRegs_adcMask (s.chip.tagged q tag) q tag lo hi hc
  have hr : ∀ a, ((s.chip.tagged q tag).writeRegs q tag 0x00230008 [lo, hi]).reg a =
      ((s.chip.tagged q tag).setReg64 0x00230008 (lo.toNat + 2 ^ 32 * hi.toNat)).reg a := fun a => by
    rw [e, Chip.reg_reply_ok _ _ _ _ _ _ _ _ (by decide)]
    rfl
  refine ⟨_, regWr_runs s q tag 0x00230008 [lo, hi] h (by simp) (by simp),
    e ▸ Chip.reply_completed _ _ _ _ _ _ _ (Chip.redirect_of_takes _ h), ?_, ?_, fun a h1 h2 => ?_⟩
  · exact (hr _).trans ((Chip.reg_setReg64_low _ _ _).trans (ofNat_pair_low lo hi))
  · exact (hr _).trans ((Chip.reg_setReg64_high _ _ _).trans (ofNat_pair_high lo hi))
  · exact (hr _).trans (Chip.reg_setReg64_other _ _ h1 h2)

theorem regWr_lowHalf (s : State) (q : Port) (tag : Byte) (lo : Word) (h : s.chip.writable q tag)
    (hs : s.chip.staged 0x0023000C = none) :
    ∃ t, exec (.regWr q tag 0x00230008 [lo]) s = .next t ∧ t.chip.completed q tag 0 ∧
      t.chip.staged 0x00230008 = some lo ∧ ∀ a, t.chip.reg a = s.chip.reg a := by
  obtain ⟨h, hc⟩ := h
  have e := Chip.writeRegs_adcMask_low (s.chip.tagged q tag) q tag lo hc hs
  refine ⟨_, regWr_runs s q tag 0x00230008 [lo] h (by simp) (by simp),
    e ▸ Chip.reply_completed _ _ _ _ _ _ _ (Chip.redirect_of_takes _ h), ?_, fun a => ?_⟩
  · show ((s.chip.tagged q tag).writeRegs q tag 0x00230008 [lo]).staged 0x00230008 = some lo
    rw [e, Chip.staged_of_staging (Chip.reply_staging _ _ _ _ _ _ _), Chip.staged_tabSet]
  · show ((s.chip.tagged q tag).writeRegs q tag 0x00230008 [lo]).reg a = s.chip.reg a
    rw [e, Chip.reg_reply_ok _ _ _ _ _ _ _ _ (by decide)]
    rfl

theorem regWr_highHalf (s : State) (q : Port) (tag : Byte) (lo hi : Word) (h : s.chip.writable q tag)
    (hs : s.chip.staged 0x00230008 = some lo) :
    ∃ t, exec (.regWr q tag 0x0023000C [hi]) s = .next t ∧ t.chip.completed q tag 0 ∧
      t.chip.reg 0x00230008 = lo ∧ t.chip.reg 0x0023000C = hi ∧ t.chip.staged 0x00230008 = none := by
  obtain ⟨h, hc⟩ := h
  have e := Chip.writeRegs_adcMask_high (s.chip.tagged q tag) q tag lo hi hc hs
  have hr : ∀ a, ((s.chip.tagged q tag).writeRegs q tag 0x0023000C [hi]).reg a =
      ((s.chip.tagged q tag).setReg64 0x00230008 (lo.toNat + 2 ^ 32 * hi.toNat)).reg a := fun a => by
    rw [e, Chip.reg_reply_ok _ _ _ _ _ _ _ _ (by decide)]
    rfl
  refine ⟨_, regWr_runs s q tag 0x0023000C [hi] h (by simp) (by simp),
    e ▸ Chip.reply_completed _ _ _ _ _ _ _ (Chip.redirect_of_takes _ h), ?_, ?_, ?_⟩
  · exact (hr _).trans ((Chip.reg_setReg64_low _ _ _).trans (ofNat_pair_low lo hi))
  · exact (hr _).trans ((Chip.reg_setReg64_high _ _ _).trans (ofNat_pair_high lo hi))
  · show ((s.chip.tagged q tag).writeRegs q tag 0x0023000C [hi]).staged 0x00230008 = none
    rw [e, Chip.staged_of_staging (Chip.reply_staging _ _ _ _ _ _ _),
      Chip.staged_of_staging (Chip.setReg64_staging _ _ _), Chip.staged_tabDel]

/-- Settles O32: each form of write is answered as its words are, and only what they write differs. -/
theorem registerWrites : Obligations.RegisterWrites := by
  unfold Obligations.RegisterWrites
  refine ⟨regWr_unlisted, regWr_uncommitted, regWr_memPoll, regWr_pair, regWr_lowHalf, regWr_highHalf, ?_, ?_⟩
  · intro s q tag addr vs h h1 h2
    exact ⟨_, regWr_length s q tag addr vs h h1 h2, Chip.badTxn_completed _ _ _ _ _ (Chip.redirect_of_takes _ h),
      fun a => (Chip.reg_badTxn _ _ _ _ _ a (by decide)).trans (Chip.reg_tagged _ _ _ a)⟩
  · intro s q tag addr vs hup hheld hrx ht hr
    have hp := Chip.port_tagInUse s.chip q tag [] hr
    exact ⟨_, regWr_tagUsed s q tag addr vs hup hheld hrx ht, ⟨_, _, congrArg PortLink.ready hp⟩,
      (congrArg PortLink.tags hp).trans rfl, Chip.reg_tagInUse_same _ _ _ _, fun a ha => Chip.reg_tagInUse_other _ _ _ _ ha⟩

end Sys2Proof.Machine
end

section
/-! SUPPORT. SidebandLaws: the sideband ports' state, time passing, records, and how a frame grows bit by bit. -/

namespace Sys2Proof.Machine

/-! ### The state of a sideband port -/

theorem tabSet_tabSet {α : Type} (t : Table α) (i : Nat) (v w : α) : tabSet (tabSet t i v) i w = tabSet t i w := by
  induction t with
  | nil => simp [tabSet]
  | cons e t ih =>
    by_cases h1 : i = e.1
    · simp [tabSet, h1]
    · by_cases h2 : i < e.1
      · simp [tabSet, h1, h2]
      · simp [tabSet, h1, h2, ih]

theorem Chip.sbPort_of_sb {c d : Chip} (h : d.sb = c.sb) (n : Nat) : d.sbPort n = c.sbPort n := by
  unfold Chip.sbPort
  rw [h]

@[simp] theorem Chip.sbPort_setSb (c : Chip) (n : Nat) (p : SbPort) : (c.setSb n p).sbPort n = p :=
  tabGet_tabSet_same _ _ _ _
@[simp] theorem Chip.reg_setSb (c : Chip) (n : Nat) (p : SbPort) (a : Nat) : (c.setSb n p).reg a = c.reg a := (rfl)
@[simp] theorem Chip.field_setSb (c : Chip) (n : Nat) (p : SbPort) (a hi lo : Nat) :
    (c.setSb n p).field a hi lo = c.field a hi lo := (rfl)
theorem Chip.setSb_setSb (c : Chip) (n : Nat) (p p' : SbPort) : (c.setSb n p).setSb n p' = c.setSb n p' := by
  unfold Chip.setSb
  simp only [tabSet_tabSet]

/-! ### Fields and bits of registers -/

theorem Chip.field_of_reg {c d : Chip} {a : Nat} (h : d.reg a = c.reg a) (hi lo : Nat) :
    d.field a hi lo = c.field a hi lo := by
  unfold Chip.field
  rw [h]

/-- Each bit of a register of which one bit is set or cleared. -/
theorem Chip.bitOf_reg_setBit (c : Chip) (a i v j : Nat) (hi : i < 32) :
    bitOf ((c.setField a i i v).reg a).toNat j = if j = i then v.testBit 0 else bitOf (c.reg a).toNat j := by
  unfold Chip.setField
  rw [Chip.reg_setReg_same, BitVec.toNat_ofNat]
  unfold bitOf
  rw [Nat.testBit_mod_two_pow, testBit_putBits]
  by_cases h : j = i
  · subst h
    simp [hi]
  · rw [if_neg (by omega), if_neg h]
    by_cases hj : j < 32
    · simp [hj]
    · rw [Nat.testBit_lt_two_pow (Nat.lt_of_lt_of_le (c.reg a).isLt (Nat.pow_le_pow_right (by decide) (by omega)))]
      simp

/-! ### Time passing (R183, R325) -/

/-- A busy core's time changes TSK_CORE_BUSY, TSK_CORE_LOAD and the scheduler's sums only. -/
theorem Chip.coreBusy_shape (c : Chip) (a b g : Nat) :
    ∃ l r s, c.coreBusy a b g = { c with led := l, regs := r, sched := s } := by
  unfold Chip.coreBusy
  simp only
  split <;> split <;> exact ⟨_, _, _, rfl⟩

theorem Chip.reg_coreBusy (c : Chip) (a b g : Nat) {x : Nat} (hg : g < 12) (hx : x / 0x10000 ≠ 0x20) :
    (c.coreBusy a b g).reg x = c.reg x := by
  have h : x ≠ 0x00200280 + 4 * g := by omega
  unfold Chip.coreBusy
  by_cases hw : windowsIn a b = 0 <;> cases hb : c.grpOwned g <;>
    simp only [hw, if_true, if_false, Bool.false_eq_true]
  · rfl
  · exact (Chip.reg_of_regs rfl x).trans (Chip.reg_setReg_other c _ h)
  · exact (Chip.reg_of_regs rfl x).trans (Chip.reg_setReg_other (c.ledAdd _ _) _ h)

theorem Chip.foldl_coreBusy_shape (gs : List Nat) (a b : Nat) (c : Chip) :
    ∃ l r s, gs.foldl (fun c g => c.coreBusy a b g) c = { c with led := l, regs := r, sched := s } := by
  induction gs generalizing c with
  | nil => exact ⟨_, _, _, rfl⟩
  | cons g gs ih =>
    obtain ⟨l, r, s, h⟩ := ih (c.coreBusy a b g)
    obtain ⟨l', r', s', h'⟩ := c.coreBusy_shape a b g
    exact ⟨l, r, s, h.trans (by rw [h'])⟩

theorem Chip.reg_foldl_coreBusy (gs : List Nat) (a b : Nat) {x : Nat} (hg : ∀ g ∈ gs, g < 12)
    (hx : x / 0x10000 ≠ 0x20) (c : Chip) : (gs.foldl (fun c g => c.coreBusy a b g) c).reg x = c.reg x := by
  induction gs generalizing c with
  | nil => rfl
  | cons g gs ih =>
    exact (ih (fun g h => hg g (List.mem_cons_of_mem _ h)) _).trans
      (Chip.reg_coreBusy c a b g (hg g List.mem_cons_self) hx)

/-- The work of the cores is booked, and happenings of two sources are counted. -/
theorem Chip.booked_shape (c : Chip) (a b code code' m n : Nat) :
    ∃ l r s k q, ((((List.range 12).foldl (fun c g => c.coreBusy a b g) c).count code m).count code' n) =
      { c with led := l, regs := r, sched := s, counters := k, cirque := q } := by
  obtain ⟨l, r, s, e⟩ := Chip.foldl_coreBusy_shape (List.range 12) a b c
  rw [e]
  obtain ⟨k, q, e1⟩ := Chip.count_shape { c with led := l, regs := r, sched := s } code m
  rw [e1]
  obtain ⟨k', q', e2⟩ := Chip.count_shape { c with led := l, regs := r, sched := s, counters := k, cirque := q } code' n
  exact ⟨l, r, s, k', q', e2⟩

/-- While the clocks run, time passes; ledgers, the scheduler, counters and Cirque are all else that differs, beside the
registers of the scheduler's block. -/
theorem Chip.advance_shape (c : Chip) (n : Nat) (hc : c.clocked = true) :
    ∃ l r s k q, c.advance n = { c with tm := c.tm + n, led := l, regs := r, sched := s, counters := k, cirque := q } := by
  unfold Chip.advance
  simp only
  split
  · rename_i h
    have hn : n = 0 := h.resolve_left (by simp [hc])
    exact ⟨c.led, c.regs, c.sched, c.counters, c.cirque, by rw [hn]; rfl⟩
  · split
    · exact ⟨_, _, _, _, _, rfl⟩
    · exact Chip.booked_shape { c with tm := c.tm + n } _ _ _ _ _ _

theorem Chip.reg_advance (c : Chip) (n : Nat) {x : Nat} (hx : x / 0x10000 ≠ 0x20) : (c.advance n).reg x = c.reg x := by
  unfold Chip.advance
  simp only
  split
  · rfl
  · split
    · rfl
    · rw [Chip.reg_count, Chip.reg_count, Chip.reg_foldl_coreBusy _ _ _ (fun g hg => List.mem_range.1 hg) hx]
      rfl

/-- Time goes on to a TM period at least. -/
theorem Chip.le_tm_advanceTo (c : Chip) (t : Nat) (hc : c.clocked = true) : t ≤ (c.advanceTo t).tm := by
  obtain ⟨l, r, s, k, q, h⟩ := c.advance_shape (t - c.tm) hc
  unfold Chip.advanceTo
  rw [h]
  show t ≤ c.tm + (t - c.tm)
  omega

theorem Chip.sbPort_advanceTo (c : Chip) (t : Nat) (hc : c.clocked = true) (n : Nat) :
    (c.advanceTo t).sbPort n = c.sbPort n := by
  obtain ⟨l, r, s, k, q, h⟩ := c.advance_shape (t - c.tm) hc
  unfold Chip.advanceTo
  rw [h]
  rfl

/-! ### Records (R199) -/

/-- A record that finds its queue full changes ledgers, counters and Cirque only. -/
theorem Chip.dropFull_shape (c : Chip) (i site : Nat) (reason : Option Nat) :
    ∃ l k q, c.dropFull i site reason = { c with led := l, counters := k, cirque := q } := by
  unfold Chip.dropFull
  cases reason <;> simp only <;> split
  · obtain ⟨k, q, h⟩ := Chip.count_shape ((c.ledAdd (morLed 7)).ledAdd (siteLed site 3)) (16 * i + 4) 1
    exact ⟨_, k, q, h⟩
  · exact ⟨_, _, _, rfl⟩
  · rename_i j _
    obtain ⟨k, q, h⟩ := Chip.count_shape (((c.ledAdd (morLed 7)).ledAdd (siteLed site 3)).ledAdd (morLed j)) (16 * i + 4) 1
    exact ⟨_, k, q, h⟩
  · exact ⟨_, _, _, rfl⟩

/-- A new record changes ledgers and Moraine's queues, and counters and Cirque where it is dropped. -/
theorem Chip.makeRec_shape (c : Chip) (i : Nat) (r : Rec) :
    ∃ l m k q, c.makeRec i r = { c with led := l, mor := m, counters := k, cirque := q } := by
  unfold Chip.makeRec
  simp only
  split
  · obtain ⟨l, k, q, h⟩ := Chip.dropFull_shape ((c.ledAdd (morLed 4)).ledAdd (siteLed r.site 0)) i r.site (some 10)
    exact ⟨l, c.mor, k, q, h⟩
  · exact ⟨_, _, _, _, rfl⟩

theorem morLed_ne_siteLed {i : Nat} (h : i < 12) (s j : Nat) : morLed i ≠ siteLed s j := by
  unfold morLed siteLed
  omega

/-- A new record counts as CREATED once, whatever becomes of it (R39). -/
theorem Chip.created_makeRec (c : Chip) (i : Nat) (r : Rec) :
    (c.makeRec i r).ledger (morLed 4) = c.ledger (morLed 4) + 1 := by
  have hs : ∀ s j, morLed 4 ≠ siteLed s j := morLed_ne_siteLed (by decide)
  have h1 : ((c.ledAdd (morLed 4)).ledAdd (siteLed r.site 0)).ledger (morLed 4) = c.ledger (morLed 4) + 1 := by
    rw [Chip.ledger_ledAdd, if_neg (hs _ _), Chip.ledger_ledAdd, if_pos rfl]
    rfl
  have h7 : morLed 4 ≠ morLed 7 := by decide
  have h8 : morLed 4 ≠ morLed 8 := by decide
  have h10 : morLed 4 ≠ morLed 10 := by decide
  have hc : ∀ (d : Chip) (code : Nat), (d.count code).ledger (morLed 4) = d.ledger (morLed 4) := fun d code => by
    unfold Chip.ledger
    rw [Chip.count_led]
  unfold Chip.makeRec
  simp only
  split
  · unfold Chip.dropFull
    simp only
    split
    · rw [hc, Chip.ledger_ledAdd, if_neg h10, Chip.ledger_ledAdd, if_neg (hs _ _), Chip.ledger_ledAdd, if_neg h7, h1]
    · rw [Chip.ledger_ledAdd, if_neg h10, Chip.ledger_ledAdd, if_neg (hs _ _), Chip.ledger_ledAdd, if_neg h7, h1]
  · show ((((c.ledAdd (morLed 4)).ledAdd (siteLed r.site 0)).ledAdd (morLed 8)).ledAdd (siteLed r.site 4)).ledger _ = _
    rw [Chip.ledger_ledAdd, if_neg (hs _ _), Chip.ledger_ledAdd, if_neg h8, h1]

/-! ### Addresses of a sideband port (R267) -/

theorem sbHit_ne_count (n e i : Nat) (hi : i < 0x20) : sbB n + i ≠ sbHit n e := by
  unfold sbHit
  omega
theorem sbTable_ne_count (n e i : Nat) (hi : i < 0x400) : sbB n + i ≠ sbTable n e := by
  unfold sbTable
  omega

/-! ### A frame bit by bit (R259, R260) -/

/-- The entry that a frame fetches before its eighth address bit, were that bit v. -/
def Chip.sbEntry (c : Chip) (n : Nat) (bits : List Bool) (v : Bool) : Word :=
  c.reg (sbTable n (c.sbAddr n (bits.take 8 ++ [v])))
/-- The open frame of port n that began now and holds these bits. -/
def Chip.sbFrame (c : Chip) (n : Nat) (bits : List Bool) : SbFrame :=
  { time := c.timeAtTm c.tm, bits := bits, lastAt := c.tm
    fetched := if 8 ≤ bits.length ∧ bits.headD false then (c.sbEntry n bits false, c.sbEntry n bits true) else (0, 0) }
/-- The bit on SBDO once the frame holds these bits, where it was o as the frame began. -/
def Chip.sbDriven (c : Chip) (n : Nat) (bits : List Bool) (o : Option Bool) : Option Bool :=
  if bits.headD false ∧ 9 ≤ bits.length then some (c.sbOutBit n (c.sbFrame n bits).word (bits.length - 9)) else o
/-- The device as a frame of port n is open and holds these bits. -/
def Chip.sbOpen (c : Chip) (n : Nat) (bits : List Bool) : Chip :=
  c.setSb n { c.sbPort n with frame := some (c.sbFrame n bits), out := c.sbDriven n bits (c.sbPort n).out }
/-- The device with the frame of port n closed and SBDO released. -/
def Chip.sbClosed (c : Chip) (n : Nat) : Chip := c.setSb n { c.sbPort n with frame := none, out := none }
/-- The device as the frame of port n is complete with these bits. -/
def Chip.sbDone (c : Chip) (n : Nat) (bits : List Bool) : Chip :=
  if bits.headD false then (c.sbClosed n).sbReadDone n (c.sbFrame n bits)
  else (c.sbClosed n).sbWriteDone n (c.sbFrame n bits)

theorem Chip.frame_sbOpen (c : Chip) (n : Nat) (bits : List Bool) :
    ((c.sbOpen n bits).sbPort n).frame = some (c.sbFrame n bits) := by
  unfold Chip.sbOpen
  rw [Chip.sbPort_setSb]

/-- No time passes within a row, so no frame times out in it. -/
theorem Chip.sbTimeout_sbOpen (c : Chip) (n : Nat) (bits : List Bool) : (c.sbOpen n bits).sbTimeout n = c.sbOpen n bits := by
  unfold Chip.sbTimeout
  rw [Chip.frame_sbOpen]
  exact if_neg (Nat.not_lt.2 (Nat.le_add_right c.tm _))

/-- The start bit opens a frame. -/
theorem Chip.sbBit_start (c : Chip) (n : Nat) (h : (c.sbPort n).frame = none) : c.sbBit n true = c.sbOpen n [] := by
  have ht : c.sbTimeout n = c := by
    unfold Chip.sbTimeout
    rw [h]
  unfold Chip.sbBit
  simp only [ht, h, if_true]
  rfl

theorem headD_append_singleton (bits : List Bool) (b : Bool) (h : bits ≠ []) :
    (bits ++ [b]).headD false = bits.headD false := by
  cases bits with
  | nil => exact absurd rfl h
  | cons x xs => rfl

/-- The entries are fetched with the frame's eighth bit, by the bits up to it, and stay. -/
theorem Chip.fetched_sbFrame (c : Chip) (n : Nat) (bits : List Bool) (b : Bool) :
    (c.sbFrame n (bits ++ [b])).fetched =
      if (bits ++ [b]).length = 8 ∧ (bits ++ [b]).headD false then
        (c.reg (sbTable n (c.sbAddr n (bits ++ [b] ++ [false]))), c.reg (sbTable n (c.sbAddr n (bits ++ [b] ++ [true]))))
      else (c.sbFrame n bits).fetched := by
  have hl : (bits ++ [b]).length = bits.length + 1 := by simp
  unfold Chip.sbFrame Chip.sbEntry
  simp only [hl]
  by_cases h8 : bits.length + 1 = 8
  · have ht : (bits ++ [b]).take 8 = bits ++ [b] := List.take_of_length_le (by omega)
    have hn : ¬ 8 ≤ bits.length := by omega
    simp only [ht, h8, hn, le_refl, true_and, false_and, if_false]
  · by_cases h9 : 8 ≤ bits.length
    · have ht : (bits ++ [b]).take 8 = bits.take 8 := List.take_append_of_le_length h9
      have hh : (bits ++ [b]).headD false = bits.headD false :=
        headD_append_singleton bits b (by rintro rfl; exact absurd h9 (by decide))
      simp only [ht, hh, h8, h9, Nat.le_succ_of_le h9, true_and, false_and, if_false]
    · have hn : ¬ 8 ≤ bits.length + 1 := by omega
      simp only [hn, h8, h9, false_and, if_false]

end Sys2Proof.Machine
end

section
/-! SUPPORT. SidebandFrames: the edges of a whole frame, what a complete frame changes, and how an open one ends. -/

namespace Sys2Proof.Machine

/-! ### The edges of a frame (R259, R260) -/

theorem Chip.reg_sbOpen (c : Chip) (n : Nat) (bits : List Bool) (a : Nat) : (c.sbOpen n bits).reg a = c.reg a := rfl
theorem Chip.tm_sbOpen (c : Chip) (n : Nat) (bits : List Bool) : (c.sbOpen n bits).tm = c.tm := rfl
theorem Chip.sbAddr_sbOpen (c : Chip) (n : Nat) (bits : List Bool) (bs : List Bool) :
    (c.sbOpen n bits).sbAddr n bs = c.sbAddr n bs := rfl
theorem Chip.sbOutBit_sbOpen (c : Chip) (n : Nat) (bits : List Bool) (v : Word) (k : Nat) :
    (c.sbOpen n bits).sbOutBit n v k = c.sbOutBit n v k := rfl
theorem Chip.sbPort_sbOpen (c : Chip) (n : Nat) (bits : List Bool) : (c.sbOpen n bits).sbPort n =
    { c.sbPort n with frame := some (c.sbFrame n bits), out := c.sbDriven n bits (c.sbPort n).out } :=
  Chip.sbPort_setSb _ _ _
theorem Chip.setSb_sbOpen (c : Chip) (n : Nat) (bits : List Bool) (p : SbPort) :
    (c.sbOpen n bits).setSb n p = c.setSb n p := Chip.setSb_setSb _ _ _ _

/-- What a frame drives changes with the bits from its ninth on. -/
theorem Chip.sbDriven_append (c : Chip) (n : Nat) (bits : List Bool) (b : Bool) (o : Option Bool) :
    c.sbDriven n (bits ++ [b]) o =
      if (bits ++ [b]).headD false = true ∧ 9 ≤ (bits ++ [b]).length then
        some (c.sbOutBit n (c.sbFrame n (bits ++ [b])).word ((bits ++ [b]).length - 9))
      else c.sbDriven n bits o := by
  unfold Chip.sbDriven
  split
  · rfl
  · rename_i h
    refine (if_neg fun h' => h ⟨?_, ?_⟩).symm
    · rw [headD_append_singleton bits b (by rintro rfl; exact absurd h'.2 (by decide))]
      exact h'.1
    · rw [List.length_append]
      exact Nat.le_add_right_of_le h'.2

/-- A bit joins the open frame, or completes it. -/
theorem Chip.sbBit_sbOpen (c : Chip) (n : Nat) (bits : List Bool) (b : Bool) :
    (c.sbOpen n bits).sbBit n b =
      if (bits ++ [b]).length < 41 then c.sbOpen n (bits ++ [b]) else c.sbDone n (bits ++ [b]) := by
  have hk : (c.sbFrame n bits).bits ++ [b] = bits ++ [b] := rfl
  have hf : ({ c.sbFrame n bits with
      bits := bits ++ [b], lastAt := c.tm
      fetched := if (bits ++ [b]).length = 8 ∧ (bits ++ [b]).headD false then
          (c.reg (sbTable n (c.sbAddr n (bits ++ [b] ++ [false]))), c.reg (sbTable n (c.sbAddr n (bits ++ [b] ++ [true]))))
        else (c.sbFrame n bits).fetched } : SbFrame) = c.sbFrame n (bits ++ [b]) := by
    rw [← Chip.fetched_sbFrame]
    rfl
  unfold Chip.sbBit
  simp only [Chip.sbTimeout_sbOpen, hk, Chip.reg_sbOpen, Chip.tm_sbOpen, Chip.sbAddr_sbOpen,
    Chip.sbOutBit_sbOpen, Chip.sbPort_sbOpen, Chip.setSb_sbOpen, hf, ← Chip.sbDriven_append]
  rfl

/-- The bits of a frame that stays open. -/
theorem Chip.sbEdges_open (c : Chip) (n : Nat) (read : Bool) (bs : List Bool) :
    ∀ bits : List Bool, (bits ++ bs).headD read = read → (bits ++ bs).length < 41 →
      (c.sbOpen n bits).sbEdges n read bs = c.sbOpen n (bits ++ bs) := by
  induction bs with
  | nil => intro bits _ _; rw [List.append_nil]; rfl
  | cons b bs ih =>
    intro bits hd hl
    have e : bits ++ b :: bs = bits ++ [b] ++ bs := by simp
    have hb : (bits ++ [b]).headD read = read := by
      cases bits <;> exact hd
    have hs : (c.sbOpen n bits).sbBit n b = c.sbOpen n (bits ++ [b]) := by
      rw [Chip.sbBit_sbOpen, if_pos]
      rw [e, List.length_append] at hl
      omega
    rw [e] at hd hl ⊢
    unfold Chip.sbEdges
    simp only [hs, Chip.frame_sbOpen]
    exact (if_pos hb).trans (ih _ hd hl)

/-- The bits that complete a frame. -/
theorem Chip.sbEdges_done (c : Chip) (n : Nat) (read : Bool) (bs : List Bool) :
    ∀ bits : List Bool, bs ≠ [] → (bits ++ bs).headD read = read → (bits ++ bs).length = 41 →
      ((c.sbDone n (bits ++ bs)).sbPort n).frame = none →
      (c.sbOpen n bits).sbEdges n read bs = c.sbDone n (bits ++ bs) := by
  induction bs with
  | nil => intro bits h; exact absurd rfl h
  | cons b bs ih =>
    intro bits _ hd hl hn
    have e : bits ++ b :: bs = bits ++ [b] ++ bs := by simp
    have hb : (bits ++ [b]).headD read = read := by
      cases bits <;> exact hd
    rw [e] at hd hl hn ⊢
    unfold Chip.sbEdges
    cases bs with
    | nil =>
      rw [List.append_nil] at hl hn ⊢
      rw [Chip.sbBit_sbOpen, if_neg (by omega)]
      simp only [hn]
      rfl
    | cons b' bs =>
      have hs : (c.sbOpen n bits).sbBit n b = c.sbOpen n (bits ++ [b]) := by
        rw [Chip.sbBit_sbOpen, if_pos]
        simp only [List.length_append, List.length_cons] at hl ⊢
        omega
      simp only [hs, Chip.frame_sbOpen]
      exact (if_pos hb).trans (ih _ (by simp) hd hl hn)

/-- A start bit and the bits after it, seen by a port with no frame open. -/
theorem Chip.sbEdges_start (c : Chip) (n : Nat) (read : Bool) (bs : List Bool) (h : (c.sbPort n).frame = none) :
    c.sbEdges n read (true :: bs) = (c.sbOpen n []).sbEdges n read bs := by
  conv_lhs => unfold Chip.sbEdges
  simp only [Chip.sbBit_start c n h, Chip.frame_sbOpen]
  exact if_pos rfl

/-- A port samples every edge of its own polarity. -/
theorem Chip.sbSampled_all (c : Chip) (n : Nat) (bs : List Bool) :
    c.sbSampled n (bs.map (fun b => (!bitOf (c.reg (sbB n)).toNat 29, b))) = bs := by
  unfold Chip.sbSampled
  induction bs with
  | nil => rfl
  | cons b bs ih => simpa using ih

/-! ### Complete frames (R260 to R262, R264) -/

/-- A frame that is logged, or not, changes no more than a record does. -/
theorem Chip.sbLogIf_shape (c : Chip) (b : Bool) (n : Nat) (now : Int) (read updated : Bool) (addr : Nat) (data old : Word) :
    ∃ l m k q, (if b then c.sbLog n now read updated addr data old else c) =
      { c with led := l, mor := m, counters := k, cirque := q } := by
  cases b
  · exact ⟨_, _, _, _, rfl⟩
  · exact Chip.makeRec_shape _ _ _

/-- The state of a port whose read of entry e is complete. -/
def Chip.sbHasRead (c : Chip) (n e : Nat) : SbPort :=
  { c.sbPort n with
    readAt := some (e, c.tm)
    setAt := if bitOf (c.reg (sbHit n e)).toNat (e % 32) then (c.sbPort n).setAt else tabSet (c.sbPort n).setAt e c.tm }

/-- A complete read counts, sets the latch of its entry, and may be logged. -/
theorem Chip.sbReadDone_shape (c : Chip) (n : Nat) (f : SbFrame) :
    let e := c.sbAddr n f.bits
    ∃ l m k q, c.sbReadDone n f =
      { c with regs := ((c.cntUp (sbB n + 8)).setField (sbHit n e) (e % 32) (e % 32) 1).regs
               sb := tabSet c.sb n (c.sbHasRead n e), led := l, mor := m, counters := k, cirque := q } := by
  intro e
  let d := (((c.setSb n (c.sbHasRead n e)).cntUp (sbB n + 8)).count 301).setField (sbHit n e) (e % 32) (e % 32) 1
  obtain ⟨l, m, k, q, h⟩ := Chip.sbLogIf_shape d (bitOf (d.reg (sbB n)).toNat 27) n f.time true false e f.word
    (c.sbBefore n f e)
  obtain ⟨k', q', h'⟩ := Chip.count_shape ((c.setSb n (c.sbHasRead n e)).cntUp (sbB n + 8)) 301 1
  refine ⟨l, m, k, q, Eq.trans h ?_⟩
  simp only [d, h']
  rfl

/-- A complete write counts, changes its entry where UPDATE is 1, and is logged. -/
theorem Chip.sbWriteDone_shape (c : Chip) (n : Nat) (f : SbFrame) :
    let e := c.sbAddr n f.bits
    let w := BitVec.ofNat 32 (c.sbNat n (f.bits.drop 9))
    ∃ t l m k q, c.sbWriteDone n f =
      { c with regs := (if bitOf (c.reg (sbB n)).toNat 28 then (c.cntUp (sbB n + 0xC)).setReg (sbTable n e) w
                        else c.cntUp (sbB n + 0xC)).regs
               sb := t, led := l, mor := m, counters := k, cirque := q } ∧
      (tabGet {} t n).frame = (c.sbPort n).frame ∧ (tabGet {} t n).out = (c.sbPort n).out := by
  intro e w
  let x := (c.cntUp (sbB n + 0xC)).count 302
  let d := if bitOf (c.reg (sbB n)).toNat 28 then
      (x.setReg (sbTable n e) w).setSb n { x.sbPort n with wroteAt := some (e, x.tm) }
    else x
  obtain ⟨k', q', hx⟩ := Chip.count_shape (c.cntUp (sbB n + 0xC)) 302 1
  have hlog : ∃ l m k q, c.sbWriteDone n f = { d with led := l, mor := m, counters := k, cirque := q } :=
    Chip.makeRec_shape d _ _
  obtain ⟨l, m, k, q, h⟩ := hlog
  refine ⟨d.sb, l, m, k, q, h.trans ?_, ?_, ?_⟩ <;> simp only [d, x, hx]
  · split <;> rfl
  · split
    · exact (congrArg SbPort.frame (Chip.sbPort_setSb _ n _)).trans rfl
    · rfl
  · split
    · exact (congrArg SbPort.out (Chip.sbPort_setSb _ n _)).trans rfl
    · rfl

/-- A complete write makes one record (R264). -/
theorem Chip.created_sbWriteDone (c : Chip) (n : Nat) (f : SbFrame) :
    (c.sbWriteDone n f).ledger (morLed 4) = c.ledger (morLed 4) + 1 := by
  refine (Chip.created_makeRec _ _ _).trans (congrArg (· + 1) ?_)
  unfold Chip.ledger
  split <;> simp [Chip.setSb]

theorem Chip.sbPort_sbClosed (c : Chip) (n : Nat) :
    (c.sbClosed n).sbPort n = { c.sbPort n with frame := none, out := none } := Chip.sbPort_setSb _ _ _

/-- A complete frame is closed, and SBDO released. -/
theorem Chip.sbPort_sbDone (c : Chip) (n : Nat) (bits : List Bool) :
    ((c.sbDone n bits).sbPort n).frame = none ∧ ((c.sbDone n bits).sbPort n).out = none := by
  unfold Chip.sbDone
  split
  · obtain ⟨l, m, k, q, h⟩ := Chip.sbReadDone_shape (c.sbClosed n) n (c.sbFrame n bits)
    have hp : ((c.sbClosed n).sbReadDone n (c.sbFrame n bits)).sbPort n = (c.sbClosed n).sbHasRead n (c.sbAddr n bits) := by
      rw [h]
      exact tabGet_tabSet_same _ _ _ _
    rw [hp]
    exact ⟨congrArg SbPort.frame (c.sbPort_sbClosed n), congrArg SbPort.out (c.sbPort_sbClosed n)⟩
  · obtain ⟨t, l, m, k, q, h, hf, ho⟩ := Chip.sbWriteDone_shape (c.sbClosed n) n (c.sbFrame n bits)
    rw [Chip.sbPort_sbClosed] at hf ho
    rw [h]
    exact ⟨hf, ho⟩

/-! ### Whole rows of edges -/

/-- The SBCK edges of a frame, at the edges that port n samples: its start bit, its direction, and the bits after it. -/
def Chip.sbFrameEdges (c : Chip) (n : Nat) (read : Bool) (bits : List Bool) : List (Bool × Bool) :=
  (true :: read :: bits).map (fun b => (!bitOf (c.reg (sbB n)).toNat 29, b))

/-- 40 bits after a start bit and a direction complete a frame. -/
theorem Chip.sbEdges_whole (c : Chip) (n : Nat) (read : Bool) (bits : List Bool) (h : (c.sbPort n).frame = none)
    (hl : bits.length = 40) : c.sbEdges n read (true :: read :: bits) = c.sbDone n (read :: bits) := by
  rw [Chip.sbEdges_start c n read _ h]
  exact Chip.sbEdges_done c n read (read :: bits) [] (by simp) rfl (by simp [hl]) (c.sbPort_sbDone n _).1

/-- Fewer bits leave it open. -/
theorem Chip.sbEdges_part (c : Chip) (n : Nat) (read : Bool) (bits : List Bool) (h : (c.sbPort n).frame = none)
    (hl : bits.length < 40) : c.sbEdges n read (true :: read :: bits) = c.sbOpen n (read :: bits) := by
  rw [Chip.sbEdges_start c n read _ h]
  exact Chip.sbEdges_open c n read (read :: bits) [] rfl (by simp; omega)

/-- The entry that a read fetched is the one its address names. -/
theorem Chip.word_sbFrame (c : Chip) (n : Nat) (bits : List Bool) (h : 8 ≤ bits.length) :
    (c.sbFrame n (true :: bits)).word = c.reg (sbTable n (c.sbNat n (bits.take 8))) := by
  obtain ⟨xs, b, ys, rfl, hx⟩ : ∃ xs b ys, bits = xs ++ b :: ys ∧ xs.length = 7 := by
    refine ⟨bits.take 7, bits[7], bits.drop 8, ?_, by simp; omega⟩
    rw [List.getElem_cons_drop, List.take_append_drop]
  have ht : (xs ++ b :: ys).take 8 = xs ++ [b] := by simp [List.take_append, hx]
  have hg : (true :: (xs ++ b :: ys)).getD 8 false = b := by simp [List.getD_eq_getElem?_getD, hx]
  have h8 : (true :: (xs ++ b :: ys)).take 8 = true :: xs := by simp [hx]
  have he : ∀ v, c.sbEntry n (true :: (xs ++ b :: ys)) v = c.reg (sbTable n (c.sbNat n (xs ++ [v]))) := fun v => by
    unfold Chip.sbEntry Chip.sbAddr
    rw [h8]
    simp [List.take_of_length_le, hx]
  have hf : (c.sbFrame n (true :: (xs ++ b :: ys))).fetched =
      (c.reg (sbTable n (c.sbNat n (xs ++ [false]))), c.reg (sbTable n (c.sbNat n (xs ++ [true])))) := by
    rw [← he, ← he]
    exact if_pos ⟨Nat.le_succ_of_le h, rfl⟩
  unfold SbFrame.word
  rw [show (c.sbFrame n (true :: (xs ++ b :: ys))).bits = true :: (xs ++ b :: ys) from rfl, hg, hf, ht]
  cases b <;> rfl

end Sys2Proof.Machine
end

section
/-! SUPPORT. SidebandRows: what the rows of a sideband port do: frames, aborts, time-outs and clock windows. -/

namespace Sys2Proof.Machine

/-- A row of the die answers what it makes of it. -/
theorem State.onChip_of_eq (s : State) {f : Chip → Chip} {d : Chip} (h : f s.chip = d) :
    s.onChip f = .next { s with chip := d } := by
  unfold State.onChip
  rw [h]

/-! ### Frames (R260 to R264) -/

theorem Chip.reg_sbReadDone (c : Chip) (n : Nat) (f : SbFrame) (a : Nat) :
    (c.sbReadDone n f).reg a =
      ((c.cntUp (sbB n + 8)).setField (sbHit n (c.sbAddr n f.bits)) (c.sbAddr n f.bits % 32) (c.sbAddr n f.bits % 32)
        1).reg a := by
  obtain ⟨l, m, k, q, h⟩ := Chip.sbReadDone_shape c n f
  rw [h]
  rfl

theorem Chip.reg_sbWriteDone (c : Chip) (n : Nat) (f : SbFrame) (a : Nat) :
    (c.sbWriteDone n f).reg a =
      if bitOf (c.reg (sbB n)).toNat 28 then
        ((c.cntUp (sbB n + 0xC)).setReg (sbTable n (c.sbAddr n f.bits)) (BitVec.ofNat 32 (c.sbNat n (f.bits.drop 9)))).reg a
      else (c.cntUp (sbB n + 0xC)).reg a := by
  obtain ⟨t, l, m, k, q, h, _⟩ := Chip.sbWriteDone_shape c n f
  rw [h]
  split <;> rfl

/-- A complete frame reaches nothing on the host's side. -/
theorem Chip.hostSideKept_sbDone (c : Chip) (n : Nat) (bits : List Bool) : c.hostSideKept (c.sbDone n bits) := by
  unfold Chip.sbDone
  split
  · obtain ⟨l, m, k, q, h⟩ := Chip.sbReadDone_shape (c.sbClosed n) n (c.sbFrame n bits)
    rw [h]
    exact ⟨rfl, rfl, rfl, rfl, rfl, rfl, rfl, rfl, rfl, rfl, rfl, rfl⟩
  · obtain ⟨t, l, m, k, q, h, _⟩ := Chip.sbWriteDone_shape (c.sbClosed n) n (c.sbFrame n bits)
    rw [h]
    exact ⟨rfl, rfl, rfl, rfl, rfl, rfl, rfl, rfl, rfl, rfl, rfl, rfl⟩

theorem sbRead_frame (c : Chip) (n : Nat) (bits : List Bool) (h : c.sbListens n = true) :
    sbRead n (c.sbFrameEdges n true bits) c = c.sbEdges n true (true :: true :: bits) := by
  unfold sbRead
  rw [if_pos h]
  exact congrArg (c.sbEdges n true) (c.sbSampled_all n _)

theorem sbWrite_frame (c : Chip) (n : Nat) (bits : List Bool) (h : c.sbListens n = true) :
    sbWrite n (c.sbFrameEdges n false bits) c = c.sbEdges n false (true :: false :: bits) := by
  unfold sbWrite
  rw [if_pos h]
  exact congrArg (c.sbEdges n false) (c.sbSampled_all n _)

/-- A whole read counts, sets the latch of its entry alone, and is over. -/
theorem sbRead_whole (s : State) (n : Fin 3) (bits : List Bool) (hL : s.chip.sbListens n = true)
    (hF : (s.chip.sbPort n).frame = none) (hl : bits.length = 40) :
    let e := s.chip.sbNat n (bits.take 8)
    ∃ t, exec (.sbRead n (s.chip.sbFrameEdges n true bits)) s = .next t ∧ s.chip.counted t.chip (sbB n + 8) ∧
      (t.chip.sbPort n).frame = none ∧ (t.chip.sbPort n).out = none ∧
      bitOf (t.chip.reg (sbHit n e)).toNat (e % 32) = true ∧
      (∀ j, j < 32 → j ≠ e % 32 → bitOf (t.chip.reg (sbHit n e)).toNat j = bitOf (s.chip.reg (sbHit n e)).toNat j) ∧
      (∀ a, a ≠ sbB n + 8 → a ≠ sbHit n e → t.chip.reg a = s.chip.reg a) ∧
      t.dram = s.dram ∧ s.chip.hostSideKept t.chip := by
  intro e
  have hc : sbRead n (s.chip.sbFrameEdges n true bits) s.chip = s.chip.sbDone n (true :: bits) := by
    rw [sbRead_frame _ _ _ hL, Chip.sbEdges_whole _ _ _ _ hF hl]
  have hr : ∀ a, (s.chip.sbDone n (true :: bits)).reg a =
      ((s.chip.cntUp (sbB n + 8)).setField (sbHit n e) (e % 32) (e % 32) 1).reg a := fun a =>
    (Chip.reg_sbReadDone (s.chip.sbClosed n) n (s.chip.sbFrame n (true :: bits)) a).trans rfl
  have he : e % 32 < 32 := Nat.mod_lt _ (by decide)
  have hne : sbHit n e ≠ sbB n + 8 := (sbHit_ne_count n e 8 (by decide)).symm
  obtain ⟨hp, ho⟩ := s.chip.sbPort_sbDone n (true :: bits)
  refine ⟨{ s with chip := s.chip.sbDone n (true :: bits) }, State.onChip_of_eq s hc,
    ?_, hp, ho, ?_, ?_, ?_, rfl, s.chip.hostSideKept_sbDone n _⟩
  · rw [Chip.counted, hr, Chip.reg_setField_other _ _ _ _ hne.symm, Chip.reg_cntUp_same]
  · rw [hr, Chip.bitOf_reg_setBit _ _ _ _ _ he, if_pos rfl]
    rfl
  · intro j _ hj
    rw [hr, Chip.bitOf_reg_setBit _ _ _ _ _ he, if_neg hj, Chip.reg_cntUp_other _ _ hne]
  · intro a h1 h2
    rw [hr, Chip.reg_setField_other _ _ _ _ h2, Chip.reg_cntUp_other _ _ h1]

/-- A read whose address has come drives its table word bit by bit and changes no register. -/
theorem sbRead_part (s : State) (n : Fin 3) (bits : List Bool) (hL : s.chip.sbListens n = true)
    (hF : (s.chip.sbPort n).frame = none) (h8 : 8 ≤ bits.length) (hl : bits.length < 40) :
    let e := s.chip.sbNat n (bits.take 8)
    ∃ t, exec (.sbRead n (s.chip.sbFrameEdges n true bits)) s = .next t ∧ (t.chip.sbPort n).frame.isSome = true ∧
      (t.chip.sbPort n).out = some (s.chip.sbOutBit n (s.chip.reg (sbTable n e)) (bits.length - 8)) ∧
      t.chip.regs = s.chip.regs := by
  intro e
  have hc : sbRead n (s.chip.sbFrameEdges n true bits) s.chip = s.chip.sbOpen n (true :: bits) := by
    rw [sbRead_frame _ _ _ hL, Chip.sbEdges_part _ _ _ _ hF hl]
  refine ⟨{ s with chip := s.chip.sbOpen n (true :: bits) }, State.onChip_of_eq s hc,
    ?_, ?_, rfl⟩
  · rw [Chip.frame_sbOpen]
    rfl
  · have hd : s.chip.sbDriven n (true :: bits) (s.chip.sbPort n).out =
        some (s.chip.sbOutBit n (s.chip.sbFrame n (true :: bits)).word (bits.length + 1 - 9)) :=
      if_pos ⟨rfl, Nat.succ_le_succ h8⟩
    rw [Chip.sbPort_sbOpen]
    show s.chip.sbDriven n (true :: bits) (s.chip.sbPort n).out = _
    rw [hd, Chip.word_sbFrame _ _ _ h8, Nat.add_sub_add_right bits.length 1 8]

/-- A whole write counts, changes its entry where UPDATE is 1, is logged, and is over. -/
theorem sbWrite_whole (s : State) (n : Fin 3) (bits : List Bool) (head data : List (Bool × Bool))
    (hL : s.chip.sbListens n = true) (hF : (s.chip.sbPort n).frame = none) (hl : bits.length = 40)
    (hd : head ++ data = s.chip.sbFrameEdges n false bits) :
    let e := s.chip.sbNat n (bits.take 8)
    ∃ t, exec (.sbWrite n head data) s = .next t ∧ s.chip.counted t.chip (sbB n + 0xC) ∧
      (t.chip.sbPort n).frame = none ∧
      t.chip.reg (sbTable n e) = (if bitOf (s.chip.reg (sbB n)).toNat 28
        then BitVec.ofNat 32 (s.chip.sbNat n (bits.drop 8)) else s.chip.reg (sbTable n e)) ∧
      (∀ a, a ≠ sbB n + 0xC → a ≠ sbTable n e → t.chip.reg a = s.chip.reg a) ∧
      t.chip.ledger (morLed 4) = s.chip.ledger (morLed 4) + 1 ∧ t.dram = s.dram ∧ s.chip.hostSideKept t.chip := by
  intro e
  have hc : sbWrite n (head ++ data) s.chip = s.chip.sbDone n (false :: bits) := by
    rw [hd, sbWrite_frame _ _ _ hL, Chip.sbEdges_whole _ _ _ _ hF hl]
  have hr : ∀ a, (s.chip.sbDone n (false :: bits)).reg a =
      if bitOf (s.chip.reg (sbB n)).toNat 28 then
        ((s.chip.cntUp (sbB n + 0xC)).setReg (sbTable n e) (BitVec.ofNat 32 (s.chip.sbNat n (bits.drop 8)))).reg a
      else (s.chip.cntUp (sbB n + 0xC)).reg a := fun a =>
    (Chip.reg_sbWriteDone (s.chip.sbClosed n) n (s.chip.sbFrame n (false :: bits)) a).trans rfl
  have hne : sbTable n e ≠ sbB n + 0xC := (sbTable_ne_count n e 0xC (by decide)).symm
  refine ⟨{ s with chip := s.chip.sbDone n (false :: bits) }, State.onChip_of_eq s hc,
    ?_, (s.chip.sbPort_sbDone n _).1, ?_, ?_, Chip.created_sbWriteDone _ _ _, rfl, s.chip.hostSideKept_sbDone n _⟩
  · rw [Chip.counted, hr]
    split
    · rw [Chip.reg_setReg_other _ _ hne.symm, Chip.reg_cntUp_same]
    · rw [Chip.reg_cntUp_same]
  · rw [hr]
    split
    · rw [Chip.reg_setReg_same]
    · rw [Chip.reg_cntUp_other _ _ hne]
  · intro a h1 h2
    rw [hr]
    split
    · rw [Chip.reg_setReg_other _ _ h2, Chip.reg_cntUp_other _ _ h1]
    · rw [Chip.reg_cntUp_other _ _ h1]

/-! ### Aborts and time-outs (R266) -/

theorem Chip.reg_sbAbort (c : Chip) (n a : Nat) : (c.sbAbort n).reg a = (c.cntUp (sbB n + 0x10)).reg a := by
  unfold Chip.sbAbort
  rw [Chip.reg_raise, Chip.reg_count]
  rfl

/-- An abort counts, raises its event, and releases SBDO. -/
theorem Chip.sbAbort_spec (c : Chip) (n : Nat) :
    c.counted (c.sbAbort n) (sbB n + 0x10) ∧ (c.sbAbort n).waits (srcSb n) 0x8060 ∧
    ((c.sbAbort n).sbPort n).frame = none ∧ ((c.sbAbort n).sbPort n).out = none ∧
    ∀ a, a ≠ sbB n + 0x10 → (c.sbAbort n).reg a = c.reg a := by
  have hp : (c.sbAbort n).sbPort n = { c.sbPort n with frame := none, out := none } := by
    unfold Chip.sbAbort
    rw [Chip.sbPort_of_sb (Chip.raise_sb _ _ _ _ _ _), Chip.sbPort_of_sb (Chip.count_sb _ _ _),
      Chip.sbPort_of_sb (Chip.cntUp_sb _ _ _), Chip.sbPort_setSb]
  refine ⟨?_, Chip.raise_waits _ _ _ _ _ _, by rw [hp], by rw [hp], fun a h => ?_⟩
  · rw [Chip.counted, Chip.reg_sbAbort, Chip.reg_cntUp_same]
  · rw [Chip.reg_sbAbort, Chip.reg_cntUp_other _ _ h]

theorem sbAbort_open (s : State) (n : Fin 3) (f : SbFrame) (h : (s.chip.sbPort n).frame = some f) :
    ∃ t, exec (.sbAbort n) s = .next t ∧ s.chip.counted t.chip (sbB n + 0x10) ∧ t.chip.waits (srcSb n) 0x8060 ∧
      (t.chip.sbPort n).frame = none ∧ (t.chip.sbPort n).out = none ∧
      ∀ a, a ≠ sbB n + 0x10 → t.chip.reg a = s.chip.reg a := by
  have hc : sbAbort n s.chip = s.chip.guardReject.sbAbort n := by
    unfold sbAbort
    rw [h]
    rfl
  obtain ⟨h1, h2, h3, h4, h5⟩ := s.chip.guardReject.sbAbort_spec n
  refine ⟨{ s with chip := s.chip.guardReject.sbAbort n }, State.onChip_of_eq s hc,
    ?_, h2, h3, h4, fun a ha => (h5 a ha).trans (Chip.reg_guardReject _ _)⟩
  rwa [Chip.counted, Chip.reg_guardReject] at h1

/-- A time-out is an abort that comes once the time since the last sampling edge has passed. -/
theorem Chip.sbTimeout_due (c : Chip) (n : Nat) (f : SbFrame) (h : (c.sbPort n).frame = some f)
    (ht : f.lastAt + 1600 * c.field (sbB n) 7 0 < c.tm) : c.sbTimeout n = c.guardReject.sbAbort n := by
  unfold Chip.sbTimeout
  rw [h]
  exact if_pos ht

theorem sbFrameTimeout_open (s : State) (n : Fin 3) (f : SbFrame) (h : (s.chip.sbPort n).frame = some f)
    (hc : s.chip.clocked = true) :
    ∃ t, exec (.sbFrameTimeout n) s = .next t ∧ s.chip.counted t.chip (sbB n + 0x10) ∧
      t.chip.waits (srcSb n) 0x8060 ∧ (t.chip.sbPort n).frame = none ∧ (t.chip.sbPort n).out = none ∧
      ∀ a, a ≠ sbB n + 0x10 → a / 0x10000 ≠ 0x20 → t.chip.reg a = s.chip.reg a := by
  let d := s.chip.advanceTo (f.lastAt + 1600 * s.chip.field (sbB n) 7 0 + 1)
  have hr : ∀ a, a / 0x10000 ≠ 0x20 → d.reg a = s.chip.reg a := fun a ha => Chip.reg_advance _ _ ha
  have hb : ∀ i, i < 0x1000 → (sbB n + i) / 0x10000 ≠ 0x20 := fun i hi => by unfold sbB; omega
  have hd : sbFrameTimeout n s.chip = d.guardReject.sbAbort n := by
    have ht : d.sbTimeout n = d.guardReject.sbAbort n := by
      refine Chip.sbTimeout_due d n f ((congrArg SbPort.frame (Chip.sbPort_advanceTo _ _ hc n)).trans h) ?_
      rw [Chip.field_of_reg (hr (sbB n) (hb 0 (by decide)))]
      exact Chip.le_tm_advanceTo _ _ hc
    unfold sbFrameTimeout
    rw [h]
    exact ht
  obtain ⟨h1, h2, h3, h4, h5⟩ := d.guardReject.sbAbort_spec n
  refine ⟨{ s with chip := d.guardReject.sbAbort n }, State.onChip_of_eq s hd,
    ?_, h2, h3, h4, fun a ha hx => (h5 a ha).trans ((Chip.reg_guardReject _ _).trans (hr a hx))⟩
  rwa [Chip.counted, Chip.reg_guardReject, hr _ (hb 0x10 (by decide))] at h1

/-! ### Ports that do not listen, and frames that are not open -/

theorem sbEdges_unheard (s : State) (n : Fin 3) (edges data : List (Bool × Bool)) (h : s.chip.sbListens n = false) :
    exec (.sbRead n edges) s = .next s ∧ exec (.sbWrite n edges data) s = .next s := by
  have hn : ¬ s.chip.sbListens n = true := by simp [h]
  exact ⟨State.onChip_of_eq s (if_neg hn),
    State.onChip_of_eq s (if_neg hn)⟩

theorem sbEnd_closed (s : State) (n : Fin 3) (h : (s.chip.sbPort n).frame = none) :
    exec (.sbAbort n) s = .next s ∧ exec (.sbFrameTimeout n) s = .next s := by
  have ha : sbAbort n s.chip = s.chip := by
    unfold sbAbort
    rw [h]
    rfl
  have ht : sbFrameTimeout n s.chip = s.chip := by
    unfold sbFrameTimeout
    rw [h]
  exact ⟨State.onChip_of_eq s ha,
    State.onChip_of_eq s ht⟩

/-! ### Clock windows (R265) -/

/-- The window is one that port n follows: 9.8 to 816 MHz, phases of 500 ps or more. -/
def sbWindowOk (khz ph : Nat) : Bool := decide (9800 ≤ khz) && decide (khz ≤ 816000) && decide (500 ≤ ph)
/-- The device with a window's frequency shown in SBR_STATUS[n]. -/
def Chip.sbShow (c : Chip) (n khz : Nat) : Chip := c.setField (sbB n + 4) 9 0 (min (khz / 1000) 1023)
/-- The device as a bad window turns port n off, before the error is reported. -/
def Chip.sbClockBad (c : Chip) (n khz : Nat) : Chip :=
  (((((c.sbShow n khz).setSb n { c.sbPort n with faulted := true, good := 0, frame := none, out := none }).setField
    (sbB n + 4) 31 31 0).setField (sbB n + 4) 29 29 1).cntUp (sbB n + 0x10))

theorem sbClockWindow_bad (n khz ph : Nat) (c : Chip) (h : sbWindowOk khz ph = false) :
    ∃ x, sbClockWindow n khz ph c = (((c.sbClockBad n khz).count 303).guardReject.raiseErr (srcSb n) 0x030E n x) := by
  unfold sbWindowOk at h
  unfold sbClockWindow Chip.sbClockBad Chip.sbShow
  simp only [h, Bool.false_eq_true, if_false]
  exact ⟨_, rfl⟩

theorem sbClockWindow_ok (n khz ph : Nat) (c : Chip) (h : sbWindowOk khz ph = true)
    (hf : (c.sbPort n).faulted = false) :
    sbClockWindow n khz ph c = (c.sbShow n khz).setField (sbB n + 4) 31 31 1 := by
  unfold sbWindowOk at h
  unfold Chip.sbPort at hf
  unfold sbClockWindow Chip.sbShow
  simp only [h, hf, Bool.false_eq_true, if_false, if_true]

/-- Of a port that is held off, the fourth good window in a row turns it on again. -/
theorem sbClockWindow_fourth (n khz ph : Nat) (c : Chip) (h : sbWindowOk khz ph = true)
    (hf : (c.sbPort n).faulted = true) (hg : 3 ≤ (c.sbPort n).good) :
    sbClockWindow n khz ph c = ((c.sbShow n khz).setField (sbB n + 4) 31 31 1).setSb n
      { c.sbPort n with faulted := false, good := 0 } := by
  have hg' : 4 ≤ (c.sbPort n).good + 1 := Nat.succ_le_succ hg
  unfold sbWindowOk at h
  unfold Chip.sbPort at hf hg'
  unfold sbClockWindow Chip.sbShow Chip.sbPort Chip.setSb
  simp only [h, hf, hg', if_true, Chip.setField_sb]

theorem sbClockWindow_counts (n khz ph : Nat) (c : Chip) (h : sbWindowOk khz ph = true)
    (hf : (c.sbPort n).faulted = true) (hg : (c.sbPort n).good < 3) :
    sbClockWindow n khz ph c = (c.sbShow n khz).setSb n { c.sbPort n with good := (c.sbPort n).good + 1 } := by
  have hg' : ¬ 4 ≤ (c.sbPort n).good + 1 := by omega
  unfold sbWindowOk at h
  unfold Chip.sbPort at hf hg'
  unfold sbClockWindow Chip.sbShow Chip.sbPort Chip.setSb
  simp only [h, hf, hg', if_true, if_false]

theorem Chip.sbPort_sbClockBad (c : Chip) (n khz : Nat) : (c.sbClockBad n khz).sbPort n =
    { c.sbPort n with faulted := true, good := 0, frame := none, out := none } := by
  unfold Chip.sbClockBad
  rw [Chip.sbPort_of_sb (Chip.cntUp_sb _ _ _), Chip.sbPort_of_sb (Chip.setField_sb _ _ _ _ _),
    Chip.sbPort_of_sb (Chip.setField_sb _ _ _ _ _), Chip.sbPort_setSb]

/-- A bad window leaves CLK_OK 0, CLK_ERR 1 and the frequency, and counts an abort. -/
theorem Chip.status_sbClockBad (c : Chip) (n khz : Nat) :
    (c.sbClockBad n khz).field (sbB n + 4) 31 31 = 0 ∧ (c.sbClockBad n khz).field (sbB n + 4) 29 29 = 1 ∧
    (c.sbClockBad n khz).field (sbB n + 4) 9 0 = min (khz / 1000) 1023 ∧ c.counted (c.sbClockBad n khz) (sbB n + 0x10) := by
  have h4 : sbB n + 0x10 ≠ sbB n + 4 := by omega
  have hm : min (khz / 1000) 1023 % 2 ^ (9 - 0 + 1) = min (khz / 1000) 1023 :=
    Nat.mod_eq_of_lt (Nat.lt_of_le_of_lt (Nat.min_le_right _ _) (by decide))
  unfold Chip.sbClockBad
  refine ⟨?_, ?_, ?_, ?_⟩
  · rw [Chip.field_of_reg (Chip.reg_cntUp_other _ _ h4.symm), Chip.field_setField_disjoint _ _ _ _ _ _ _
      (.inr (by decide)) (by decide) (by decide) (by decide)]
    exact Chip.field_setField_same _ _ _ _ _ (by decide) (by decide)
  · rw [Chip.field_of_reg (Chip.reg_cntUp_other _ _ h4.symm)]
    exact Chip.field_setField_same _ _ _ _ _ (by decide) (by decide)
  · rw [Chip.field_of_reg (Chip.reg_cntUp_other _ _ h4.symm), Chip.field_setField_disjoint _ _ _ _ _ _ _
      (.inl (by decide)) (by decide) (by decide) (by decide), Chip.field_setField_disjoint _ _ _ _ _ _ _
      (.inl (by decide)) (by decide) (by decide) (by decide), Chip.field_setSb]
    exact (Chip.field_setField_same _ _ _ _ _ (by decide) (by decide)).trans hm
  · rw [Chip.counted, Chip.reg_cntUp_same, Chip.reg_setField_other _ _ _ _ h4, Chip.reg_setField_other _ _ _ _ h4,
      Chip.reg_setSb, Chip.sbShow, Chip.reg_setField_other _ _ _ _ h4]

theorem Chip.sbListens_faulted (c : Chip) (n : Nat) (h : (c.sbPort n).faulted = true) : c.sbListens n = false := by
  unfold Chip.sbPort at h
  unfold Chip.sbListens
  rw [h, Bool.not_true, Bool.and_false]

/-- A bad window turns the port off and is reported. -/
theorem sbClockWindow_faults (s : State) (n : Fin 3) (khz ph : Nat) (h : sbWindowOk khz ph = false) :
    ∃ t, exec (.sbClockWindow n khz ph) s = .next t ∧ t.chip.field (sbB n + 4) 31 31 = 0 ∧
      t.chip.field (sbB n + 4) 29 29 = 1 ∧ t.chip.field (sbB n + 4) 9 0 = min (khz / 1000) 1023 ∧
      s.chip.counted t.chip (sbB n + 0x10) ∧ t.chip.waits (srcSb n) 0x030E ∧ t.chip.sbListens n = false ∧
      (t.chip.sbPort n).frame = none ∧ (t.chip.sbPort n).out = none := by
  obtain ⟨x, hx⟩ := sbClockWindow_bad n khz ph s.chip h
  obtain ⟨d, hd⟩ : ∃ d, d = ((s.chip.sbClockBad n khz).count 303).guardReject.raiseErr (srcSb n) 0x030E n x := ⟨_, rfl⟩
  have hr : ∀ a, d.reg a = (s.chip.sbClockBad n khz).reg a := fun a => by
    rw [hd, Chip.reg_raiseErr, Chip.reg_guardReject, Chip.reg_count]
  have hp : d.sbPort n = { s.chip.sbPort n with faulted := true, good := 0, frame := none, out := none } := by
    rw [hd, Chip.sbPort_of_sb (Chip.raiseErr_sb _ _ _ _ _ _), Chip.sbPort_of_sb (Chip.guardReject_sb _),
      Chip.sbPort_of_sb (Chip.count_sb _ _ _), Chip.sbPort_sbClockBad]
  have hw : d.waits (srcSb n) 0x030E := hd ▸ Chip.raiseErr_waits _ _ _ _ _ _
  obtain ⟨h1, h2, h3, h4⟩ := s.chip.status_sbClockBad n khz
  refine ⟨{ s with chip := d }, State.onChip_of_eq s (hx.trans hd.symm), ?_, ?_, ?_, ?_, hw,
    Chip.sbListens_faulted _ _ (by rw [hp]), by rw [hp], by rw [hp]⟩
  · rw [Chip.field_of_reg (hr _), h1]
  · rw [Chip.field_of_reg (hr _), h2]
  · rw [Chip.field_of_reg (hr _), h3]
  · rw [Chip.counted, hr, h4]

/-- A good window turns a port on, but one that is held off only as the fourth in a row. -/
theorem sbClockWindow_follows (s : State) (n : Fin 3) (khz ph : Nat) (h : sbWindowOk khz ph = true) :
    ∃ t, exec (.sbClockWindow n khz ph) s = .next t ∧
      ((s.chip.sbPort n).faulted = false ∨ 3 ≤ (s.chip.sbPort n).good →
        t.chip.field (sbB n + 4) 31 31 = 1 ∧ (t.chip.sbPort n).faulted = false) ∧
      ((s.chip.sbPort n).faulted = true → (s.chip.sbPort n).good < 3 →
        t.chip.sbListens n = false ∧ (t.chip.sbPort n).good = (s.chip.sbPort n).good + 1) := by
  have hok : ((s.chip.sbShow n khz).setField (sbB n + 4) 31 31 1).field (sbB n + 4) 31 31 = 1 :=
    Chip.field_setField_same _ _ _ _ _ (by decide) (by decide)
  cases hf : (s.chip.sbPort n).faulted
  · refine ⟨_, State.onChip_of_eq s (sbClockWindow_ok n khz ph s.chip h hf), fun _ => ⟨hok, ?_⟩,
      fun k => absurd k (by decide)⟩
    rw [Chip.sbPort_of_sb (Chip.setField_sb _ _ _ _ _), Chip.sbShow, Chip.sbPort_of_sb (Chip.setField_sb _ _ _ _ _), hf]
  · by_cases hg : 3 ≤ (s.chip.sbPort n).good
    · refine ⟨_, State.onChip_of_eq s (sbClockWindow_fourth n khz ph s.chip h hf hg), fun _ => ⟨?_, ?_⟩,
        fun _ k => absurd hg (by omega)⟩
      · rw [Chip.field_setSb, hok]
      · rw [Chip.sbPort_setSb]
    · refine ⟨_, State.onChip_of_eq s (sbClockWindow_counts n khz ph s.chip h hf (by omega)), fun k => ?_,
        fun _ _ => ⟨?_, ?_⟩⟩
      · exact (hg (k.resolve_left (by decide))).elim
      · exact Chip.sbListens_faulted _ _ (by rw [Chip.sbPort_setSb]; exact hf)
      · rw [Chip.sbPort_setSb]

end Sys2Proof.Machine
end

section
/-! SUPPORT. SidebandWrites: the driver's writes of sideband registers, and the obligation of the sideband ports. -/

namespace Sys2Proof.Machine

/-! ### Where the registers of a sideband port stand (R267) -/

theorem RegRow.go_entry (r : RegRow) {k st d : Nat} (ds : List (Nat × Nat)) (ix : List Nat) (h : d / st < k) :
    RegRow.place.go r ((k, st) :: ds) d ix = RegRow.place.go r ds (d % st) (d / st :: ix) := if_pos h
theorem RegRow.go_past (r : RegRow) {k st d : Nat} (ds : List (Nat × Nat)) (ix : List Nat) (h : k ≤ d / st) :
    RegRow.place.go r ((k, st) :: ds) d ix = none := if_neg (Nat.not_lt.2 h)
theorem RegRow.go_word (r : RegRow) {d : Nat} (ix : List Nat) (h : d < 4 * r.words) (h4 : d % 4 = 0) :
    RegRow.place.go r [] d ix = some (ix.reverse, d / 4) := if_pos ⟨h, h4⟩
theorem RegRow.go_beyond (r : RegRow) {d : Nat} (ix : List Nat) (h : 4 * r.words ≤ d) :
    RegRow.place.go r [] d ix = none := if_neg (fun k => absurd k.1 (Nat.not_lt.2 h))

/-- An entry of an array of registers stands at its index, and what is left of the address is looked up in the entry. -/
theorem RegRow.place_entry (r : RegRow) (k st i o : Nat) (ds : List (Nat × Nat)) (hd : r.dims = (k, st) :: ds) (hi : i < k)
    (ho : o < st) : r.place (r.base + (st * i + o)) = RegRow.place.go r ds o [i] := by
  have hs : 0 < st := Nat.lt_of_le_of_lt (Nat.zero_le o) ho
  have hq : (st * i + o) / st = i := by
    rw [Nat.mul_add_div hs, Nat.div_eq_of_lt ho, Nat.add_zero]
  have hm : (st * i + o) % st = o := by
    rw [Nat.mul_add_mod, Nat.mod_eq_of_lt ho]
  unfold RegRow.place
  rw [if_neg (by omega), Nat.add_sub_cancel_left, hd, RegRow.go_entry r ds [] (by rw [hq]; exact hi), hq, hm]

/-- A row that does not hold the address is passed over. -/
theorem findReg_skip (a : Nat) (r : RegRow) (rs : List RegRow) (h : r.place a = none) :
    findReg.go a (r :: rs) = findReg.go a rs := by
  conv_lhs => unfold findReg.go
  rw [h]
theorem findReg_here (a : Nat) (r : RegRow) (rs : List RegRow) (ix : List Nat) (w : Nat) (h : r.place a = some (ix, w)) :
    findReg.go a (r :: rs) = some (r, ix, w) := by
  unfold findReg.go
  rw [h]

theorem findReg_sbCfg (n : Fin 3) :
    Machine.findReg (sbB n) = some ({ base := 0x00250000, dims := [sbDim], rw := fld 31 27 + fld 22 16 + fld 7 0
                                      reset := 0x1000000A }, [n.val], 0) := by
  revert n; decide

theorem findReg_sbHit (n : Fin 3) (i : Fin 8) :
    Machine.findReg (sbB n + 0x20 + 4 * i) =
      some ({ base := 0x00250020, dims := [sbDim, (8, 4)], clr := ones 32 }, [n.val, i.val], 0) := by
  revert n i; decide

/-- The row of the tables of the sideband ports. -/
def sbTableRow : RegRow := { base := 0x00250400, dims := [sbDim, (256, 4)], rw := ones 32 }

theorem findReg_sbTable (n e : Nat) (hn : n < 3) (he : e < 256) :
    Machine.findReg (sbTable n e) = some (sbTableRow, [n, e], 0) := by
  have place : ∀ (r : RegRow) (b : Nat) (ds : List (Nat × Nat)), r.base = 0x00250000 + b → b ≤ 0x400 →
      r.dims = sbDim :: ds → r.place (sbTable n e) = RegRow.place.go r ds (0x400 + 4 * e - b) [n] := by
    intro r b ds hb hb' hd
    rw [← RegRow.place_entry r 3 0x1000 n (0x400 + 4 * e - b) ds hd hn (by omega), hb]
    congr 1
    unfold sbTable sbB
    omega
  have hblock : blockRows (sbTable n e) = rowsSbr := by
    have h : sbTable n e / 0x10000 = 0x25 := by unfold sbTable sbB; omega
    unfold blockRows
    simp only [h]
    rfl
  unfold Machine.findReg
  rw [hblock]
  unfold rowsSbr
  rw [findReg_skip, findReg_skip, findReg_skip, findReg_skip, findReg_here _ _ _ [n, e] 0]
  · rfl
  · rw [place _ 0x400 [(256, 4)] rfl (by decide) rfl, RegRow.go_entry _ _ _ (by omega), RegRow.go_word]
    · simp
    · show _ < 4 * 1
      omega
    · omega
  · rw [place _ 0x20 [(8, 4)] rfl (by decide) rfl, RegRow.go_past]
    omega
  · unfold rclRow
    rw [place _ 8 [(3, 4)] rfl (by decide) rfl, RegRow.go_past]
    omega
  · rw [place _ 4 [] rfl (by decide) rfl, RegRow.go_beyond]
    show 4 * 1 ≤ _
    omega
  · rw [place _ 0 [] rfl (by decide) rfl, RegRow.go_beyond]
    show 4 * 1 ≤ _
    omega

/-! ### A write of one word of a sideband port -/

/-- No write of the sideband block is refused for its address alone. -/
theorem Chip.writeWord_sb (c : Chip) (r : RegRow) (w n o : Nat) (v : Word) (hn : n < 3) (ho : o < 0x1000) :
    c.writeWord r w (sbB n + o) v =
      if o = 0 then c.sbrCfgWrite n v.toNat
      else if 0x20 ≤ o ∧ o < 0x40 then c.sbrHitWrite n ((o - 0x20) / 4) v
      else if 0x400 ≤ o then c.sbrTableWrite n ((o - 0x400) / 4) v
      else c.plain r w (sbB n + o) v := by
  have hb : (sbB n + o) / 0x10000 = 0x25 := by unfold sbB; omega
  have hm : (sbB n + o) % 0x10000 = 0x1000 * n + o := by unfold sbB; omega
  have hq : (0x1000 * n + o) / 0x1000 = n := by omega
  have hi : (0x1000 * n + o) % 0x1000 = o := by omega
  have hc : c.conflict (sbB n + o) = false := by
    unfold Chip.conflict
    simp only [hb]
    rfl
  unfold Chip.writeWord
  simp only [hc, hb, Bool.false_eq_true, if_false]
  unfold Chip.sbrWrite
  simp only [hm, hq, hi]

/-- A write of one word, no half of a pair, that a port takes after NEGOTIATE_COMMIT, completes with what it answers. -/
theorem State.onReg_word (s : State) (q : Port) (tag : Byte) (a : Nat) (v : Word) (r : RegRow) (ix : List Nat) (w st : Nat)
    (d : Chip) (h : s.chip.writable q tag) (ha : a % 4 = 0) (hlt : a < 2 ^ 64) (hf : s.chip.findReg a = some (r, ix, w))
    (hp : r.pair = false) (hw : (s.chip.tagged q tag).writeWord r w a v = (st, d)) (hst : st ≠ Machine.waits) :
    s.onReg q tag a [v] = .next { s with chip := d.reply q tag st } := by
  obtain ⟨ht, hc⟩ := h
  rw [State.onReg_takes s q tag a [v] ht hlt (by simp) (by simp), Chip.writeRegs_one (s.chip.tagged q tag) q tag a v r ix w ha
    hf (Chip.responds_committed _ _ hc) hp (by rw [hw]; exact hst), hw]

theorem execSbrDisable_runs (s : State) (q : Port) (tag : Byte) (n : Fin 3) (v : Word) (st : Nat) (d : Chip)
    (h : s.chip.writable q tag) (hw : (s.chip.tagged q tag).sbrCfgWrite n v.toNat = (st, d)) (hst : st ≠ Machine.waits) :
    exec (.sbrDisable q tag n v) s = .next { s with chip := d.reply q tag st } := by
  refine State.onReg_word s q tag (sbB n) v _ _ 0 st d h (by unfold sbB; omega) (by unfold sbB; omega)
    ((Chip.findReg_plain _ (by unfold sbB; omega)).trans (findReg_sbCfg n)) rfl ?_ hst
  rw [← hw]
  exact Chip.writeWord_sb _ _ 0 n 0 v n.isLt (by decide)

theorem execSbrHitClear_runs (s : State) (q : Port) (tag : Byte) (n : Fin 3) (i : Fin 8) (v : Word) (st : Nat) (d : Chip)
    (h : s.chip.writable q tag) (hw : (s.chip.tagged q tag).sbrHitWrite n i v = (st, d)) (hst : st ≠ Machine.waits) :
    exec (.sbrHitClear q tag n i v) s = .next { s with chip := d.reply q tag st } := by
  refine State.onReg_word s q tag (sbB n + 0x20 + 4 * i) v _ _ 0 st d h (by unfold sbB; omega) (by unfold sbB; omega)
    ((Chip.findReg_plain _ (by unfold sbB; omega)).trans (findReg_sbHit n i)) rfl ?_ hst
  have hi : (0x20 + 4 * i.val - 0x20) / 4 = i := by omega
  rw [← hw, Nat.add_assoc, Chip.writeWord_sb _ _ 0 n (0x20 + 4 * i) v n.isLt (by omega), if_neg (by omega),
    if_pos (by omega), hi]

theorem execSbrTableWrite_runs (s : State) (q : Port) (tag : Byte) (n : Fin 3) (e : Byte) (v : Word) (st : Nat) (d : Chip)
    (h : s.chip.writable q tag) (hw : (s.chip.tagged q tag).sbrTableWrite n e.toNat v = (st, d)) (hst : st ≠ Machine.waits) :
    exec (.sbrTableWrite q tag n e v) s = .next { s with chip := d.reply q tag st } := by
  have he : e.toNat < 256 := e.isLt
  refine State.onReg_word s q tag (sbTable n e.toNat) v _ _ 0 st d h (by unfold sbTable sbB; omega)
    (by unfold sbTable sbB; omega)
    ((Chip.findReg_plain _ (by unfold sbTable sbB; omega)).trans (findReg_sbTable n e.toNat n.isLt he)) rfl ?_ hst
  have hi : (0x400 + 4 * e.toNat - 0x400) / 4 = e.toNat := by omega
  rw [← hw, sbTable, Nat.add_assoc, Chip.writeWord_sb _ _ 0 n (0x400 + 4 * e.toNat) v n.isLt (by omega), if_neg (by omega),
    if_neg (by omega), if_pos (by omega), hi]

/-! ### SBR_CFG[n] (R266, R267) -/

/-- Bits of a word that SBR_CFG has no fields for are dropped. -/
theorem sbrCfg_mask (v : Word) : BitVec.ofNat 32 v.toNat &&& BitVec.ofNat 32 (fld 30 27 + fld 22 16 + fld 7 0 + 2 ^ 31) =
    v &&& 0xF87F00FF := by
  rw [BitVec.ofNat_toNat, BitVec.setWidth_eq]
  rfl

/-- A word that keeps every field of an enabled port but EN has EN = 0. -/
theorem sbrCfg_disables (v old : Word) (h : (v &&& 0xF87F00FF).toNat = old.toNat - 2 ^ 31) : bitOf v.toNat 31 = false := by
  have hlt : (v &&& 0xF87F00FF).toNat < 2 ^ 31 := by
    have := old.isLt
    omega
  have hb : (v &&& 0xF87F00FF).toNat.testBit 31 = false := Nat.testBit_lt_two_pow hlt
  rw [BitVec.testBit_toNat, BitVec.getLsbD_and] at hb
  rw [bitOf, BitVec.testBit_toNat]
  simpa using hb

/-- The device with a word in SBR_CFG[n] that turns the port off, which aborts an open frame. -/
def Chip.sbOff (c : Chip) (n : Nat) (w : Word) : Chip :=
  if (c.sbPort n).frame.isSome then (c.setReg (sbB n) w).sbAbort n else c.setReg (sbB n) w

/-- EN = 0 and every other field kept turns the port off. -/
theorem Chip.sbrCfgWrite_disables (c : Chip) (n : Nat) (v : Word) (ho : c.sbOwned n = false)
    (hen : bitOf (c.reg (sbB n)).toNat 31 = true) (hv : 2 ≤ v.toNat % 256)
    (hw : (v &&& 0xF87F00FF).toNat = (c.reg (sbB n)).toNat - 2 ^ 31) :
    c.sbrCfgWrite n v.toNat = (0, c.sbOff n (v &&& 0xF87F00FF)) := by
  have hb : bitOf v.toNat 31 = false := sbrCfg_disables v _ hw
  have hlt : ¬ v.toNat % 256 < 2 := by omega
  unfold Chip.sbrCfgWrite
  simp only [sbrCfg_mask, ho, hen, hb, hw, hlt, Bool.false_eq_true, beq_self_eq_true, Bool.not_false, Bool.and_self,
    Bool.not_true, Bool.and_false, Bool.false_and, Bool.true_and, if_false]
  rfl

theorem Chip.sbAbort_ports (c : Chip) (n : Nat) : (c.sbAbort n).ports = c.ports := by
  unfold Chip.sbAbort
  rw [Chip.raise_ports, Chip.count_ports, Chip.cntUp_ports]
  rfl

theorem Chip.sbOff_spec (c : Chip) (n : Nat) (w : Word) :
    (c.sbOff n w).reg (sbB n) = w ∧ ((c.sbOff n w).sbPort n).frame = none ∧ (c.sbOff n w).ports = c.ports ∧
    ((c.sbPort n).frame ≠ none → c.counted (c.sbOff n w) (sbB n + 0x10) ∧ (c.sbOff n w).waits (srcSb n) 0x8060) := by
  have hne : sbB n ≠ sbB n + 0x10 := by omega
  have hx : (c.setReg (sbB n) w).reg (sbB n) = w := Chip.reg_setReg_same _ _ _
  obtain ⟨h1, h2, h3, _, h5⟩ := (c.setReg (sbB n) w).sbAbort_spec n
  unfold Chip.sbOff
  cases hF : (c.sbPort n).frame with
  | none => exact ⟨hx, hF, rfl, fun h => absurd rfl h⟩
  | some f =>
    refine ⟨(h5 _ hne).trans hx, h3, Chip.sbAbort_ports _ _, fun _ => ⟨?_, h2⟩⟩
    rwa [Chip.counted, Chip.reg_setReg_other _ _ hne.symm] at h1

theorem Chip.sbListens_off (c : Chip) (n : Nat) (h : bitOf (c.reg (sbB n)).toNat 31 = false) : c.sbListens n = false := by
  unfold Chip.sbListens
  rw [h, Bool.false_and]

theorem sbrCfg_mask_off (v : Word) (h : bitOf v.toNat 31 = false) : bitOf (v &&& 0xF87F00FF).toNat 31 = false := by
  rw [bitOf, BitVec.testBit_toNat] at h ⊢
  rw [BitVec.getLsbD_and, h, Bool.false_and]

/-! ### Completions of register writes -/

/-- What waits in Cirque waits on as a request completes. -/
theorem Chip.reply_keeps (c : Chip) (q : Nat) (tag : Byte) (st word state : Nat) (data : List Word) {src typ : Nat}
    (h : c.waits src typ) : (c.reply q tag st word state data).waits src typ := by
  have hq : ∀ p f, (c.enqueue p f).waits src typ := fun p f => waits_congr (Chip.enqueue_cirque _ _ _) h
  unfold Chip.reply Chip.replyAt
  refine waits_congr (Chip.updPort_cirque _ _ _) ?_
  unfold Chip.answerAt
  simp only
  split <;> split
  · exact Chip.count_keeps _ _ _ (waits_congr (Chip.cntUp_cirque _ _ _) (hq _ _))
  · exact Chip.count_keeps _ _ _ (waits_congr (Chip.cntUp_cirque _ _ _) (hq _ _))
  · exact hq _ _
  · exact hq _ _

/-- A register write that leaves the ports alone completes on the port of its request. -/
theorem Chip.write_completed (c d : Chip) {q : Nat} {tag : Byte} (st : Nat) (h : c.takes q tag)
    (hd : d.ports = (c.tagged q tag).ports) : (d.reply q tag st).completed q tag st :=
  Chip.reply_completed _ _ _ _ _ _ _ (by rw [Chip.port_of_ports hd]; exact Chip.redirect_of_takes _ h)

theorem Chip.sbPort_reply (c : Chip) (q : Nat) (tag : Byte) (st n : Nat) : (c.reply q tag st).sbPort n = c.sbPort n :=
  Chip.sbPort_of_sb (Chip.reply_sb _ _ _ _ _ _ _) n
theorem Chip.reg_reply_done (c : Chip) (q : Nat) (tag : Byte) (a : Nat) : (c.reply q tag 0).reg a = c.reg a :=
  Chip.reg_reply_ok _ _ _ _ _ _ _ _ (by decide)

/-! ### The driver's writes (R261 to R263, R266) -/

/-- A port turned off listens no more and has no frame open; one that was open is aborted. -/
theorem sbrDisable_off (s : State) (q : Port) (tag : Byte) (n : Fin 3) (v : Word) (h : s.chip.writable q tag)
    (ho : s.chip.sbOwned n = false) (hen : bitOf (s.chip.reg (sbB n)).toNat 31 = true) (hv : 2 ≤ v.toNat % 256)
    (hw : (v &&& 0xF87F00FF).toNat = (s.chip.reg (sbB n)).toNat - 2 ^ 31) :
    ∃ t, exec (.sbrDisable q tag n v) s = .next t ∧ t.chip.completed q tag 0 ∧ t.chip.reg (sbB n) = v &&& 0xF87F00FF ∧
      t.chip.sbListens n = false ∧ (t.chip.sbPort n).frame = none ∧
      ((s.chip.sbPort n).frame ≠ none → s.chip.counted t.chip (sbB n + 0x10) ∧ t.chip.waits (srcSb n) 0x8060) := by
  obtain ⟨hreg, hframe, hports, hab⟩ := (s.chip.tagged q tag).sbOff_spec n (v &&& 0xF87F00FF)
  have hr := (Chip.reg_reply_done ((s.chip.tagged q tag).sbOff n (v &&& 0xF87F00FF)) q tag (sbB n)).trans hreg
  refine ⟨_, execSbrDisable_runs s q tag n v 0 _ h (Chip.sbrCfgWrite_disables _ n v ho hen hv hw) (by decide),
    Chip.write_completed _ _ 0 h.1 hports, hr, Chip.sbListens_off _ _ ?_, ?_, fun hF => ?_⟩
  · rw [hr]
    exact sbrCfg_mask_off v (sbrCfg_disables v _ hw)
  · rw [Chip.sbPort_reply, hframe]
  · obtain ⟨hcount, hwait⟩ := hab hF
    exact ⟨(Chip.reg_reply_done _ _ _ _).trans hcount, Chip.reply_keeps _ _ _ _ _ _ _ hwait⟩

/-! ### SBR_HIT[n][i] (R262) -/

theorem sbHit_of_bit (n i b : Nat) (hb : b < 32) : sbHit n (32 * i + b) = sbB n + 0x20 + 4 * i := by
  unfold sbHit
  omega

theorem Chip.sbClear_sb (c : Chip) (n e : Nat) : (c.sbClear n e).sb = c.sb ∧ (c.sbClear n e).tm = c.tm ∧
    (c.sbClear n e).ports = c.ports := by
  unfold Chip.sbClear
  split <;> exact ⟨rfl, rfl, rfl⟩

/-- A read in this core cycle stays one as a latch clears. -/
theorem Chip.readNow_sbClear (c : Chip) (n e m x : Nat) :
    (c.sbClear n e).thisCycle ((c.sbClear n e).sbPort m).readAt x = c.thisCycle (c.sbPort m).readAt x := by
  obtain ⟨hs, ht, _⟩ := c.sbClear_sb n e
  unfold Chip.thisCycle
  rw [Chip.sbPort_of_sb hs, ht]

theorem Chip.reg_sbClear_other (c : Chip) (n e : Nat) {a : Nat} (h : a ≠ sbHit n e) : (c.sbClear n e).reg a = c.reg a := by
  unfold Chip.sbClear
  split
  · rfl
  · exact Chip.reg_setField_other _ _ _ _ h

/-- A latch clears unless a read set it in the same core cycle; the others of its word stay. -/
theorem Chip.bitOf_sbClear (c : Chip) (n i b j : Nat) (hb : b < 32) :
    bitOf ((c.sbClear n (32 * i + b)).reg (sbB n + 0x20 + 4 * i)).toNat j =
      (bitOf (c.reg (sbB n + 0x20 + 4 * i)).toNat j &&
        (!decide (j = b) || c.thisCycle (c.sbPort n).readAt (32 * i + j))) := by
  have hm : (32 * i + b) % 32 = b := by omega
  unfold Chip.sbClear
  rw [hm, sbHit_of_bit n i b hb]
  by_cases hj : j = b
  · subst hj
    cases hc : c.thisCycle (c.sbPort n).readAt (32 * i + j)
    · rw [if_neg (by decide), Chip.bitOf_reg_setBit _ _ _ _ _ hb, if_pos rfl]
      simp
    · simp
  · have hk : (!decide (j = b) || c.thisCycle (c.sbPort n).readAt (32 * i + j)) = true := by simp [hj]
    rw [hk, Bool.and_true]
    split
    · rfl
    · rw [Chip.bitOf_reg_setBit _ _ _ _ _ hb, if_neg hj]

/-- Several latches of one word clear. -/
theorem Chip.foldl_sbClear (n i : Nat) (bs : List Nat) (hbs : ∀ b ∈ bs, b < 32) : ∀ c : Chip,
    let d := bs.foldl (fun c b => c.sbClear n (32 * i + b)) c
    d.ports = c.ports ∧ (∀ a, a ≠ sbB n + 0x20 + 4 * i → d.reg a = c.reg a) ∧
    ∀ j, bitOf (d.reg (sbB n + 0x20 + 4 * i)).toNat j = (bitOf (c.reg (sbB n + 0x20 + 4 * i)).toNat j &&
      (!decide (j ∈ bs) || c.thisCycle (c.sbPort n).readAt (32 * i + j))) := by
  induction bs with
  | nil => exact fun c => ⟨rfl, fun _ _ => rfl, fun j => by simp⟩
  | cons b bs ih =>
    intro c
    have hb : b < 32 := hbs b List.mem_cons_self
    obtain ⟨hp, ho, hj⟩ := ih (fun x hx => hbs x (List.mem_cons_of_mem _ hx)) (c.sbClear n (32 * i + b))
    refine ⟨hp.trans (c.sbClear_sb n _).2.2, fun a ha => (ho a ha).trans ?_, fun j => (hj j).trans ?_⟩
    · exact Chip.reg_sbClear_other _ _ _ (by rw [sbHit_of_bit n i b hb]; exact ha)
    · have hm : decide (j ∈ b :: bs) = (decide (j = b) || decide (j ∈ bs)) := by simp
      rw [Chip.bitOf_sbClear _ _ _ _ _ hb, Chip.readNow_sbClear, hm, Bool.not_or, Bool.or_and_distrib_right, Bool.and_assoc]

/-- Writing 1s to a word of latches clears them, but for those that a read sets in this core cycle. -/
theorem sbrHitClear_clears (s : State) (q : Port) (tag : Byte) (n : Fin 3) (i : Fin 8) (v : Word)
    (h : s.chip.writable q tag) (ho : s.chip.sbOwned n = false) :
    ∃ t, exec (.sbrHitClear q tag n i v) s = .next t ∧ t.chip.completed q tag 0 ∧
      (∀ b, b < 32 → bitOf (t.chip.reg (sbB n + 0x20 + 4 * i)).toNat b =
        (bitOf (s.chip.reg (sbB n + 0x20 + 4 * i)).toNat b &&
          (!bitOf v.toNat b || s.chip.thisCycle (s.chip.sbPort n).readAt (32 * i + b)))) ∧
      ∀ a, a ≠ sbB n + 0x20 + 4 * i → t.chip.reg a = s.chip.reg a := by
  let d := (bitsIn v.toNat 32).foldl (fun c b => c.sbClear n (32 * i + b)) (s.chip.tagged q tag)
  have hw : (s.chip.tagged q tag).sbrHitWrite n i v = (0, d) := by
    unfold Chip.sbrHitWrite
    exact if_neg (fun k => absurd (ho.symm.trans k) (by decide))
  have hlt : ∀ b ∈ bitsIn v.toNat 32, b < 32 := fun b hb => List.mem_range.1 (List.mem_filter.1 hb).1
  obtain ⟨hp, hoth, hbit⟩ := Chip.foldl_sbClear n i _ hlt (s.chip.tagged q tag)
  refine ⟨_, execSbrHitClear_runs s q tag n i v 0 d h hw (by decide), Chip.write_completed _ _ 0 h.1 hp, fun b hb => ?_,
    fun a ha => (Chip.reg_reply_done _ _ _ _).trans (hoth a ha)⟩
  have hm : decide (b ∈ bitsIn v.toNat 32) = bitOf v.toNat b := by
    unfold bitsIn
    simp [hb]
  rw [Chip.reg_reply_done, hbit, hm]
  rfl

/-! ### SBR_TABLE[n][e] (R261) -/

/-- A table word takes the value, unless the DUT writes its entry in the same core cycle. -/
theorem Chip.sbrTableWrite_spec (c : Chip) (n e : Nat) (v : Word) (ho : c.sbOwned n = false) :
    ∃ d, c.sbrTableWrite n e v = (0, d) ∧ d.ports = c.ports ∧
      d.reg (sbTable n e) = (if c.thisCycle (c.sbPort n).wroteAt e then c.reg (sbTable n e) else v) ∧
      ∀ a, a ≠ sbTable n e → d.reg a = c.reg a := by
  unfold Chip.sbrTableWrite
  rw [if_neg (by rw [ho]; decide)]
  split
  · exact ⟨c, rfl, rfl, rfl, fun _ _ => rfl⟩
  · exact ⟨_, rfl, rfl, Chip.reg_setReg_same _ _ _, fun a ha => Chip.reg_setReg_other _ _ ha⟩

theorem sbrTableWrite_writes (s : State) (q : Port) (tag : Byte) (n : Fin 3) (e : Byte) (v : Word)
    (h : s.chip.writable q tag) (ho : s.chip.sbOwned n = false) :
    ∃ t, exec (.sbrTableWrite q tag n e v) s = .next t ∧ t.chip.completed q tag 0 ∧
      t.chip.reg (sbTable n e.toNat) =
        (if s.chip.thisCycle (s.chip.sbPort n).wroteAt e.toNat then s.chip.reg (sbTable n e.toNat) else v) ∧
      ∀ a, a ≠ sbTable n e.toNat → t.chip.reg a = s.chip.reg a := by
  obtain ⟨d, hw, hp, hs, hoth⟩ := (s.chip.tagged q tag).sbrTableWrite_spec n e.toNat v ho
  exact ⟨_, execSbrTableWrite_runs s q tag n e v 0 d h hw (by decide), Chip.write_completed _ _ 0 h.1 hp,
    (Chip.reg_reply_done _ _ _ _).trans hs, fun a ha => (Chip.reg_reply_done _ _ _ _).trans (hoth a ha)⟩

/-! ### A port that a task owns (R263) -/

/-- A write that conflicts changes no register of a sideband port. -/
theorem sbr_conflict (s : State) (q : Port) (tag : Byte) (n : Fin 3) (o : Nat) (h : s.chip.writable q tag) :
    ((s.chip.tagged q tag).reply q tag 1).completed q tag 1 ∧
      ((s.chip.tagged q tag).reply q tag 1).reg (sbB n + o) = s.chip.reg (sbB n + o) :=
  ⟨Chip.write_completed _ _ 1 h.1 rfl, Chip.reg_reply _ _ _ _ _ _ _ (by unfold sbB; omega)⟩

theorem sbr_owned (s : State) (q : Port) (tag : Byte) (n : Fin 3) (i : Fin 8) (e : Byte) (v : Word)
    (h : s.chip.writable q tag) (ho : s.chip.sbOwned n = true) :
    (∃ t, exec (.sbrDisable q tag n v) s = .next t ∧ t.chip.completed q tag 1 ∧
      t.chip.reg (sbB n) = s.chip.reg (sbB n)) ∧
    (∃ t, exec (.sbrHitClear q tag n i v) s = .next t ∧ t.chip.completed q tag 1 ∧
      t.chip.reg (sbB n + 0x20 + 4 * i) = s.chip.reg (sbB n + 0x20 + 4 * i)) ∧
    ∃ t, exec (.sbrTableWrite q tag n e v) s = .next t ∧ t.chip.completed q tag 1 ∧
      t.chip.reg (sbTable n e.toNat) = s.chip.reg (sbTable n e.toNat) := by
  let c := s.chip.tagged q tag
  have hcfg : c.sbrCfgWrite n v.toNat = (1, c) := if_pos ho
  have hhit : c.sbrHitWrite n i v = (1, c) := if_pos ho
  have htab : c.sbrTableWrite n e.toNat v = (1, c) := if_pos ho
  refine ⟨⟨_, execSbrDisable_runs s q tag n v 1 c h hcfg (by decide), sbr_conflict s q tag n 0 h⟩,
    ⟨_, execSbrHitClear_runs s q tag n i v 1 c h hhit (by decide), ?_⟩,
    ⟨_, execSbrTableWrite_runs s q tag n e v 1 c h htab (by decide), ?_⟩⟩
  · rw [Nat.add_assoc]
    exact sbr_conflict s q tag n _ h
  · rw [sbTable, Nat.add_assoc]
    exact sbr_conflict s q tag n _ h

/-! ### The obligation -/

/-- Settles O55: a frame is followed bit by bit as its edges are sampled, and every other row through what it does to
the port. -/
theorem sideband : Obligations.Sideband := by
  unfold Obligations.Sideband
  refine ⟨fun s n bits hL hF => ⟨sbRead_whole s n bits hL hF, sbRead_part s n bits hL hF⟩,
    fun s n bits head data hL hF hl => sbWrite_whole s n bits head data hL hF hl,
    fun s n f hF => ⟨sbAbort_open s n f hF, sbFrameTimeout_open s n f hF⟩, ?_, ?_, ?_, sbrDisable_off, ?_, sbr_owned⟩
  · intro s n edges data
    refine ⟨fun h => ?_, fun h => ?_⟩
    · obtain ⟨hr, hw⟩ := sbEdges_unheard s n edges data h
      exact ⟨⟨s, hr, rfl⟩, ⟨s, hw, rfl⟩⟩
    · obtain ⟨ha, ht⟩ := sbEnd_closed s n h
      exact ⟨⟨s, ha, rfl⟩, ⟨s, ht, rfl⟩⟩
  · intro s n khz ph h
    refine sbClockWindow_faults s n khz ph ?_
    simp only [sbWindowOk, Bool.and_eq_false_iff, decide_eq_false_iff_not]
    omega
  · intro s n khz ph h1 h2 h3
    exact sbClockWindow_follows s n khz ph (by simp only [sbWindowOk, h1, h2, h3, decide_true, Bool.and_self])
  · intro s q tag n i e v h ho
    exact ⟨sbrHitClear_clears s q tag n i v h ho, sbrTableWrite_writes s q tag n e v h ho⟩

end Sys2Proof.Machine
end

section
/-! SUPPORT. Event order: the event that Cirque accepts after a link write need not be the one that stood in front
before it. -/

namespace Sys2Proof.Machine

/-! ### A link write whose acceptance raises an event (R22, R169, R390, R392) -/

/-- A SETF's write of the flags of context 0, of generation 1 (R169). -/
def linkEvent : Event := { src := srcTask 0, typ := 0x8012, acts := [.flags 0 1 2 5 2] }
/-- An event of unit 0 of port 0. -/
def portEvent : Event := { src := 0, typ := 0x8003 }

/-- Port 14 was served last, port 15 has no event, port 0 has one, and a link write waits. An event counter counts
accepted events (source 288), and its threshold is the next of them. -/
def linkWriteAtThreshold : State :=
  { chip :=
    { regs := [(0x00310004, 0x00010001)]
      counters := [(0, { en := true, src := 288, thresh := 1 })]
      sched := { ctxs := [(0, { gen := 1, st := 3 })] }
      cirque := { linkWrite := [linkEvent], queues := [(0, [portEvent])], last := 14 } } }

/-- Before the link write is accepted, port 0 has the turn. -/
theorem linkWriteAtThreshold_front :
    { linkWriteAtThreshold.chip with cirque := { linkWriteAtThreshold.chip.cirque with linkWrite := [] } }.front
      0 portEvent [] :=
  ⟨rfl, rfl, 1, by decide, by decide, by decide⟩

/-- Accepting the link write raises CNT_THRESH on port 15, whose turn comes before port 0's: the event accepted after the
link write is that of port 15. -/
theorem eventAccept_linkWriteAtThreshold_last :
    (eventAccept linkWriteAtThreshold.dram linkWriteAtThreshold.chip).cirque.last = 15 := by decide

/-! ### The obligation -/

/-- Refutes O38: the claim that the event in front before a link write is the one accepted after it. The acceptance of
the link write is itself counted (R390, source 288); where that passes a counter's threshold, CNT_THRESH enters port 15
before the round robin chooses, and takes the turn. -/
theorem not_eventOrder : ¬ Obligations.EventOrder := by
  unfold Obligations.EventOrder
  rintro ⟨-, -, linkFirst, -⟩
  obtain ⟨t, ht, -, -, -, hlast, -⟩ := linkFirst linkWriteAtThreshold 0 linkEvent portEvent [] 0 1 5 2 rfl
    linkWriteAtThreshold_front rfl rfl rfl (by decide) (by decide) (by decide) (by decide) (by decide) (by decide)
    rfl rfl (by decide) (by decide) (by decide) (by decide)
  have hrun : exec .eventAccept linkWriteAtThreshold =
    .next { linkWriteAtThreshold with chip := eventAccept linkWriteAtThreshold.dram linkWriteAtThreshold.chip } := rfl
  have h15 : t.chip.cirque.last = 15 := by
    rw [← Host.Outcome.next.inj (hrun.symm.trans ht)]
    exact eventAccept_linkWriteAtThreshold_last
  exact absurd (hlast.symm.trans h15) (by decide)

end Sys2Proof.Machine
end

section
/-! SUPPORT. Burst state: what time, the settings of an image and a raised state leave of contexts and groups. -/

namespace Sys2Proof.Machine

/-! ### Reading contexts and groups (R44, R161) -/

theorem Chip.ctx_of_ctxs {c d : Chip} (h : d.sched.ctxs = c.sched.ctxs) (n : Nat) : d.ctx n = c.ctx n := by
  unfold Chip.ctx; rw [h]
theorem Chip.group_of_groups {c d : Chip} (h : d.groups = c.groups) (g : Nat) : d.group g = c.group g := by
  unfold Chip.group; rw [h]
theorem Chip.env_of_ctx {c d : Chip} {n : Nat} (h : d.ctx n = c.ctx n) (hi : d.images = c.images) :
    d.env n = c.env n := by
  unfold Chip.env Chip.image; rw [h, hi]
theorem Chip.taskGroups_of_env {c d : Chip} {n : Nat} (h : d.env n = c.env n) : d.taskGroups n = c.taskGroups n := by
  unfold Chip.taskGroups; rw [h]

@[simp] theorem Chip.ctx_setCtx_same (c : Chip) (n : Nat) (x : Ctx) : (c.setCtx n x).ctx n = x :=
  tabGet_tabSet_same _ _ _ _
theorem Chip.group_setGroup (c : Chip) (g h : Nat) (x : Group) :
    (c.setGroup g x).group h = if h = g then x else c.group h := tabGet_tabSet _ _ _ _ _

/-- Every group of a list is changed, and nothing else. -/
theorem Chip.foldl_setGroup_shape (f : Group → Group) (gs : List Nat) (c : Chip) :
    ∃ t, gs.foldl (fun c g => c.setGroup g (f (c.group g))) c = { c with groups := t } := by
  induction gs generalizing c with
  | nil => exact ⟨_, rfl⟩
  | cons g gs ih =>
    obtain ⟨t, h⟩ := ih (c.setGroup g (f (c.group g)))
    exact ⟨t, h⟩

/-- What a change gives to every group it is made to, the groups of a list have after it. -/
theorem Chip.group_foldl_setGroup {P : Group → Prop} (f : Group → Group) (hf : ∀ x, P (f x)) (gs : List Nat) (c : Chip)
    (g : Nat) (h : g ∈ gs ∨ P (c.group g)) :
    P ((gs.foldl (fun c g => c.setGroup g (f (c.group g))) c).group g) := by
  induction gs generalizing c with
  | nil => simpa using h
  | cons k gs ih =>
    refine ih _ ?_
    rw [Chip.group_setGroup]
    by_cases hk : g = k
    · subst hk
      exact .inr (by rw [if_pos rfl]; exact hf _)
    · rw [if_neg hk]
      exact h.imp_left fun h => (List.mem_cons.1 h).resolve_left hk

/-! ### Time (R183) -/

theorem Chip.ctxs_coreBusy (c : Chip) (a b g : Nat) : (c.coreBusy a b g).sched.ctxs = c.sched.ctxs := by
  unfold Chip.coreBusy
  simp only
  split <;> split <;> rfl

theorem Chip.ctxs_foldl_coreBusy (gs : List Nat) (a b : Nat) (c : Chip) :
    (gs.foldl (fun c g => c.coreBusy a b g) c).sched.ctxs = c.sched.ctxs := by
  induction gs generalizing c with
  | nil => rfl
  | cons g gs ih => exact (ih _).trans (Chip.ctxs_coreBusy c a b g)

theorem Chip.ctxs_advance (c : Chip) (n : Nat) : (c.advance n).sched.ctxs = c.sched.ctxs := by
  unfold Chip.advance
  simp only
  split
  · rfl
  · split
    · rfl
    · rw [Chip.count_sched, Chip.count_sched]
      exact Chip.ctxs_foldl_coreBusy _ _ _ _

theorem Chip.ctx_advanceTo (c : Chip) (t n : Nat) : (c.advanceTo t).ctx n = c.ctx n :=
  Chip.ctx_of_ctxs (c.ctxs_advance _) n

/-- Time that has not passed is reached. -/
theorem Chip.tm_advanceTo (c : Chip) (t : Nat) (hc : c.clocked = true) (h : c.tm ≤ t) : (c.advanceTo t).tm = t := by
  obtain ⟨l, r, s, k, q, e⟩ := c.advance_shape (t - c.tm) hc
  unfold Chip.advanceTo
  rw [e]
  exact Nat.add_sub_of_le h

theorem Chip.env_advanceTo (c : Chip) (t n : Nat) (hc : c.clocked = true) : (c.advanceTo t).env n = c.env n := by
  obtain ⟨l, r, s, k, q, e⟩ := c.advance_shape (t - c.tm) hc
  exact Chip.env_of_ctx (Chip.ctx_advanceTo c t n) (by unfold Chip.advanceTo; rw [e])

/-! ### States that are raised (R29, R165) -/

theorem Chip.ctx_raise (c : Chip) (src typ : Nat) (acts : List Act) (err : Option ErrInfo) (info n : Nat) :
    (c.raise src typ acts err info).ctx n = c.ctx n := Chip.ctx_of_ctxs (by simp) n

theorem Chip.waits_raiseState (c : Chip) (n st : Nat) : (c.raiseState n st).waits (srcTask n) (0x8000 + st) :=
  Chip.raise_waits _ _ _ _ _ _

/-- A context that is to end waits for the acceptance of its terminal state, with its status due. -/
theorem Chip.raiseEnd_spec (c : Chip) (n st status : Nat) :
    (c.raiseEnd n st status).waits (srcTask n) (0x8000 + st) ∧ ((c.raiseEnd n st status).ctx n).due = status := by
  refine ⟨Chip.waits_raiseState _ n st, ?_⟩
  unfold Chip.raiseEnd Chip.raiseState
  rw [Chip.ctx_raise]
  simp [Chip.updCtx]

/-! ### Settings (R44, R192) -/

/-- d is c but for registers, ledgers and groups. -/
def Chip.settingsOnly (c d : Chip) : Prop := ∃ r l g, d = { c with regs := r, led := l, groups := g }

theorem Chip.settingsOnly.refl (c : Chip) : c.settingsOnly c := ⟨c.regs, c.led, c.groups, rfl⟩

theorem Chip.settingsOnly.trans {c d e : Chip} (h : c.settingsOnly d) (h' : d.settingsOnly e) : c.settingsOnly e := by
  obtain ⟨r, l, g, rfl⟩ := h
  obtain ⟨r', l', g', rfl⟩ := h'
  exact ⟨r', l', g', rfl⟩

theorem Chip.settingsOnly_foldl {α : Type} {f : Chip → α → Chip}
    (hf : ∀ (c : Chip) (x : α), c.settingsOnly (f c x)) (xs : List α) (c : Chip) : c.settingsOnly (xs.foldl f c) := by
  induction xs generalizing c with
  | nil => exact Chip.settingsOnly.refl c
  | cons x xs ih => exact (hf c x).trans (ih _)

theorem Chip.settingsOnly_foldl_snd {α β : Type} {f : β × Chip → α → β × Chip} 
    (hf : ∀ (a : β × Chip) (x : α), a.2.settingsOnly (f a x).2)
    (xs : List α) (a : β × Chip) : a.2.settingsOnly (xs.foldl f a).2 := by
  induction xs generalizing a with
  | nil => exact Chip.settingsOnly.refl a.2
  | cons x xs ih => exact (hf a x).trans (ih _)

theorem Chip.settingsOnly_setRegs (c : Chip) (a : Nat) (ws : List Word) : c.settingsOnly (c.setRegs a ws) := by
  obtain ⟨r, h⟩ := Chip.setRegs_shape ws c a
  exact ⟨r, c.led, c.groups, h⟩

theorem Chip.settingsOnly_chkLost (c : Chip) (p : Nat) : c.settingsOnly (c.chkLost p) := by
  unfold Chip.chkLost
  simp only
  split
  · exact ⟨_, _, _, rfl⟩
  · exact Chip.settingsOnly.refl c

theorem Chip.settingsOnly_chkReset (c : Chip) (g : Nat) : c.settingsOnly (c.chkReset g) := by
  unfold Chip.chkReset
  split
  · exact Chip.settingsOnly.refl c
  · exact (Chip.settingsOnly_foldl (fun c j => c.settingsOnly_chkLost (8 * g + j)) _ c).trans
      ⟨_, _, _, rfl⟩

theorem Chip.settingsOnly_settlePin (c : Chip) (p : Nat) : c.settingsOnly (c.settlePin p) := ⟨_, _, _, rfl⟩

theorem Chip.settingsOnly_settleGroup (c : Chip) (g : Nat) : c.settingsOnly (c.settleGroup g) := by
  unfold Chip.settleGroup
  refine (Chip.settingsOnly_foldl (fun c j => Chip.settingsOnly_settlePin c (8 * g + j)) (List.range 8) c).trans ?_
  unfold Chip.settleFck
  simp only
  split
  · exact Chip.settingsOnly.refl _
  · exact ⟨_, _, _, rfl⟩

theorem Chip.settingsOnly_crcInit (c : Chip) (u : Nat) : c.settingsOnly (c.crcInit u) := ⟨_, _, _, rfl⟩

theorem Chip.settingsOnly_sbClearHits (c : Chip) (mask : Nat) : c.settingsOnly (c.sbClearHits mask) := by
  refine Chip.settingsOnly_foldl (fun c n => Chip.settingsOnly_foldl (fun c e => ?_) _ c) _ c
  unfold Chip.sbClear
  split
  · exact Chip.settingsOnly.refl c
  · exact ⟨_, _, _, rfl⟩

/-- The settings of an image, as a group takes them. -/
theorem Chip.settingsOnly_configGroup (c : Chip) (d : Memory) (n base : Nat) (es : List DirEntry) (g : Nat) :
    c.settingsOnly (c.configGroup d n base es g) := by
  unfold Chip.configGroup
  refine Chip.settingsOnly.trans ?_
    (Chip.settingsOnly_foldl (fun c l => Chip.settingsOnly_foldl (fun c w => ⟨_, _, _, rfl⟩) _ c) _ _)
  refine Chip.settingsOnly.trans ?_ ⟨_, _, _, rfl⟩
  refine Chip.settingsOnly.trans ?_ (Chip.settingsOnly_chkReset _ g)
  refine Chip.settingsOnly.trans ?_ (Chip.settingsOnly_foldl_snd (fun a j => ?_) _ _)
  · refine Chip.settingsOnly.trans ?_ (Chip.settingsOnly_settleGroup _ g)
    refine Chip.settingsOnly.trans ?_ (Chip.settingsOnly_foldl (fun c e => ⟨_, _, _, rfl⟩) _ _)
    refine Chip.settingsOnly.trans ?_ (Chip.settingsOnly_foldl (fun c t => Chip.settingsOnly_setRegs c _ _) _ _)
    exact Chip.settingsOnly_foldl (fun c a => ⟨_, _, _, rfl⟩) _ c
  · simp only
    split
    · exact ⟨_, _, _, rfl⟩
    · exact Chip.settingsOnly.refl a.2

end Sys2Proof.Machine
end

section
/-! SUPPORT. Burst rows: the end of preload, the burst start, envelope windows and draining. -/

namespace Sys2Proof.Machine

/-! ### The end of preload (R13) -/

theorem Chip.fillAll_of_none (c : Chip) (g : Nat) (h : (c.group g).arrived = []) : c.fillAll g = c := by
  unfold Chip.fillAll; rw [h]; rfl

theorem Chip.foldl_fillAll_of_none (gs : List Nat) (c : Chip) (h : ∀ g ∈ gs, (c.group g).arrived = []) :
    gs.foldl (fun c g => c.fillAll g) c = c := by
  induction gs with
  | nil => rfl
  | cons g gs ih =>
    rw [List.foldl_cons, Chip.fillAll_of_none c g (h g List.mem_cons_self)]
    exact ih fun k hk => h k (List.mem_cons_of_mem _ hk)

/-- The tables run on no further where what is awaited holds, or while they are stopped. -/
theorem awaitMem_idle (fails : Req → Bool) (each : Chip → Chip) (done : Chip → Bool) (n : Nat) (d : Memory) (c : Chip)
    (h : done c = true ∨ c.tableRuns = false) : awaitMem fails each done n d c = (d, c) := by
  cases n with
  | zero => rfl
  | succ n =>
    have hs : (done c || !c.tableRuns) = true := by rcases h with h | h <;> simp [h]
    unfold awaitMem
    rw [if_pos hs]

/-- Preload ends where every group holds what R13 lists. -/
theorem preloadEnd_loaded (n : Nat) (d : Memory) (c : Chip) (hp : c.preloads n = true)
    (h : ∀ g ∈ c.taskGroups n, (c.group g).loaded = true ∧ (c.group g).arrived = []) :
    preloadEnd n d c = (d, c.finishPreload d n) := by
  have hheld : (c.taskGroups n).all (fun g => (c.group g).loaded) = true := List.all_eq_true.2 fun g hg => (h g hg).1
  unfold preloadEnd
  simp only [hp, Bool.not_true, Bool.false_eq_true, if_false]
  rw [Chip.foldl_fillAll_of_none _ c fun g hg => (h g hg).2, awaitMem_idle _ _ _ _ _ _ (.inl hheld), if_pos hheld]

/-- While the tables are stopped, preload does not end for what has not come. -/
theorem preloadEnd_stopped (n : Nat) (d : Memory) (c : Chip) (g : Nat) (hg : g ∈ c.taskGroups n)
    (hl : (c.group g).loaded = false) (ha : ∀ g ∈ c.taskGroups n, (c.group g).arrived = [])
    (hr : c.tableRuns = false) : preloadEnd n d c = (d, c) := by
  have hheld : ¬ (c.taskGroups n).all (fun g => (c.group g).loaded) = true := fun h => by
    rw [List.all_eq_true.1 h g hg] at hl; cases hl
  unfold preloadEnd
  split
  · rfl
  · simp only
    rw [Chip.foldl_fillAll_of_none _ c ha, awaitMem_idle _ _ _ _ _ _ (.inr hr), if_neg hheld]

/-! ### The start count (R13) -/

theorem le_ceilDiv_mul (a b : Nat) (hb : 0 < b) : a ≤ (a + b - 1) / b * b := by
  rw [← Nat.ceilDiv_eq_add_pred_div, Nat.mul_comm]
  exact le_smul_ceilDiv hb

/-- The start count is 4,096 TM or more after the end of preload. -/
theorem le_startCount (m p : Nat) (hp : 1 ≤ p) : m + 4096 ≤ startCount m p := by
  have h1 := le_ceilDiv_mul ((m + 4096) * 2 ^ 40) (64 * p) (by omega)
  unfold startCount
  rw [← Nat.mul_assoc] at h1
  exact Nat.le_of_mul_le_mul_right (le_trans h1 (le_ceilDiv_mul _ (2 ^ 40) (by decide))) (by decide)

theorem one_le_foldl_max {α : Type} (f : α → Nat) (xs : List α) (m : Nat) (h : 1 ≤ m) :
    1 ≤ xs.foldl (fun m x => max m (f x)) m := by
  induction xs generalizing m with
  | nil => exact h
  | cons x xs ih => exact ih _ (le_trans h (le_max_left _ _))

/-- The settings of its image stand: the device of a task whose preload ends, before its start count is set (R13, R44,
R192). -/
def Chip.preloadSettled (c : Chip) (d : Memory) (n : Nat) : Chip :=
  let x := c.ctx n
  let im := c.image x.image
  let es := imageDir d im.base
  let c := (c.taskGroups n).foldl (fun c g => c.configGroup d n im.base es g) c
  let c := (List.range im.env.siteCount).foldl (fun c s =>
    let s := x.siteBase + s
    ((c.setReg64 (siteLed s 6) 0).setReg (siteUsed s) 0)) c
  let c := if c.crcCtx then c else (bitsIn im.env.crcUnits 32).foldl (fun c u => c.crcInit u) c
  c.sbClearHits im.env.sbPorts

theorem Chip.settingsOnly_preloadSettled (c : Chip) (d : Memory) (n : Nat) : c.settingsOnly (c.preloadSettled d n) := by
  unfold Chip.preloadSettled
  refine Chip.settingsOnly.trans ?_ (Chip.settingsOnly_sbClearHits _ _)
  have hcrc : ∀ (c : Chip) (us : List Nat),
      c.settingsOnly (if c.crcCtx then c else us.foldl (fun c u => c.crcInit u) c) := by
    intro c us
    split
    · exact Chip.settingsOnly.refl c
    · exact Chip.settingsOnly_foldl (fun c u => c.settingsOnly_crcInit u) us c
  refine Chip.settingsOnly.trans ?_ (hcrc _ _)
  exact (Chip.settingsOnly_foldl (fun c g => c.settingsOnly_configGroup d n _ _ g) _ c).trans
    (Chip.settingsOnly_foldl (fun c s => ⟨_, _, _, rfl⟩) _ _)

/-- The largest period of the groups of a task, 1 at least: the frame of R13's start count. -/
def Chip.startPeriod (c : Chip) (gs : List Nat) : Nat := gs.foldl (fun m g => max m (c.period g (c.group g).pa)) 1

/-- What the end of preload sets: the start count in the context, and the epoch of every group. -/
theorem Chip.finishPreload_eq (c : Chip) (d : Memory) (n : Nat) :
    c.finishPreload d n =
      (let e := c.preloadSettled d n
      let start := startCount (e.mtc e.tm) (e.startPeriod (c.taskGroups n))
      let tm := e.tm + (start - e.mtc e.tm)
      let f := (c.taskGroups n).foldl (fun c g => c.setGroup g { c.group g with epoch := tm }) e
      (f.setCtx n { f.ctx n with
        preloading := false, startCount := start, startTm := tm, view := (f.ctx n).flags, viewPend := [] }).giveSlots n
        (fun ch => (c.env n).streamSlots.getD ch 0)) := rfl

theorem Chip.finishPreload_spec (c : Chip) (d : Memory) (n : Nat) :
    let t := c.finishPreload d n
    (t.ctx n).preloading = false ∧ c.mtc c.tm + 4096 ≤ (t.ctx n).startCount ∧
      (t.ctx n).startTm = c.tm + ((t.ctx n).startCount - c.mtc c.tm) ∧ (t.ctx n).view = (c.ctx n).flags ∧
      ∀ g ∈ c.taskGroups n, (t.group g).epoch = (t.ctx n).startTm := by
  obtain ⟨r, l, gr, he⟩ := c.settingsOnly_preloadSettled d n
  have hmtc : ∀ k, (c.preloadSettled d n).mtc k = c.mtc k := fun k => by rw [he]; rfl
  have htm : (c.preloadSettled d n).tm = c.tm := by rw [he]
  have hctx : (c.preloadSettled d n).ctx n = c.ctx n := Chip.ctx_of_ctxs (by rw [he]) n
  have hstart := le_startCount (c.mtc c.tm) ((c.preloadSettled d n).startPeriod (c.taskGroups n))
    (one_le_foldl_max _ _ 1 le_rfl)
  rw [Chip.finishPreload_eq]
  simp only [hmtc, htm]
  generalize startCount (c.mtc c.tm) ((c.preloadSettled d n).startPeriod (c.taskGroups n)) = start at hstart ⊢
  generalize hk : c.tm + (start - c.mtc c.tm) = k
  obtain ⟨t, ht⟩ := Chip.foldl_setGroup_shape (fun x => { x with epoch := k }) (c.taskGroups n) (c.preloadSettled d n)
  have hepoch := fun g hg => Chip.group_foldl_setGroup (P := fun x => x.epoch = k) (fun x => { x with epoch := k })
    (fun _ => rfl) (c.taskGroups n) (c.preloadSettled d n) g (.inl hg)
  rw [ht] at hepoch ⊢
  have hflags : (({ c.preloadSettled d n with groups := t } : Chip).ctx n).flags = (c.ctx n).flags :=
    congrArg Ctx.flags ((Chip.ctx_of_ctxs rfl n).trans hctx)
  generalize ({ c.preloadSettled d n with groups := t } : Chip) = f at hepoch hflags ⊢
  have hcx : ∀ (x : Ctx) (s : Nat → Nat), ((f.setCtx n x).giveSlots n s).ctx n = x :=
    fun x s => Chip.ctx_setCtx_same f n x
  rw [hcx]
  exact ⟨rfl, hstart, hk.symm, hflags, hepoch⟩

/-! ### The burst start (R14) -/

theorem burstStart_reached (n : Nat) (c : Chip) (hst : (c.ctx n).st = 5) (hs : (c.ctx n).startTm ≠ 0)
    (hp : (c.ctx n).pend = none) (hcd : (c.ctx n).cancelDue = false) (hc : c.clocked = true)
    (htm : c.tm ≤ (c.ctx n).startTm) :
    let t := burstStart n c
    t.tm = (c.ctx n).startTm ∧ t.waits (srcTask n) 0x8006 ∧ (t.ctx n).pend = some 6 ∧
      ∀ g ∈ c.taskGroups n, (t.group g).st = 1 := by
  have hgs : (c.advanceTo (c.ctx n).startTm).taskGroups n = c.taskGroups n :=
    Chip.taskGroups_of_env (Chip.env_advanceTo c _ n hc)
  have hgo : ¬ ((c.ctx n).st ≠ 5 ∨ (c.ctx n).startTm = 0 ∨
      (c.ctx n).pend.isSome = true ∨ (c.ctx n).cancelDue = true) := by
    simp [hst, hs, hp, hcd]
  unfold burstStart
  simp only
  rw [if_neg hgo, hgs]
  obtain ⟨t, ht⟩ := Chip.foldl_setGroup_shape (fun x => { x with st := 1 }) (c.taskGroups n)
    (c.advanceTo (c.ctx n).startTm)
  have hst1 := fun g hg => Chip.group_foldl_setGroup (P := fun x => x.st = 1) (fun x => { x with st := 1 })
    (fun _ => rfl) (c.taskGroups n) (c.advanceTo (c.ctx n).startTm) g (.inl hg)
  rw [ht] at hst1 ⊢
  refine ⟨?_, Chip.raise_waits _ _ _ _ _ _, ?_, fun g hg => ?_⟩
  · rw [Chip.raise_tm]
    exact Chip.tm_advanceTo c _ hc htm
  · rw [Chip.ctx_raise]
    simp [Chip.updCtx]
  · rw [Chip.group_of_groups (Chip.raise_groups _ _ _ _ _ _)]
    exact hst1 g hg

/-! ### Envelope windows (R144) -/

/-- At the first TM period at or after the end of k windows, k windows have passed. -/
theorem windows_at_end (k q : Nat) (hq : 2 ^ 40 ≤ q) : (k * q + 2 ^ 40 - 1) / 2 ^ 40 * 2 ^ 40 / q = k := by
  have h1 := le_ceilDiv_mul (k * q) (2 ^ 40) (by decide)
  have h2 := Nat.div_mul_le_self (k * q + 2 ^ 40 - 1) (2 ^ 40)
  refine Nat.div_eq_of_lt_le h1 ?_
  rw [Nat.add_mul]
  omega

theorem tabGet_filter_dropped {α : Type} (d : α) (t : Table α) (p : Nat × α → Bool) (i : Nat)
    (h : ∀ e : Nat × α, e.1 = i → p e = false) : tabGet d (t.filter p) i = d := by
  induction t with
  | nil => rfl
  | cons e t ih =>
    by_cases hp : p e = true
    · have hi : i ≠ e.1 := fun hi => by rw [h e hi.symm] at hp; cases hp
      rw [List.filter_cons_of_pos hp]
      simpa [tabGet, hi] using ih
    · rw [List.filter_cons_of_neg hp]
      exact ih

/-- The counts of a context restart when a later window has begun. -/
theorem Chip.rollWindow_later (c : Chip) (n w : Nat) (hst : (c.ctx n).st = 6)
    (hw : c.windowNow (c.env n) (c.ctx n).startTm = w) (hl : (c.ctx n).window < w) :
    ((c.rollWindow n).ctx n).window = w ∧ ((c.rollWindow n).ctx n).siteWin = [] ∧
      ∀ ch < 8, tabGet 0 (c.rollWindow n).mem.streamUsed (8 * n + ch) = 0 := by
  have e : c.rollWindow n =
      { c.setCtx n { c.ctx n with window := w, siteWin := [] } with
        mem := { c.mem with streamUsed := c.mem.streamUsed.filter (fun e => e.1 / 8 ≠ n) } } := by
    unfold Chip.rollWindow
    simp only [hst, hw]
    rw [if_neg (by simp), if_pos hl]
    rfl
  rw [e]
  have hx : ∀ (x : Ctx) (m : MemCtl), ({ c.setCtx n x with mem := m } : Chip).ctx n = x :=
    fun x _ => Chip.ctx_setCtx_same c n x
  rw [hx]
  refine ⟨rfl, rfl, fun ch hch => tabGet_filter_dropped _ _ _ _ fun e he => ?_⟩
  have : e.1 / 8 = n := by omega
  simp [this]

theorem envelopeWindow_ends (n : Nat) (c : Chip) (hst : (c.ctx n).st = 6) (hc : c.clocked = true)
    (hp : 2 ^ 39 ≤ (c.env n).refPeriod)
    (htm : c.tm ≤ (c.ctx n).startTm +
      (((c.ctx n).window + 1) * (4096 * 64 * (c.env n).refPeriod) + 2 ^ 40 - 1) / 2 ^ 40) :
    let t := envelopeWindow n c
    (t.ctx n).window = (c.ctx n).window + 1 ∧ (t.ctx n).siteWin = [] ∧
      ∀ ch < 8, tabGet 0 t.mem.streamUsed (8 * n + ch) = 0 := by
  have hk := windows_at_end ((c.ctx n).window + 1) (4096 * 64 * (c.env n).refPeriod) (by omega)
  have he : envelopeWindow n c = (c.advanceTo ((c.ctx n).startTm +
      (((c.ctx n).window + 1) * (4096 * 64 * (c.env n).refPeriod) + 2 ^ 40 - 1) / 2 ^ 40)).rollWindow n := by
    unfold envelopeWindow
    simp only [hst]
    rw [if_neg (by simp)]
  rw [he]
  generalize ((c.ctx n).window + 1) * (4096 * 64 * (c.env n).refPeriod) + 2 ^ 40 - 1 = x at hk htm ⊢
  have hx := Chip.ctx_advanceTo c ((c.ctx n).startTm + x / 2 ^ 40) n
  refine Chip.rollWindow_later _ n _ (by rw [hx]; exact hst) ?_ (by rw [hx]; exact Nat.lt_succ_self _)
  unfold Chip.windowNow
  rw [hx, Chip.env_advanceTo c _ n hc, Chip.tm_advanceTo c _ hc htm, Nat.add_sub_cancel_left]
  exact hk

/-! ### Draining (R175) -/

/-- The state in which a drained task is to end, and its status, by the causes that its groups met: a fault before an
underrun, that before a cancel, that before the end of the program. -/
def drainEnd (causes : List Nat) : Nat × Nat :=
  if causes.any (fun k => k == 5 || k == 6) then (10, 0x0101)
  else if causes.any (fun k => k == 2 || k == 3) then (10, 0x0100)
  else if causes.contains 4 then (9, 0x0102)
  else (8, 0)

theorem taskDrainDone_drained (n : Nat) (c : Chip) (hst : (c.ctx n).st = 7) (hp : (c.ctx n).pend = none)
    (h : ∀ g ∈ c.taskGroups n, (c.group g).pipe = [] ∧ ∀ r ∈ tabGet [] c.mor.queues g, r.ctx ≠ some n) :
    let k := drainEnd ((c.taskGroups n).map (fun g => (c.group g).cause))
    taskDrainDone n c = ((c.taskGroups n).foldl (fun c g => c.chkReset g) c).raiseEnd n k.1 k.2 := by
  have hgo : ¬ ((c.ctx n).st ≠ 7 ∨ (c.ctx n).pend.isSome = true ∨ (c.taskGroups n).any (fun g =>
      (c.group g).pipe != [] || (tabGet [] c.mor.queues g).any (fun r => r.ctx == some n)) = true) := by
    rintro (h1 | h1 | h1)
    · exact h1 hst
    · rw [hp] at h1; cases h1
    · obtain ⟨g, hg, h1⟩ := List.any_eq_true.1 h1
      obtain ⟨hpipe, hq⟩ := h g hg
      rw [hpipe] at h1
      obtain ⟨r, hr, h1⟩ := List.any_eq_true.1
        (show (tabGet [] c.mor.queues g).any (fun r => r.ctx == some n) = true from h1)
      exact hq r hr (eq_of_beq h1)
  unfold taskDrainDone drainEnd
  simp only
  rw [if_neg hgo]
  split
  · rfl
  · split
    · rfl
    · split <;> rfl

/-- A task is not drained while a group holds frames whose compares have not passed. -/
theorem taskDrainDone_busy (n : Nat) (c : Chip) (g : Nat) (hg : g ∈ c.taskGroups n) (h : (c.group g).pipe ≠ []) :
    taskDrainDone n c = c := by
  have hgo : (c.taskGroups n).any (fun g =>
      (c.group g).pipe != [] || (tabGet [] c.mor.queues g).any (fun r => r.ctx == some n)) = true :=
    List.any_eq_true.2 ⟨g, hg, by simp [h]⟩
  unfold taskDrainDone
  simp only
  rw [if_pos (.inr (.inr hgo))]

/-- A drained task waits for the acceptance of its end, as its groups' causes give it. -/
theorem taskDrainDone_ends (n : Nat) (c : Chip) (st status : Nat) (hst : (c.ctx n).st = 7) (hp : (c.ctx n).pend = none)
    (h : ∀ g ∈ c.taskGroups n, (c.group g).pipe = [] ∧ ∀ r ∈ tabGet [] c.mor.queues g, r.ctx ≠ some n)
    (hk : drainEnd ((c.taskGroups n).map (fun g => (c.group g).cause)) = (st, status)) :
    (taskDrainDone n c).waits (srcTask n) (0x8000 + st) ∧ ((taskDrainDone n c).ctx n).due = status := by
  rw [taskDrainDone_drained n c hst hp h, hk]
  exact Chip.raiseEnd_spec _ n st status

theorem drainEnd_fault {gs : List Nat} {f : Nat → Nat} (h : ∃ g ∈ gs, f g = 5 ∨ f g = 6) :
    drainEnd (gs.map f) = (10, 0x0101) := by
  unfold drainEnd
  rw [if_pos (by simpa using h)]

theorem drainEnd_underrun {gs : List Nat} {f : Nat → Nat} (hn : ∀ g ∈ gs, f g ≠ 5 ∧ f g ≠ 6)
    (h : ∃ g ∈ gs, f g = 2 ∨ f g = 3) : drainEnd (gs.map f) = (10, 0x0100) := by
  unfold drainEnd
  rw [if_neg (by simpa using hn), if_pos (by simpa using h)]

theorem drainEnd_cancel {gs : List Nat} {f : Nat → Nat} (hn : ∀ g ∈ gs, f g = 1 ∨ f g = 4) (h : ∃ g ∈ gs, f g = 4) :
    drainEnd (gs.map f) = (9, 0x0102) := by
  have h5 : ∀ g ∈ gs, f g ≠ 5 ∧ f g ≠ 6 := fun g hg => by rcases hn g hg with h | h <;> omega
  have h2 : ∀ g ∈ gs, f g ≠ 2 ∧ f g ≠ 3 := fun g hg => by rcases hn g hg with h | h <;> omega
  unfold drainEnd
  rw [if_neg (by simpa using h5), if_neg (by simpa using h2), if_pos (by simpa using h)]

theorem drainEnd_end {gs : List Nat} {f : Nat → Nat} (hn : ∀ g ∈ gs, f g = 1) : drainEnd (gs.map f) = (8, 0) := by
  have h5 : ∀ g ∈ gs, f g ≠ 5 ∧ f g ≠ 6 := fun g hg => by have := hn g hg; omega
  have h2 : ∀ g ∈ gs, f g ≠ 2 ∧ f g ≠ 3 := fun g hg => by have := hn g hg; omega
  have h4 : ∀ g ∈ gs, f g ≠ 4 := fun g hg => by have := hn g hg; omega
  unfold drainEnd
  rw [if_neg (by simpa using h5), if_neg (by simpa using h2), if_neg (by simpa using h4)]

/-! ### The obligation -/

/-- Settles O43: each row of a burst's life through what it does to the context and its groups. -/
theorem burstLife : Obligations.BurstLife := by
  unfold Obligations.BurstLife
  refine ⟨fun s n hst hp hs hcd h => ?_, fun s n g hg hl ha hr => ?_, fun s n hst hs hp hcd hc htm => ?_,
    fun s n hst hc hp htm => ?_, fun s n hst hp h => ?_, fun s n g _ hg h => ?_⟩
  · have hpre : s.chip.preloads n = true := by simp [Chip.preloads, hst, hp, hs, hcd]
    have e : exec (.preloadEnd n) s = .next { s with chip := s.chip.finishPreload s.dram n } := by
      show s.onBoth (preloadEnd n) = _
      unfold State.onBoth
      rw [preloadEnd_loaded n s.dram s.chip hpre h]
    exact ⟨_, e, rfl, s.chip.finishPreload_spec s.dram n⟩
  · have e : exec (.preloadEnd n) s = .next s := by
      show s.onBoth (preloadEnd n) = _
      unfold State.onBoth
      rw [preloadEnd_stopped n s.dram s.chip g hg hl ha hr]
    exact ⟨s, e, rfl⟩
  · exact ⟨_, rfl, burstStart_reached n s.chip hst hs hp hcd hc htm⟩
  · obtain ⟨hw, hs, hu⟩ := envelopeWindow_ends n s.chip hst hc hp htm
    exact ⟨_, rfl, hw, hs, fun ch => hu ch ch.isLt⟩
  · have ends := fun st status => taskDrainDone_ends n s.chip st status hst hp h
    exact ⟨_, rfl, fun hf => ends _ _ (drainEnd_fault hf), fun hn hu => ends _ _ (drainEnd_underrun hn hu),
      fun hn hx => ends _ _ (drainEnd_cancel hn hx), fun hn => ends _ _ (drainEnd_end hn)⟩
  · exact ⟨s, State.onChip_of_eq s (taskDrainDone_busy n s.chip g hg h), rfl⟩

end Sys2Proof.Machine
end

section
/-! SUPPORT. Slot frames: what the work of a slot leaves of the tables' positions, refreshes due and slot counts. -/

namespace Sys2Proof.Machine

/-! ### Positions, refreshes due and slot counts (R272, R276, R292) -/

/-- Where a channel's table stands, and the refreshes that are due. -/
def MemCh.due (m : MemCh) : Nat × Nat × Nat := (m.pos, m.refDue, m.refNext)

/-- From c to d every table keeps its position and the refreshes that are due, MEM_CFG its word, and every channel its
first n slot counts. -/
structure Chip.slotsKept (n : Nat) (c d : Chip) : Prop where
  due : ∀ k, (d.memCh k).due = (c.memCh k).due
  cfg : d.reg 0x00300000 = c.reg 0x00300000
  counts : ∀ k < 8, ∀ i < n, d.ledger (slotReg k i) = c.ledger (slotReg k i)

theorem Chip.memCh_of_ch {c d : Chip} (h : d.mem.ch = c.mem.ch) (k : Nat) : d.memCh k = c.memCh k := by
  unfold Chip.memCh; rw [h]
theorem Chip.ledger_of_led {c d : Chip} (h : d.led = c.led) (a : Nat) : d.ledger a = c.ledger a := by
  unfold Chip.ledger; rw [h]

theorem Chip.slotsKept.pos {n : Nat} {c d : Chip} (h : c.slotsKept n d) (k : Nat) : (d.memCh k).pos = (c.memCh k).pos :=
  congrArg (·.1) (h.due k)

theorem Chip.slotsKept.of_eq {n : Nat} {c d : Chip} (hm : d.mem.ch = c.mem.ch) (hl : d.led = c.led)
    (hr : d.reg 0x00300000 = c.reg 0x00300000) : c.slotsKept n d :=
  ⟨fun k => by rw [Chip.memCh_of_ch hm], hr, fun _ _ _ _ => Chip.ledger_of_led hl _⟩

theorem Chip.slotsKept.refl {n : Nat} (c : Chip) : c.slotsKept n c := .of_eq rfl rfl rfl

theorem Chip.slotsKept.trans {n : Nat} {c d e : Chip} (h : c.slotsKept n d) (h' : d.slotsKept n e) : c.slotsKept n e :=
  ⟨fun k => (h'.due k).trans (h.due k), h'.cfg.trans h.cfg,
    fun k hk i hi => (h'.counts k hk i hi).trans (h.counts k hk i hi)⟩

theorem Chip.slotsKept.mono {m n : Nat} {c d : Chip} (h : c.slotsKept n d) (hmn : m ≤ n) : c.slotsKept m d :=
  ⟨h.due, h.cfg, fun k hk i hi => h.counts k hk i (by omega)⟩

theorem Chip.slotsKept.ite {n : Nat} {p : Prop} [Decidable p] {c d e : Chip} (h : c.slotsKept n d)
    (h' : c.slotsKept n e) : c.slotsKept n (if p then d else e) := by
  split
  · exact h
  · exact h'

theorem Chip.slotsKept.foldl {α : Type} {n : Nat} {f : Chip → α → Chip}
    (hf : ∀ (c : Chip) (x : α), c.slotsKept n (f c x)) (xs : List α) (c : Chip) : c.slotsKept n (xs.foldl f c) := by
  induction xs generalizing c with
  | nil => exact .refl c
  | cons x xs ih => exact (hf c x).trans (ih _)

/-! ### Shared operations -/

theorem Chip.slotsKept.setMemCh {n : Nat} (c : Chip) (ch : Nat) (m : MemCh) (h : m.due = (c.memCh ch).due) :
    c.slotsKept n (c.setMemCh ch m) := by
  refine ⟨fun k => ?_, rfl, fun _ _ _ _ => rfl⟩
  rw [Chip.memCh_setMemCh]
  split
  · rename_i hk; rw [hk, h]
  · rfl

theorem Chip.slotsKept.ledAdd {n : Nat} (c : Chip) (a m : Nat) (h : ∀ k < 8, ∀ i < n, slotReg k i ≠ a) :
    c.slotsKept n (c.ledAdd a m) :=
  ⟨fun _ => rfl, rfl, fun k hk i hi => by rw [Chip.ledger_ledAdd, if_neg (h k hk i hi)]⟩
theorem Chip.slotsKept.ledSub {n : Nat} (c : Chip) (a m : Nat) (h : ∀ k < 8, ∀ i < n, slotReg k i ≠ a) :
    c.slotsKept n (c.ledSub a m) :=
  ⟨fun _ => rfl, rfl, fun k hk i hi => by rw [Chip.ledger_ledSub, if_neg (h k hk i hi)]⟩

theorem slotReg_inj {k k' i i' : Nat} (hi : i < 32) (hi' : i' < 32) (h : slotReg k i = slotReg k' i') :
    k = k' ∧ i = i' := by
  unfold slotReg at h; omega
/-- A count from the n-th on is none of the first n. -/
theorem slotReg_ne_of_le {n ch j : Nat} (hj : j < 32) (h : n ≤ j) : ∀ k < 8, ∀ i < n, slotReg k i ≠ slotReg ch j :=
  fun _ _ _ hi e => by have := (slotReg_inj (by omega) hj e).2; omega
theorem Chip.slotsKept.slotCount {n : Nat} (c : Chip) (ch j : Nat) (hj : j < 32) (h : n ≤ j) :
    c.slotsKept n (c.ledAdd (slotReg ch j)) := .ledAdd c _ 1 (slotReg_ne_of_le hj h)
theorem slotReg_ne_ringLed {n g j : Nat} (hj : j < 2) (hn : n ≤ 7) : ∀ k < 8, ∀ i < n, slotReg k i ≠ ringLed g j := by
  intro k hk i hi
  unfold slotReg ringLed grpB
  omega

theorem Chip.slotsKept.setReg {n : Nat} (c : Chip) (a : Nat) (w : Word) (h : a ≠ 0x00300000) :
    c.slotsKept n (c.setReg a w) := ⟨fun _ => rfl, Chip.reg_setReg_other c w h.symm, fun _ _ _ _ => rfl⟩
theorem Chip.slotsKept.setField {n : Nat} (c : Chip) (a hi lo v : Nat) (h : a ≠ 0x00300000) :
    c.slotsKept n (c.setField a hi lo v) := .setReg c a _ h
theorem Chip.slotsKept.count {n : Nat} (c : Chip) (code m : Nat) : c.slotsKept n (c.count code m) :=
  .of_eq (by simp) (by simp) (by simp)
theorem Chip.slotsKept.raise {n : Nat} (c : Chip) (src typ : Nat) (acts : List Act) (err : Option ErrInfo) (info : Nat) :
    c.slotsKept n (c.raise src typ acts err info) := .of_eq (by simp) (by simp) (by simp)
theorem Chip.slotsKept.raiseErr {n : Nat} (c : Chip) (src code unit detail task : Nat) :
    c.slotsKept n (c.raiseErr src code unit detail task) := .of_eq (by simp) (by simp) (by simp)
theorem Chip.slotsKept.guardReject {n : Nat} (c : Chip) : c.slotsKept n c.guardReject := .count c 313 1

/-! ### Draws and maintenance slots (R278 to R280) -/

theorem Chip.slotsKept.mitGauge {n : Nat} (c : Chip) (ch : Nat) : c.slotsKept n (c.mitGauge ch) := by
  unfold Chip.mitGauge
  exact ((Chip.slotsKept.setField c _ 20 16 _ (by omega)).trans (.setField _ _ 31 31 _ (by omega))).trans
    (.setField _ _ 4 0 _ (by omega))

theorem Chip.slotsKept.draw (c : Chip) (ch addr : Nat) : c.slotsKept 7 (c.draw ch addr) := by
  have hl := Chip.slotsKept.setMemCh (n := 7) c ch { c.memCh ch with lfsr := lfsrNext (c.memCh ch).lfsr } rfl
  unfold Chip.draw
  simp only
  refine .ite (hl.trans ?_) hl
  refine .trans ?_ (.mitGauge _ ch)
  refine .trans ?_ (.count _ _ 1)
  refine .trans ?_ (.slotCount _ ch _ (by decide) (by decide))
  refine .trans ?_ (.slotCount _ ch _ (by decide) (by decide))
  refine .setMemCh _ ch _ ?_
  split <;> rfl

theorem Chip.slotsKept.refreshRows (c : Chip) (ch : Nat) (x : Nat × Nat) : c.slotsKept 7 (c.refreshRows ch x) := by
  unfold Chip.refreshRows
  refine .trans ?_ (.ite (.refl _) (.draw _ ch _))
  exact .ite (.refl c) (.draw c ch _)

theorem Chip.slotsKept.mrrPoll (c : Chip) (ch mr4 odecc : Nat) : c.slotsKept 7 (c.mrrPoll ch mr4 odecc) := by
  unfold Chip.mrrPoll
  refine .trans ?_ (.ite (.trans (.guardReject _) (.raiseErr _ _ _ _ _ _)) (.refl _))
  refine .trans ?_ (.ite (.refl _) (.trans (.setReg _ _ _ (by omega)) (.raise _ _ _ _ _ _)))
  refine .trans ?_ (.setField _ _ 4 0 mr4 (by omega))
  exact .setMemCh c ch _ rfl

theorem Chip.slotsKept.maintSlot (c : Chip) (ch b mr4 odecc : Nat) : c.slotsKept 7 (c.maintSlot ch b mr4 odecc) := by
  unfold Chip.maintSlot
  refine .ite (.setMemCh c ch _ (by rfl)) (.ite (.mrrPoll c ch mr4 odecc) ?_)
  split
  · exact .refl c
  · refine .trans ?_ (.refreshRows _ ch _)
    refine .trans ?_ (.mitGauge _ ch)
    refine .trans ?_ (.ledSub _ _ 1 (slotReg_ne_of_le (by decide) (by decide)))
    refine .trans ?_ (.slotCount _ ch _ (by decide) (by decide))
    exact .setMemCh c ch _ rfl

/-! ### Stream slots (R98, R157) -/

theorem Chip.memTouch_ch (c : Chip) : c.memTouch.mem.ch = c.mem.ch := by
  unfold Chip.memTouch
  split
  · rfl
  · split <;> rfl
theorem Chip.reg_memTouch (c : Chip) {a : Nat} (h : a ≠ 0x00300020) (h' : a ≠ 0x0030001C) :
    c.memTouch.reg a = c.reg a := by
  unfold Chip.memTouch
  split
  · exact Chip.reg_cntUp_other c 1 h
  · split
    · exact Chip.reg_cntUp_other c 1 h'
    · rfl

theorem Chip.slotsKept.memReq {n : Nat} (c : Chip) (cls : SlotClass) (r : Req) : c.slotsKept n (c.memReq cls r) := by
  refine .trans (.of_eq c.memTouch_ch (Chip.memTouch_led c) (Chip.reg_memTouch c (by decide) (by decide))) ?_
  refine .setMemCh c.memTouch (chanOf r.addr) _ ?_
  cases cls <;> rfl

theorem Chip.slotsKept.setGroup {n : Nat} (c : Chip) (g : Nat) (x : Group) : c.slotsKept n (c.setGroup g x) :=
  .of_eq rfl rfl rfl

theorem Chip.slotsKept.pump {n : Nat} (c : Chip) (g : Nat) : c.slotsKept n (c.pump g) := by
  have go : ∀ (f : Nat) (c : Chip), c.slotsKept n (Chip.pump.go g f c) := by
    intro f
    induction f with
    | zero => exact fun c => .refl c
    | succ f ih =>
      intro c
      unfold Chip.pump.go
      simp only
      split
      · exact .refl c
      · refine .ite (.setGroup c g _) ?_
        split
        · exact .trans (.trans (.setGroup c g _) (.memReq _ _ _)) (ih _)
        · exact .trans (.trans (.setGroup c g _) (.memReq _ _ _)) (ih _)
        · exact .setGroup c g _
  exact go 256 c

theorem Chip.slotsKept.fillIssued (c : Chip) (g i : Nat) : c.slotsKept 7 (c.fillIssued g i) := by
  have ha : firnB g + 4 ≠ 0x00300000 := by unfold firnB grpB; omega
  unfold Chip.fillIssued
  refine .trans ?_ (.pump _ g)
  refine .trans ?_ (.setField _ _ 30 30 _ ha)
  refine .trans ?_ (.ledAdd _ _ 1 (slotReg_ne_ringLed (by decide) (by decide)))
  refine .trans ?_ (.ledSub _ _ 1 (slotReg_ne_ringLed (by decide) (by decide)))
  exact .setGroup c g _

theorem Chip.slotsKept.rollWindow {n : Nat} (c : Chip) (t : Nat) : c.slotsKept n (c.rollWindow t) := by
  unfold Chip.rollWindow
  refine .ite (.refl c) (.ite ?_ (.refl c))
  exact .of_eq rfl rfl rfl

theorem Chip.slotsKept.breach {n : Nat} (c : Chip) (src t unit : Nat) : c.slotsKept n (c.breach src t unit) := by
  unfold Chip.breach
  refine .ite ?_ (.trans ?_ (.raiseErr _ _ _ _ _ _)) <;> exact .of_eq rfl rfl rfl

theorem Chip.slotsKept.readIssued (c : Chip) (d : Memory) (ch : Nat) (r : Req) :
    c.slotsKept 7 (c.readIssued d ch r) := by
  unfold Chip.readIssued
  refine .trans ?_ (.draw _ ch _)
  exact .setMemCh c ch _ rfl

theorem Chip.slotsKept.idleSlot {n : Nat} (c : Chip) (ch : Nat) (hn : n ≤ 6) : c.slotsKept n (c.idleSlot ch) :=
  .trans (.slotCount c ch 6 (by decide) hn) (.count _ _ 1)

/-- A stream slot keeps the count of slots taken, whatever it issues. -/
theorem Chip.slotsKept.streamSlot (c : Chip) (d : Memory) (ch b : Nat) : c.slotsKept 1 (c.streamSlot d ch b) := by
  have late : ∀ (c : Chip) (r : Req), c.slotsKept 1 (match r.who.context with
      | some n => c.breach (srcOf 12 0) n ch
      | none => c) := by
    intro c r
    split
    · exact .breach c _ _ _
    · exact .refl c
  have used : ∀ (c : Chip) (r : Req), c.slotsKept 1 (match c.guardLeft ch r with
      | some (n, _) => { c with mem := { c.mem with streamUsed := tabUpd 0 c.mem.streamUsed (8 * n + ch) (· + 1) } }
      | none => c) := by
    intro c r
    split
    · exact .of_eq rfl rfl rfl
    · exact .refl c
  have filled : ∀ (c : Chip) (r : Req), c.slotsKept 1 (match r.who with
      | .fill g _ i => if r.retry then c else c.fillIssued g i
      | _ => c) := by
    intro c r
    split
    · exact .ite (.refl c) (.mono (.fillIssued c _ _) (by decide))
    · exact .refl c
  unfold Chip.streamSlot
  simp only
  split
  · refine .trans ?_ (.mono (.refreshRows _ ch _) (by decide))
    refine .trans ?_ (.count _ _ 1)
    refine .trans ?_ (.ledSub _ _ 1 (slotReg_ne_of_le (by decide) (by decide)))
    refine .trans ?_ (.slotCount _ ch _ (by decide) (by decide))
    exact .setMemCh c ch _ rfl
  · refine .ite (.idleSlot c ch (by decide)) ?_
    refine .trans (.foldl (fun c n => .rollWindow c n) c.holders c) ?_
    generalize c.holders.foldl (fun c n => c.rollWindow n) c = c
    split
    · refine .trans ?_ (.idleSlot _ ch (by decide))
      exact .trans (.setMemCh c ch _ (by rfl)) (.foldl late _ _)
    · refine .trans ?_ (filled _ _)
      refine .trans ?_ (.mono (.readIssued _ d ch _) (by decide))
      refine .trans ?_ (.count _ _ 1)
      refine .trans ?_ (.slotCount _ ch _ (by decide) (by decide))
      refine .trans ?_ (used _ _)
      exact .trans (.setMemCh c ch _ (by rfl)) (.foldl late _ _)

end Sys2Proof.Machine
end

section
/-! SUPPORT. Slots: what a slot of each class does, how a refresh follows it, and what a round of slots on every channel
does. -/

namespace Sys2Proof.Machine

/-! ### Queues of a channel (R274) -/

/-- What waits for a capture or a host slot, and the reads on their way. -/
def MemCh.queues (m : MemCh) : List Req × List Req × List (Req × List Byte) := (m.capture, m.host, m.reads)

/-- From c to d the capture and host queues and the reads on their way stay. -/
def Chip.queuesKept (c d : Chip) : Prop := ∀ k, (d.memCh k).queues = (c.memCh k).queues

theorem Chip.queuesKept.of_ch {c d : Chip} (h : d.mem.ch = c.mem.ch) : c.queuesKept d :=
  fun k => by rw [Chip.memCh_of_ch h]
theorem Chip.queuesKept.trans {c d e : Chip} (h : c.queuesKept d) (h' : d.queuesKept e) : c.queuesKept e :=
  fun k => (h' k).trans (h k)
theorem Chip.queuesKept.capture {c d : Chip} (h : c.queuesKept d) (k : Nat) :
    (d.memCh k).capture = (c.memCh k).capture :=
  congrArg (·.1) (h k)
theorem Chip.queuesKept.host {c d : Chip} (h : c.queuesKept d) (k : Nat) : (d.memCh k).host = (c.memCh k).host :=
  congrArg (·.2.1) (h k)
theorem Chip.queuesKept.reads {c d : Chip} (h : c.queuesKept d) (k : Nat) : (d.memCh k).reads = (c.memCh k).reads :=
  congrArg (·.2.2) (h k)
theorem Chip.queuesKept.setMemCh (c : Chip) (ch : Nat) (m : MemCh) (h : m.queues = (c.memCh ch).queues) :
    c.queuesKept (c.setMemCh ch m) := by
  intro k
  rw [Chip.memCh_setMemCh]
  split
  · rename_i hk; rw [hk, h]
  · rfl

theorem Chip.queuesKept.draw (c : Chip) (ch addr : Nat) : c.queuesKept (c.draw ch addr) := by
  have hl := Chip.queuesKept.setMemCh c ch { c.memCh ch with lfsr := lfsrNext (c.memCh ch).lfsr } rfl
  unfold Chip.draw
  simp only
  split
  · refine hl.trans (.trans (.setMemCh _ ch _ ?_) (.of_ch (by
      rw [Chip.mitGauge_mem, Chip.count_mem, Chip.ledAdd_mem, Chip.ledAdd_mem])))
    split <;> rfl
  · exact hl

theorem Chip.queuesKept.issueRef (c : Chip) (ch : Nat) : c.queuesKept (c.issueRef ch) := by
  unfold Chip.issueRef
  simp only
  split
  · exact .setMemCh c ch _ rfl
  · exact .of_ch rfl

/-! ### Refreshes (R276) -/

/-- A REFpb that is due is issued where the table stands at its pair's slots; nothing else changes. -/
theorem Chip.due_issueRef (c : Chip) (ch : Nat) :
    let m := c.memCh ch
    ((c.issueRef ch).memCh ch).due =
      if m.refDue ≠ 0 ∧ m.pos % 16 = (m.refNext % 8 + 9) % 16 then
        (m.pos, m.refDue - 1, (m.refNext + 1) % (8 * (c.field 0x00300000 29 29 + 1)))
      else m.due := by
  unfold Chip.issueRef
  simp only
  split
  · rw [Chip.memCh_setMemCh, if_pos rfl]; rfl
  · rfl

theorem Chip.pos_issueRef (c : Chip) (ch k : Nat) : ((c.issueRef ch).memCh k).pos = (c.memCh k).pos := by
  unfold Chip.issueRef
  simp only
  split
  · rw [Chip.memCh_setMemCh]
    split
    · rename_i hk; rw [hk]
    · rfl
  · rfl

theorem Chip.ledger_issueRef (c : Chip) (ch a : Nat) : (c.issueRef ch).ledger a = c.ledger a := by
  unfold Chip.issueRef
  simp only
  split <;> rfl

/-! ### A slot of each class (R273, R274) -/

/-- A capture slot with nothing to issue is idle. -/
theorem captureSlot_none (d : Memory) (c : Chip) (ch b : Nat)
    (h : takeReq (fun _ => !c.dataFull ch) b (c.memCh ch).capture = none) :
    captureSlot d c ch b = (d, c.idleSlot ch) := by
  unfold captureSlot
  simp only [h]

/-- A host slot with nothing to issue is idle. -/
theorem hostSlot_none (d : Memory) (c : Chip) (ch b : Nat)
    (h : takeReq (fun _ => !c.dataFull ch) b (c.memCh ch).host = none) : hostSlot d c ch b = (d, c.idleSlot ch) := by
  unfold hostSlot
  simp only [h]

/-- A line that is written, or the last of a block write, leaves queues and slot counts alone. -/
theorem Chip.blkLine_mem (c : Chip) (id : Nat) :
    (c.blkLine id).mem.ch = c.mem.ch ∧ (c.blkLine id).led = c.led ∧ ∀ a, (c.blkLine id).reg a = c.reg a := by
  unfold Chip.blkLine
  split
  · exact ⟨rfl, rfl, fun _ => rfl⟩
  · split
    · exact ⟨rfl, rfl, fun _ => rfl⟩
    · exact ⟨by rw [Chip.reply_mem], by rw [Chip.reply_led], fun a => Chip.reg_reply_done _ _ _ a⟩

/-- A slot that is counted, and whose access draws, leaves queues and the first slot counts alone. -/
theorem Chip.issued_kept (c : Chip) (code ch addr : Nat) :
    c.slotsKept 7 ((c.count code).draw ch addr) ∧ c.queuesKept ((c.count code).draw ch addr) :=
  ⟨.trans (.count c code 1) (.draw _ ch addr), .trans (.of_ch (by rw [Chip.count_mem])) (.draw _ ch addr)⟩

/-- A capture slot that issues writes the bytes of its request, which leaves the queue, and counts itself. -/
theorem captureSlot_some (d : Memory) (c : Chip) (ch b : Nat) (r : Req) (rest : List Req)
    (h : takeReq (fun _ => !c.dataFull ch) b (c.memCh ch).capture = some (r, rest)) :
    let t := captureSlot d c ch b
    let e := (c.setMemCh ch { c.memCh ch with capture := rest }).ledAdd (slotReg ch 2)
    t.1 = memWriteBytes d r.addr (r.data.getD []) ∧ e.slotsKept 7 t.2 ∧ e.queuesKept t.2 := by
  have hk := ((c.setMemCh ch { c.memCh ch with capture := rest }).ledAdd (slotReg ch 2)).issued_kept
    (193 + 8 * ch) ch r.addr
  unfold captureSlot
  simp only [h]
  refine ⟨trivial, ?_⟩
  split
  · exact ⟨hk.1.trans (.of_eq rfl rfl rfl), hk.2.trans (.of_ch rfl)⟩
  · exact hk

/-- A host slot that issues a write writes the bytes of its request, which leaves the queue, and counts itself. -/
theorem hostSlot_write (d : Memory) (c : Chip) (ch b : Nat) (r : Req) (rest : List Req) (bs : List Byte)
    (h : takeReq (fun _ => !c.dataFull ch) b (c.memCh ch).host = some (r, rest)) (hb : r.data = some bs) :
    let t := hostSlot d c ch b
    let e := (c.setMemCh ch { c.memCh ch with host := rest }).ledAdd (slotReg ch 3)
    t.1 = memWriteBytes d r.addr bs ∧ e.slotsKept 7 t.2 ∧ e.queuesKept t.2 := by
  have hk := ((c.setMemCh ch { c.memCh ch with host := rest }).ledAdd (slotReg ch 3)).issued_kept
    (194 + 8 * ch) ch r.addr
  unfold hostSlot
  simp only [h, hb]
  refine ⟨trivial, ?_⟩
  split
  · rename_i id _
    obtain ⟨hm, hl, hr⟩ := Chip.blkLine_mem (((((c.setMemCh ch { c.memCh ch with host := rest }).ledAdd
      (slotReg ch 3)).count (194 + 8 * ch)).draw ch r.addr)) id
    exact ⟨hk.1.trans (.of_eq hm hl (hr _)), hk.2.trans (.of_ch hm)⟩
  · exact hk

/-- A host slot that issues a read takes the bytes that stand there, and counts itself. -/
theorem hostSlot_read (d : Memory) (c : Chip) (ch b : Nat) (r : Req) (rest : List Req)
    (h : takeReq (fun _ => !c.dataFull ch) b (c.memCh ch).host = some (r, rest)) (hb : r.data = none) :
    hostSlot d c ch b =
      (d, (((c.setMemCh ch { c.memCh ch with host := rest }).ledAdd (slotReg ch 3)).count (194 + 8 * ch)).readIssued
        d ch r) := by
  unfold hostSlot
  simp only [h, hb]

/-- A read that is issued joins the reads on their way, and nothing leaves the host queue. -/
theorem Chip.readIssued_queues (c : Chip) (d : Memory) (ch : Nat) (r : Req) :
    ((c.readIssued d ch r).memCh ch).host = (c.memCh ch).host ∧
      ((c.readIssued d ch r).memCh ch).reads = (c.memCh ch).reads ++ [(r, memReadBytes d r.addr 128)] := by
  unfold Chip.readIssued
  rw [(Chip.queuesKept.draw _ ch r.addr).host, (Chip.queuesKept.draw _ ch r.addr).reads, Chip.memCh_setMemCh, if_pos rfl]
  exact ⟨rfl, rfl⟩

/-! ### The slot of a channel (R272, R273, R276) -/

/-- The table of channel ch moves one slot on, and counts it. -/
def Chip.slotTaken (c : Chip) (ch : Nat) : Chip :=
  ((if (c.memCh ch).pos = 0 then c.cycleBegins ch else c).setMemCh ch
    { c.memCh ch with pos := ((c.memCh ch).pos + 1) % 4096 }).ledAdd (slotReg ch 0)
/-- What a slot of bank b of a class does. -/
def slotWork (cls : SlotClass) (ch b mr4 odecc : Nat) (d : Memory) (c : Chip) : Memory × Chip :=
  match cls with
  | .maint => (d, (c.ledAdd (slotReg ch 4)).maintSlot ch b mr4 odecc)
  | .stream => (d, c.streamSlot d ch b)
  | .capture => captureSlot d c ch b
  | .host => hostSlot d c ch b

/-- A slot: the table moves on, the slot's class works, and a REFpb that is due follows. -/
theorem slotOf_eq (ch mr4 odecc : Nat) (d : Memory) (c : Chip) :
    slotOf ch mr4 odecc d c =
      (let w := slotWork (roundClass ((c.memCh ch).pos / 16)) ch ((c.memCh ch).pos % 16) mr4 odecc d (c.slotTaken ch)
      (w.1, w.2.issueRef ch)) := by
  unfold slotOf slotWork Chip.slotTaken
  rfl

theorem Chip.memCh_slotTaken (c : Chip) (ch k : Nat) :
    (c.slotTaken ch).memCh k =
      if k = ch then { c.memCh ch with pos := ((c.memCh ch).pos + 1) % 4096 } else c.memCh k := by
  unfold Chip.slotTaken
  rw [show ∀ (c : Chip) (a n k : Nat), (c.ledAdd a n).memCh k = c.memCh k from fun _ _ _ _ => rfl, Chip.memCh_setMemCh]
  congr 1
  split <;> rfl

theorem Chip.reg_slotTaken (c : Chip) (ch a : Nat) : (c.slotTaken ch).reg a = c.reg a := by
  unfold Chip.slotTaken
  split <;> rfl

theorem Chip.ledger_slotTaken (c : Chip) (ch a : Nat) :
    (c.slotTaken ch).ledger a = if a = slotReg ch 0 then c.ledger a + 1 else c.ledger a := by
  have hl : ∀ (c' : Chip) (m : MemCh), c'.led = c.led → ((c'.setMemCh ch m).ledAdd (slotReg ch 0)).ledger a =
      if a = slotReg ch 0 then c.ledger a + 1 else c.ledger a := by
    intro c' m h
    rw [Chip.ledger_ledAdd, Chip.ledger_of_led (c := c) (d := c'.setMemCh ch m) h,
      Chip.ledger_of_led (c := c) (d := c'.setMemCh ch m) h]
    split
    · rename_i ha; rw [ha]; rfl
    · rfl
  unfold Chip.slotTaken
  split <;> exact hl _ _ rfl

/-- A slot's work leaves the tables' positions, the refreshes due and the counts of slots taken. -/
theorem slotWork_kept (cls : SlotClass) (ch b mr4 odecc : Nat) (d : Memory) (c : Chip) :
    c.slotsKept 1 (slotWork cls ch b mr4 odecc d c).2 := by
  cases cls with
  | maint =>
    exact .trans (.slotCount c ch 4 (by decide) (by decide)) (.mono (.maintSlot _ ch b mr4 odecc) (by decide))
  | stream => exact .streamSlot c d ch b
  | capture =>
    show c.slotsKept 1 (captureSlot d c ch b).2
    cases h : takeReq (fun _ => !c.dataFull ch) b (c.memCh ch).capture with
    | none => rw [captureSlot_none d c ch b h]; exact .idleSlot c ch (by decide)
    | some p =>
      obtain ⟨-, hk, -⟩ := captureSlot_some d c ch b p.1 p.2 h
      have ht : c.slotsKept 1 ((c.setMemCh ch { c.memCh ch with capture := p.2 }).ledAdd (slotReg ch 2)) :=
        .trans (.setMemCh c ch _ (by rfl)) (.slotCount _ ch 2 (by decide) (by decide))
      exact ht.trans (hk.mono (by decide))
  | host =>
    show c.slotsKept 1 (hostSlot d c ch b).2
    cases h : takeReq (fun _ => !c.dataFull ch) b (c.memCh ch).host with
    | none => rw [hostSlot_none d c ch b h]; exact .idleSlot c ch (by decide)
    | some p =>
      have ht : c.slotsKept 1 ((c.setMemCh ch { c.memCh ch with host := p.2 }).ledAdd (slotReg ch 3)) :=
        .trans (.setMemCh c ch _ (by rfl)) (.slotCount _ ch 3 (by decide) (by decide))
      cases hb : p.1.data with
      | none =>
        rw [hostSlot_read d c ch b p.1 p.2 h hb]
        exact ht.trans (.trans (.count _ _ 1) (.mono (.readIssued _ d ch _) (by decide)))
      | some bs =>
        obtain ⟨-, hk, -⟩ := hostSlot_write d c ch b p.1 p.2 bs h hb
        exact ht.trans (hk.mono (by decide))

/-- Where the table of a slot's channel stands after it, and the refreshes that are due then. -/
theorem slotOf_due (ch mr4 odecc : Nat) (d : Memory) (c : Chip) :
    let m := c.memCh ch
    ((slotOf ch mr4 odecc d c).2.memCh ch).due =
      if m.refDue ≠ 0 ∧ (m.pos + 1) % 4096 % 16 = (m.refNext % 8 + 9) % 16 then
        ((m.pos + 1) % 4096, m.refDue - 1, (m.refNext + 1) % (8 * (c.field 0x00300000 29 29 + 1)))
      else ((m.pos + 1) % 4096, m.refDue, m.refNext) := by
  have hk := slotWork_kept (roundClass ((c.memCh ch).pos / 16)) ch ((c.memCh ch).pos % 16) mr4 odecc d (c.slotTaken ch)
  rw [slotOf_eq]
  generalize slotWork (roundClass ((c.memCh ch).pos / 16)) ch ((c.memCh ch).pos % 16) mr4 odecc d (c.slotTaken ch) = w
    at hk ⊢
  have hd := hk.due ch
  rw [Chip.memCh_slotTaken, if_pos rfl] at hd
  obtain ⟨hp, hr, hn⟩ : (w.2.memCh ch).pos = _ ∧ (w.2.memCh ch).refDue = _ ∧ (w.2.memCh ch).refNext = _ :=
    ⟨congrArg (·.1) hd, congrArg (·.2.1) hd, congrArg (·.2.2) hd⟩
  have hf := Chip.field_of_reg (hk.cfg.trans (c.reg_slotTaken ch _)) 29 29
  have he := w.2.due_issueRef ch
  simp only [hd, hp, hr, hn, hf] at he
  exact he

/-- Where the table of a slot's channel stands after it, and the refreshes that are due then, one by one. -/
theorem slotOf_table (ch mr4 odecc : Nat) (d : Memory) (c : Chip) :
    let m := c.memCh ch
    let ref := m.refDue ≠ 0 ∧ (m.pos + 1) % 4096 % 16 = (m.refNext % 8 + 9) % 16
    let n := (slotOf ch mr4 odecc d c).2.memCh ch
    n.pos = (m.pos + 1) % 4096 ∧ n.refDue = (if ref then m.refDue - 1 else m.refDue) ∧
      n.refNext = (if ref then (m.refNext + 1) % (8 * (c.field 0x00300000 29 29 + 1)) else m.refNext) := by
  intro m ref n
  have h : n.due = if ref then ((m.pos + 1) % 4096, m.refDue - 1, (m.refNext + 1) % (8 * (c.field 0x00300000 29 29 + 1)))
      else ((m.pos + 1) % 4096, m.refDue, m.refNext) := slotOf_due ch mr4 odecc d c
  by_cases hr : ref
  · rw [if_pos hr] at h
    rw [if_pos hr, if_pos hr]
    exact ⟨congrArg (·.1) h, congrArg (·.2.1) h, congrArg (·.2.2) h⟩
  · rw [if_neg hr] at h
    rw [if_neg hr, if_neg hr]
    exact ⟨congrArg (·.1) h, congrArg (·.2.1) h, congrArg (·.2.2) h⟩

/-- The table of another channel stays where it is. -/
theorem slotOf_pos_other (ch mr4 odecc : Nat) (d : Memory) (c : Chip) {k : Nat} (h : k ≠ ch) :
    ((slotOf ch mr4 odecc d c).2.memCh k).pos = (c.memCh k).pos := by
  rw [slotOf_eq]
  simp only
  rw [Chip.pos_issueRef, (slotWork_kept _ ch _ mr4 odecc d (c.slotTaken ch)).pos k, Chip.memCh_slotTaken, if_neg h]

end Sys2Proof.Machine
end

section
/-! SUPPORT. Memory rows: what each class of slot moves and counts, the tables in lockstep, and read data. -/

namespace Sys2Proof.Machine

/-! ### What a slot of each class moves and counts (R273, R274, R292) -/

theorem Chip.ledger_slotTaken_other (c : Chip) (ch : Nat) {j : Nat} (hj : j < 32) (h : j ≠ 0) :
    (c.slotTaken ch).ledger (slotReg ch j) = c.ledger (slotReg ch j) := by
  rw [Chip.ledger_slotTaken, if_neg fun e => h (slotReg_inj hj (by decide) e).2]

theorem Chip.dataFull_slotTaken (c : Chip) (ch : Nat) : (c.slotTaken ch).dataFull ch = c.dataFull ch := by
  unfold Chip.dataFull
  rw [Chip.memCh_slotTaken, if_pos rfl]

/-- A count of a slot's class, after it: the class's own, when the slot's work keeps the first counts but for it. -/
theorem Chip.ledger_counted (c d : Chip) {ch j : Nat} (hch : ch < 8) (hj : j < 7) (h0 : j ≠ 0) (e : Chip)
    (he : e.led = (c.slotTaken ch).led) (hk : (e.ledAdd (slotReg ch j)).slotsKept 7 d) :
    (d.issueRef ch).ledger (slotReg ch j) = c.ledger (slotReg ch j) + 1 := by
  rw [Chip.ledger_issueRef, hk.counts ch hch j hj, Chip.ledger_ledAdd, if_pos rfl, Chip.ledger_of_led he,
    Chip.ledger_slotTaken_other c ch (by omega) h0]
  rfl

theorem Chip.ledger_idle (c : Chip) (ch : Nat) :
    (((c.slotTaken ch).idleSlot ch).issueRef ch).ledger (slotReg ch 6) = c.ledger (slotReg ch 6) + 1 := by
  unfold Chip.idleSlot
  rw [Chip.ledger_issueRef, Chip.ledger_of_led (Chip.count_led _ _ _), Chip.ledger_ledAdd, if_pos rfl,
    Chip.ledger_slotTaken_other c ch (by decide) (by decide)]
  rfl

/-- Counting a slot changes no queue. -/
theorem Chip.memCh_ledAdd_setMemCh (c : Chip) (ch a : Nat) (m : MemCh) :
    ((c.setMemCh ch m).ledAdd a).memCh ch = m := (Chip.memCh_setMemCh c ch ch m).trans (if_pos rfl)
theorem Chip.memCh_counted (c : Chip) (ch a code : Nat) (m : MemCh) :
    (((c.setMemCh ch m).ledAdd a).count code).memCh ch = m := by
  rw [Chip.memCh_of_ch (c := (c.setMemCh ch m).ledAdd a) (by rw [Chip.count_mem]), Chip.memCh_ledAdd_setMemCh]

theorem hostSlot_read_queues (d : Memory) (c : Chip) (ch b : Nat) (r : Req) (rest : List Req)
    (h : takeReq (fun _ => !c.dataFull ch) b (c.memCh ch).host = some (r, rest)) (hb : r.data = none) :
    ((hostSlot d c ch b).2.memCh ch).host = rest ∧
      ((hostSlot d c ch b).2.memCh ch).reads = (c.memCh ch).reads ++ [(r, memReadBytes d r.addr 128)] := by
  have hq := Chip.readIssued_queues (((c.setMemCh ch { c.memCh ch with host := rest }).ledAdd (slotReg ch 3)).count
    (194 + 8 * ch)) d ch r
  rw [Chip.memCh_counted] at hq
  rw [hostSlot_read d c ch b r rest h hb]
  exact hq

/-- Written bytes read back, and no other byte differs. -/
theorem memWriteBytes_exact (d : Memory) (a : Nat) (bs : List Byte) :
    (∀ i, i < bs.length → memRead (memWriteBytes d a bs) (a + i) = bs.getD i 0) ∧
    ∀ k, k < a ∨ a + bs.length ≤ k → memRead (memWriteBytes d a bs) k = memRead d k := by
  refine ⟨fun i hi => ?_, fun k hk => memRead_memWriteBytes_other bs d a k hk⟩
  rw [memRead_memWriteBytes bs d a i hi, List.getD_eq_getElem _ _ hi]

section
variable (c : Chip) (d : Memory) (ch mr4 od : Nat)

theorem slotOf_capture (h : roundClass ((c.memCh ch).pos / 16) = .capture) :
    slotOf ch mr4 od d c =
      (let w := captureSlot d (c.slotTaken ch) ch ((c.memCh ch).pos % 16)
      (w.1, w.2.issueRef ch)) := by
  rw [slotOf_eq, h]; rfl

theorem slotOf_host (h : roundClass ((c.memCh ch).pos / 16) = .host) :
    slotOf ch mr4 od d c =
      (let w := hostSlot d (c.slotTaken ch) ch ((c.memCh ch).pos % 16)
      (w.1, w.2.issueRef ch)) := by
  rw [slotOf_eq, h]; rfl

/-- Maintenance and stream slots write nothing. -/
theorem slotOf_dram (h : roundClass ((c.memCh ch).pos / 16) = .maint ∨ roundClass ((c.memCh ch).pos / 16) = .stream) :
    (slotOf ch mr4 od d c).1 = d := by
  rw [slotOf_eq]
  rcases h with h | h <;> rw [h] <;> rfl

theorem slotOf_maint (hch : ch < 8) (h : roundClass ((c.memCh ch).pos / 16) = .maint) :
    (slotOf ch mr4 od d c).2.ledger (slotReg ch 4) = c.ledger (slotReg ch 4) + 1 := by
  rw [slotOf_eq, h]
  exact Chip.ledger_counted c _ hch (by decide) (by decide) _ rfl (.maintSlot _ ch _ mr4 od)

theorem slotOf_capture_idle (h : roundClass ((c.memCh ch).pos / 16) = .capture)
    (ht : takeReq (fun _ => !c.dataFull ch) ((c.memCh ch).pos % 16) (c.memCh ch).capture = none) :
    (slotOf ch mr4 od d c).1 = d ∧
      (slotOf ch mr4 od d c).2.ledger (slotReg ch 6) = c.ledger (slotReg ch 6) + 1 := by
  have hi := captureSlot_none d (c.slotTaken ch) ch ((c.memCh ch).pos % 16)
    (by rw [Chip.dataFull_slotTaken, Chip.memCh_slotTaken, if_pos rfl]; exact ht)
  rw [slotOf_capture c d ch mr4 od h, hi]
  exact ⟨rfl, c.ledger_idle ch⟩

theorem slotOf_host_idle (h : roundClass ((c.memCh ch).pos / 16) = .host)
    (ht : takeReq (fun _ => !c.dataFull ch) ((c.memCh ch).pos % 16) (c.memCh ch).host = none) :
    (slotOf ch mr4 od d c).1 = d ∧
      (slotOf ch mr4 od d c).2.ledger (slotReg ch 6) = c.ledger (slotReg ch 6) + 1 := by
  have hi := hostSlot_none d (c.slotTaken ch) ch ((c.memCh ch).pos % 16)
    (by rw [Chip.dataFull_slotTaken, Chip.memCh_slotTaken, if_pos rfl]; exact ht)
  rw [slotOf_host c d ch mr4 od h, hi]
  exact ⟨rfl, c.ledger_idle ch⟩

theorem slotOf_capture_writes (hch : ch < 8) (h : roundClass ((c.memCh ch).pos / 16) = .capture) (r : Req)
    (rest : List Req) (bs : List Byte)
    (ht : takeReq (fun _ => !c.dataFull ch) ((c.memCh ch).pos % 16) (c.memCh ch).capture = some (r, rest))
    (hb : r.data = some bs) :
    let t := slotOf ch mr4 od d c
    (t.2.memCh ch).capture = rest ∧ t.2.ledger (slotReg ch 2) = c.ledger (slotReg ch 2) + 1 ∧
      t.1 = memWriteBytes d r.addr bs := by
  obtain ⟨hd, hk, hq⟩ := captureSlot_some d (c.slotTaken ch) ch ((c.memCh ch).pos % 16) r rest
    (by rw [Chip.dataFull_slotTaken, Chip.memCh_slotTaken, if_pos rfl]; exact ht)
  rw [slotOf_capture c d ch mr4 od h]
  have hcap := (hq.trans (.issueRef _ ch)).capture ch
  rw [Chip.memCh_ledAdd_setMemCh] at hcap
  rw [hb] at hd
  exact ⟨hcap, Chip.ledger_counted c _ hch (by decide) (by decide) _ (by rfl) hk, hd⟩

theorem slotOf_host_writes (hch : ch < 8) (h : roundClass ((c.memCh ch).pos / 16) = .host) (r : Req)
    (rest : List Req) (bs : List Byte)
    (ht : takeReq (fun _ => !c.dataFull ch) ((c.memCh ch).pos % 16) (c.memCh ch).host = some (r, rest))
    (hb : r.data = some bs) :
    let t := slotOf ch mr4 od d c
    (t.2.memCh ch).host = rest ∧ t.2.ledger (slotReg ch 3) = c.ledger (slotReg ch 3) + 1 ∧
      t.1 = memWriteBytes d r.addr bs := by
  obtain ⟨hd, hk, hq⟩ := hostSlot_write d (c.slotTaken ch) ch ((c.memCh ch).pos % 16) r rest bs
    (by rw [Chip.dataFull_slotTaken, Chip.memCh_slotTaken, if_pos rfl]; exact ht) hb
  rw [slotOf_host c d ch mr4 od h]
  have hhost := (hq.trans (.issueRef _ ch)).host ch
  rw [Chip.memCh_ledAdd_setMemCh] at hhost
  exact ⟨hhost, Chip.ledger_counted c _ hch (by decide) (by decide) _ (by rfl) hk, hd⟩

theorem slotOf_host_reads (h : roundClass ((c.memCh ch).pos / 16) = .host) (r : Req) (rest : List Req)
    (ht : takeReq (fun _ => !c.dataFull ch) ((c.memCh ch).pos % 16) (c.memCh ch).host = some (r, rest))
    (hb : r.data = none) :
    let t := slotOf ch mr4 od d c
    t.1 = d ∧ (t.2.memCh ch).host = rest ∧
      (t.2.memCh ch).reads = (c.memCh ch).reads ++ [(r, memReadBytes d r.addr 128)] := by
  have ht' : takeReq (fun _ => !(c.slotTaken ch).dataFull ch) ((c.memCh ch).pos % 16) ((c.slotTaken ch).memCh ch).host =
      some (r, rest) := by
    rw [Chip.dataFull_slotTaken, Chip.memCh_slotTaken, if_pos rfl]; exact ht
  obtain ⟨hh, hr⟩ := hostSlot_read_queues d (c.slotTaken ch) ch _ r rest ht' hb
  rw [Chip.memCh_slotTaken, if_pos rfl] at hr
  rw [slotOf_host c d ch mr4 od h]
  exact ⟨congrArg Prod.fst (hostSlot_read d (c.slotTaken ch) ch _ r rest ht' hb),
    ((Chip.queuesKept.issueRef _ ch).host ch).trans hh, ((Chip.queuesKept.issueRef _ ch).reads ch).trans hr⟩

end

/-! ### The tables in lockstep (R272) -/

/-- What is read of a state is what a step makes of it as often as the steps of a list touch it. -/
theorem foldl_touched {σ α β : Type} (f : σ → α → σ) (v : σ → β) (up : β → β) (p : α → Bool)
    (h : ∀ x a, v (f x a) = if p a then up (v x) else v x) (xs : List α) (x : σ) :
    v (xs.foldl f x) = up^[xs.countP p] (v x) := by
  induction xs generalizing x with
  | nil => rfl
  | cons a xs ih =>
    rw [List.foldl_cons, ih, h, List.countP_cons]
    split
    · rw [Function.iterate_succ_apply]
    · rfl

/-- Where the table of channel k stands, and the slots it has taken. -/
def Chip.slotView (c : Chip) (k : Nat) : Nat × Dword := ((c.memCh k).pos, c.ledger (slotReg k 0))
/-- One slot on. -/
def slotUp (v : Nat × Dword) : Nat × Dword := ((v.1 + 1) % 4096, v.2 + 1)

/-- A slot of one channel moves that channel's table one slot on, and no other. -/
theorem slotView_slotOf (ch mr4 od : Nat) (d : Memory) (c : Chip) {k : Nat} (hk : k < 8) :
    (slotOf ch mr4 od d c).2.slotView k = if ch = k then slotUp (c.slotView k) else c.slotView k := by
  have hw := slotWork_kept (roundClass ((c.memCh ch).pos / 16)) ch ((c.memCh ch).pos % 16) mr4 od d (c.slotTaken ch)
  rw [slotOf_eq]
  unfold Chip.slotView
  rw [Chip.pos_issueRef, Chip.ledger_issueRef, hw.pos k, hw.counts k hk 0 (by decide), Chip.memCh_slotTaken,
    Chip.ledger_slotTaken]
  by_cases h : ch = k
  · subst h; simp only [if_true]; rfl
  · have hr : slotReg k 0 ≠ slotReg ch 0 := fun e => h (slotReg_inj (by decide) (by decide) e).1.symm
    rw [if_neg (Ne.symm h), if_neg hr, if_neg h]

/-- A slot of every channel moves every table one slot on. -/
theorem slotView_slots (ch : Chan) (mr4 : List (BitVec 5)) (od : List Byte) (d : Memory) (c : Chip) (k : Chan) :
    (slots ch mr4 od d c).2.slotView k = slotUp (c.slotView k) := by
  have once : (List.range 8).countP (fun i => decide ((ch.val + i) % 8 = k.val)) = 1 := by
    revert ch k; decide
  have hs : ∀ (x : Memory × Chip) (i : Nat),
      (slotOf ((ch.val + i) % 8) ((mr4[i]?.map (·.toNat)).getD (x.2.lastMr4 ((ch.val + i) % 8)))
        ((od[i]?.map (·.toNat)).getD (x.2.lastOdecc ((ch.val + i) % 8))) x.1 x.2).2.slotView k =
      if decide ((ch.val + i) % 8 = k.val) then slotUp (x.2.slotView k) else x.2.slotView k := by
    intro x i
    rw [slotView_slotOf _ _ _ _ _ k.isLt]
    simp
  have h := foldl_touched _ (fun x : Memory × Chip => x.2.slotView k) slotUp _ hs (List.range 8) (d, c)
  rw [once] at h
  exact h

/-! ### Read data (R283) -/

section
variable (c : Chip) (d : Memory) (ch : Nat) (r : Req) (bs : List Byte) (rest : List (Req × List Byte))
variable (hr : (c.memCh ch).reads = (r, bs) :: rest) (he : c.field 0x00300000 28 28 = 1)
include hr he

/-- With link ECC a read arrives as it was received. -/
theorem memReadData_good :
    memReadData ch .good d c = (c.setMemCh ch { c.memCh ch with reads := rest }).deliver d r false bs := by
  have he' : ∀ m : MemCh, (c.setMemCh ch m).field 0x00300000 28 28 = 1 := fun _ => he
  unfold memReadData
  simp only [hr, he']
  rfl

theorem memReadData_corrected :
    memReadData ch .corrected d c = ((((c.setMemCh ch { c.memCh ch with reads := rest }).cntUp
      (0x00301000 + 0x100 * ch + 0x5C)).count (198 + 8 * ch))).deliver d r false bs := by
  have he' : ∀ m : MemCh, (c.setMemCh ch m).field 0x00300000 28 28 = 1 := fun _ => he
  unfold memReadData
  simp only [hr, he']
  rfl

/-- A read that fails twice is MEM_UNCORR, and arrives poisoned. -/
theorem memReadData_uncorrectable (ht : r.retry = true) :
    ∃ e : Chip, memReadData ch .uncorrectable d c = e.deliver d r true bs ∧ e.waits (srcPhy ch) 0x0012 ∧
      (∀ a, e.reg a = (c.cntUp (0x00301000 + 0x100 * ch + 0x64)).reg a) ∧ e.groups = c.groups := by
  have he' : ∀ m : MemCh, (c.setMemCh ch m).field 0x00300000 28 28 = 1 := fun _ => he
  refine ⟨_, by
    unfold memReadData
    simp only [hr, he', ht]
    rfl, Chip.raiseErr_waits _ _ _ _ _ _, fun a => ?_, ?_⟩
  · rw [Chip.reg_raiseErr]
    unfold Chip.cntUp
    rw [Chip.reg_setReg, Chip.reg_setReg, Chip.reg_guardReject, Chip.reg_guardReject]
    rfl
  · rw [Chip.raiseErr_groups, Chip.cntUp_groups, Chip.guardReject_groups, Chip.setMemCh_groups]

/-- A read that fails once is counted, and waits at the head of its queue to be read again. -/
theorem memReadData_retried_eq (ht : r.retry = false) :
    memReadData ch .uncorrectable d c =
      (let e := (((c.setMemCh ch { c.memCh ch with reads := rest }).guardReject.cntUp
        (0x00301000 + 0x100 * ch + 0x60)).count (199 + 8 * ch))
      let m := e.memCh ch
      let x := { r with retry := true }
      e.setMemCh ch (if r.who.streams then { m with stream := x :: m.stream } else { m with host := x :: m.host })) := by
  have he' : ∀ m : MemCh, (c.setMemCh ch m).field 0x00300000 28 28 = 1 := fun _ => he
  unfold memReadData
  simp only [hr, he', ht]
  rfl

theorem memReadData_retried (ht : r.retry = false) :
    let t := memReadData ch .uncorrectable d c
    (t.memCh ch).reads = rest ∧ c.counted t (0x00301060 + 0x100 * ch) ∧
      (r.who.streams = true → (t.memCh ch).stream = { r with retry := true } :: (c.memCh ch).stream) ∧
      (r.who.streams = false → (t.memCh ch).host = { r with retry := true } :: (c.memCh ch).host) := by
  have ha : 0x00301060 + 0x100 * ch = 0x00301000 + 0x100 * ch + 0x60 := by omega
  have hcount : ∀ m : MemCh, (((c.setMemCh ch m).guardReject.cntUp (0x00301000 + 0x100 * ch + 0x60)).count
      (199 + 8 * ch)).memCh ch = m := fun m => by
    rw [Chip.memCh_of_ch (c := c.setMemCh ch m) (by rw [Chip.count_mem, Chip.cntUp_mem, Chip.guardReject_mem])]
    exact (Chip.memCh_setMemCh c ch ch m).trans (if_pos rfl)
  rw [memReadData_retried_eq c d ch r bs rest hr he ht, ha]
  simp only [hcount, Chip.memCh_setMemCh, if_true]
  refine ⟨?_, ?_, fun hs => by rw [hs]; rfl, fun hs => by rw [hs]; rfl⟩
  · split <;> rfl
  · unfold Chip.counted
    rw [Chip.reg_setMemCh, Chip.reg_count, Chip.reg_cntUp_same, Chip.reg_guardReject, Chip.reg_setMemCh]

end

end Sys2Proof.Machine
end

section
/-! SUPPORT. Memory slots: how the data of a read reaches who asked for it, and the obligation of slots and reads. -/

namespace Sys2Proof.Machine

/-! ### Who receives a read (R283) -/

/-- A line of a fill engine arrives after the lines that came before it. -/
theorem Chip.deliver_fill (c : Chip) (d : Memory) (r : Req) (bad : Bool) (bs : List Byte) {g n i : Nat}
    (h : r.who = .fill g n i) :
    c.deliver d r bad bs = c.setGroup g { c.group g with arrived := (c.group g).arrived ++ [(i, bad, bs)] } := by
  unfold Chip.deliver
  rw [h]

theorem Chip.arrived_deliver_fill {c e : Chip} (he : e.groups = c.groups) (d : Memory) (r : Req) (bad : Bool)
    (bs : List Byte) {g n i : Nat} (h : r.who = .fill g n i) :
    ((e.deliver d r bad bs).group g).arrived = (c.group g).arrived ++ [(i, bad, bs)] := by
  rw [Chip.deliver_fill e d r bad bs h, Chip.group_setGroup, if_pos rfl, Chip.group_of_groups he]

/-- A line of a frozen copy that arrives poisoned spoils the thaw. -/
theorem Chip.deliver_thaw (c : Chip) (d : Memory) (r : Req) (bs : List Byte) {n i : Nat} (h : r.who = .thaw n i) :
    c.deliver d r true bs = c.updCtx n (fun x => { x with thawBad := true }) := by
  unfold Chip.deliver
  rw [h]
  rfl

section
variable (c : Chip) (d : Memory) (ch : Nat) (r : Req) (bs : List Byte) (rest : List (Req × List Byte))
variable (hr : (c.memCh ch).reads = (r, bs) :: rest) (he : c.field 0x00300000 28 28 = 1)
include hr he

theorem memReadData_fill_uncorrectable {g n i : Nat} (hw : r.who = .fill g n i) (ht : r.retry = true) :
    let t := memReadData ch .uncorrectable d c
    c.counted t (0x00301064 + 0x100 * ch) ∧ t.waits (srcPhy ch) 0x0012 ∧
      (t.group g).arrived = (c.group g).arrived ++ [(i, true, bs)] := by
  obtain ⟨e, hd, hwait, hreg, hgroups⟩ := memReadData_uncorrectable c d ch r bs rest hr he ht
  rw [hd]
  refine ⟨?_, ?_, Chip.arrived_deliver_fill hgroups d r true bs hw⟩
  · rw [Chip.deliver_fill e d r true bs hw]
    unfold Chip.counted
    rw [Chip.reg_setGroup, hreg, show 0x00301064 + 0x100 * ch = 0x00301000 + 0x100 * ch + 0x64 by omega,
      Chip.reg_cntUp_same]
  · rw [Chip.deliver_fill e d r true bs hw]
    exact waits_congr rfl hwait

theorem memReadData_fill_corrected {g n i : Nat} (hw : r.who = .fill g n i) :
    let t := memReadData ch .corrected d c
    c.counted t (0x0030105C + 0x100 * ch) ∧ (t.group g).arrived = (c.group g).arrived ++ [(i, false, bs)] := by
  rw [memReadData_corrected c d ch r bs rest hr he]
  refine ⟨?_, Chip.arrived_deliver_fill (by rw [Chip.count_groups, Chip.cntUp_groups, Chip.setMemCh_groups]) d r false
    bs hw⟩
  rw [Chip.deliver_fill _ d r false bs hw]
  unfold Chip.counted
  rw [Chip.reg_setGroup, Chip.reg_count, show 0x0030105C + 0x100 * ch = 0x00301000 + 0x100 * ch + 0x5C by omega,
    Chip.reg_cntUp_same, Chip.reg_setMemCh]

theorem memReadData_fill_good {g n i : Nat} (hw : r.who = .fill g n i) :
    let t := memReadData ch .good d c
    t.regs = c.regs ∧ (t.memCh ch).reads = rest ∧ (t.group g).arrived = (c.group g).arrived ++ [(i, false, bs)] := by
  rw [memReadData_good c d ch r bs rest hr he]
  refine ⟨?_, ?_, Chip.arrived_deliver_fill rfl d r false bs hw⟩
  · rw [Chip.deliver_fill _ d r false bs hw]
    rfl
  · rw [Chip.deliver_fill _ d r false bs hw]
    exact congrArg MemCh.reads ((Chip.memCh_setMemCh c ch ch _).trans (if_pos rfl))

theorem memReadData_thaw_uncorrectable {n i : Nat} (hw : r.who = .thaw n i) (ht : r.retry = true) :
    let t := memReadData ch .uncorrectable d c
    c.counted t (0x00301064 + 0x100 * ch) ∧ t.waits (srcPhy ch) 0x0012 ∧ (t.ctx n).thawBad = true := by
  obtain ⟨e, hd, hwait, hreg, -⟩ := memReadData_uncorrectable c d ch r bs rest hr he ht
  rw [hd, Chip.deliver_thaw e d r bs hw]
  refine ⟨?_, waits_congr rfl hwait, ?_⟩
  · unfold Chip.counted
    rw [Chip.reg_updCtx, hreg, show 0x00301064 + 0x100 * ch = 0x00301000 + 0x100 * ch + 0x64 by omega,
      Chip.reg_cntUp_same]
  · exact congrArg Ctx.thawBad (Chip.ctx_setCtx_same e n _)

end

theorem memReadData_none (c : Chip) (d : Memory) (ch : Nat) (ecc : EccResult) (h : (c.memCh ch).reads = []) :
    memReadData ch ecc d c = c := by
  unfold memReadData
  simp only [h]

/-! ### The obligation -/

/-- Settles O56: a slot's table, its refresh and its class one after another, the eight channels in turn, and a read's
arrival by what it was received as. -/
theorem memorySlots : Obligations.MemorySlots := by
  unfold Obligations.MemorySlots
  refine ⟨fun s ch mr4 od h => ?_, fun s ch mr4 od h => ?_, fun c d ch mr4 od => ?_,
    fun s ch ecc r bs rest hr he hecc ht => ?_, fun s ch r bs rest g n i hr he hw => ⟨fun ht => ?_, ?_, ?_⟩,
    fun s ch r bs rest n i hr he hw ht => ?_, fun s ch ecc hr => ?_⟩
  · refine ⟨s, ?_, rfl⟩
    show s.onBoth (memSlot ch mr4 od) = _
    unfold State.onBoth memSlot
    rw [h]
    rfl
  · have e : exec (.memSlot ch mr4 od) s =
        .next { s with dram := (slots ch mr4 od s.dram s.chip).1, chip := (slots ch mr4 od s.dram s.chip).2 } := by
      show s.onBoth (memSlot ch mr4 od) = _
      unfold State.onBoth memSlot
      rw [h]
      rfl
    refine ⟨_, e, fun k => ?_, rfl⟩
    have hv := slotView_slots ch mr4 od s.dram s.chip k
    exact ⟨congrArg (·.1) hv, congrArg (·.2) hv⟩
  · intro m b any ref t n
    obtain ⟨hpos, hdue, hnext⟩ := slotOf_table ch mr4 od d c
    refine ⟨hpos, hdue, hnext, fun k hk => slotOf_pos_other ch mr4 od d c fun e => hk (Fin.ext e),
      slotOf_dram c d ch mr4 od, slotOf_maint c d ch mr4 od ch.isLt, fun hc r rest bs ht hb => ?_,
      slotOf_capture_idle c d ch mr4 od, slotOf_host_idle c d ch mr4 od, fun hc r rest bs ht hb => ?_,
      slotOf_host_reads c d ch mr4 od⟩
    · obtain ⟨hq, hl, hd⟩ := slotOf_capture_writes c d ch mr4 od ch.isLt hc r rest bs ht hb
      obtain ⟨hin, hout⟩ := memWriteBytes_exact d r.addr bs
      exact ⟨hq, hl, by rw [hd]; exact hin, by rw [hd]; exact hout⟩
    · obtain ⟨hq, hl, hd⟩ := slotOf_host_writes c d ch mr4 od ch.isLt hc r rest bs ht hb
      obtain ⟨hin, hout⟩ := memWriteBytes_exact d r.addr bs
      exact ⟨hq, hl, by rw [hd]; exact hin, by rw [hd]; exact hout⟩
  · rw [hecc]
    obtain ⟨hreads, hcount, hs, hh⟩ := memReadData_retried s.chip s.dram ch r bs rest hr he ht
    exact ⟨_, rfl, hreads, hcount, hs, hh, rfl⟩
  · exact ⟨_, rfl, memReadData_fill_uncorrectable s.chip s.dram ch r bs rest hr he hw ht⟩
  · exact ⟨_, rfl, memReadData_fill_corrected s.chip s.dram ch r bs rest hr he hw⟩
  · exact ⟨_, rfl, memReadData_fill_good s.chip s.dram ch r bs rest hr he hw⟩
  · exact ⟨_, rfl, memReadData_thaw_uncorrectable s.chip s.dram ch r bs rest hr he hw ht⟩
  · refine ⟨s, ?_, rfl⟩
    show s.onMem (memReadData ch ecc) = _
    unfold State.onMem
    rw [memReadData_none s.chip s.dram ch ecc hr]

end Sys2Proof.Machine
end

section
/-! SUPPORT. Acceptance: which event Cirque accepts, and what an acceptance changes beside the effects of its event. -/

namespace Sys2Proof.Machine

/-! ### The numbering (R23) -/

theorem stage_next (q : Cirque) (e : Event) : (stage q e).1.next = q.next := by
  unfold stage
  simp only
  split
  · rfl
  · split <;> rfl

theorem thr_next (is : List Nat) (q : Cirque) : (Chip.count.thr is q).1.next = q.next := by
  induction is generalizing q with
  | nil => rfl
  | cons i is ih => exact (ih _).trans (stage_next q _)

/-- Counting numbers no event. -/
theorem Chip.next_count (c : Chip) (code n : Nat) : (c.count code n).cirque.next = c.cirque.next := by
  have go : ∀ (f : Nat) (c : Chip) (code n : Nat), (Chip.count.go f c code n).cirque.next = c.cirque.next := by
    intro f
    induction f with
    | zero => intro c _ _; rfl
    | succ f ih =>
      intro c code n
      simp only [Chip.count.go]
      split
      · exact thr_next _ _
      · exact (ih _ _ _).trans (thr_next _ _)
  unfold Chip.count
  split
  · rfl
  · exact go 65 c code n

theorem unstage_next (q : Cirque) (p : Nat) : (unstage q p).next = q.next := by
  have go : ∀ (n : Nat) (q : Cirque), (unstage.go p n q).next = q.next := by
    intro n
    induction n with
    | zero => intro q; rfl
    | succ n ih =>
      intro q
      simp only [unstage.go]
      split
      · split
        · exact ih _
        · rfl
      · rfl
  exact go _ q

/-! ### The event in front (R22) -/

/-- The device as the front event of port p leaves its queue, of which es stays. -/
def Chip.evtTaken (c : Chip) (p : Nat) (es : List Event) : Chip :=
  { c with cirque := unstage { c.cirque with
      queues := if es = [] then tabDel c.cirque.queues p else tabSet c.cirque.queues p es
      last := p } p }

theorem linkWrite_none (d : Memory) (c : Chip) (h : c.cirque.linkWrite = []) : linkWrite d c = c := by
  have e : ({ c.cirque with linkWrite := [] } : Cirque) = c.cirque := by rw [← h]
  unfold linkWrite
  rw [h, e]
  rfl

theorem Chip.front.turn {c : Chip} {p : Nat} {e : Event} {es : List Event} (h : c.front p e es) :
    c.cirque.turn = some p := by
  obtain ⟨-, hq, k, hk, rfl, hj⟩ := h
  have hf : (List.range 16).find? (fun i => tabGet [] c.cirque.queues ((c.cirque.last + 1 + i) % 16) != []) = some k :=
    List.find?_range_eq_some.2 ⟨by simp [hq], List.mem_range.2 hk, fun j hjk => by simp [hj j hjk]⟩
  unfold Cirque.turn
  rw [List.find?_map]
  exact congrArg (Option.map fun i => (c.cirque.last + 1 + i) % 16) hf

/-- The event in front is the one accepted. -/
theorem eventAccept_front (d : Memory) (c : Chip) {p : Nat} {e : Event} {es : List Event} (h : c.front p e es) :
    eventAccept d c = (c.evtTaken p es).accept d e := by
  obtain ⟨hl, hq, -⟩ := id h
  unfold eventAccept
  simp only [linkWrite_none d c hl, h.turn, hq]
  rfl

/-! ### The steps of an acceptance (R23, R24, R317) -/

/-- An accepted event is counted before its effects. -/
def Chip.evtCounted (c : Chip) (e : Event) : Chip :=
  (c.setReg64 0x00020010 ((c.reg64 0x00020010 + e.count) % 2 ^ 64)).count 288
/-- An accepted event is numbered and notified after its effects. -/
def Chip.evtNumbered (c : Chip) (e : Event) (seq : Nat) : Chip :=
  let c := { c with cirque := { c.cirque with next := (seq + 1) % 2 ^ 64 } }
  if e.always || bitOf (c.field 0x00310004 31 16) (srcPort e.src) then
    c.notify { seq := seq, frc := c.frc, src := e.src, typ := e.typ, count := e.count }
  else c

/-- The acceptance of an event without a record. -/
theorem Chip.accept_plain (c : Chip) (d : Memory) (e : Event) (h : e.err = none) :
    c.accept d e = (e.acts.foldl (fun b a => b.applyAct d c.cirque.next a) (c.evtCounted e)).evtNumbered e c.cirque.next := by
  unfold Chip.accept
  rw [h]
  rfl

/-- The acceptance of a record that changes nothing else. -/
theorem Chip.accept_record (c : Chip) (d : Memory) (e : Event) (r : ErrInfo) (h : e.err = some r) (ha : e.acts = []) :
    c.accept d e = ((c.evtCounted e).logRecord e r c.cirque.next).evtNumbered e c.cirque.next := by
  unfold Chip.accept
  rw [h, ha]
  rfl

/-- The front event with one effect and no record is accepted. -/
theorem eventAccept_act (s : State) {p : Nat} {e : Event} {es : List Event} (h : s.chip.front p e es) {a : Act}
    (ha : e.acts = [a]) (he : e.err = none) :
    exec .eventAccept s = .next { s with
      chip := (((s.chip.evtTaken p es).evtCounted e).applyAct s.dram s.chip.cirque.next a).evtNumbered e s.chip.cirque.next } := by
  have hn : (s.chip.evtTaken p es).cirque.next = s.chip.cirque.next := unstage_next _ _
  show Host.Outcome.next { s with chip := eventAccept s.dram s.chip } = _
  rw [eventAccept_front _ _ h, Chip.accept_plain _ _ _ he, ha, hn]
  rfl

/-- The front event with a record and no effect is accepted. -/
theorem eventAccept_record (s : State) {p : Nat} {e : Event} {es : List Event} (h : s.chip.front p e es) {r : ErrInfo}
    (ha : e.acts = []) (he : e.err = some r) :
    exec .eventAccept s = .next { s with
      chip := (((s.chip.evtTaken p es).evtCounted e).logRecord e r s.chip.cirque.next).evtNumbered e s.chip.cirque.next } := by
  have hn : (s.chip.evtTaken p es).cirque.next = s.chip.cirque.next := unstage_next _ _
  show Host.Outcome.next { s with chip := eventAccept s.dram s.chip } = _
  rw [eventAccept_front _ _ h, Chip.accept_record _ _ _ r he ha, hn]

/-! ### What counting the accepted event leaves -/

/-- An accepted event, taken and counted, changes registers, counters and Cirque only. -/
theorem Chip.evtCounted_shape (c : Chip) (p : Nat) (es : List Event) (e : Event) :
    ∃ r k q, (c.evtTaken p es).evtCounted e = { c with regs := r, counters := k, cirque := q } := by
  obtain ⟨k, q, h⟩ := Chip.count_shape ((c.evtTaken p es).setReg64 0x00020010
    (((c.evtTaken p es).reg64 0x00020010 + e.count) % 2 ^ 64)) 288 1
  exact ⟨_, k, q, h⟩

theorem Chip.reg_evtCounted (c : Chip) (p : Nat) (es : List Event) (e : Event) {a : Nat} (h : a ≠ 0x00020010)
    (h' : a ≠ 0x00020014) : ((c.evtTaken p es).evtCounted e).reg a = c.reg a := by
  unfold Chip.evtCounted
  rw [Chip.reg_count, Chip.reg_setReg64_other _ _ h h']
  rfl

theorem Chip.next_evtCounted (c : Chip) (p : Nat) (es : List Event) (e : Event) :
    ((c.evtTaken p es).evtCounted e).cirque.next = c.cirque.next :=
  (Chip.next_count _ _ _).trans (unstage_next _ _)

/-! ### What numbering and notifying leave -/

/-- NOTIFY changes ports, notify queue, gap and LNK_NOTIFY_GAP only. -/
theorem Chip.notify_shape (c : Chip) (n : Note) :
    ∃ r ps ns nd g, c.notify n = { c with regs := r, ports := ps, notes := ns, notesDue := nd, gap := g } := by
  have made : ∀ c : Chip, ∃ ps, c.makeNotify = { c with ports := ps } := Chip.notifyFrames_shape 187
  unfold Chip.notify
  split
  · exact ⟨_, _, _, _, _, rfl⟩
  · simp only
    split
    · obtain ⟨ps, h⟩ := made { c with notes := c.notes ++ [n], notesDue := (c.notes ++ [n]).length }
      exact ⟨_, ps, _, _, _, h⟩
    · obtain ⟨ps, h⟩ := made { c with notes := c.notes ++ [n] }
      exact ⟨_, ps, _, _, _, h⟩

theorem Chip.reg_notify (c : Chip) (n : Note) {a : Nat} (h : a ≠ 0x00310018) : (c.notify n).reg a = c.reg a := by
  unfold Chip.notify
  split
  · exact Chip.reg_cntUp_other c 1 h
  · exact Chip.reg_of_regs ((Chip.makeNotify_regs _).trans (by split <;> rfl)) a

theorem Chip.evtNumbered_shape (c : Chip) (e : Event) (seq : Nat) :
    ∃ r ps ns nd g, c.evtNumbered e seq = { c with
      regs := r, ports := ps, notes := ns, notesDue := nd, gap := g
      cirque := { c.cirque with next := (seq + 1) % 2 ^ 64 } } := by
  unfold Chip.evtNumbered
  simp only
  split
  · obtain ⟨r, ps, ns, nd, g, h⟩ := Chip.notify_shape { c with cirque := { c.cirque with next := (seq + 1) % 2 ^ 64 } }
      { seq := seq, frc := c.frc, src := e.src, typ := e.typ, count := e.count }
    exact ⟨r, ps, ns, nd, g, h⟩
  · exact ⟨_, _, _, _, _, rfl⟩

theorem Chip.reg_evtNumbered (c : Chip) (e : Event) (seq : Nat) {a : Nat} (h : a ≠ 0x00310018) :
    (c.evtNumbered e seq).reg a = c.reg a := by
  unfold Chip.evtNumbered
  simp only
  split
  · exact Chip.reg_notify _ _ h
  · rfl

/-- An event that the notify queue does not take is only numbered. -/
theorem Chip.evtNumbered_silent (c : Chip) (e : Event) (seq : Nat) (ha : e.always = false)
    (hm : bitOf (c.field 0x00310004 31 16) (srcPort e.src) = false) :
    c.evtNumbered e seq = { c with cirque := { c.cirque with next := (seq + 1) % 2 ^ 64 } } := by
  unfold Chip.evtNumbered
  simp only
  rw [if_neg]
  rw [ha, Bool.false_or]
  exact fun h => Bool.false_ne_true (hm.symm.trans h)

@[simp] theorem Chip.evtNumbered_dev (c : Chip) (e : Event) (seq : Nat) : (c.evtNumbered e seq).dev = c.dev := by
  obtain ⟨r, ps, ns, nd, g, h⟩ := c.evtNumbered_shape e seq; rw [h]
@[simp] theorem Chip.evtNumbered_led (c : Chip) (e : Event) (seq : Nat) : (c.evtNumbered e seq).led = c.led := by
  obtain ⟨r, ps, ns, nd, g, h⟩ := c.evtNumbered_shape e seq; rw [h]
@[simp] theorem Chip.evtNumbered_cmd (c : Chip) (e : Event) (seq : Nat) : (c.evtNumbered e seq).cmd = c.cmd := by
  obtain ⟨r, ps, ns, nd, g, h⟩ := c.evtNumbered_shape e seq; rw [h]
@[simp] theorem Chip.evtNumbered_sched (c : Chip) (e : Event) (seq : Nat) : (c.evtNumbered e seq).sched = c.sched := by
  obtain ⟨r, ps, ns, nd, g, h⟩ := c.evtNumbered_shape e seq; rw [h]
@[simp] theorem Chip.evtNumbered_tdc (c : Chip) (e : Event) (seq : Nat) : (c.evtNumbered e seq).tdc = c.tdc := by
  obtain ⟨r, ps, ns, nd, g, h⟩ := c.evtNumbered_shape e seq; rw [h]

/-- What waits with its effect keeps waiting as an event is numbered. -/
theorem Chip.waitsTo_evtNumbered (c : Chip) (e : Event) (seq : Nat) {src typ : Nat} {a : Act} (h : c.waitsTo src typ a) :
    (c.evtNumbered e seq).waitsTo src typ a := by
  obtain ⟨r, ps, ns, nd, g, hs⟩ := c.evtNumbered_shape e seq
  rw [hs]
  exact h

theorem Chip.ended_evtNumbered (c : Chip) (e : Event) (seq : Nat) {h : CmdHdr} {st : Nat} {r : List Word} {state : Nat}
    (he : c.ended h st r state) : (c.evtNumbered e seq).ended h st r state :=
  ⟨(congrArg CmdProc.done (c.evtNumbered_cmd e seq)).trans he.1, c.waitsTo_evtNumbered e seq he.2⟩

end Sys2Proof.Machine
end

section
/-! SUPPORT. Tdc state: the pins' measurements, their ledgers and result registers, and what a shot leaves of them. -/

namespace Sys2Proof.Machine

/-! ### Reading ledgers and register pairs -/

@[simp] theorem Chip.ledger_count (c : Chip) (code n a : Nat) : (c.count code n).ledger a = c.ledger a :=
  Chip.ledger_of_led (by simp) a
@[simp] theorem Chip.ledger_raise (c : Chip) (src typ : Nat) (acts : List Act) (err : Option ErrInfo) (info a : Nat) :
    (c.raise src typ acts err info).ledger a = c.ledger a := Chip.ledger_of_led (by simp) a
@[simp] theorem Chip.ledger_setReg (c : Chip) (a : Nat) (w : Word) (b : Nat) : (c.setReg a w).ledger b = c.ledger b := rfl
@[simp] theorem Chip.ledger_setReg64 (c : Chip) (a v b : Nat) : (c.setReg64 a v).ledger b = c.ledger b := rfl

theorem Chip.reg64_of_regs {c d : Chip} (h : d.regs = c.regs) (a : Nat) : d.reg64 a = c.reg64 a := by
  unfold Chip.reg64 Chip.reg
  rw [h]

/-- A pair reads back what was written to it, modulo 2^64. -/
theorem Chip.reg64_setReg64 (c : Chip) (a v : Nat) : (c.setReg64 a v).reg64 a = v % 2 ^ 64 := by
  unfold Chip.reg64
  rw [Chip.reg_setReg64_low, Chip.reg_setReg64_high, BitVec.toNat_ofNat, BitVec.toNat_ofNat]
  omega

theorem Chip.reg64_setReg64_other (c : Chip) {a b : Nat} (v : Nat) (h : b + 4 < a ∨ a + 4 < b) :
    (c.setReg64 a v).reg64 b = c.reg64 b := by
  unfold Chip.reg64
  rw [Chip.reg_setReg64_other _ _ (by omega) (by omega), Chip.reg_setReg64_other _ _ (by omega) (by omega)]

theorem Chip.reg64_setReg_other (c : Chip) {a b : Nat} (w : Word) (h : b + 4 < a ∨ a < b) :
    (c.setReg a w).reg64 b = c.reg64 b := by
  unfold Chip.reg64
  rw [Chip.reg_setReg_other _ _ (by omega), Chip.reg_setReg_other _ _ (by omega)]

theorem codeOf_lt (n : Nat) (x : Int) : codeOf n x < 2 ^ n := by
  have h : (0 : Int) < (2 ^ n : Nat) := by positivity
  have h1 := Int.emod_lt_of_pos x h
  have h0 := Int.emod_nonneg x h.ne'
  unfold codeOf
  omega

/-! ### The measurement of a pin -/

theorem Chip.tdcPin_of_tdc {c d : Chip} (h : d.tdc = c.tdc) (p : Nat) : d.tdcPin p = c.tdcPin p := by
  unfold Chip.tdcPin
  rw [h]

@[simp] theorem Chip.tdcPin_setTdc_same (c : Chip) (p : Nat) (t : Tdc) : (c.setTdc p t).tdcPin p = t :=
  tabGet_tabSet_same _ _ _ _
theorem Chip.tdcPin_setTdc (c : Chip) (p q : Nat) (t : Tdc) :
    (c.setTdc p t).tdcPin q = if q = p then t else c.tdcPin q := tabGet_tabSet _ _ _ _ _
@[simp] theorem Chip.tdcPin_ledAdd (c : Chip) (a n p : Nat) : (c.ledAdd a n).tdcPin p = c.tdcPin p := rfl
@[simp] theorem Chip.tdcPin_setReg64 (c : Chip) (a v p : Nat) : (c.setReg64 a v).tdcPin p = c.tdcPin p := rfl
@[simp] theorem Chip.ledger_setTdc (c : Chip) (p : Nat) (t : Tdc) (a : Nat) : (c.setTdc p t).ledger a = c.ledger a := rfl
@[simp] theorem Chip.reg64_setTdc (c : Chip) (p : Nat) (t : Tdc) (a : Nat) : (c.setTdc p t).reg64 a = c.reg64 a := rfl

/-- Ledgers of one pin differ. -/
theorem tdcLed_ne {i j : Nat} (p : Nat) (h : i ≠ j) : tdcLed p i ≠ tdcLed p j := by
  unfold tdcLed
  omega

/-! ### Shot records (R226) -/

/-- A new record changes Moraine's ledgers and those of its site only. -/
theorem Chip.ledger_makeRec_other (c : Chip) (i : Nat) (r : Rec) {a : Nat} (hm : ∀ j < 12, a ≠ morLed j)
    (hs : ∀ j < 6, a ≠ siteLed r.site j) : (c.makeRec i r).ledger a = c.ledger a := by
  have h4 := hm 4 (by decide)
  have h7 := hm 7 (by decide)
  have h8 := hm 8 (by decide)
  have h10 := hm 10 (by decide)
  have s0 := hs 0 (by decide)
  have s3 := hs 3 (by decide)
  have s4 := hs 4 (by decide)
  have hd : ∀ c : Chip, (c.dropFull i r.site (some 10)).ledger a = c.ledger a := fun c => by
    unfold Chip.dropFull
    simp only
    split <;> simp only [Chip.ledger_count, Chip.ledger_ledAdd, h7, s3, h10, if_false]
  unfold Chip.makeRec
  simp only
  split
  · rw [hd, Chip.ledger_ledAdd, if_neg s0, Chip.ledger_ledAdd, if_neg h4]
  · show ((((c.ledAdd (morLed 4)).ledAdd (siteLed r.site 0)).ledAdd (morLed 8)).ledAdd (siteLed r.site 4)).ledger a = _
    rw [Chip.ledger_ledAdd, if_neg s4, Chip.ledger_ledAdd, if_neg h8, Chip.ledger_ledAdd, if_neg s0, Chip.ledger_ledAdd,
      if_neg h4]

/-- A shot record changes ledgers, Moraine, counters and Cirque only. -/
theorem Chip.shotRec_shape (c : Chip) (p : Nat) (t : Tdc) (noStop atRes : Bool) (res : Int) :
    ∃ l m k q, c.shotRec p t noStop atRes res = { c with led := l, mor := m, counters := k, cirque := q } := by
  unfold Chip.shotRec
  split
  · exact ⟨_, _, _, _, rfl⟩
  · exact Chip.makeRec_shape _ _ _

theorem Chip.tdcPin_shotRec (c : Chip) (p : Nat) (t : Tdc) (noStop atRes : Bool) (res : Int) (q : Nat) :
    (c.shotRec p t noStop atRes res).tdcPin q = c.tdcPin q := by
  obtain ⟨l, m, k, e, h⟩ := c.shotRec_shape p t noStop atRes res
  exact Chip.tdcPin_of_tdc (by rw [h]) q
theorem Chip.reg64_shotRec (c : Chip) (p : Nat) (t : Tdc) (noStop atRes : Bool) (res : Int) (a : Nat) :
    (c.shotRec p t noStop atRes res).reg64 a = c.reg64 a := by
  obtain ⟨l, m, k, e, h⟩ := c.shotRec_shape p t noStop atRes res
  exact Chip.reg64_of_regs (by rw [h]) a
theorem Chip.ledger_shotRec (c : Chip) (p : Nat) (t : Tdc) (noStop atRes : Bool) (res : Int) (q i : Nat) :
    (c.shotRec p t noStop atRes res).ledger (tdcLed q i) = c.ledger (tdcLed q i) := by
  unfold Chip.shotRec
  split
  · rfl
  · refine Chip.ledger_makeRec_other _ _ _ (fun j hj => ?_) (fun j hj => ?_)
    · unfold tdcLed tdcB morLed
      omega
    · have hsite : c.laneSite t.ctx p < 128 := Nat.mod_lt _ (by decide)
      show tdcLed q i ≠ siteLed (c.laneSite t.ctx p) j
      unfold tdcLed tdcB siteLed
      omega

/-! ### Shots of the budget (R220, R225) -/

/-- An AUTO_SNAP starts or waits; the pins measure on. -/
theorem Chip.tdcAutoSnap_shape (c : Chip) (p : Nat) :
    ∃ b w, c.tdcAutoSnap p = { c with tdc := { c.tdc with busy := b, waiting := w } } := by
  unfold Chip.tdcAutoSnap
  split
  · exact ⟨_, _, rfl⟩
  · exact ⟨_, _, rfl⟩

/-- The measurement with its budget, arming and ending changed. -/
def Tdc.budgeted (t : Tdc) (left : Nat) (armed ending : Bool) : Tdc :=
  { t with left := left, armed := armed, ending := ending }

/-- A shot of the budget changes neither registers nor ledgers, and of its pin the budget and the arming only. -/
theorem Chip.tdcShot_spec (c : Chip) (p : Nat) :
    (c.tdcShot p).regs = c.regs ∧ (c.tdcShot p).led = c.led ∧
    ∃ l a e, (c.tdcShot p).tdcPin p = (c.tdcPin p).budgeted l a e := by
  have kept : ∃ l a e, c.tdcPin p = (c.tdcPin p).budgeted l a e := ⟨_, _, _, rfl⟩
  unfold Chip.tdcShot
  simp only
  split
  · exact ⟨rfl, rfl, kept⟩
  · split
    · exact ⟨rfl, rfl, _, _, _, Chip.tdcPin_setTdc_same _ _ _⟩
    · rw [Chip.raise_regs, Chip.raise_led, Chip.tdcPin_of_tdc (Chip.raise_tdc _ _ _ _ _ _)]
      split
      · obtain ⟨b, w, h⟩ := Chip.tdcAutoSnap_shape
          (c.setTdc p { c.tdcPin p with left := 0, armed := false, ending := true }) p
        rw [h]
        exact ⟨rfl, rfl, _, _, _, Chip.tdcPin_setTdc_same _ _ _⟩
      · exact ⟨rfl, rfl, _, _, _, Chip.tdcPin_setTdc_same _ _ _⟩

/-! ### An attempt without a stop (R217, R220) -/

/-- The measurement as its attempt ends without a stop; `shot` starts the dead time. -/
def Tdc.unstopped (t : Tdc) (shot : Bool) : Tdc :=
  { t with shots := t.shots + 1, opened := false, dead := t.started || shot }
/-- The pin's PENDING attempt counts as NO_STOP, which the last result shows. -/
def Chip.tdcMissed (c : Chip) (p : Nat) (t : Tdc) : Chip :=
  (((c.ledSub (tdcLed p 4)).ledAdd (tdcLed p 2)).setTdc p t).setReg64 (tdcB p + 8) (2 ^ 62)
/-- The record of a missed shot is made, and the next attempt starts anew. -/
def Chip.tdcMissRecorded (c : Chip) (p : Nat) (t : Tdc) : Chip :=
  let c := c.shotRec p t true false 0
  c.setTdc p { c.tdcPin p with early := if t.flag 2 then 0 else (c.tdcPin p).early, started := false }

theorem Chip.tdcNoStop_eq (c : Chip) (p : Nat) (shot : Bool) :
    c.tdcNoStop p shot =
      (let t := (c.tdcPin p).unstopped shot
      let d := (c.tdcMissed p t).tdcMissRecorded p t
      if shot then d.tdcShot p else d) := rfl

theorem Chip.tdcMissed_spec (c : Chip) (p : Nat) (t : Tdc) :
    (c.tdcMissed p t).tdcPin p = t ∧
    (c.tdcMissed p t).ledger (tdcLed p 2) = c.ledger (tdcLed p 2) + 1 ∧
    (c.tdcMissed p t).ledger (tdcLed p 4) = c.ledger (tdcLed p 4) - 1 ∧
    (c.tdcMissed p t).reg64 (tdcB p + 8) = 2 ^ 62 := by
  have h24 : tdcLed p 2 ≠ tdcLed p 4 := tdcLed_ne p (by decide)
  unfold Chip.tdcMissed
  refine ⟨by simp, ?_, ?_, (Chip.reg64_setReg64 _ _ _).trans (by decide)⟩
  · simp [Chip.ledger_ledAdd, Chip.ledger_ledSub, h24]
  · simp [Chip.ledger_ledAdd, Chip.ledger_ledSub, h24.symm]

theorem Chip.tdcMissRecorded_spec (c : Chip) (p : Nat) (t : Tdc) :
    ((c.tdcMissRecorded p t).tdcPin p).opened = (c.tdcPin p).opened ∧
    (∀ i, (c.tdcMissRecorded p t).ledger (tdcLed p i) = c.ledger (tdcLed p i)) ∧
    ∀ a, (c.tdcMissRecorded p t).reg64 a = c.reg64 a := by
  unfold Chip.tdcMissRecorded
  refine ⟨?_, fun i => Chip.ledger_shotRec _ _ _ _ _ _ _ _, fun a => Chip.reg64_shotRec _ _ _ _ _ _ _⟩
  simp only [Chip.tdcPin_setTdc_same, Chip.tdcPin_shotRec]

/-- An attempt that ends NO_STOP is open no more, counts from PENDING to NO_STOP, and the last result shows it. -/
theorem Chip.tdcNoStop_spec (c : Chip) (p : Nat) (shot : Bool) :
    ((c.tdcNoStop p shot).tdcPin p).opened = false ∧
    (c.tdcNoStop p shot).ledger (tdcLed p 2) = c.ledger (tdcLed p 2) + 1 ∧
    (c.tdcNoStop p shot).ledger (tdcLed p 4) = c.ledger (tdcLed p 4) - 1 ∧
    (c.tdcNoStop p shot).reg64 (tdcB p + 8) = 2 ^ 62 := by
  obtain ⟨mpin, m2, m4, mreg⟩ := c.tdcMissed_spec p ((c.tdcPin p).unstopped shot)
  obtain ⟨ropen, rled, rreg⟩ :=
    (c.tdcMissed p ((c.tdcPin p).unstopped shot)).tdcMissRecorded_spec p ((c.tdcPin p).unstopped shot)
  rw [mpin] at ropen
  rw [Chip.tdcNoStop_eq]
  cases shot with
  | false => exact ⟨ropen, (rled 2).trans m2, (rled 4).trans m4, (rreg _).trans mreg⟩
  | true =>
    obtain ⟨sregs, sled, l, a, e, spin⟩ := Chip.tdcShot_spec
      ((c.tdcMissed p ((c.tdcPin p).unstopped true)).tdcMissRecorded p ((c.tdcPin p).unstopped true)) p
    exact ⟨(congrArg Tdc.opened spin).trans ropen, (Chip.ledger_of_led sled _).trans ((rled 2).trans m2),
      (Chip.ledger_of_led sled _).trans ((rled 4).trans m4), (Chip.reg64_of_regs sregs _).trans ((rreg _).trans mreg)⟩

/-! ### Results (R213, R223) -/

/-- The statistics with a further result. -/
def joinAcc (a : TdcAcc) (x : Int) (atRes : Bool) (lsb : Nat) : TdcAcc :=
  { a with count := a.count + 1, sum := a.sum + x, sumsq := a.sumsq + (x * x).toNat
           min := if a.count = 0 then x else min a.min x, max := if a.count = 0 then x else max a.max x
           atRes := a.atRes || atRes, lsbs := lsb :: a.lsbs.filter (fun l => l ≠ lsb) }
/-- The measurement whose conversion gave a result. -/
def Tdc.resulted (t : Tdc) (x : Int) (atRes : Bool) : Tdc :=
  { t with conv := none, acc := joinAcc t.acc x atRes t.lsb, shots := t.shots + 1 }
/-- The last result shows the code, and LSB its flag. -/
def Chip.tdcShown (c : Chip) (p : Nat) (x : Int) (atRes : Bool) : Chip :=
  (if atRes then c.setField (tdcB p) 27 27 1 else c).setReg64 (tdcB p + 8) (b2n atRes * 2 ^ 61 + codeOf 48 x)
/-- The record of a shot is made, and the next attempt starts anew. -/
def Chip.tdcHitRecorded (c : Chip) (p : Nat) (t : Tdc) (x : Int) (atRes : Bool) : Chip :=
  (c.shotRec p { t with started := true } false atRes x).setTdc p
    { t with early := if t.flag 2 then 0 else t.early, started := false }

/-- A conversion that arrives while the statistics have room joins them. -/
theorem tdcResult_joins (p : Nat) (c : Chip) (raw : Int) (atRes : Bool) (h : (c.tdcPin p).conv = some (raw, atRes))
    (hc : (c.tdcPin p).acc.count < 2 ^ 32) :
    tdcResult p c =
      (let x : Int := if atRes then 0 else raw - c.tdcZero p (c.tdcPin p).startSrc (c.tdcPin p).stopSrc
      let t := (c.tdcPin p).resulted x atRes
      (((c.setTdc p t).tdcShown p x atRes).tdcHitRecorded p t x atRes).tdcShot p) := by
  have hfull : decide (2 ^ 32 ≤ (c.tdcPin p).acc.count) = false := decide_eq_false (by omega)
  unfold tdcResult
  simp only [h, hfull, Bool.false_eq_true, if_false]
  rfl

theorem tdcResult_none (p : Nat) (c : Chip) (h : (c.tdcPin p).conv = none) : tdcResult p c = c := by
  unfold tdcResult
  simp only [h]

theorem Chip.tdcHitRecorded_spec (c : Chip) (p : Nat) (t : Tdc) (x : Int) (atRes : Bool) :
    (c.tdcHitRecorded p t x atRes).tdcPin p = { t with early := if t.flag 2 then 0 else t.early, started := false } ∧
    ∀ a, (c.tdcHitRecorded p t x atRes).reg64 a = c.reg64 a :=
  ⟨Chip.tdcPin_setTdc_same _ _ _, fun _ => Chip.reg64_shotRec _ _ _ _ _ _ _⟩

theorem Chip.reg64_tdcShown (c : Chip) (p : Nat) (x : Int) (atRes : Bool) :
    (c.tdcShown p x atRes).reg64 (tdcB p + 8) = b2n atRes * 2 ^ 61 + codeOf 48 x := by
  have hx := codeOf_lt 48 x
  have hb : b2n atRes ≤ 1 := by cases atRes <;> decide
  unfold Chip.tdcShown
  rw [Chip.reg64_setReg64]
  omega

/-- A result leaves no conversion, statistics that it has joined, and its code in the last result. -/
theorem tdcResult_spec (p : Nat) (c : Chip) (raw : Int) (atRes : Bool) (h : (c.tdcPin p).conv = some (raw, atRes))
    (hc : (c.tdcPin p).acc.count < 2 ^ 32) :
    let x : Int := if atRes then 0 else raw - c.tdcZero p (c.tdcPin p).startSrc (c.tdcPin p).stopSrc
    ((tdcResult p c).tdcPin p).conv = none ∧
    ((tdcResult p c).tdcPin p).acc = joinAcc (c.tdcPin p).acc x atRes (c.tdcPin p).lsb ∧
    (tdcResult p c).reg64 (tdcB p + 8) = b2n atRes * 2 ^ 61 + codeOf 48 x := by
  intro x
  have e : tdcResult p c = ((((c.setTdc p ((c.tdcPin p).resulted x atRes)).tdcShown p x atRes).tdcHitRecorded p
      ((c.tdcPin p).resulted x atRes) x atRes).tdcShot p) := tdcResult_joins p c raw atRes h hc
  obtain ⟨hpin, hreg⟩ := Chip.tdcHitRecorded_spec ((c.setTdc p ((c.tdcPin p).resulted x atRes)).tdcShown p x atRes) p
    ((c.tdcPin p).resulted x atRes) x atRes
  obtain ⟨sregs, -, l, a, y, spin⟩ := Chip.tdcShot_spec (((c.setTdc p ((c.tdcPin p).resulted x atRes)).tdcShown p x
    atRes).tdcHitRecorded p ((c.tdcPin p).resulted x atRes) x atRes) p
  rw [hpin] at spin
  rw [e]
  exact ⟨congrArg Tdc.conv spin, congrArg Tdc.acc spin,
    (Chip.reg64_of_regs sregs _).trans ((hreg _).trans (Chip.reg64_tdcShown _ _ _ _))⟩

end Sys2Proof.Machine
end

section
/-! SUPPORT. Tdc rows: starts, stops, results and dead times of a pin, snapshots of the accumulators, and the obligation. -/

namespace Sys2Proof.Machine

/-! ### Starts (R214, R215) -/

theorem tdcStart_dead (p u : Nat) (c : Chip) (hl : c.tdcStartLive p u = true) (hd : (c.tdcPin p).dead = true) :
    tdcStart p u c = c.cntUp (tdcB p + 0x74) := by
  unfold tdcStart
  simp only [hl, hd, Bool.not_true, Bool.false_eq_true, if_false, if_true]

theorem tdcStart_begins (p u : Nat) (c : Chip) (hl : c.tdcStartLive p u = true) (hd : (c.tdcPin p).dead = false)
    (ho : (c.tdcPin p).opened = true) (hs : (c.tdcPin p).started = false) :
    tdcStart p u c = c.setTdc p { c.tdcPin p with
      started := true, startFrame := (c.group (p / 8)).frame - 1, startNs := stampNs (c.timeAtTm c.tm)
      startFrac := stampFrac (c.timeAtTm c.tm), refAt := c.tm } := by
  unfold tdcStart
  simp only [hl, hd, ho, hs, Bool.not_true, Bool.not_false, Bool.and_self, Bool.false_eq_true, if_false, if_true]

theorem tdcStart_off (p u : Nat) (c : Chip) (hl : c.tdcStartLive p u = false) : tdcStart p u c = c := by
  unfold tdcStart
  simp only [hl, Bool.not_false, if_true]

/-! ### Stops (R217, R220) -/

/-- A stop edge of an open attempt: early before a start or before OPEN, accepted up to CLOSE, late after it. -/
theorem tdcStop_open (p coarse k : Nat) (c : Chip) (hl : c.tdcStopLive p = true) (hd : (c.tdcPin p).dead = false)
    (ho : (c.tdcPin p).opened = true) :
    tdcStop p coarse k c =
      (let t := c.tdcPin p
      let raw := coarse * 62500 + c.fine p t.lsb k
      if t.started = false ∨ raw < t.openFs then c.tdcEarly p (t.refAt * 62500 + raw)
      else if raw ≤ t.closeFs then
        (((c.ledSub (tdcLed p 4)).ledAdd (tdcLed p 1)).count (16 * (p / 8) + 12)).setTdc p { t with
          opened := false, dead := true, conv := some ((raw : Int), decide (raw < 500 * (t.lsb + 1))) }
      else c.tdcNoStop p true) := by
  unfold tdcStop
  simp only [hl, hd, ho, Bool.not_true, Bool.or_self, Bool.false_eq_true, if_false]
  cases hs : (c.tdcPin p).started with
  | false => simp only [Bool.not_false, if_true, true_or]
  | true => simp only [Bool.not_true, Bool.false_eq_true, if_false, false_or, reduceCtorEq]

theorem tdcStop_off (p coarse k : Nat) (c : Chip) (hl : c.tdcStopLive p = false) : tdcStop p coarse k c = c := by
  unfold tdcStop
  simp only [hl, Bool.not_false, Bool.or_true, if_true]

/-- An early stop that is not one with the last is counted, and its attempt opens again. -/
theorem Chip.tdcEarly_counts (c : Chip) (p fs : Nat)
    (h : ∀ m, (c.tdcPin p).earlyAt = some m → m + 500000 ≤ fs ∨ fs + 500000 ≤ m) :
    c.tdcEarly p fs =
      (((((c.setTdc p { c.tdcPin p with early := (c.tdcPin p).early + 1, earlyAt := some fs }).ledSub
        (tdcLed p 4)).ledAdd (tdcLed p 3)).count (16 * (p / 8) + 13)).ledAdd (tdcLed p 0)).ledAdd (tdcLed p 4) := by
  unfold Chip.tdcEarly
  simp only
  rw [if_neg]
  cases hm : (c.tdcPin p).earlyAt with
  | none => exact Bool.false_ne_true
  | some m =>
    have := h m hm
    simp only [Bool.and_eq_true, decide_eq_true_eq]
    omega

/-- Early stops less than 0.5 ns apart are one. -/
theorem Chip.tdcEarly_merges (c : Chip) (p fs m : Nat) (hm : (c.tdcPin p).earlyAt = some m) (h : fs < m + 500000)
    (h' : m < fs + 500000) : c.tdcEarly p fs = c := by
  unfold Chip.tdcEarly
  simp only [hm, h, h', decide_true, Bool.and_self, if_true]

/-- A counted early stop moves its attempt from PENDING to EARLY_STOP, and opens another. -/
theorem Chip.tdcEarly_spec (c : Chip) (p fs : Nat)
    (h : ∀ m, (c.tdcPin p).earlyAt = some m → m + 500000 ≤ fs ∨ fs + 500000 ≤ m) :
    (c.tdcEarly p fs).tdcPin p = { c.tdcPin p with early := (c.tdcPin p).early + 1, earlyAt := some fs } ∧
    (c.tdcEarly p fs).ledger (tdcLed p 0) = c.ledger (tdcLed p 0) + 1 ∧
    (c.tdcEarly p fs).ledger (tdcLed p 3) = c.ledger (tdcLed p 3) + 1 ∧
    (c.tdcEarly p fs).ledger (tdcLed p 4) = c.ledger (tdcLed p 4) := by
  have h03 : tdcLed p 0 ≠ tdcLed p 3 := tdcLed_ne p (by decide)
  have h04 : tdcLed p 0 ≠ tdcLed p 4 := tdcLed_ne p (by decide)
  have h34 : tdcLed p 3 ≠ tdcLed p 4 := tdcLed_ne p (by decide)
  rw [c.tdcEarly_counts p fs h]
  refine ⟨?_, ?_, ?_, ?_⟩
  · rw [Chip.tdcPin_ledAdd, Chip.tdcPin_ledAdd, Chip.tdcPin_of_tdc (Chip.count_tdc _ _ _)]
    exact Chip.tdcPin_setTdc_same _ _ _
  · simp [Chip.ledger_ledAdd, Chip.ledger_ledSub, h03, h04]
  · simp [Chip.ledger_ledAdd, Chip.ledger_ledSub, h03.symm, h34]
  · simp [Chip.ledger_ledAdd, Chip.ledger_ledSub, h04.symm, h34.symm]

theorem tdcStop_accepts (p coarse k : Nat) (c : Chip) (hl : c.tdcStopLive p = true) (hd : (c.tdcPin p).dead = false)
    (ho : (c.tdcPin p).opened = true) (hs : (c.tdcPin p).started = true)
    (h1 : (c.tdcPin p).openFs ≤ coarse * 62500 + c.fine p (c.tdcPin p).lsb k)
    (h2 : coarse * 62500 + c.fine p (c.tdcPin p).lsb k ≤ (c.tdcPin p).closeFs) :
    (tdcStop p coarse k c).tdcPin p = { c.tdcPin p with
      opened := false, dead := true
      conv := some (((coarse * 62500 + c.fine p (c.tdcPin p).lsb k : Nat) : Int),
        decide (coarse * 62500 + c.fine p (c.tdcPin p).lsb k < 500 * ((c.tdcPin p).lsb + 1))) } ∧
    (tdcStop p coarse k c).ledger (tdcLed p 1) = c.ledger (tdcLed p 1) + 1 ∧
    (tdcStop p coarse k c).ledger (tdcLed p 4) = c.ledger (tdcLed p 4) - 1 := by
  have h14 : tdcLed p 1 ≠ tdcLed p 4 := tdcLed_ne p (by decide)
  rw [tdcStop_open p coarse k c hl hd ho]
  simp only [hs, reduceCtorEq, Nat.not_lt.2 h1, or_self, if_false, h2, if_true]
  refine ⟨Chip.tdcPin_setTdc_same _ _ _, ?_, ?_⟩
  · simp [Chip.ledger_ledAdd, Chip.ledger_ledSub, h14]
  · simp [Chip.ledger_ledAdd, Chip.ledger_ledSub, h14.symm]

theorem tdcStop_early (p coarse k : Nat) (c : Chip) (hl : c.tdcStopLive p = true) (hd : (c.tdcPin p).dead = false)
    (ho : (c.tdcPin p).opened = true)
    (h : (c.tdcPin p).started = false ∨ coarse * 62500 + c.fine p (c.tdcPin p).lsb k < (c.tdcPin p).openFs) :
    tdcStop p coarse k c =
      c.tdcEarly p ((c.tdcPin p).refAt * 62500 + (coarse * 62500 + c.fine p (c.tdcPin p).lsb k)) :=
  (tdcStop_open p coarse k c hl hd ho).trans (if_pos h)

theorem tdcStop_late (p coarse k : Nat) (c : Chip) (hl : c.tdcStopLive p = true) (hd : (c.tdcPin p).dead = false)
    (ho : (c.tdcPin p).opened = true) (hs : (c.tdcPin p).started = true)
    (h1 : (c.tdcPin p).openFs ≤ coarse * 62500 + c.fine p (c.tdcPin p).lsb k)
    (h2 : (c.tdcPin p).closeFs < coarse * 62500 + c.fine p (c.tdcPin p).lsb k) :
    tdcStop p coarse k c = c.tdcNoStop p true := by
  rw [tdcStop_open p coarse k c hl hd ho]
  simp only [hs, reduceCtorEq, Nat.not_lt.2 h1, or_self, if_false, Nat.not_le.2 h2]

theorem tdcWindowClose_open (p : Nat) (c : Chip) (ho : (c.tdcPin p).opened = true) (hs : (c.tdcPin p).started = true) :
    tdcWindowClose p c = c.tdcNoStop p true := by
  unfold tdcWindowClose
  simp only [ho, hs, Bool.and_self, if_true]

/-! ### The end of a dead time (R214, R220) -/

/-- The dead time of an armed pin ends with a new attempt. -/
theorem tdcDeadTimeEnd_opens (p : Nat) (c : Chip) (hd : (c.tdcPin p).dead = true) (hc : (c.tdcPin p).conv = none)
    (ha : (c.tdcPin p).armed = true) :
    (tdcDeadTimeEnd p c).tdcPin p = { c.tdcPin p with
      dead := false, opened := true, started := false, refAt := c.tm, earlyAt := none } ∧
    (tdcDeadTimeEnd p c).ledger (tdcLed p 0) = c.ledger (tdcLed p 0) + 1 ∧
    (tdcDeadTimeEnd p c).ledger (tdcLed p 4) = c.ledger (tdcLed p 4) + 1 := by
  have h04 : tdcLed p 0 ≠ tdcLed p 4 := tdcLed_ne p (by decide)
  unfold tdcDeadTimeEnd Chip.tdcOpen
  simp only [hd, tdcResult_none p c hc, ha, Chip.tdcPin_setTdc_same, Chip.tdcPin_ledAdd, Bool.not_true,
    Bool.false_eq_true, if_false, if_true]
  refine ⟨rfl, ?_, ?_⟩
  · simp [Chip.ledger_ledAdd, h04]
  · simp [Chip.ledger_ledAdd, h04.symm]

/-! ### TDC_SNAP_CMD (R225) -/

theorem findReg_tdcSnapCmd (c : Chip) : c.findReg 0x0022000C = some ({ base := 0x0022000C }, [], 0) :=
  (Chip.findReg_plain c (.inl (by decide))).trans (by decide)

/-- A write of TDC_SNAP_CMD completes with what the command answers. -/
theorem execTdcSnapGo_runs (s : State) (q : Port) (tag : Byte) (v : Word) (st : Nat) (d : Chip)
    (h : s.chip.writable q tag) (hw : (s.chip.tagged q tag).tdcSnapCmd v.toNat = (st, d)) (hst : st ≠ Machine.waits) :
    exec (.tdcSnapGo q tag v) s = .next { s with chip := d.reply q tag st } :=
  State.onReg_word s q tag 0x0022000C v _ _ 0 st d h (by decide) (by decide) (findReg_tdcSnapCmd _) rfl hw hst

theorem Chip.tdcSnapCmd_goes (c : Chip) (v : Nat) (h0 : bitOf v 0 = true) (hb : c.tdc.busy = none)
    (h1 : bitOf v 1 = false ∨ c.tdcMask.any (fun p => c.unitOwned (·.tdcPins) p) = false) :
    c.tdcSnapCmd v = (0, c.tdcSnapStart c.tdcMask (bitOf v 1) true) := by
  have hno : (bitOf v 1 && c.tdcMask.any (fun p => c.unitOwned (·.tdcPins) p)) = false := Bool.and_eq_false_iff.2 h1
  unfold Chip.tdcSnapCmd
  simp only [h0, hb, hno, Bool.not_true, Option.isSome_none, Bool.or_self, Bool.false_eq_true, if_false]

theorem Chip.tdcSnapCmd_busy (c : Chip) (v : Nat) (h0 : bitOf v 0 = true) (hb : c.tdc.busy ≠ none) :
    c.tdcSnapCmd v = (1, c) := by
  unfold Chip.tdcSnapCmd
  simp only [h0, Option.isSome_iff_ne_none.2 hb, Bool.not_true, Bool.true_or, Bool.false_eq_true, if_false, if_true]

/-- Accumulators that are cleared are empty, and nothing but the measurements changes. -/
theorem Chip.foldl_clearAcc (ps : List Nat) (c : Chip) :
    let d := ps.foldl (fun c p => c.setTdc p { c.tdcPin p with acc := {} }) c
    (∀ p, p ∈ ps ∨ (c.tdcPin p).acc = {} → (d.tdcPin p).acc = {}) ∧ ∃ t, d = { c with tdc := { c.tdc with pins := t } } := by
  induction ps generalizing c with
  | nil => exact ⟨fun p h => h.resolve_left List.not_mem_nil, _, rfl⟩
  | cons p ps ih =>
    obtain ⟨hacc, t, hd⟩ := ih (c.setTdc p { c.tdcPin p with acc := {} })
    refine ⟨fun r hr => hacc r ?_, t, hd⟩
    by_cases hp : r = p
    · exact .inr (by rw [hp, Chip.tdcPin_setTdc_same])
    · rw [Chip.tdcPin_setTdc, if_neg hp]
      exact hr.imp_left fun h => (List.mem_cons.1 h).resolve_left hp

/-- A snapshot copies the accumulators of its pins, and clears them on request. -/
theorem Chip.tdcSnapStart_spec (c : Chip) (ps : List Nat) (clear byGo : Bool) :
    ∃ t, c.tdcSnapStart ps clear byGo = { c with tdc := { c.tdc with
        pins := t
        busy := some { seq := c.lastSeq, byGo := byGo, copies := ps.map (fun p => (p, (c.tdcPin p).acc)) } } } ∧
      (clear = true → ∀ p ∈ ps, ((c.tdcSnapStart ps clear byGo).tdcPin p).acc = {}) ∧ (clear = false → t = c.tdc.pins) := by
  cases clear with
  | false => exact ⟨_, rfl, fun h => absurd h Bool.false_ne_true, fun _ => rfl⟩
  | true =>
    obtain ⟨hacc, t, hd⟩ := Chip.foldl_clearAcc ps { c with tdc := { c.tdc with
      busy := some { seq := c.lastSeq, byGo := byGo, copies := ps.map (fun p => (p, (c.tdcPin p).acc)) } } }
    exact ⟨t, hd, fun _ p hp => hacc p (.inl hp), fun h => absurd h.symm Bool.false_ne_true⟩

theorem tdcSnapGo_goes (s : State) (q : Port) (tag : Byte) (v : Word) (h : s.chip.writable q tag)
    (h0 : bitOf v.toNat 0 = true) (hb : s.chip.tdc.busy = none)
    (h1 : bitOf v.toNat 1 = false ∨ s.chip.tdcMask.any (fun p => s.chip.unitOwned (·.tdcPins) p) = false) :
    ∃ t, exec (.tdcSnapGo q tag v) s = .next t ∧ t.chip.completed q tag 0 ∧
      t.chip.tdc.busy = some
        { seq := s.chip.lastSeq, byGo := true, copies := s.chip.tdcMask.map (fun p => (p, (s.chip.tdcPin p).acc)) } ∧
      (bitOf v.toNat 1 = true → ∀ p ∈ s.chip.tdcMask, (t.chip.tdcPin p).acc = {}) ∧
      (bitOf v.toNat 1 = false → t.chip.tdc.pins = s.chip.tdc.pins) := by
  obtain ⟨t, hd, hclear, hkeep⟩ := (s.chip.tagged q tag).tdcSnapStart_spec s.chip.tdcMask (bitOf v.toNat 1) true
  have htdc := Chip.reply_tdc ((s.chip.tagged q tag).tdcSnapStart s.chip.tdcMask (bitOf v.toNat 1) true) q tag 0 0 0 []
  refine ⟨_, execTdcSnapGo_runs s q tag v 0 _ h ((s.chip.tagged q tag).tdcSnapCmd_goes v.toNat h0 hb h1) (by decide),
    Chip.write_completed _ _ 0 h.1 ((congrArg Chip.ports hd).trans rfl),
    (congrArg TdcBlk.busy (htdc.trans (congrArg Chip.tdc hd))), fun hc p hp => ?_, fun hc => ?_⟩
  · exact (congrArg Tdc.acc (Chip.tdcPin_of_tdc htdc p)).trans (hclear hc p hp)
  · exact (congrArg TdcBlk.pins (htdc.trans (congrArg Chip.tdc hd))).trans (hkeep hc)

theorem tdcSnapGo_busy (s : State) (q : Port) (tag : Byte) (v : Word) (h : s.chip.writable q tag)
    (h0 : bitOf v.toNat 0 = true) (hb : s.chip.tdc.busy ≠ none) :
    ∃ t, exec (.tdcSnapGo q tag v) s = .next t ∧ t.chip.completed q tag 1 ∧ t.chip.tdc = s.chip.tdc :=
  ⟨_, execTdcSnapGo_runs s q tag v 1 _ h ((s.chip.tagged q tag).tdcSnapCmd_busy v.toNat h0 hb) (by decide),
    Chip.write_completed _ _ 1 h.1 rfl, Chip.reply_tdc (s.chip.tagged q tag) q tag 1 0 0 []⟩

/-! ### TDC_SNAP_DONE (R224, R225) -/

theorem tdcSnapDone_raises (c : Chip) (sn : TdcSnap) (hb : c.tdc.busy = some sn) (hd : sn.done = false) :
    tdcSnapDone c = ({ c with tdc := { c.tdc with busy := some { sn with done := true } } } : Chip).raise (srcOf 15 56)
      0x8031 [.tdcResults] none sn.seq := by
  unfold tdcSnapDone
  simp only [hb, hd, Bool.false_eq_true, if_false]

theorem tdcSnapDone_idle (c : Chip) (hb : c.tdc.busy = none) : tdcSnapDone c = c := by
  unfold tdcSnapDone
  simp only [hb]

/-- The results of a pin stand in its registers 0x40 to 0x70. -/
theorem Chip.reg_tdcResults_other (c : Chip) (p seq : Nat) (a : TdcAcc) {b : Nat}
    (h : b < tdcB p + 0x40 ∨ tdcB p + 0x74 ≤ b) : (c.tdcResults p seq a).reg b = c.reg b := by
  unfold Chip.tdcResults
  simp only
  rw [Chip.reg_setReg_other _ _ (by omega)]
  repeat rw [Chip.reg_setReg64_other _ _ (by omega) (by omega)]

/-- The result registers of pin `p` show the accumulators `a` under the sequence number `seq`. -/
def Chip.tdcShows (c : Chip) (p seq : Nat) (a : TdcAcc) : Prop :=
  c.reg64 (tdcB p + 0x40) = a.count % 2 ^ 64 ∧ c.reg64 (tdcB p + 0x48) = codeOf 64 a.mean ∧
    c.reg64 (tdcB p + 0x68) = seq % 2 ^ 64

theorem Chip.tdcShows_congr {c d : Chip} {p seq : Nat} {a : TdcAcc}
    (h : ∀ o, 0x40 ≤ o → o < 0x74 → d.reg (tdcB p + o) = c.reg (tdcB p + o)) (hc : c.tdcShows p seq a) :
    d.tdcShows p seq a := by
  have h64 : ∀ o, 0x40 ≤ o → o + 4 < 0x74 → d.reg64 (tdcB p + o) = c.reg64 (tdcB p + o) := fun o h1 h2 => by
    unfold Chip.reg64
    rw [h o h1 (by omega), Nat.add_assoc, h (o + 4) (by omega) h2]
  obtain ⟨hcount, hmean, hseq⟩ := hc
  exact ⟨(h64 0x40 (by decide) (by decide)).trans hcount, (h64 0x48 (by decide) (by decide)).trans hmean,
    (h64 0x68 (by decide) (by decide)).trans hseq⟩

theorem Chip.tdcResults_spec (c : Chip) (p seq : Nat) (a : TdcAcc) :
    (c.tdcResults p seq a).tdcShows p seq a := by
  unfold Chip.tdcShows Chip.tdcResults
  simp only
  refine ⟨?_, ?_, ?_⟩ <;> rw [Chip.reg64_setReg_other _ _ (by omega)]
  · repeat rw [Chip.reg64_setReg64_other _ _ (by omega)]
    exact Chip.reg64_setReg64 _ _ _
  · repeat rw [Chip.reg64_setReg64_other _ _ (by omega)]
    rw [Chip.reg64_setReg64, Nat.mod_eq_of_lt (codeOf_lt 64 _)]
  · exact Chip.reg64_setReg64 _ _ _

theorem Chip.reg_foldl_tdcResults_other (seq : Nat) (es : List (Nat × TdcAcc)) (c : Chip) {b : Nat}
    (h : ∀ e ∈ es, b < tdcB e.1 + 0x40 ∨ tdcB e.1 + 0x74 ≤ b) :
    (es.foldl (fun c e => c.tdcResults e.1 seq e.2) c).reg b = c.reg b := by
  induction es generalizing c with
  | nil => rfl
  | cons e es ih =>
    rw [List.foldl_cons, ih _ fun x hx => h x (List.mem_cons_of_mem _ hx)]
    exact Chip.reg_tdcResults_other c e.1 seq e.2 (h e List.mem_cons_self)

/-- Pins have their own result registers. -/
theorem tdcB_apart {p r o : Nat} (h : p ≠ r) (h1 : 0x40 ≤ o) (h2 : o < 0x74) :
    tdcB p + o < tdcB r + 0x40 ∨ tdcB r + 0x74 ≤ tdcB p + o := by
  unfold tdcB
  omega

/-- The results of each pin stand as its copy gives them: every pin is copied once. -/
theorem Chip.foldl_tdcResults_spec (seq : Nat) (es : List (Nat × TdcAcc)) (c : Chip) (hn : (es.map (·.1)).Nodup) :
    ∀ e ∈ es, (es.foldl (fun c e => c.tdcResults e.1 seq e.2) c).tdcShows e.1 seq e.2 := by
  induction es generalizing c with
  | nil => exact fun e he => absurd he List.not_mem_nil
  | cons x es ih =>
    obtain ⟨hx, hn⟩ := List.nodup_cons.1 hn
    intro e he
    rw [List.foldl_cons]
    rcases List.mem_cons.1 he with rfl | he
    · have hne : ∀ r ∈ es, e.1 ≠ r.1 := fun r hr hp => hx (List.mem_map.2 ⟨r, hr, hp.symm⟩)
      exact Chip.tdcShows_congr (fun o h1 h2 => Chip.reg_foldl_tdcResults_other seq es _ fun r hr =>
        tdcB_apart (hne r hr) h1 h2) (c.tdcResults_spec e.1 seq e.2)
    · exact ih _ hn e he

/-- The device with the results of a snapshot in their registers. -/
def Chip.tdcShownAll (c : Chip) (sn : TdcSnap) : Chip :=
  let c := sn.copies.foldl (fun c e => c.tdcResults e.1 sn.seq e.2) c
  if sn.byGo then c.setReg64 0x00220018 sn.seq else c

theorem Chip.tdcResultsOut_done (c : Chip) (sn : TdcSnap) (hb : c.tdc.busy = some sn) (hd : sn.done = true)
    (hw : (c.tdcShownAll sn).tdc.waiting = []) :
    c.tdcResultsOut = { c.tdcShownAll sn with tdc := { (c.tdcShownAll sn).tdc with busy := none } } := by
  unfold Chip.tdcShownAll at hw ⊢
  unfold Chip.tdcResultsOut
  simp only [hb, hd, hw, Bool.not_true, Bool.false_eq_true, if_false]

theorem Chip.tdc_tdcResults (c : Chip) (p seq : Nat) (a : TdcAcc) : (c.tdcResults p seq a).tdc = c.tdc := by
  unfold Chip.tdcResults
  simp only [Chip.setReg_tdc, Chip.setReg64_tdc]

theorem Chip.tdc_foldl_tdcResults (seq : Nat) (es : List (Nat × TdcAcc)) (c : Chip) :
    (es.foldl (fun c e => c.tdcResults e.1 seq e.2) c).tdc = c.tdc := by
  induction es generalizing c with
  | nil => rfl
  | cons e es ih => rw [List.foldl_cons, ih, Chip.tdc_tdcResults]

theorem Chip.tdc_tdcShownAll (c : Chip) (sn : TdcSnap) : (c.tdcShownAll sn).tdc = c.tdc := by
  unfold Chip.tdcShownAll
  simp only
  split
  · rw [Chip.setReg64_tdc, Chip.tdc_foldl_tdcResults]
  · exact Chip.tdc_foldl_tdcResults _ _ _

theorem Chip.tdcShownAll_spec (c : Chip) (sn : TdcSnap) (hn : (sn.copies.map (·.1)).Nodup) :
    (∀ e ∈ sn.copies, (c.tdcShownAll sn).tdcShows e.1 sn.seq e.2) ∧
    (sn.byGo = true → (c.tdcShownAll sn).reg64 0x00220018 = sn.seq % 2 ^ 64) := by
  have hf := Chip.foldl_tdcResults_spec sn.seq sn.copies c hn
  unfold Chip.tdcShownAll
  generalize sn.copies.foldl (fun c e => c.tdcResults e.1 sn.seq e.2) c = d at hf ⊢
  cases sn.byGo with
  | false => exact ⟨hf, fun h => absurd h Bool.false_ne_true⟩
  | true =>
    simp only [if_true]
    refine ⟨fun e he => ?_, fun _ => Chip.reg64_setReg64 _ _ _⟩
    have hb : ∀ o, 0x00220018 + 4 < tdcB e.1 + o := fun o => by unfold tdcB; omega
    refine Chip.tdcShows_congr (fun o _ _ => ?_) (hf e he)
    have h := hb o
    exact Chip.reg_setReg64_other _ _ (by omega) (by omega)

/-- The results stand, and BUSY ends, as TDC_SNAP_DONE is accepted. -/
theorem eventAccept_tdcResults (s : State) (n : Nat) (e : Event) (es : List Event) (sn : TdcSnap) (h : s.chip.front n e es)
    (ha : e.acts = [.tdcResults]) (he : e.err = none) (hb : s.chip.tdc.busy = some sn) (hd : sn.done = true)
    (hw : s.chip.tdc.waiting = []) (hn : (sn.copies.map (·.1)).Nodup) :
    ∃ t, exec .eventAccept s = .next t ∧ t.chip.tdc.busy = none ∧
      (∀ e ∈ sn.copies, t.chip.tdcShows e.1 sn.seq e.2) ∧
      (sn.byGo = true → t.chip.reg64 0x00220018 = sn.seq % 2 ^ 64) := by
  obtain ⟨r, k, q, hc⟩ := s.chip.evtCounted_shape n es e
  generalize hx : (s.chip.evtTaken n es).evtCounted e = x at hc
  have hxt : x.tdc = s.chip.tdc := by rw [hc]
  have hout : x.tdcResultsOut = { x.tdcShownAll sn with tdc := { (x.tdcShownAll sn).tdc with busy := none } } :=
    x.tdcResultsOut_done sn (by rw [hxt, hb]) hd (by rw [Chip.tdc_tdcShownAll, hxt, hw])
  have hreg : ∀ a, a ≠ 0x00310018 →
      ((x.applyAct s.dram s.chip.cirque.next .tdcResults).evtNumbered e s.chip.cirque.next).reg a =
        (x.tdcShownAll sn).reg a := fun a h => by
    rw [Chip.reg_evtNumbered _ _ _ h]
    show x.tdcResultsOut.reg a = _
    rw [hout]
    rfl
  obtain ⟨hres, hgo⟩ := x.tdcShownAll_spec sn hn
  refine ⟨_, eventAccept_act s h ha he, ?_, fun e he => ?_, fun hg => ?_⟩
  · rw [hx]
    refine (congrArg TdcBlk.busy (Chip.evtNumbered_tdc _ _ _)).trans ?_
    show x.tdcResultsOut.tdc.busy = none
    rw [hout]
  · rw [hx]
    refine Chip.tdcShows_congr (fun o h1 h2 => hreg _ ?_) (hres e he)
    unfold tdcB
    omega
  · rw [hx]
    refine Eq.trans ?_ (hgo hg)
    unfold Chip.reg64
    rw [hreg _ (by decide), hreg _ (by decide)]

/-! ### The obligation -/

/-- Settles O51: every start and stop falls under one branch of its row, by the state of the attempt and the window's
bounds, and a snapshot's results stand pin by pin. -/
theorem tdcAttempts : Obligations.TdcAttempts := by
  unfold Obligations.TdcAttempts
  refine ⟨?_, ?_, ?_, ?_, ?_, ?_, ?_, ?_, ?_, ?_, tdcSnapGo_goes, tdcSnapGo_busy, ?_, ?_, eventAccept_tdcResults⟩
  · intro s p u x hl hd
    refine ⟨_, State.onChip_of_eq s (tdcStart_dead p u s.chip hl hd), Chip.reg_cntUp_same _ _ _, rfl⟩
  · intro s p u x hl hd ho hs
    refine ⟨_, State.onChip_of_eq s (tdcStart_begins p u s.chip hl hd ho hs), ?_⟩
    have hp := fun y => Chip.tdcPin_setTdc_same s.chip p y
    exact ⟨congrArg Tdc.started (hp _), congrArg Tdc.startFrame (hp _), congrArg Tdc.startNs (hp _),
      congrArg Tdc.startFrac (hp _), rfl, rfl⟩
  · intro s p coarse k x raw hl hd ho hs h1 h2
    obtain ⟨hpin, hled1, hled4⟩ := tdcStop_accepts p coarse k s.chip hl hd ho hs h1 h2
    exact ⟨_, rfl, congrArg Tdc.opened hpin, congrArg Tdc.dead hpin, congrArg Tdc.conv hpin, hled1, hled4⟩
  · intro s p coarse k x hl hd ho h now
    have e := tdcStop_early p coarse k s.chip hl hd ho h
    refine ⟨fun hm => ⟨_, State.onChip_of_eq s e, Chip.tdcEarly_spec s.chip p _ hm⟩, fun m hm h1 h2 => ?_⟩
    exact ⟨_, State.onChip_of_eq s (e.trans (Chip.tdcEarly_merges s.chip p _ m hm h1 h2)), rfl⟩
  · intro s p coarse k x raw hl hd ho hs h1 h2
    exact ⟨_, State.onChip_of_eq s (tdcStop_late p coarse k s.chip hl hd ho hs h1 h2), Chip.tdcNoStop_spec _ _ _⟩
  · intro s p u coarse k
    exact ⟨fun hl => ⟨_, State.onChip_of_eq s (tdcStart_off p u s.chip hl), rfl⟩,
      fun hl => ⟨_, State.onChip_of_eq s (tdcStop_off p coarse k s.chip hl), rfl⟩⟩
  · intro s p ho hs
    exact ⟨_, State.onChip_of_eq s (tdcWindowClose_open p s.chip ho hs), Chip.tdcNoStop_spec _ _ _⟩
  · intro s p raw atRes x res hc hlt
    obtain ⟨hconv, hacc, hreg⟩ := tdcResult_spec p s.chip raw atRes hc hlt
    exact ⟨_, rfl, hconv, congrArg TdcAcc.count hacc, congrArg TdcAcc.sum hacc, congrArg TdcAcc.sumsq hacc,
      congrArg TdcAcc.atRes hacc, hreg⟩
  · intro s p hc
    exact ⟨_, State.onChip_of_eq s (tdcResult_none p s.chip hc), rfl⟩
  · intro s p x hd hc ha
    exact ⟨_, rfl, tdcDeadTimeEnd_opens p s.chip hd hc ha⟩
  · intro s sn hb hd
    refine ⟨_, State.onChip_of_eq s (tdcSnapDone_raises s.chip sn hb hd), ?_, ?_, ?_⟩
    · exact congrArg TdcBlk.busy (Chip.raise_tdc _ _ _ _ _ _)
    · exact Chip.raise_waitsTo _ _ _ _ _ _ (by decide) List.mem_cons_self
    · exact Chip.raise_regs _ _ _ _ _ _
  · intro s hb
    exact ⟨_, State.onChip_of_eq s (tdcSnapDone_idle s.chip hb), rfl⟩

end Sys2Proof.Machine
end

section
/-! SUPPORT. Snapshots: the frame of a snapshot, and what SNAPSHOT and SNAP_RELEASE leave of the device. -/

namespace Sys2Proof.Machine

/-! ### Bytes of words -/

@[simp] theorem toLe_length (n v : Nat) : (toLe n v).length = n := by
  induction n generalizing v with
  | zero => rfl
  | succ n ih => rw [toLe, List.length_cons, ih]

theorem wordsToBytes_flatMap (f : Nat → List Word) (as : List Nat) :
    wordsToBytes (as.flatMap f) = as.flatMap fun a => wordsToBytes (f a) :=
  List.flatMap_assoc

theorem wordsToBytes_length (ws : List Word) : (wordsToBytes ws).length = 4 * ws.length := by
  induction ws with
  | nil => rfl
  | cons w ws ih =>
    rw [show wordsToBytes (w :: ws) = toLe 4 w.toNat ++ wordsToBytes ws from rfl, List.length_append, ih, toLe_length,
      List.length_cons]
    omega

/-! ### The SNAP-class registers in ascending order (R410) -/

/-- The addresses `as` rise, from `lo` and below `hi`. -/
def risesIn (as : List Nat) (lo hi : Nat) : Prop := as.Pairwise (· < ·) ∧ ∀ a ∈ as, lo ≤ a ∧ a < hi

theorem risesIn.append {as bs : List Nat} {lo mid hi mid' : Nat} (ha : risesIn as lo mid) (hb : risesIn bs mid' hi)
    (hlo : lo ≤ mid) (hm : mid ≤ mid') (hhi : mid' ≤ hi) : risesIn (as ++ bs) lo hi := by
  obtain ⟨ha, ha'⟩ := ha
  obtain ⟨hb, hb'⟩ := hb
  refine ⟨List.pairwise_append.2 ⟨ha, hb, fun a h b h' => ?_⟩, fun x hx => ?_⟩
  · have := ha' a h
    have := hb' b h'
    omega
  · rcases List.mem_append.1 hx with h | h
    · have := ha' x h
      omega
    · have := hb' x h
      omega

/-- Entries of `n` pairs each, `stride` apart and not overlapping. -/
theorem snapRange_rises (base m stride n : Nat) (h : 8 * n ≤ stride) :
    risesIn (snapRange base m stride n) base (base + stride * m) := by
  unfold snapRange
  induction m with
  | zero => exact ⟨List.Pairwise.nil, fun a ha => absurd ha (by simp)⟩
  | succ m ih =>
    rw [List.range_succ, List.flatMap_append, List.flatMap_singleton]
    refine ih.append (mid' := base + stride * m) ⟨?_, fun a ha => ?_⟩ (by omega) le_rfl (by rw [Nat.mul_succ]; omega)
    · exact List.pairwise_map.2 (List.pairwise_lt_range.imp fun hij => by omega)
    · obtain ⟨i, hi, rfl⟩ := List.mem_map.1 ha
      have := List.mem_range.1 hi
      rw [Nat.mul_succ]
      omega

theorem snapRange_one (base n stride : Nat) : snapRange base 1 0 n = snapRange base 1 stride n := rfl

theorem snapRange_length (base m stride n : Nat) : (snapRange base m stride n).length = m * n := by
  unfold snapRange
  simp [List.length_flatMap]

theorem snapAddrs_length : snapAddrs.length = 1552 := by
  unfold snapAddrs
  simp only [List.length_append, snapRange_length]

theorem snapAddrs_rises : risesIn snapAddrs 0x00100110 0x00341818 := by
  unfold snapAddrs
  rw [snapRange_one _ _ 64, snapRange_one _ _ 96, snapRange_one _ _ 96]
  have h1 := snapRange_rises 0x00100110 12 0x10000 7 (by decide)
  have h2 := snapRange_rises 0x00200040 1 64 8 (by decide)
  have h3 := snapRange_rises 0x00200200 1 96 12 (by decide)
  have h4 := snapRange_rises 0x00210008 1 96 12 (by decide)
  have h5 := snapRange_rises 0x00211000 128 0x40 6 (by decide)
  have h6 := snapRange_rises 0x00221080 96 0x100 5 (by decide)
  have h7 := snapRange_rises 0x00230158 4 0x100 5 (by decide)
  have h8 := snapRange_rises 0x00301008 8 0x100 10 (by decide)
  have h9 := snapRange_rises 0x00311100 3 0x20 4 (by decide)
  have h10 := snapRange_rises 0x00312100 3 0x20 4 (by decide)
  have h11 := snapRange_rises 0x00341018 64 0x20 1 (by decide)
  have h910 := h9.append h10 (by decide) (by decide) (by decide)
  exact ((((((((h1.append h2 (by decide) (by decide) (by decide)).append h3 (by decide) (by decide) (by decide)).append h4
    (by decide) (by decide) (by decide)).append h5 (by decide) (by decide) (by decide)).append h6 (by decide) (by decide)
    (by decide)).append h7 (by decide) (by decide) (by decide)).append h8 (by decide) (by decide) (by decide)).append h910
    (by decide) (by decide) (by decide)).append h11 (by decide) (by decide) (by decide)

/-! ### The frame (R33) -/

theorem Chip.snapBody_bytes (c : Chip) :
    wordsToBytes c.snapBody = snapAddrs.flatMap fun a => wordsToBytes (twoWords (c.epochVal a).toNat) :=
  wordsToBytes_flatMap _ _

theorem Chip.snapBody_length (c : Chip) : (wordsToBytes c.snapBody).length = 12416 := by
  have h : c.snapBody.length = 2 * snapAddrs.length := by
    unfold Chip.snapBody
    generalize snapAddrs = as
    induction as with
    | nil => rfl
    | cons a as ih =>
      rw [List.flatMap_cons, List.length_append, ih, List.length_cons]
      show 2 + 2 * as.length = _
      omega
  rw [wordsToBytes_length, h, snapAddrs_length]

/-- The header of the frame of handle `k`: 0x40 bytes. -/
def Chip.snapHeader (c : Chip) (k sq frc : Nat) : List Byte :=
  toLe 8 sq ++ toLe 8 frc ++ toLe 4 (c.reg 8).toNat ++ toLe 4 (c.reg 0x00340004).toNat ++ toLe 2 k ++
    toLe 2 c.dev.mode.code ++ toLe 4 12416 ++ toLe 4 (crc32c (wordsToBytes c.snapBody)) ++ List.replicate 28 0

theorem Chip.snapHeader_length (c : Chip) (k sq frc : Nat) : (c.snapHeader k sq frc).length = 0x40 := by
  unfold Chip.snapHeader
  simp only [List.length_append, toLe_length, List.length_replicate]

theorem Chip.snapFrame_eq (c : Chip) (k sq frc : Nat) :
    c.snapFrame k sq frc = c.snapHeader k sq frc ++ (wordsToBytes c.snapBody ++ List.replicate 3904 0) := by
  unfold Chip.snapFrame Chip.snapHeader
  simp only [Chip.snapBody_length, List.append_assoc]

theorem Chip.snapFrame_length (c : Chip) (k sq frc : Nat) : (c.snapFrame k sq frc).length = 0x4000 := by
  rw [Chip.snapFrame_eq, List.length_append, List.length_append, Chip.snapHeader_length, Chip.snapBody_length,
    List.length_replicate]

theorem Chip.snapFrame_take (c : Chip) (k sq frc : Nat) :
    (c.snapFrame k sq frc).take 0x40 = c.snapHeader k sq frc := by
  rw [Chip.snapFrame_eq]
  exact List.take_left' (c.snapHeader_length k sq frc)

theorem Chip.snapFrame_drop (c : Chip) (k sq frc : Nat) :
    (c.snapFrame k sq frc).drop 0x40 = wordsToBytes c.snapBody ++ List.replicate 3904 0 := by
  rw [Chip.snapFrame_eq]
  exact List.drop_left' (c.snapHeader_length k sq frc)

theorem Chip.snapFrame_layout (c : Chip) (k sq frc : Nat) :
    ((c.snapFrame k sq frc).drop 0x40).take 12416 = wordsToBytes c.snapBody ∧
      (c.snapFrame k sq frc).drop 0x30C0 = List.replicate 3904 0 := by
  refine ⟨?_, ?_⟩
  · rw [Chip.snapFrame_drop]
    exact List.take_left' c.snapBody_length
  · rw [show 0x30C0 = 0x40 + 12416 from rfl, ← List.drop_drop, Chip.snapFrame_drop]
    exact List.drop_left' c.snapBody_length

/-- A frame depends on the epoch, two registers and the device's state. -/
theorem Chip.snapFrame_congr {c d : Chip} (k sq frc : Nat) (he : d.epoch = c.epoch) (h8 : d.reg 8 = c.reg 8)
    (h4 : d.reg 0x00340004 = c.reg 0x00340004) (hd : d.dev = c.dev) : d.snapFrame k sq frc = c.snapFrame k sq frc := by
  unfold Chip.snapFrame Chip.snapBody Chip.epochVal
  rw [he, h8, h4, hd]

/-! ### The epoch (R30) -/

/-- The epoch holds every ledger: the event counters join it above 0x340000. -/
theorem Chip.epochVal_capture {c d c0 : Chip} {a : Nat} (he : d.epoch = (c.capture c0).epoch) (h : a < 0x00340000) :
    d.epochVal a = c0.ledger a := by
  have hfold : ∀ (es : List (Nat × Counter)) (t : Table Dword) (v : Dword),
      tabGet v (es.foldl (fun t e => tabSet t (0x00341018 + 32 * e.1) (BitVec.ofNat 64 e.2.count)) t) a = tabGet v t a := by
    intro es
    induction es with
    | nil => exact fun t v => rfl
    | cons e es ih => exact fun t v => (ih _ v).trans (tabGet_tabSet_other v t _ (by omega))
  unfold Chip.epochVal Chip.ledger
  rw [he]
  exact hfold c0.counters c0.led _

/-! ### SNAPSHOT (R30, R31) -/

/-- The device as command `x` begins to execute. -/
def Chip.cmdBegun (c : Chip) (h : CmdHdr) (x : Cmd) : Chip :=
  { c.heard h with cmd := { (c.heard h).cmd with exec := some (h, x) } }

theorem Chip.cmdBegun_shape (c : Chip) (h : CmdHdr) (x : Cmd) :
    ∃ ps rs q k, c.cmdBegun h x =
      { c with ports := ps, regs := rs, cirque := q, counters := k, cmd := { c.cmd with exec := some (h, x) } } := by
  obtain ⟨ps, rs, q, k, e⟩ := c.heard_shape h
  refine ⟨ps, rs, q, k, ?_⟩
  unfold Chip.cmdBegun
  rw [e]

theorem Chip.cmdBegun_reg (c : Chip) (h : CmdHdr) (x : Cmd) {a : Nat} (ha : a ≠ 0x00010044) :
    (c.cmdBegun h x).reg a = c.reg a := c.heard_reg h ha

theorem Chip.cmdBegun_active (c : Chip) (h : CmdHdr) (x : Cmd) (hc : c.hears h x) :
    (c.cmdBegun h x).active = some (h, x) := by
  obtain ⟨-, -, -, -, -, -, hd, -⟩ := hc
  obtain ⟨ps, rs, q, k, e⟩ := c.cmdBegun_shape h x
  rw [e]
  unfold Chip.active
  simp only [hd, Bool.false_eq_true, if_false]

theorem Chip.cmdBegun_noMemory (c : Chip) (h : CmdHdr) (x : Cmd) : (c.cmdBegun h x).noMemory = c.noMemory := by
  have hd : (c.cmdBegun h x).dev = c.dev := by obtain ⟨ps, rs, q, k, e⟩ := c.cmdBegun_shape h x; rw [e]
  unfold Chip.noMemory Chip.fspValid Chip.memBit Chip.fsp Chip.field
  rw [hd, c.cmdBegun_reg h x (a := memStatus) (by decide)]

theorem Chip.snapStart_limit (c c0 : Chip) (hm : c.dev.mode = .fault → c.noMemory = false)
    (hall : ∀ j, j < 64 → j ∈ c.snap.held) : c.snapStart c0 = (c.cntUp 0x0002002C).cmdFinish 0xF := by
  have hfind : (List.range 64).find? (fun j => !c.snap.held.contains j) = none :=
    List.find?_eq_none.2 fun j hj => by simp [hall j (List.mem_range.1 hj)]
  unfold Chip.snapStart
  simp only [hfind]
  rw [if_neg fun h => by rw [hm h.1] at h; exact Bool.false_ne_true h.2]

/-- The device that has captured the epoch, with its snapshots as `sn` says. -/
def Chip.epochTaken (c c0 : Chip) (sn : Snap) : Chip := { (c.capture c0).count 290 with snap := sn }

@[simp] theorem Chip.epochTaken_snap (c c0 : Chip) (sn : Snap) : (c.epochTaken c0 sn).snap = sn := rfl
@[simp] theorem Chip.epochTaken_cmd (c c0 : Chip) (sn : Snap) : (c.epochTaken c0 sn).cmd = c.cmd :=
  Chip.count_cmd (c.capture c0) 290 1
@[simp] theorem Chip.epochTaken_epoch (c c0 : Chip) (sn : Snap) : (c.epochTaken c0 sn).epoch = (c.capture c0).epoch :=
  Chip.count_epoch (c.capture c0) 290 1

theorem Chip.active_of_cmd {c d : Chip} (h : d.cmd = c.cmd) : d.active = c.active := by
  unfold Chip.active
  rw [h]

theorem Chip.snapStart_regsOnly (c c0 : Chip) (hf : c.dev.mode = .fault) (hm : c.noMemory = true) :
    c.snapStart c0 = (c.epochTaken c0 { c.snap with epochSeq := c0.lastSeq }).cmdFinish 0x10 := by
  unfold Chip.snapStart
  simp only
  rw [if_pos ⟨hf, hm⟩, Chip.count_snap]
  rfl

/-- The device with its epoch captured and handle `k` taken, before the frame is asked for. -/
def Chip.snapTaken (c c0 : Chip) (k : Nat) : Chip :=
  c.epochTaken c0 { held := k :: c.snap.held, busy := some (k, c0.lastSeq, c.frc, []), epochSeq := c0.lastSeq }

theorem Chip.snapStart_takes (c c0 : Chip) (k : Nat) (hm : c.dev.mode = .fault → c.noMemory = false) (hk : k < 64)
    (hfree : k ∉ c.snap.held) (hlow : ∀ j, j < k → j ∈ c.snap.held) :
    c.snapStart c0 = (c.snapTaken c0 k).memWriteReqs .host (c.snapBase + 0x4000 * k)
      ((c.snapTaken c0 k).snapFrame k c0.lastSeq c.frc) (fun i => .snap i) := by
  have hfind : (List.range 64).find? (fun j => !c.snap.held.contains j) = some k :=
    List.find?_range_eq_some.2 ⟨by simp [hfree], List.mem_range.2 hk, fun j hj => by simp [hlow j hj]⟩
  unfold Chip.snapStart
  simp only [hfind]
  rw [if_neg fun h => by rw [hm h.1] at h; exact Bool.false_ne_true h.2]
  have hheld : ((c.capture c0).count 290).snap.held = c.snap.held := congrArg Snap.held (Chip.count_snap _ _ _)
  have hfrc : ((c.capture c0).count 290).frc = c.frc := by
    unfold Chip.frc
    rw [Chip.count_tm]
    rfl
  have hbase : (c.snapTaken c0 k).snapBase = c.snapBase := by
    unfold Chip.snapBase Chip.memBytes Chip.field
    rw [Chip.reg_of_regs (show (c.snapTaken c0 k).regs = c.regs from Chip.count_regs (c.capture c0) 290 1)]
  rw [hheld, hfrc, ← hbase]
  rfl

/-- A write asked for changes the channels, and counts itself where the memory sleeps. -/
theorem Chip.memWriteReqs_host_keeps (c : Chip) (a : Nat) (bs : List Byte) (f : Nat → Who) :
    (c.memWriteReqs .host a bs f).snap = c.snap ∧ (c.memWriteReqs .host a bs f).cmd = c.cmd ∧
    (c.memWriteReqs .host a bs f).epoch = c.epoch ∧ (c.memWriteReqs .host a bs f).dev = c.dev ∧
    ∀ r, r ≠ 0x00300020 → r ≠ 0x0030001C → (c.memWriteReqs .host a bs f).reg r = c.reg r := by
  obtain ⟨-, hshape⟩ := c.memWriteReqs_host a bs f
  rw [hshape]
  exact ⟨c.memTouch_snap, c.memTouch_cmd, c.memTouch_epoch, c.memTouch_dev, fun r h h' => c.reg_memTouch h h'⟩

/-- SNAPSHOT asks for the lines of its frame: each waits for a host slot with its bytes. -/
theorem Chip.snapStart_takes_spec (c c0 : Chip) (k : Nat) (hm : c.dev.mode = .fault → c.noMemory = false) (hk : k < 64)
    (hfree : k ∉ c.snap.held) (hlow : ∀ j, j < k → j ∈ c.snap.held) :
    (c.snapStart c0).snap = { held := k :: c.snap.held, busy := some (k, c0.lastSeq, c.frc, []), epochSeq := c0.lastSeq } ∧
    (c.snapStart c0).cmd = c.cmd ∧ (c.snapStart c0).epoch = (c.capture c0).epoch ∧
    ∀ i, i < 128 → ∃ r : Req, r ∈ ((c.snapStart c0).memCh (chanOf r.addr)).host ∧
      r.addr = c.snapBase + 0x4000 * k + 128 * i ∧ r.who = .snap i ∧
      r.data = some ((((c.snapStart c0).snapFrame k c0.lastSeq c.frc).drop (128 * i)).take 128) := by
  have htakes := c.snapStart_takes c0 k hm hk hfree hlow
  have hlen := (c.snapTaken c0 k).snapFrame_length k c0.lastSeq c.frc
  have hframe := fun d he h8 h4 hd =>
    Chip.snapFrame_congr (c := c.snapTaken c0 k) (d := d) k c0.lastSeq c.frc he h8 h4 hd
  generalize (c.snapTaken c0 k).snapFrame k c0.lastSeq c.frc = bs at htakes hlen hframe
  obtain ⟨hlines, -⟩ := (c.snapTaken c0 k).memWriteReqs_host (c.snapBase + 0x4000 * k) bs (fun i => .snap i)
  obtain ⟨hsnap, hcmd, hepoch, hdev, hreg⟩ :=
    (c.snapTaken c0 k).memWriteReqs_host_keeps (c.snapBase + 0x4000 * k) bs (fun i => .snap i)
  rw [← htakes] at hlines hsnap hcmd hepoch hdev hreg
  refine ⟨hsnap, hcmd.trans (Chip.epochTaken_cmd _ _ _), hepoch.trans (Chip.epochTaken_epoch _ _ _),
    fun i hi => ⟨_, hlines i (by omega), rfl, rfl, ?_⟩⟩
  rw [hframe _ hepoch (hreg _ (by decide) (by decide)) (hreg _ (by decide) (by decide)) hdev]

/-! ### The rows -/

theorem exec_snapshot (s : State) (h : CmdHdr) (hc : s.chip.hears h .snapshot) :
    exec (.snapshot h) s = .next { s with chip := (s.chip.cmdBegun h .snapshot).snapStart s.chip } :=
  State.onChip_of_eq (f := fun c => c.cmdArrive h .snapshot) s (Chip.cmdArrive_hears s.chip h .snapshot hc)

theorem exec_snapRelease (s : State) (h : CmdHdr) (k : BitVec 16) (hc : s.chip.hears h (.snapRelease k.toNat)) :
    exec (.snapRelease h k) s =
      .next { s with chip := (s.chip.cmdBegun h (.snapRelease k.toNat)).snapRelease k.toNat } :=
  State.onChip_of_eq (f := fun c => c.cmdArrive h (.snapRelease k.toNat)) s
    (Chip.cmdArrive_hears s.chip h (.snapRelease k.toNat) hc)

/-- SNAPSHOT with a free handle. -/
theorem exec_snapshot_takes (s : State) (h : CmdHdr) (k : Nat) (hc : s.chip.hears h .snapshot)
    (hm : s.chip.dev.mode = .fault → s.chip.noMemory = false) (hk : k < 64) (hfree : k ∉ s.chip.snap.held)
    (hlow : ∀ j, j < k → j ∈ s.chip.snap.held) :
    ∃ t, exec (.snapshot h) s = .next t ∧ t.chip.executes h .snapshot ∧ t.chip.snap.held = k :: s.chip.snap.held ∧
      t.chip.snap.busy = some (k, s.chip.lastSeq, s.chip.frc, []) ∧ t.chip.snap.epochSeq = s.chip.lastSeq ∧
      (∀ a, a < 0x00340000 → t.chip.epochVal a = s.chip.ledger a) ∧
      ∀ i, i < 128 → ∃ r : Req, r ∈ (t.chip.memCh (chanOf r.addr)).host ∧
        r.addr = s.chip.snapBase + 0x4000 * k + 128 * i ∧ r.who = .snap i ∧
        r.data = some (((t.chip.snapFrame k s.chip.lastSeq s.chip.frc).drop (128 * i)).take 128) := by
  obtain ⟨ps, rs, q, n, e⟩ := s.chip.cmdBegun_shape h .snapshot
  have hact := s.chip.cmdBegun_active h .snapshot hc
  have hbase : (s.chip.cmdBegun h .snapshot).snapBase = s.chip.snapBase := by
    unfold Chip.snapBase Chip.memBytes Chip.field
    rw [s.chip.cmdBegun_reg h .snapshot (by decide)]
  have hno := s.chip.cmdBegun_noMemory h .snapshot
  have hep : ∀ d : Chip, d.epoch = ((s.chip.cmdBegun h .snapshot).capture s.chip).epoch → ∀ a, a < 0x00340000 →
      d.epochVal a = s.chip.ledger a := fun d hd a ha => Chip.epochVal_capture hd ha
  have hrow := exec_snapshot s h hc
  generalize s.chip.cmdBegun h .snapshot = c at *
  have hsnap : c.snap = s.chip.snap := by rw [e]
  have hfrc : c.frc = s.chip.frc := by rw [e]; rfl
  have hdev : c.dev = s.chip.dev := by rw [e]
  obtain ⟨htaken, hcmd, hepoch, hlines⟩ := c.snapStart_takes_spec s.chip k (by rw [hdev, hno]; exact hm) hk
    (by rw [hsnap]; exact hfree) (by rw [hsnap]; exact hlow)
  rw [hsnap, hfrc] at htaken
  rw [hbase, hfrc] at hlines
  refine ⟨_, hrow, ?_, by rw [htaken], by rw [htaken], by rw [htaken], hep _ hepoch, hlines⟩
  exact (Chip.active_of_cmd hcmd).trans hact

/-- With every handle held, or with a handle that is not held, a snapshot command ends with its refusal counted. -/
theorem Chip.cmdBegun_refused (c : Chip) (h : CmdHdr) (x : Cmd) (status : Nat) (hc : c.hears h x) :
    ((((c.cmdBegun h x).cntUp 0x0002002C).cmdFinish status).ended h status) ∧
    (((c.cmdBegun h x).cntUp 0x0002002C).cmdFinish status).snap = c.snap ∧
    (((c.cmdBegun h x).cntUp 0x0002002C).cmdFinish status).epoch = c.epoch ∧
    c.counted (((c.cmdBegun h x).cntUp 0x0002002C).cmdFinish status) 0x0002002C := by
  have hact := c.cmdBegun_active h x hc
  obtain ⟨ps, rs, q, k, e⟩ := c.cmdBegun_shape h x
  refine ⟨Chip.cmdFinish_ended _ h x status [] 0 hact, ?_, ?_, ?_⟩
  · rw [Chip.cmdFinish_snap, Chip.cntUp_snap, e]
  · rw [Chip.cmdFinish_epoch, Chip.cntUp_epoch, e]
  · rw [Chip.counted, Chip.reg_of_regs (Chip.cmdFinish_regs _ _ _ _), Chip.reg_cntUp_same,
      c.cmdBegun_reg h x (by decide)]

/-- SNAPSHOT with no free handle. -/
theorem exec_snapshot_limit (s : State) (h : CmdHdr) (hc : s.chip.hears h .snapshot)
    (hm : s.chip.dev.mode = .fault → s.chip.noMemory = false) (hall : ∀ j, j < 64 → j ∈ s.chip.snap.held) :
    ∃ t, exec (.snapshot h) s = .next t ∧ t.chip.ended h 0xF ∧ t.chip.snap = s.chip.snap ∧
      t.chip.epoch = s.chip.epoch ∧ s.chip.counted t.chip 0x0002002C := by
  obtain ⟨ps, rs, q, n, e⟩ := s.chip.cmdBegun_shape h .snapshot
  have hlimit := (s.chip.cmdBegun h .snapshot).snapStart_limit s.chip
    (by rw [s.chip.cmdBegun_noMemory, e]; exact hm) (by rw [e]; exact hall)
  obtain ⟨hended, hsnap, hepoch, hcount⟩ := s.chip.cmdBegun_refused h .snapshot 0xF hc
  rw [← hlimit] at hended hsnap hepoch hcount
  exact ⟨_, exec_snapshot s h hc, hended, hsnap, hepoch, hcount⟩

/-- SNAPSHOT with failed memory: the epoch alone. -/
theorem exec_snapshot_regsOnly (s : State) (h : CmdHdr) (hc : s.chip.hears h .snapshot)
    (hf : s.chip.dev.mode = .fault) (hm : s.chip.noMemory = true) :
    ∃ t, exec (.snapshot h) s = .next t ∧ t.chip.ended h 0x10 ∧ t.chip.snap.held = s.chip.snap.held ∧
      ∀ a, a < 0x00340000 → t.chip.epochVal a = s.chip.ledger a := by
  have hact := s.chip.cmdBegun_active h .snapshot hc
  have hno := s.chip.cmdBegun_noMemory h .snapshot
  obtain ⟨ps, rs, q, n, e⟩ := s.chip.cmdBegun_shape h .snapshot
  have hrow := exec_snapshot s h hc
  generalize s.chip.cmdBegun h .snapshot = c at *
  have hdev : c.dev = s.chip.dev := by rw [e]
  have hsnap : c.snap = s.chip.snap := by rw [e]
  rw [c.snapStart_regsOnly s.chip (by rw [hdev]; exact hf) (hno.trans hm)] at hrow
  refine ⟨_, hrow, Chip.cmdFinish_ended _ h .snapshot _ _ _ ?_, ?_, fun a ha => Chip.epochVal_capture (c := c) ?_ ha⟩
  · exact (Chip.active_of_cmd (Chip.epochTaken_cmd _ _ _)).trans hact
  · rw [Chip.cmdFinish_snap, Chip.epochTaken_snap, hsnap]
  · rw [Chip.cmdFinish_epoch, Chip.epochTaken_epoch]

/-- The frame is written: SNAPSHOT completes with the handle, the sequence number and FRC. -/
theorem snapshotFrameWritten_written (d : Memory) (c : Chip) (h : CmdHdr) (k sq frc : Nat) (ws : List Word)
    (hb : c.snap.busy = some (k, sq, frc, ws)) (hx : c.executes h .snapshot) (hm : c.memHas Who.isSnap = false) :
    ∃ c', snapshotFrameWritten d c = (d, c') ∧ c'.snap = { c.snap with busy := none } ∧
      c'.waits (srcOf 15 50) 0x80D0 ∧ c'.ended h 0 ([BitVec.ofNat 32 k, 0] ++ twoWords sq ++ twoWords frc) := by
  have hrow : snapshotFrameWritten d c = (d, (({ c with snap := { c.snap with busy := none } } : Chip).raise
      (srcOf 15 50) 0x80D0).cmdFinish 0 ([BitVec.ofNat 32 k, 0] ++ twoWords sq ++ twoWords frc)) := by
    unfold snapshotFrameWritten
    rw [hb]
    simp only
    unfold whenServed awaitWho
    simp only
    rw [awaitMem_idle _ _ _ _ _ _ (.inl (by rw [hm]; rfl))]
    simp only [hm, Bool.false_eq_true, if_false]
  have hraised := Chip.raise_waits { c with snap := { c.snap with busy := none } } (srcOf 15 50) 0x80D0 [] none 0
  have hact : (Chip.raise { c with snap := { c.snap with busy := none } } (srcOf 15 50) 0x80D0).active =
      some (h, .snapshot) := by
    unfold Chip.active
    rw [Chip.raise_cmd]
    exact hx
  refine ⟨_, hrow, by rw [Chip.cmdFinish_snap, Chip.raise_snap], ?_, Chip.cmdFinish_ended _ h .snapshot _ _ _ hact⟩
  rw [Chip.cmdFinish_eq _ h .snapshot _ _ _ hact]
  exact Chip.raise_keeps _ _ _ _ _ _ hraised

theorem snapshotFrameWritten_stopped (d : Memory) (c : Chip) (hm : c.memHas Who.isSnap = true)
    (ht : c.tableRuns = false) : snapshotFrameWritten d c = (d, c) := by
  unfold snapshotFrameWritten
  split
  · rfl
  · unfold whenServed awaitWho
    simp only
    rw [awaitMem_idle _ _ _ _ _ _ (.inr ht)]
    simp only [hm, if_true]

/-! ### The obligation -/

/-- Settles O24: SNAPSHOT by the lowest free handle, the frame by its parts, and the end by the lines that wait. -/
theorem snapshots : Obligations.Snapshots := by
  unfold Obligations.Snapshots
  obtain ⟨hrises, -⟩ := snapAddrs_rises
  refine ⟨exec_snapshot_takes, ?_, exec_snapshot_limit, exec_snapshot_regsOnly, ?_, ?_, ?_, ?_⟩
  · intro c k sq frc f body
    have hbody : body = wordsToBytes c.snapBody := c.snapBody_bytes.symm
    obtain ⟨htake, hzeros⟩ := c.snapFrame_layout k sq frc
    rw [hbody]
    refine ⟨c.snapFrame_length k sq frc, c.snapBody_length, hrises, c.snapFrame_take k sq frc, htake, fun b hb => ?_⟩
    exact List.eq_of_mem_replicate (hzeros ▸ hb)
  · intro s h k sq frc ws hb hx hm
    obtain ⟨c', hrow, hsnap, hwaits, hended⟩ := snapshotFrameWritten_written s.dram s.chip h k sq frc ws hb hx hm
    refine ⟨{ s with chip := c' }, ?_, by rw [hsnap], hwaits, by rw [hsnap], rfl, hended⟩
    show s.onBoth snapshotFrameWritten = _
    unfold State.onBoth
    rw [hrow]
  · intro s hm ht
    refine ⟨s, ?_, rfl⟩
    show s.onBoth snapshotFrameWritten = _
    unfold State.onBoth
    rw [snapshotFrameWritten_stopped s.dram s.chip hm ht]
  · intro s h k hc hheld
    have hact := s.chip.cmdBegun_active h _ hc
    have hrow := exec_snapRelease s h k hc
    obtain ⟨ps, rs, q, n, e⟩ := s.chip.cmdBegun_shape h (.snapRelease k.toNat)
    generalize s.chip.cmdBegun h (.snapRelease k.toNat) = c at *
    have hsnap : c.snap = s.chip.snap := by rw [e]
    unfold Chip.snapRelease at hrow
    rw [if_pos (by rw [hsnap]; exact hheld)] at hrow
    exact ⟨_, hrow, by rw [Chip.cmdFinish_snap, hsnap], Chip.cmdFinish_ended _ h _ _ _ _ hact⟩
  · intro s h k hc hheld
    have hrow := exec_snapRelease s h k hc
    obtain ⟨ps, rs, q, n, e⟩ := s.chip.cmdBegun_shape h (.snapRelease k.toNat)
    obtain ⟨hended, hsnap, -, hcount⟩ := s.chip.cmdBegun_refused h (.snapRelease k.toNat) 3 hc
    unfold Chip.snapRelease at hrow
    rw [if_neg (by rw [e]; exact hheld)] at hrow
    exact ⟨_, hrow, hsnap, hended, hcount⟩

end Sys2Proof.Machine
end

section
/-! SUPPORT. Slots: a TSK_CTX_SEL that waits for a thaw, and the state that refutes FreezeThaw. -/

namespace Sys2Proof.Machine

/-! ### A TSK_CTX_SEL that waits (R186) -/

theorem findReg_ctxSel (c : Chip) :
    c.findReg 0x00200098 = some ({ base := 0x00200098, rw := ones 32, reset := 0xFFFFFFFF }, [], 0) :=
  (Chip.findReg_plain c (.inl (by decide))).trans (by decide)

theorem Chip.ctxSel_frozen (c : Chip) (h n : Nat) (hf : c.findTask h = some n) (ho : (c.ctx n).onChip = false) :
    c.ctxSel h = (Machine.waits, c.askThaw n) := by
  unfold Chip.ctxSel
  simp only [hf, ho, Bool.false_eq_true, if_false]

/-- A TSK_CTX_SEL of a context that is not on the die asks for its thaw, and its completion waits. -/
theorem Chip.writeRegs_ctxSel_frozen (c : Chip) (q : Nat) (tag : Byte) (v : Word) (n : Nat)
    (hr : c.responds 0x00200098 = true) (hf : c.findTask v.toNat = some n) (ho : (c.ctx n).onChip = false) :
    (c.writeRegs q tag 0x00200098 [v]).sched.ctxs = (c.askThaw n).sched.ctxs := by
  have hsel : ∀ r, c.writeWord r 0 0x00200098 v = (Machine.waits, c.askThaw n) := fun r => c.ctxSel_frozen _ n hf ho
  have hwords : c.regWrWords {} 0 0x00200098 [v] = ({ wait := some (0, n) }, c.askThaw n) := by
    simp only [Chip.regWrWords, Chip.regWrWord, findReg_ctxSel, hr, hsel, hf, Bool.not_true, Bool.false_eq_true,
      if_false, if_true, Option.map_some]
  unfold Chip.writeRegs
  rw [if_neg (by decide), if_neg (by simp)]
  simp only [hwords]
  rfl

theorem exec_tskCtxSel_frozen (s : State) (q : Port) (tag : Byte) (v : Word) (n : Nat) (h : s.chip.writable q tag)
    (hf : s.chip.findTask v.toNat = some n) (ho : (s.chip.ctx n).onChip = false) :
    ∃ t, exec (.tskCtxSel q tag v) s = .next t ∧ t.chip.sched.ctxs = ((s.chip.tagged q tag).askThaw n).sched.ctxs := by
  obtain ⟨ht, hc⟩ := h
  exact ⟨_, State.onReg_takes s q tag 0x00200098 [v] ht (by decide) (by simp) (by simp),
    (s.chip.tagged q tag).writeRegs_ctxSel_frozen q tag v n (Chip.responds_committed _ _ hc) hf ho⟩

/-! ### Every slot taken by a running task, and context 0 listed twice -/

/-- A context in READY whose copy is frozen. -/
def frozenReady : Ctx := { gen := 1, st := 3, resident := false }
/-- A context that runs in its slot. -/
def runningCtx : Ctx := { gen := 1, st := 6, held := true }
/-- Contexts 1 to 256 run. -/
def slotsFull : Table Ctx := (List.range 256).map fun i => (i + 1, runningCtx)
/-- Context 0 as `x`, and once more as one that arrives; the others hold every slot. -/
def listedTwice (x : Ctx) : Table Ctx := (0, x) :: (0, { frozenReady with arriving := true }) :: slotsFull

theorem slotsFull_ctx {e : Nat × Ctx} (h : e ∈ slotsFull) : e.2 = runningCtx := by
  obtain ⟨i, -, rfl⟩ := List.mem_map.1 h
  rfl

theorem slotsFull_countP (p : Nat × Ctx → Bool) (hp : ∀ e, e.2 = runningCtx → p e = true) : slotsFull.countP p = 256 := by
  rw [List.countP_eq_length.2 fun e he => hp e (slotsFull_ctx he)]
  simp [slotsFull]

theorem slotsFull_countP_zero (p : Nat × Ctx → Bool) (hp : ∀ e, e.2 = runningCtx → p e = false) :
    slotsFull.countP p = 0 :=
  List.countP_eq_zero.2 fun e he => by rw [hp e (slotsFull_ctx he)]; exact Bool.false_ne_true

/-- A live context that is in no slot and neither moves nor arrives, with `t` as its wish for a slot. -/
structure Ctx.asksAs (x : Ctx) (t : Option Nat) : Prop where
  live : x.live = true
  resident : x.resident = false
  arriving : x.arriving = false
  move : x.move = none
  wantSlot : x.wantSlot = t

theorem Chip.ctx_listedTwice {c : Chip} {x : Ctx} (hc : c.sched.ctxs = listedTwice x) : c.ctx 0 = x := by
  unfold Chip.ctx
  rw [hc]
  rfl

section
variable {c : Chip} {x : Ctx} {w : Option Nat} (hc : c.sched.ctxs = listedTwice x) (hx : x.asksAs w)
include hc hx

theorem Chip.liveCtxs_listedTwice : c.liveCtxs = listedTwice x := by
  unfold Chip.liveCtxs
  rw [hc]
  refine List.filter_eq_self.2 fun e he => ?_
  rcases List.mem_cons.1 he with rfl | he
  · exact hx.live
  · rcases List.mem_cons.1 he with rfl | he
    · decide
    · rw [slotsFull_ctx he]
      decide

theorem Chip.slotNext_listedTwice : c.slotNext = w.map fun t => (0, t) := by
  have hrest : slotsFull.filterMap (fun e => e.2.wantSlot.map (fun t => (e.1, t))) = [] :=
    List.filterMap_eq_nil_iff.2 fun e he => by rw [slotsFull_ctx he]; rfl
  unfold Chip.slotNext
  rw [Chip.liveCtxs_listedTwice hc hx, listedTwice]
  simp only [List.filterMap_cons, hx.wantSlot, hrest]
  cases w <;> rfl

theorem Chip.slotsUsed_listedTwice : c.slotsUsed = 256 := by
  unfold Chip.slotsUsed
  rw [Chip.liveCtxs_listedTwice hc hx, listedTwice, List.countP_cons, List.countP_cons,
    slotsFull_countP _ fun e he => by rw [he]; rfl]
  simp [hx.resident, frozenReady]

theorem Chip.slotsLeaving_listedTwice : c.slotsLeaving = 0 := by
  unfold Chip.slotsLeaving
  rw [Chip.liveCtxs_listedTwice hc hx, listedTwice, List.countP_cons, List.countP_cons,
    slotsFull_countP_zero _ fun e he => by rw [he]; rfl]
  simp [Ctx.freezing, hx.move, frozenReady]

theorem Chip.victim_listedTwice : c.victim = none := by
  have hfold : ∀ (es : List (Nat × Ctx)), (∀ e ∈ es, e.2 = runningCtx) →
      es.foldl (fun (m : Option (Nat × List Nat)) e =>
        match e.2.victimKey e.2.expiry e.2.createSeq with
        | none => m
        | some k => match m with
          | some b => if lexLt b.2 k then some (e.1, k) else m
          | none => some (e.1, k)) none = none := by
    intro es
    induction es with
    | nil => exact fun _ => rfl
    | cons e es ih =>
      intro h
      have hkey : e.2.victimKey e.2.expiry e.2.createSeq = none := by
        rw [h e List.mem_cons_self]
        decide
      rw [List.foldl_cons, hkey]
      exact ih fun e he => h e (List.mem_cons_of_mem _ he)
  have hres : (listedTwice x).filter (fun e => e.2.resident) = slotsFull.filter (fun e => e.2.resident) := by
    rw [listedTwice, List.filter_cons_of_neg (by simp [hx.resident]), List.filter_cons_of_neg (by decide)]
  unfold Chip.victim
  rw [Chip.liveCtxs_listedTwice hc hx, hres]
  exact hfold _ fun e he => slotsFull_ctx (List.mem_of_mem_filter he)

theorem Chip.arrivals_listedTwice : c.arrivals.head? = some 0 := by
  unfold Chip.arrivals
  rw [Chip.liveCtxs_listedTwice hc hx, listedTwice, List.filter_cons_of_neg (by simp [hx.arriving]),
    List.filter_cons_of_pos rfl]
  rfl

end

theorem Chip.memWriteReqs_sched (c : Chip) (a : Nat) (bs : List Byte) (f : Nat → Who) :
    (c.memWriteReqs .host a bs f).sched = c.sched := by
  obtain ⟨-, hshape⟩ := c.memWriteReqs_host a bs f
  rw [hshape]
  exact c.memTouch_sched

/-- The thaw that context 0 asks for finds no slot, and the arriving entry under the same number is created frozen in its
place: the wish for a slot is gone. -/
theorem Chip.askThaw_listedTwice {c : Chip} (hc : c.sched.ctxs = listedTwice frozenReady) :
    (c.askThaw 0).sched.ctxs = listedTwice frozenReady := by
  have hctx := Chip.ctx_listedTwice hc
  generalize ha : c.updCtx 0 (fun x => { x with wantSlot := some c.frc }) = a
  have hx : ({ frozenReady with wantSlot := some c.frc } : Ctx).asksAs (some c.frc) := ⟨rfl, rfl, rfl, rfl, rfl⟩
  have hactx : a.sched.ctxs = listedTwice { frozenReady with wantSlot := some c.frc } := by
    rw [← ha]
    show tabSet c.sched.ctxs 0 { c.ctx 0 with wantSlot := some c.frc } = _
    rw [hctx, hc]
    rfl
  have hb : (a.settleFrozen 0).sched.ctxs = listedTwice frozenReady := by
    unfold Chip.settleFrozen Chip.writeFrozen
    rw [Chip.memWriteReqs_sched]
    show tabSet a.sched.ctxs 0 { a.ctx 0 with arriving := false, wantSlot := none, resident := false } = _
    rw [Chip.ctx_listedTwice hactx, hactx]
    rfl
  have hwants : a.liveCtxs.countP (fun e => e.2.wantSlot.isSome) = 1 := by
    rw [Chip.liveCtxs_listedTwice hactx hx, listedTwice, List.countP_cons, List.countP_cons,
      slotsFull_countP_zero _ fun e he => by rw [he]; rfl]
    rfl
  have hask : c.askThaw 0 = a.serveSlots := by
    unfold Chip.askThaw
    rw [hctx, ha]
    rfl
  have hfirst : a.serveSlots = Chip.serveSlots.go 511 (a.settleFrozen 0) := by
    unfold Chip.serveSlots
    rw [Chip.serveSlots.go, Chip.slotNext_listedTwice hactx hx]
    simp only [Option.map_some, Chip.slotsUsed_listedTwice hactx hx, Chip.slotsLeaving_listedTwice hactx hx, hwants,
      Chip.ctx_listedTwice hactx, Chip.victim_listedTwice hactx hx, Chip.arrivals_listedTwice hactx hx]
    rfl
  have hsecond : Chip.serveSlots.go 511 (a.settleFrozen 0) = a.settleFrozen 0 := by
    rw [Chip.serveSlots.go, Chip.slotNext_listedTwice hb ⟨rfl, rfl, rfl, rfl, rfl⟩]
    rfl
  rw [hask, hfirst, hsecond, hb]

/-! ### The obligation -/

/-- The host is connected; context 0 is frozen and listed twice, and every slot holds a running task. -/
def selOfListedTwice : State :=
  { chip :=
    { dev := { mode := .ready, committed := true }
      ports := [(0, { up := true })]
      sched := { ctxs := listedTwice frozenReady } } }

/-- Refutes O42: the statement is about every table of contexts, also a malformed one that lists a number twice (the model
writes the table by tabSet, in rising order of the numbers). With context 0 listed as frozen and again as arriving, and every
slot held by a running task, TSK_CTX_SEL of context 0 asks for a slot, and the entry that arrives is created frozen under the
same number: neither the wish for a slot nor a thaw is left. -/
theorem not_freezeThaw : ¬ Obligations.FreezeThaw := by
  unfold Obligations.FreezeThaw
  rintro ⟨-, -, -, -, -, -, -, hsel, -⟩
  have hw : selOfListedTwice.chip.writable 0 0 := by decide
  obtain ⟨t, ht, -, -, -, hthaw⟩ := hsel selOfListedTwice 0 0 0x1000 0 hw rfl rfl rfl nofun
  obtain ⟨t', ht', hctxs⟩ := exec_tskCtxSel_frozen selOfListedTwice 0 0 0x1000 0 hw rfl rfl
  have htt : t = t' := by
    rw [ht] at ht'
    exact Host.Outcome.next.inj ht'
  have hctx : t.chip.ctx 0 = frozenReady := by
    rw [htt]
    exact Chip.ctx_listedTwice (hctxs.trans (Chip.askThaw_listedTwice rfl))
  rw [hctx] at hthaw
  exact hthaw.elim (fun h => h rfl) fun h => h rfl

end Sys2Proof.Machine
end

section
/-! SUPPORT. Preload frame: what the preloads that an acceptance starts leave of the scheduler and of Cirque. -/

namespace Sys2Proof.Machine

/-- From c to d the blocks 0x20 to 0x2F keep their words, the ledgers from there on their values, the command processor and
Cirque what waits, and every context that is not in PRELOAD its fields. -/
structure Chip.tasksKept (c d : Chip) : Prop where
  reg : ∀ a, 0x00200000 ≤ a → a < 0x00300000 → d.reg a = c.reg a
  led : ∀ a, 0x00200000 ≤ a → d.ledger a = c.ledger a
  cmd : d.cmd = c.cmd
  cirque : d.cirque = c.cirque
  ctx : ∀ n, (c.ctx n).st ≠ 5 → d.ctx n = c.ctx n

theorem Chip.taskGroups_lt {c : Chip} {n g : Nat} (h : g ∈ c.taskGroups n) : g < 12 := by
  unfold Chip.taskGroups bitsIn at h
  exact List.mem_range.1 (List.mem_of_mem_filter h)

namespace Chip.tasksKept

theorem of_eq {c d : Chip} (hr : d.regs = c.regs) (hl : d.led = c.led) (hc : d.cmd = c.cmd) (hq : d.cirque = c.cirque)
    (hs : d.sched = c.sched) : c.tasksKept d :=
  ⟨fun a _ _ => Chip.reg_of_regs hr a, fun a _ => Chip.ledger_of_led hl a, hc, hq,
    fun n _ => by unfold Chip.ctx; rw [hs]⟩

theorem refl (c : Chip) : c.tasksKept c := of_eq rfl rfl rfl rfl rfl

theorem trans {c d e : Chip} (h : c.tasksKept d) (h' : d.tasksKept e) : c.tasksKept e := by
  refine ⟨fun a h1 h2 => (h'.reg a h1 h2).trans (h.reg a h1 h2), fun a h1 => (h'.led a h1).trans (h.led a h1),
    h'.cmd.trans h.cmd, h'.cirque.trans h.cirque, fun n hn => ?_⟩
  have hd := h.ctx n hn
  exact (h'.ctx n (by rw [hd]; exact hn)).trans hd

theorem foldl {α : Type} {f : Chip → α → Chip} (xs : List α) (hf : ∀ x ∈ xs, ∀ c : Chip, c.tasksKept (f c x)) (c : Chip) :
    c.tasksKept (xs.foldl f c) := by
  induction xs generalizing c with
  | nil => exact refl c
  | cons x xs ih =>
    exact (hf x List.mem_cons_self c).trans (ih (fun y hy => hf y (List.mem_cons_of_mem _ hy)) _)

theorem setReg (c : Chip) (a : Nat) (w : Word) (h : a < 0x00200000 ∨ 0x00300000 ≤ a) : c.tasksKept (c.setReg a w) :=
  ⟨fun b h1 h2 => Chip.reg_setReg_other c w (by omega), fun _ _ => rfl, rfl, rfl, fun _ _ => rfl⟩

theorem setReg64 (c : Chip) (a v : Nat) (h : a + 4 < 0x00200000) : c.tasksKept (c.setReg64 a v) :=
  ⟨fun b h1 h2 => Chip.reg_setReg64_other c v (by omega) (by omega), fun _ _ => rfl, rfl, rfl, fun _ _ => rfl⟩

theorem setField (c : Chip) (a hi lo v : Nat) (h : a < 0x00200000 ∨ 0x00300000 ≤ a) :
    c.tasksKept (c.setField a hi lo v) := setReg c a _ h

theorem setLed (c : Chip) (a v : Nat) (h : a < 0x00200000) : c.tasksKept (c.setLed a v) :=
  ⟨fun _ _ _ => rfl, fun b h1 => tabGet_tabSet_other _ _ _ (by omega), rfl, rfl, fun _ _ => rfl⟩

theorem setGroup (c : Chip) (g : Nat) (x : Group) : c.tasksKept (c.setGroup g x) := of_eq rfl rfl rfl rfl rfl

theorem giveSlots (c : Chip) (n : Nat) (f : Nat → Nat) : c.tasksKept (c.giveSlots n f) := of_eq rfl rfl rfl rfl rfl

theorem memReq (c : Chip) (cls : SlotClass) (r : Req) : c.tasksKept (c.memReq cls r) := by
  have ht : c.tasksKept c.memTouch :=
    ⟨fun a h1 h2 => Chip.reg_memTouch c (by omega) (by omega), fun a _ => Chip.ledger_of_led (Chip.memTouch_led c) a,
      Chip.memTouch_cmd c, Chip.memTouch_cirque c, fun n _ => by unfold Chip.ctx; rw [Chip.memTouch_sched]⟩
  exact ht.trans (of_eq rfl rfl rfl rfl rfl)

/-- The fill engine changes its group and asks for accesses. -/
theorem pump (c : Chip) (g : Nat) : c.tasksKept (c.pump g) := by
  have go : ∀ (f : Nat) (c : Chip), c.tasksKept (Chip.pump.go g f c) := by
    intro f
    induction f with
    | zero => exact fun c => refl c
    | succ f ih =>
      intro c
      unfold Chip.pump.go
      simp only
      split
      · exact refl c
      · split
        · exact setGroup c g _
        · split
          · exact ((setGroup c g _).trans (memReq _ _ _)).trans (ih _)
          · exact ((setGroup c g _).trans (memReq _ _ _)).trans (ih _)
          · exact setGroup c g _
  exact go 256 c

/-- Preload sets up one of the twelve groups: its registers, its ring ledgers, and what it asks of the memory. -/
theorem preloadGroup (c : Chip) (d : Memory) (n base : Nat) (es : List DirEntry) (elastic : Bool) (g : Nat) (hg : g < 12) :
    c.tasksKept (c.preloadGroup d n base es elastic g) := by
  have hfirn : firnB g + 8 < 0x00200000 := by unfold firnB grpB; omega
  have hseq : seqB g + 0x70 < 0x00200000 := by unfold seqB grpB; omega
  have hled : ∀ i, i < 8 → ringLed g i < 0x00200000 := fun i hi => by unfold ringLed grpB; omega
  have hpin : ∀ j, j < 8 → pinB (8 * g + j) + 0x7C < 0x00200000 := fun j hj => by unfold pinB; omega
  unfold Chip.preloadGroup
  simp only
  refine .trans ?_ (pump _ g)
  refine .trans ?_ (foldl _ (fun _ _ c => memReq c _ _) _)
  refine .trans ?_ (foldl _ (fun _ _ c => memReq c _ _) _)
  refine .trans ?_ (setField _ _ 30 30 _ (by omega))
  refine .trans ?_ (foldl _ (fun j hj c => setReg c _ _ (.inl (hpin j (List.mem_range.1 hj)))) _)
  refine .trans ?_ (setField _ _ 31 31 _ (by omega))
  refine .trans ?_ (setReg64 _ _ _ (by omega))
  refine .trans ?_ (setReg64 _ _ _ (by omega))
  refine .trans ?_ (setLed _ _ _ (hled 0 (by decide)))
  refine .trans ?_ (setLed _ _ _ (hled 6 (by decide)))
  refine .trans ?_ (setReg _ _ _ (by omega))
  refine .trans ?_ (setReg _ _ _ (by omega))
  refine .trans ?_ (setReg _ _ _ (by omega))
  exact setGroup c g _

/-- A context in PRELOAD alone has its fields changed as its preload begins. -/
theorem setCtx_preload (c : Chip) (n : Nat) (x : Ctx) (h : (c.ctx n).st = 5) : c.tasksKept (c.setCtx n x) := by
  refine ⟨fun _ _ _ => rfl, fun _ _ => rfl, rfl, rfl, fun m hm => ?_⟩
  refine tabGet_tabSet_other _ _ _ ?_
  rintro rfl
  exact hm h

theorem startSwitch (c : Chip) (target : Nat) : c.tasksKept (c.startSwitch target) := by
  have hrun : ∀ c : Chip, c.tasksKept c.setRun := fun c => setField c memStatus 25 25 _ (by decide)
  unfold Chip.startSwitch
  exact .trans (setField c memStatus 29 29 1 (by decide)) (.trans (hrun _) (of_eq rfl rfl rfl rfl rfl))

theorem startPreload (c : Chip) (d : Memory) (n : Nat) : c.tasksKept (c.startPreload d n) := by
  unfold Chip.startPreload
  simp only
  split
  · exact refl c
  · rename_i h
    have hst : (c.ctx n).st = 5 := Decidable.byContradiction fun h5 => h (.inl h5)
    split
    · exact refl c
    · split
      · exact startSwitch c 0
      · refine .trans ?_ (foldl _ (fun g hg c => preloadGroup c d n _ _ _ g (Chip.taskGroups_lt hg)) _)
        exact .trans (setCtx_preload c n _ hst) (giveSlots _ n _)

theorem startPreloads (c : Chip) (d : Memory) : c.tasksKept (c.startPreloads d) :=
  foldl _ (fun n _ c => startPreload c d n) c

end Chip.tasksKept

end Sys2Proof.Machine
end

section
/-! SUPPORT. Task ends: slots that nobody waits for, TSK_CTX_SEL writes that end, and what the end of a context leaves. -/

namespace Sys2Proof.Machine

/-! ### Nobody waits for a slot -/

/-- No listed context waits for a slot. -/
def Chip.slotsQuiet (c : Chip) : Prop := ∀ x ∈ c.sched.ctxs, x.2.wantSlot = none

theorem Chip.slotsQuiet.slotNext {c : Chip} (h : c.slotsQuiet) : c.slotNext = none := by
  have hn : c.liveCtxs.filterMap (fun e => e.2.wantSlot.map (fun t => (e.1, t))) = [] :=
    List.filterMap_eq_nil_iff.2 fun e he => by rw [h e (List.mem_of_mem_filter he)]; rfl
  unfold Chip.slotNext
  rw [hn]
  rfl

theorem Chip.slotsQuiet.serveSlots {c : Chip} (h : c.slotsQuiet) : c.serveSlots = c := by
  unfold Chip.serveSlots Chip.serveSlots.go
  rw [h.slotNext]

theorem tabGet_default_or_mem {α : Type} (d : α) (t : Table α) (i : Nat) :
    tabGet d t i = d ∨ (i, tabGet d t i) ∈ t := by
  induction t with
  | nil => exact .inl rfl
  | cons e t ih =>
    by_cases he : i = e.1
    · exact .inr (by simp [tabGet, he])
    · simp only [tabGet, if_neg he, List.mem_cons]
      exact ih.imp_right .inr

theorem Chip.slotsQuiet.ctx {c : Chip} (h : c.slotsQuiet) (n : Nat) : (c.ctx n).wantSlot = none := by
  rcases tabGet_default_or_mem {} c.sched.ctxs n with hd | hm
  · unfold Chip.ctx
    rw [hd]
  · exact h _ hm

theorem Chip.slotsQuiet.setCtx {c : Chip} (h : c.slotsQuiet) (n : Nat) (x : Ctx) (hx : x.wantSlot = none) :
    (c.setCtx n x).slotsQuiet := fun e he => (mem_tabSet he).elim (fun h1 => by rw [h1]; exact hx) (h e)

/-! ### A TSK_CTX_SEL that ends with a status (R186) -/

/-- The completion of one TSK_CTX_SEL write that waited. -/
def Chip.selReply (status : Nat) (c : Chip) (w : SelWait) : Chip :=
  match w.bad with
  | some (st, i) =>
    if status = 0 ∨ i < w.word then c.replyAt w.s w.q w.tag st i else c.replyAt w.s w.q w.tag status w.word
  | none => c.replyAt w.s w.q w.tag status (if status = 0 then 0 else w.word)

theorem Chip.selReply_eq (status : Nat) (c : Chip) (w : SelWait) :
    ∃ st i, c.selReply status w = c.replyAt w.s w.q w.tag st i := by
  unfold Chip.selReply
  split
  · split
    · exact ⟨_, _, rfl⟩
    · exact ⟨_, _, rfl⟩
  · exact ⟨_, _, rfl⟩

theorem Chip.foldl_selReply (status : Nat) (ws : List SelWait) (c : Chip) :
    (ws.foldl (Chip.selReply status) c).sched = c.sched ∧ (ws.foldl (Chip.selReply status) c).led = c.led ∧
    (ws.foldl (Chip.selReply status) c).cmd = c.cmd ∧
    ∀ a, a ≠ 0x00010024 → (ws.foldl (Chip.selReply status) c).reg a = c.reg a := by
  induction ws generalizing c with
  | nil => exact ⟨rfl, rfl, rfl, fun _ _ => rfl⟩
  | cons w ws ih =>
    obtain ⟨hs, hl, hc, hr⟩ := ih (c.selReply status w)
    obtain ⟨st, i, e⟩ := c.selReply_eq status w
    rw [List.foldl_cons]
    refine ⟨hs.trans ?_, hl.trans ?_, hc.trans ?_, fun a ha => (hr a ha).trans ?_⟩
    · rw [e, Chip.replyAt_sched]
    · rw [e, Chip.replyAt_led]
    · rw [e, Chip.replyAt_cmd]
    · rw [e, Chip.reg_replyAt _ _ _ _ _ _ _ _ ha]

theorem Chip.selDone_eq (c : Chip) (n status : Nat) (h : status ≠ 0) :
    c.selDone n status = if c.sched.selWait.filter (fun w => w.n == n) = [] then c else
      (c.sched.selWait.filter (fun w => w.n == n)).foldl (Chip.selReply status)
        { c with sched := { c.sched with selWait := c.sched.selWait.filter (fun w => w.n != n) } } := by
  unfold Chip.selDone
  simp only
  rw [if_neg h]
  rfl

/-- Writes that end in vain leave the contexts, the ledgers and the scheduler's registers. -/
theorem Chip.selDone_fails (c : Chip) (n status : Nat) (h : status ≠ 0) :
    (c.selDone n status).sched.ctxs = c.sched.ctxs ∧ (c.selDone n status).led = c.led ∧
    (c.selDone n status).cmd = c.cmd ∧ ∀ a, a ≠ 0x00010024 → (c.selDone n status).reg a = c.reg a := by
  rw [Chip.selDone_eq c n status h]
  split
  · exact ⟨rfl, rfl, rfl, fun _ _ => rfl⟩
  · obtain ⟨hs, hl, hc, hr⟩ := Chip.foldl_selReply status (c.sched.selWait.filter (fun w => w.n == n))
      { c with sched := { c.sched with selWait := c.sched.selWait.filter (fun w => w.n != n) } }
    exact ⟨by rw [hs], hl, hc, hr⟩

/-! ### The end of a context (R165, R177, R186, R187) -/

theorem Chip.releaseCtx_free (c : Chip) (n : Nat) (h : (c.ctx n).held = false) : c.releaseCtx n = c := by
  unfold Chip.releaseCtx
  rw [h]
  rfl

/-- TSK_CTX keeps what context n showed, where it shows it. -/
def Chip.finalKept (c : Chip) (n st : Nat) : Chip :=
  if c.sched.sel = some (n, (c.ctx n).gen) ∧ c.sched.selFinal = [] then
    { c with sched := { c.sched with selFinal := bytesToWords (c.ctxBytes n (c.ctx n) st) } }
  else c
/-- The place in TSK_END of the next end. -/
def Chip.endSlot (c : Chip) : Nat := 0x00200800 + 16 * ((c.reg 0x0020009C).toNat % 512)
/-- The end of a context stands in TSK_END. -/
def Chip.endLogged (c : Chip) (x : Ctx) (n seq : Nat) : Chip :=
  (((c.setReg c.endSlot (BitVec.ofNat 32 (x.handle n))).setReg (c.endSlot + 4)
    (BitVec.ofNat 32 (x.status * 2 ^ 16 + min x.breach 0xFFFF))).setReg64 (c.endSlot + 8) seq).cntWrap 0x0020009C
/-- The end of a context is in the ledgers. -/
def Chip.endBooked (c : Chip) (x : Ctx) (st : Nat) : Chip :=
  ((c.ledAdd (tskCreated + 8 * (st - 7))).ledSub tskLive).ledSub (if x.resident then tskResident else tskFrozen)

/-- The end of context n, counted, and the TSK_CTX_SEL writes that wait for it answered. -/
def Chip.endTold (c : Chip) (n st seq : Nat) : Chip :=
  (((((c.finalKept n st).endLogged (c.ctx n) n seq).endBooked (c.ctx n) st).count 295).selDone n 3)

/-- The end of a context that holds nothing, step by step. -/
theorem Chip.endCtx_free (c : Chip) (n st seq : Nat) (h : (c.ctx n).held = false) :
    ∃ p, c.endCtx n st seq = Chip.serveSlots
      { (c.endTold n st seq).dropReads p with
        sched := { (c.endTold n st seq).sched with ctxs := tabDel (c.endTold n st seq).sched.ctxs n } } := by
  unfold Chip.endCtx
  rw [Chip.releaseCtx_free c n h]
  exact ⟨_, rfl⟩

theorem Chip.finalKept_shape (c : Chip) (n st : Nat) :
    ∃ w, c.finalKept n st = { c with sched := { c.sched with selFinal := w } } := by
  unfold Chip.finalKept
  split
  · exact ⟨_, rfl⟩
  · exact ⟨_, rfl⟩

theorem Chip.reg_endLogged (c : Chip) (x : Ctx) (n seq : Nat) :
    (c.endLogged x n seq).reg 0x0020009C = c.reg 0x0020009C + 1 ∧
    (c.endLogged x n seq).reg c.endSlot = BitVec.ofNat 32 (x.handle n) ∧
    (c.endLogged x n seq).reg (c.endSlot + 4) = BitVec.ofNat 32 (x.status * 2 ^ 16 + min x.breach 0xFFFF) := by
  have hk : 0x00200800 ≤ c.endSlot := Nat.le_add_right _ _
  generalize hslot : c.endSlot = k at hk
  unfold Chip.endLogged
  rw [hslot]
  refine ⟨?_, ?_, ?_⟩
  · rw [Chip.reg_cntWrap_same, Chip.reg_setReg64_other _ _ (by omega) (by omega), Chip.reg_setReg_other _ _ (by omega),
      Chip.reg_setReg_other _ _ (by omega)]
    rfl
  · rw [Chip.reg_cntWrap_other _ _ (by omega), Chip.reg_setReg64_other _ _ (by omega) (by omega),
      Chip.reg_setReg_other _ _ (by omega), Chip.reg_setReg_same]
  · rw [Chip.reg_cntWrap_other _ _ (by omega), Chip.reg_setReg64_other _ _ (by omega) (by omega), Chip.reg_setReg_same]

theorem Chip.ledger_endBooked (c : Chip) (x : Ctx) (st : Nat) (h1 : 8 ≤ st) (h2 : st ≤ 10) :
    (c.endBooked x st).ledger (tskCreated + 8 * (st - 7)) = c.ledger (tskCreated + 8 * (st - 7)) + 1 ∧
    (c.endBooked x st).ledger tskLive = c.ledger tskLive - 1 ∧
    (x.resident = true → (c.endBooked x st).ledger tskResident = c.ledger tskResident - 1) := by
  have hslot : ∀ b : Bool, (if b then tskResident else tskFrozen) = tskResident ∨
      (if b then tskResident else tskFrozen) = tskFrozen := fun b => by cases b <;> simp
  unfold Chip.endBooked
  simp only [Chip.ledger_ledSub, Chip.ledger_ledAdd]
  have he : tskCreated + 8 * (st - 7) ≠ tskLive ∧ tskCreated + 8 * (st - 7) ≠ tskResident ∧
      tskCreated + 8 * (st - 7) ≠ tskFrozen := by
    unfold tskCreated tskLive tskResident tskFrozen
    omega
  obtain ⟨hlive, hres, hfro⟩ := he
  refine ⟨?_, ?_, fun hx => ?_⟩
  · rw [if_neg (by rcases hslot x.resident with h | h <;> rw [h] <;> assumption), if_neg hlive, if_true]
    rfl
  · rw [if_neg (by rcases hslot x.resident with h | h <;> rw [h] <;> decide), if_true, if_neg hlive.symm]
    rfl
  · rw [hx, if_pos rfl, if_pos rfl, if_neg (by decide), if_neg hres.symm]
    rfl

/-- What the end of a context leaves of the device before its slot is offered. -/
theorem Chip.endTold_spec (c : Chip) (n st seq : Nat) :
    (c.endTold n st seq).sched.ctxs = c.sched.ctxs ∧ (c.endTold n st seq).cmd = c.cmd ∧
    (∀ a, (c.endTold n st seq).ledger a = (c.endBooked (c.ctx n) st).ledger a) ∧
    ∀ a, a ≠ 0x00010024 → (c.endTold n st seq).reg a = (c.endLogged (c.ctx n) n seq).reg a := by
  obtain ⟨hctxs, hled, hcmd, hreg⟩ := Chip.selDone_fails
    ((((c.finalKept n st).endLogged (c.ctx n) n seq).endBooked (c.ctx n) st).count 295) n 3 (by decide)
  obtain ⟨w, e⟩ := c.finalKept_shape n st
  unfold Chip.endTold
  refine ⟨hctxs.trans ?_, hcmd.trans ?_, fun a => (Chip.ledger_of_led hled a).trans ?_, fun a ha => (hreg a ha).trans ?_⟩
  · rw [Chip.count_sched, e]
    rfl
  · rw [Chip.count_cmd, e]
    rfl
  · rw [Chip.ledger_count, e]
    rfl
  · rw [Chip.reg_count, e]
    rfl

/-- The end of a context that holds nothing while nobody waits for a slot: it is FREE, in the ledgers and in TSK_END. -/
theorem Chip.endCtx_spec (c : Chip) (n st seq : Nat) (h : (c.ctx n).held = false) (hq : c.slotsQuiet) :
    (c.endCtx n st seq).ctx n = {} ∧ (c.endCtx n st seq).cmd = c.cmd ∧
    (∀ a, (c.endCtx n st seq).ledger a = (c.endBooked (c.ctx n) st).ledger a) ∧
    ∀ a, a ≠ 0x00010024 → (c.endCtx n st seq).reg a = (c.endLogged (c.ctx n) n seq).reg a := by
  obtain ⟨p, e⟩ := c.endCtx_free n st seq h
  obtain ⟨hctxs, hcmd, hled, hreg⟩ := c.endTold_spec n st seq
  generalize c.endTold n st seq = b at *
  have hquiet : Chip.slotsQuiet
      { b.dropReads p with sched := { b.sched with ctxs := tabDel b.sched.ctxs n } } := fun x hx => by
    refine hq x ?_
    rw [← hctxs]
    exact List.mem_of_mem_filter hx
  rw [hquiet.serveSlots] at e
  rw [e]
  exact ⟨tabGet_tabDel_same _ _ _, hcmd, hled, hreg⟩

end Sys2Proof.Machine
end

section
/-! SUPPORT. Event effects: what the acceptance of each kind of event changes, row by row, and the refutation of EventEffects,
whose last clause exchanges STATE and STATUS. -/

namespace Sys2Proof.Machine

/-! ### The accepted event's own counts leave the tasks alone -/

theorem Chip.evtCounted_keeps (c : Chip) (p : Nat) (es : List Event) (e : Event) :
    ((c.evtTaken p es).evtCounted e).sched = c.sched ∧ ((c.evtTaken p es).evtCounted e).led = c.led ∧
    ((c.evtTaken p es).evtCounted e).cmd = c.cmd ∧ ((c.evtTaken p es).evtCounted e).dev = c.dev ∧
    ((c.evtTaken p es).evtCounted e).tm = c.tm := by
  obtain ⟨r, k, q, h⟩ := c.evtCounted_shape p es e
  rw [h]
  exact ⟨rfl, rfl, rfl, rfl, rfl⟩

theorem Chip.ports_evtCounted (c : Chip) (p : Nat) (es : List Event) (e : Event) :
    ((c.evtTaken p es).evtCounted e).ports = c.ports := by
  obtain ⟨r, k, q, h⟩ := c.evtCounted_shape p es e
  rw [h]

theorem Chip.ctx_evtNumbered (c : Chip) (e : Event) (seq n : Nat) : (c.evtNumbered e seq).ctx n = c.ctx n :=
  Chip.ctx_of_ctxs (congrArg Sched.ctxs (c.evtNumbered_sched e seq)) n

/-! ### READY (R165, R29) -/

theorem Chip.carryFrozen_sched (c : Chip) (n : Nat) : (c.carryFrozen n).sched = c.sched := by
  unfold Chip.carryFrozen
  simp only
  split
  · exact Chip.memWriteReqs_sched _ _ _ _
  · rfl

theorem Chip.qmax_sched (c : Chip) : c.qmax.sched = c.sched := by
  unfold Chip.qmax
  generalize List.range 8 = qs
  induction qs generalizing c with
  | nil => rfl
  | cons q qs ih =>
    rw [List.foldl_cons, ih]
    simp only
    split
    · rfl
    · rfl

theorem Chip.keepSlot_settled (c : Chip) (n : Nat) (h : (c.ctx n).freezing = false) : c.keepSlot n = c := by
  unfold Chip.keepSlot
  rw [h]
  rfl

/-- A context as it enters state `st` by the event of number `seq`. -/
def Ctx.entering (x : Ctx) (st seq : Nat) : Ctx :=
  let x := if x.st == 0 then { x with createSeq := seq } else x
  { x with st := st, pend := if x.pend = some st then none else x.pend }

theorem Ctx.entering_keeps (x : Ctx) (st seq : Nat) :
    (x.entering st seq).st = st ∧ (x.entering st seq).gen = x.gen ∧ (x.entering st seq).cancelDue = x.cancelDue ∧
    (x.entering st seq).freezing = x.freezing ∧ (x.entering st seq).held = x.held ∧
    (x.entering st seq).resident = x.resident ∧ (x.entering st seq).due = x.due ∧
    (x.entering st seq).breach = x.breach ∧ (x.entering st seq).wantSlot = x.wantSlot := by
  unfold Ctx.entering
  cases x.st == 0 <;> exact ⟨rfl, rfl, rfl, rfl, rfl, rfl, rfl, rfl, rfl⟩

theorem Ctx.entering_pend (x : Ctx) (st seq : Nat) (h : x.pend = some st) : (x.entering st seq).pend = none := by
  have hp : (if x.st == 0 then { x with createSeq := seq } else x).pend = some st := by split <;> exact h
  unfold Ctx.entering
  simp only [hp, if_true]

/-- The copy of a context that its creation left frozen is written. -/
def Chip.bornCopy (c : Chip) (n : Nat) (new : Bool) : Chip := if new then c.carryFrozen n else c

theorem Chip.bornCopy_sched (c : Chip) (n : Nat) (new : Bool) : (c.bornCopy n new).sched = c.sched := by
  unfold Chip.bornCopy
  split
  · exact Chip.carryFrozen_sched c n
  · rfl

/-- A context that becomes READY takes its state and its time, and a pass is due. -/
theorem Chip.enterState_ready (c : Chip) (d : Memory) (n seq : Nat) (hlive : (c.ctx n).live = true)
    (hc : (c.ctx n).cancelDue = false) (hf : (c.ctx n).freezing = false) :
    (c.enterState d n (c.ctx n).gen 3 seq).sched =
      { (c.setCtx n { (c.ctx n).entering 3 seq with readyFrc := c.frc, expiry := 0 }).sched with passDue := true } := by
  obtain ⟨-, -, hcancel, hfreeze, -⟩ := (c.ctx n).entering_keeps 3 seq
  generalize hy : c.setCtx n { (c.ctx n).entering 3 seq with readyFrc := c.frc, expiry := 0 } = y
  have hyf : (y.ctx n).freezing = false := by
    rw [← hy, Chip.ctx_setCtx_same]
    exact hfreeze.trans hf
  have e : c.enterState d n (c.ctx n).gen 3 seq =
      if (!(c.ctx n).live) = true ∨ (c.ctx n).gen ≠ (c.ctx n).gen then c
      else if ((c.ctx n).entering 3 seq).cancelDue = true ∧ 3 ≤ 3 then
        (c.setCtx n { (c.ctx n).entering 3 seq with st := if (c.ctx n).st == 0 then 3 else (c.ctx n).st }).bornCopy n
          ((c.ctx n).st == 0)
      else Chip.qmax { (y.keepSlot n).bornCopy n ((c.ctx n).st == 0) with
        sched := { ((y.keepSlot n).bornCopy n ((c.ctx n).st == 0)).sched with passDue := true } } := by
    rw [← hy]
    rfl
  rw [e, if_neg (by simp [hlive]), if_neg (by simp [hcancel, hc]), Chip.qmax_sched, y.keepSlot_settled n hyf,
    Chip.bornCopy_sched]

/-! ### Terminal states (R165, R187) -/

/-- A context that enters a terminal state ends with the status that waited; then preloads that waited start. -/
theorem Chip.enterState_terminal (c : Chip) (d : Memory) (n seq : Nat) (st : Fin 3) (hlive : (c.ctx n).live = true) :
    c.enterState d n (c.ctx n).gen (8 + st) seq =
      ((c.setCtx n { (c.ctx n).entering (8 + st) seq with status := (c.ctx n).due }).endCtx n (8 + st) seq).startPreloads
        d := by
  obtain ⟨-, -, -, -, -, -, hdue, -, -⟩ := (c.ctx n).entering_keeps (8 + st) seq
  have e : c.enterState d n (c.ctx n).gen (8 + st) seq =
      if (!(c.ctx n).live) = true ∨ (c.ctx n).gen ≠ (c.ctx n).gen then c
      else if ((c.ctx n).entering (8 + st) seq).cancelDue = true ∧ 8 + st.val ≤ 3 then
        (c.setCtx n { (c.ctx n).entering (8 + st) seq with st := if (c.ctx n).st == 0 then 8 + st.val else (c.ctx n).st
          }).bornCopy n ((c.ctx n).st == 0)
      else ((c.setCtx n { (c.ctx n).entering (8 + st) seq with status := ((c.ctx n).entering (8 + st) seq).due }).endCtx n
        (8 + st) seq).startPreloads d := by
    fin_cases st <;> rfl
  rw [e, if_neg (by simp [hlive]), if_neg (by omega), hdue]

/-! ### The rows of the tasks' events -/

/-- A task becomes READY. -/
theorem eventAccept_ready (s : State) (p n gen : Nat) (e : Event) (es : List Event) (h : s.chip.front p e es)
    (ha : e.acts = [.task n gen 3]) (he : e.err = none) (hlive : (s.chip.ctx n).live = true) (hgen : (s.chip.ctx n).gen = gen)
    (hp : (s.chip.ctx n).pend = some 3) (hc : (s.chip.ctx n).cancelDue = false) (hf : (s.chip.ctx n).freezing = false) :
    ∃ t, exec .eventAccept s = .next t ∧ (t.chip.ctx n).st = 3 ∧ (t.chip.ctx n).pend = none ∧
      (t.chip.ctx n).readyFrc = s.chip.frc ∧ t.chip.sched.passDue = true ∧
      ∀ m, m ≠ n → t.chip.ctx m = s.chip.ctx m := by
  subst hgen
  obtain ⟨hsched, -, -, -, htm⟩ := s.chip.evtCounted_keeps p es e
  have hrow := eventAccept_act s h ha he
  generalize (s.chip.evtTaken p es).evtCounted e = c at *
  have hctx : ∀ m, c.ctx m = s.chip.ctx m := fun m => Chip.ctx_of_ctxs (congrArg Sched.ctxs hsched) m
  have hfrc : c.frc = s.chip.frc := by
    unfold Chip.frc
    rw [htm]
  have hready := c.enterState_ready s.dram n s.chip.cirque.next (by rw [hctx]; exact hlive) (by rw [hctx]; exact hc)
    (by rw [hctx]; exact hf)
  rw [hctx, hfrc] at hready
  obtain ⟨hst, -⟩ := (s.chip.ctx n).entering_keeps 3 s.chip.cirque.next
  generalize hy : c.setCtx n { (s.chip.ctx n).entering 3 s.chip.cirque.next with readyFrc := s.chip.frc, expiry := 0 } = y
    at hready
  have hyn : y.ctx n = { (s.chip.ctx n).entering 3 s.chip.cirque.next with readyFrc := s.chip.frc, expiry := 0 } := by
    rw [← hy]
    exact Chip.ctx_setCtx_same _ _ _
  have htctx : ∀ m, ((c.applyAct s.dram s.chip.cirque.next (.task n (s.chip.ctx n).gen 3)).evtNumbered e
      s.chip.cirque.next).ctx m = y.ctx m := fun m =>
    (Chip.ctx_evtNumbered _ _ _ m).trans (Chip.ctx_of_ctxs (by
      show (c.enterState s.dram n (s.chip.ctx n).gen 3 s.chip.cirque.next).sched.ctxs = _
      rw [hready]) m)
  refine ⟨_, hrow, ?_, ?_, ?_, ?_, fun m hm => ?_⟩
  · rw [htctx, hyn]
    exact hst
  · rw [htctx, hyn]
    exact (s.chip.ctx n).entering_pend 3 _ hp
  · rw [htctx, hyn]
  · rw [Chip.evtNumbered_sched]
    show (c.enterState s.dram n (s.chip.ctx n).gen 3 s.chip.cirque.next).sched.passDue = true
    rw [hready]
  · rw [htctx, ← hy]
    exact (tabGet_tabSet_other _ _ _ hm).trans (hctx m)

theorem Chip.slotsQuiet_of_sched {c d : Chip} (h : d.sched = c.sched) (hq : c.slotsQuiet) : d.slotsQuiet := by
  unfold Chip.slotsQuiet
  rw [h]
  exact hq

/-- A context that holds nothing ends as `x`: it is FREE, counted, and stands in TSK_END. -/
theorem Chip.endCtx_as (c : Chip) (n st seq : Nat) (x : Ctx) (hheld : x.held = false) (hw : x.wantSlot = none)
    (hq : c.slotsQuiet) (h1 : 8 ≤ st) (h2 : st ≤ 10) :
    ((c.setCtx n x).endCtx n st seq).ctx n = {} ∧ ((c.setCtx n x).endCtx n st seq).cmd = c.cmd ∧
    (((c.setCtx n x).endCtx n st seq).ledger (tskCreated + 8 * (st - 7)) = c.ledger (tskCreated + 8 * (st - 7)) + 1 ∧
      ((c.setCtx n x).endCtx n st seq).ledger tskLive = c.ledger tskLive - 1 ∧
      (x.resident = true → ((c.setCtx n x).endCtx n st seq).ledger tskResident = c.ledger tskResident - 1)) ∧
    ((c.setCtx n x).endCtx n st seq).reg 0x0020009C = c.reg 0x0020009C + 1 ∧
    ((c.setCtx n x).endCtx n st seq).reg c.endSlot = BitVec.ofNat 32 (x.handle n) ∧
    ((c.setCtx n x).endCtx n st seq).reg (c.endSlot + 4) =
      BitVec.ofNat 32 (x.status * 2 ^ 16 + min x.breach 0xFFFF) := by
  have hx := c.ctx_setCtx_same n x
  obtain ⟨hctx, hcmd, hled, hreg⟩ := (c.setCtx n x).endCtx_spec n st seq (by rw [hx]; exact hheld) (hq.setCtx n x hw)
  obtain ⟨hend, hlive, hres⟩ := (c.setCtx n x).ledger_endBooked x st h1 h2
  obtain ⟨hcnt, hlow, hhigh⟩ := (c.setCtx n x).reg_endLogged x n seq
  have hslot : (c.setCtx n x).endSlot = c.endSlot := rfl
  have hk : 0x00200800 ≤ c.endSlot := Nat.le_add_right _ _
  rw [hx] at hled hreg
  rw [hslot] at hlow hhigh
  exact ⟨hctx, hcmd, ⟨(hled _).trans hend, (hled _).trans hlive, fun h => (hled _).trans (hres h)⟩,
    (hreg _ (by decide)).trans hcnt, (hreg _ (by omega)).trans hlow, (hreg _ (by omega)).trans hhigh⟩

/-- The preloads that follow an end, and the numbering of its event, leave what the end did. -/
theorem Chip.evtNumbered_startPreloads (c : Chip) (d : Memory) (e : Event) (seq n : Nat) (h : c.ctx n = {}) :
    (((c.startPreloads d).evtNumbered e seq).ctx n).live = false ∧
    (∀ a, 0x00200000 ≤ a → ((c.startPreloads d).evtNumbered e seq).ledger a = c.ledger a) ∧
    ∀ a, 0x00200000 ≤ a → a < 0x00300000 → ((c.startPreloads d).evtNumbered e seq).reg a = c.reg a := by
  have hk := Chip.tasksKept.startPreloads c d
  refine ⟨?_, fun a ha => ?_, fun a h1 h2 => ?_⟩
  · rw [Chip.ctx_evtNumbered, hk.ctx n (by rw [h]; decide), h]
    rfl
  · rw [Chip.ledger_of_led (Chip.evtNumbered_led _ _ _), hk.led a ha]
  · rw [Chip.reg_evtNumbered _ _ _ (by omega), hk.reg a h1 h2]

/-- A task ends. -/
theorem eventAccept_terminal (s : State) (p n gen : Nat) (st : Fin 3) (e : Event) (es : List Event)
    (h : s.chip.front p e es) (ha : e.acts = [.task n gen (8 + st)]) (he : e.err = none)
    (hlive : (s.chip.ctx n).live = true) (hgen : (s.chip.ctx n).gen = gen) (hheld : (s.chip.ctx n).held = false)
    (hres : (s.chip.ctx n).resident = true) (hq : s.chip.slotsQuiet) :
    ∃ t, exec .eventAccept s = .next t ∧ (t.chip.ctx n).live = false ∧
      t.chip.ledger (tskCreated + 8 * (1 + st)) = s.chip.ledger (tskCreated + 8 * (1 + st)) + 1 ∧
      t.chip.ledger tskLive = s.chip.ledger tskLive - 1 ∧ t.chip.ledger tskResident = s.chip.ledger tskResident - 1 ∧
      t.chip.reg 0x0020009C = s.chip.reg 0x0020009C + 1 ∧
      t.chip.reg s.chip.endSlot = BitVec.ofNat 32 (gen * 4096 + n) ∧
      t.chip.reg (s.chip.endSlot + 4) =
        BitVec.ofNat 32 ((s.chip.ctx n).due * 2 ^ 16 + min (s.chip.ctx n).breach 0xFFFF) := by
  subst hgen
  obtain ⟨hsched, hled, -, -, -⟩ := s.chip.evtCounted_keeps p es e
  have hregs := fun a h1 h2 => s.chip.reg_evtCounted p es e (a := a) h1 h2
  have hrow := eventAccept_act s h ha he
  generalize (s.chip.evtTaken p es).evtCounted e = c at *
  have hctx : c.ctx n = s.chip.ctx n := Chip.ctx_of_ctxs (congrArg Sched.ctxs hsched) n
  have hslot : c.endSlot = s.chip.endSlot := by
    unfold Chip.endSlot
    rw [hregs _ (by decide) (by decide)]
  obtain ⟨-, hgen, -, -, hheld', hres', -, hbreach, hwant⟩ := (s.chip.ctx n).entering_keeps (8 + st) s.chip.cirque.next
  have hterm := c.enterState_terminal s.dram n s.chip.cirque.next st (by rw [hctx]; exact hlive)
  rw [hctx] at hterm
  generalize hx : ({ (s.chip.ctx n).entering (8 + st) s.chip.cirque.next with status := (s.chip.ctx n).due } : Ctx) = x
    at hterm
  have hxheld : x.held = false := by rw [← hx]; exact hheld'.trans hheld
  have hxwant : x.wantSlot = none := by rw [← hx]; exact hwant.trans (hq.ctx n)
  have hxres : x.resident = true := by rw [← hx]; exact hres'.trans hres
  have hxend : x.handle n = (s.chip.ctx n).gen * 4096 + n ∧ x.status = (s.chip.ctx n).due ∧
      x.breach = (s.chip.ctx n).breach := by
    rw [← hx]
    exact ⟨congrArg (· * 4096 + n) hgen, rfl, hbreach⟩
  obtain ⟨hhandle, hstatus, hxbreach⟩ := hxend
  obtain ⟨hfree, -, ⟨hend, hgone, hleft⟩, hcnt, hlow, hhigh⟩ := c.endCtx_as n (8 + st) s.chip.cirque.next x hxheld hxwant
    (Chip.slotsQuiet_of_sched hsched hq) (by omega) (by omega)
  generalize (c.setCtx n x).endCtx n (8 + st) s.chip.cirque.next = b at *
  obtain ⟨hdead, hkled, hkreg⟩ := Chip.evtNumbered_startPreloads b s.dram e s.chip.cirque.next n hfree
  have hact : c.applyAct s.dram s.chip.cirque.next (.task n (s.chip.ctx n).gen (8 + st)) = b.startPreloads s.dram := hterm
  rw [hact] at hrow
  have hl : ∀ a, c.ledger a = s.chip.ledger a := Chip.ledger_of_led hled
  have hk : 0x00200800 ≤ s.chip.endSlot ∧ s.chip.endSlot < 0x00202800 := by unfold Chip.endSlot; omega
  have hadd : 8 + st.val - 7 = 1 + st := by omega
  rw [hadd, hl] at hend
  rw [hl] at hgone hleft
  rw [hslot] at hlow hhigh
  refine ⟨_, hrow, hdead, ?_, ?_, ?_, ?_, ?_, ?_⟩
  · rw [hkled _ (by unfold tskCreated; omega), hend]
  · rw [hkled _ (by decide), hgone]
  · rw [hkled _ (by decide), hleft hxres]
  · rw [hkreg _ (by decide) (by decide), hcnt, hregs _ (by decide) (by decide)]
  · rw [hkreg _ (by omega) (by omega), hlow, hhandle]
  · rw [hkreg _ (by omega) (by omega), hhigh, hstatus, hxbreach]

/-! ### Commands that a task's event completes (R167, R178) -/

theorem Chip.executing_of_executes {c : Chip} {h : CmdHdr} {x : Cmd} (hx : c.executes h x) (f : Cmd → Bool) :
    c.executing f = f x := by
  unfold Chip.executing
  rw [hx]

theorem Chip.executes_of_cmd {c d : Chip} {h : CmdHdr} {x : Cmd} (hc : d.cmd = c.cmd) (hx : c.executes h x) :
    d.executes h x := by
  unfold Chip.executes Chip.active at *
  rw [hc]
  exact hx

theorem Chip.cancelReply_executes (c : Chip) (n gen status state : Nat) (h : CmdHdr)
    (hx : c.executes h (.taskCancel (gen * 4096 + n))) : c.cancelReply n gen status state = c.cmdFinish status [] state := by
  unfold Chip.cancelReply
  rw [Chip.executing_of_executes hx]
  simp only [beq_self_eq_true, if_true]

/-- A cancel that is accepted before the burst ends the context. -/
theorem Chip.cancelEvent_ends (c : Chip) (n seq : Nat) (hlive : (c.ctx n).live = true) (hst : (c.ctx n).st ≤ 5) :
    c.cancelEvent n (c.ctx n).gen seq = ((c.setCtx n { c.ctx n with status := 0x0102 }).endCtx n 9 seq).cancelReply n
      (c.ctx n).gen 0 0 := by
  unfold Chip.cancelEvent
  simp only
  rw [if_neg (by simp [hlive]), if_neg (by omega), if_neg (by omega)]
  rfl

/-- A command that ended stays so while preloads start and the event is numbered. -/
theorem Chip.ended_startPreloads (c : Chip) (d : Memory) {h : CmdHdr} {st : Nat} {r : List Word} {state : Nat}
    (he : c.ended h st r state) : (c.startPreloads d).ended h st r state := by
  have hk := Chip.tasksKept.startPreloads c d
  unfold Chip.ended Chip.waitsTo at *
  rw [hk.cmd, hk.cirque]
  exact he

/-- A cancel of a task that holds nothing. -/
theorem eventAccept_cancel (s : State) (p n gen : Nat) (h : CmdHdr) (e : Event) (es : List Event)
    (hfront : s.chip.front p e es) (ha : e.acts = [.cancel n gen]) (he : e.err = none)
    (hlive : (s.chip.ctx n).live = true) (hst : (s.chip.ctx n).st ≤ 5) (hgen : (s.chip.ctx n).gen = gen)
    (hheld : (s.chip.ctx n).held = false) (hq : s.chip.slotsQuiet)
    (hx : s.chip.executes h (.taskCancel (gen * 4096 + n))) :
    ∃ t, exec .eventAccept s = .next t ∧ (t.chip.ctx n).live = false ∧ t.chip.ended h 0 ∧
      t.chip.ledger (tskCreated + 16) = s.chip.ledger (tskCreated + 16) + 1 := by
  subst hgen
  obtain ⟨hsched, hled, hcmd, -, -⟩ := s.chip.evtCounted_keeps p es e
  have hrow := eventAccept_act s hfront ha he
  generalize (s.chip.evtTaken p es).evtCounted e = c at *
  have hctx : c.ctx n = s.chip.ctx n := Chip.ctx_of_ctxs (congrArg Sched.ctxs hsched) n
  have hcancel := c.cancelEvent_ends n s.chip.cirque.next (by rw [hctx]; exact hlive) (by rw [hctx]; exact hst)
  obtain ⟨hfree, hbcmd, ⟨hend, -, -⟩, -, -, -⟩ := c.endCtx_as n 9 s.chip.cirque.next { c.ctx n with status := 0x0102 }
    (by rw [hctx]; exact hheld) (by rw [hctx]; exact hq.ctx n) (Chip.slotsQuiet_of_sched hsched hq) (by decide) (by decide)
  generalize (c.setCtx n { c.ctx n with status := 0x0102 }).endCtx n 9 s.chip.cirque.next = b at *
  have hbx : b.executes h (.taskCancel ((s.chip.ctx n).gen * 4096 + n)) :=
    Chip.executes_of_cmd (hbcmd.trans hcmd) hx
  rw [hctx, b.cancelReply_executes n _ 0 0 h hbx] at hcancel
  have hended := b.cmdFinish_ended h _ 0 [] 0 hbx
  have hfin : (b.cmdFinish 0 [] 0).ctx n = {} := (Chip.ctx_of_ctxs (by rw [Chip.cmdFinish_sched]) n).trans hfree
  have hfled : ∀ a, (b.cmdFinish 0 [] 0).ledger a = b.ledger a := Chip.ledger_of_led (Chip.cmdFinish_led _ _ _ _)
  generalize b.cmdFinish 0 [] 0 = f at *
  obtain ⟨hdead, hkled, -⟩ := Chip.evtNumbered_startPreloads f s.dram e s.chip.cirque.next n hfin
  have hact : c.applyAct s.dram s.chip.cirque.next (.cancel n (s.chip.ctx n).gen) = f.startPreloads s.dram :=
    congrArg (fun c => Chip.startPreloads c s.dram) hcancel
  rw [hact] at hrow
  refine ⟨_, hrow, hdead, Chip.ended_evtNumbered _ e _ (f.ended_startPreloads s.dram hended), ?_⟩
  rw [hkled _ (by decide), hfled, show tskCreated + 16 = tskCreated + 8 * (9 - 7) from rfl, hend,
    Chip.ledger_of_led hled]

theorem Chip.carryFrozen_cmd (c : Chip) (n : Nat) : (c.carryFrozen n).cmd = c.cmd := by
  unfold Chip.carryFrozen
  simp only
  split
  · obtain ⟨-, hcmd, -⟩ := Chip.memWriteReqs_host_keeps c (c.freezeBase + 256 * n)
      (c.ctxBytes n { c.ctx n with resident := false } (c.ctx n).st) (fun i => .freeze n i)
    exact hcmd
  · rfl

/-- The device with the flags of context n written, before anything follows from it. -/
def Chip.flagsPut (c : Chip) (n : Nat) (set clr : Dword) : Chip :=
  ({ c with sched := { c.sched with flagNo := c.sched.flagNo + 1 } } : Chip).updCtx n
    (fun x => { x with flags := flagWrite x.flags set clr, flagAt := c.sched.flagNo + 1 })

theorem Chip.ctx_flagsPut (c : Chip) (n : Nat) (set clr : Dword) :
    (c.flagsPut n set clr).ctx n =
      { c.ctx n with flags := flagWrite (c.ctx n).flags set clr, flagAt := c.sched.flagNo + 1 } :=
  Chip.ctx_setCtx_same _ _ _

/-- A flag write of a context that neither waits for flags nor runs changes its flags and, where it is frozen, its copy. -/
theorem Chip.writeFlags_plain (c : Chip) (n kind : Nat) (set clr : Dword) (hst : (c.ctx n).st ≠ 1)
    (htm : (c.ctx n).startTm = 0) : c.writeFlags n kind set clr = (c.flagsPut n set clr).carryFrozen n := by
  have hctx := c.ctx_flagsPut n set clr
  have htm' : ((c.flagsPut n set clr).ctx n).startTm = 0 := by rw [hctx]; exact htm
  have hst' : ((c.flagsPut n set clr).ctx n).st ≠ 1 := by rw [hctx]; exact hst
  have e : ∀ y, y = c.flagsPut n set clr → c.writeFlags n kind set clr =
      (let z := (if (y.ctx n).startTm ≠ 0 ∧ (y.image (y.ctx n).image).elastic then y.takeView n kind set clr else y).carryFrozen n
       if (y.ctx n).st = 1 ∧ ((y.ctx n).pend = none ∨ (y.ctx n).pend = some 1) ∧ (y.ctx n).waitOk then
         z.readyCtx n (if (y.ctx n).delay ≠ 0 then 2 else 3)
       else z) := fun y hy => by rw [hy]; rfl
  rw [e _ rfl]
  simp only
  rw [if_neg fun h => hst' h.1, if_neg fun h => h.1 htm']

/-- A TASK_FLAGS write that is accepted completes its command with the new flags. -/
theorem Chip.flagEvent_task (c : Chip) (n : Nat) (set clr : Dword) (h : CmdHdr) (hlive : (c.ctx n).live = true)
    (hst : (c.ctx n).st ≠ 1) (htm : (c.ctx n).startTm = 0)
    (hx : c.executes h (.taskFlags ((c.ctx n).gen * 4096 + n) set clr)) :
    ((c.flagEvent n (c.ctx n).gen 1 set clr).ctx n).flags = ((c.ctx n).flags &&& ~~~clr) ||| set ∧
    (c.flagEvent n (c.ctx n).gen 1 set clr).ended h 0 (twoWords (((c.ctx n).flags &&& ~~~clr) ||| set).toNat) := by
  generalize hy : (c.flagsPut n set clr).carryFrozen n = y
  have hyctx : y.ctx n = { c.ctx n with flags := flagWrite (c.ctx n).flags set clr, flagAt := c.sched.flagNo + 1 } := by
    rw [← hy, ← c.ctx_flagsPut n set clr]
    exact Chip.ctx_of_ctxs (congrArg Sched.ctxs (Chip.carryFrozen_sched _ _)) n
  have hyx : y.executes h (.taskFlags ((c.ctx n).gen * 4096 + n) set clr) :=
    Chip.executes_of_cmd (by rw [← hy]; exact Chip.carryFrozen_cmd _ _) hx
  have hflags : (y.ctx n).flags = ((c.ctx n).flags &&& ~~~clr) ||| set := by
    rw [hyctx]
    rfl
  have e : c.flagEvent n (c.ctx n).gen 1 set clr = y.cmdFinish 0 (twoWords (y.ctx n).flags.toNat) := by
    unfold Chip.flagEvent
    rw [c.writeFlags_plain n 1 set clr hst htm, hy, hlive]
    simp only [beq_self_eq_true, Bool.and_self, if_true]
    rw [Chip.executing_of_executes hyx]
    simp only [beq_self_eq_true, if_true]
  rw [e, ← hflags]
  exact ⟨congrArg Ctx.flags (Chip.ctx_of_ctxs (by rw [Chip.cmdFinish_sched]) n), y.cmdFinish_ended h _ 0 _ 0 hyx⟩

/-- A TASK_FLAGS write. -/
theorem eventAccept_flags (s : State) (p n gen : Nat) (set clr : Dword) (h : CmdHdr) (e : Event) (es : List Event)
    (hfront : s.chip.front p e es) (ha : e.acts = [.flags n gen 1 set clr]) (he : e.err = none)
    (hlive : (s.chip.ctx n).live = true) (hgen : (s.chip.ctx n).gen = gen) (hst : (s.chip.ctx n).st ≠ 1)
    (htm : (s.chip.ctx n).startTm = 0) (hx : s.chip.executes h (.taskFlags (gen * 4096 + n) set clr)) :
    ∃ t, exec .eventAccept s = .next t ∧ (t.chip.ctx n).flags = ((s.chip.ctx n).flags &&& ~~~clr) ||| set ∧
      t.chip.ended h 0 (twoWords (((s.chip.ctx n).flags &&& ~~~clr) ||| set).toNat) := by
  subst hgen
  obtain ⟨hsched, -, hcmd, -, -⟩ := s.chip.evtCounted_keeps p es e
  have hrow := eventAccept_act s hfront ha he
  generalize (s.chip.evtTaken p es).evtCounted e = c at *
  have hctx : c.ctx n = s.chip.ctx n := Chip.ctx_of_ctxs (congrArg Sched.ctxs hsched) n
  rw [← hctx] at hlive hst htm hx hrow ⊢
  obtain ⟨hflags, hended⟩ := c.flagEvent_task n set clr h hlive hst htm (Chip.executes_of_cmd hcmd hx)
  exact ⟨_, hrow, (congrArg Ctx.flags (Chip.ctx_evtNumbered _ _ _ n)).trans hflags, Chip.ended_evtNumbered _ e _ hended⟩

/-! ### Error records (R393, R394, R397) -/

theorem Chip.reg_setRegs_other (ws : List Word) : ∀ (c : Chip) (a : Nat) {b : Nat},
    (b < a ∨ a + 4 * ws.length ≤ b) → (c.setRegs a ws).reg b = c.reg b := by
  induction ws with
  | nil => exact fun c a b _ => rfl
  | cons w ws ih =>
    intro c a b h
    rw [List.length_cons] at h
    exact (ih _ _ (by omega)).trans (Chip.reg_setReg_other c w (by omega))

theorem Chip.reg_setRegs (ws : List Word) : ∀ (c : Chip) (a i : Nat), i < ws.length →
    (c.setRegs a ws).reg (a + 4 * i) = ws.getD i 0 := by
  induction ws with
  | nil => exact fun c a i h => absurd h (Nat.not_lt_zero i)
  | cons w ws ih =>
    intro c a i h
    cases i with
    | zero => exact (Chip.reg_setRegs_other ws _ _ (by omega)).trans (Chip.reg_setReg_same c a w)
    | succ i =>
      rw [show a + 4 * (i + 1) = a + 4 + 4 * i by omega]
      exact ih _ _ i (by rw [List.length_cons] at h; omega)

/-- The place in the error log of the next record. -/
def Chip.recSlot (c : Chip) : Nat := 0x00342000 + 32 * ((c.reg 0x00340008).toNat % 256)
/-- A record in the log, and counted by its class. -/
def Chip.recLogged (c : Chip) (e : Event) (r : ErrInfo) (seq : Nat) : Chip :=
  let c := ((c.setRegs c.recSlot (e.record r seq c.frc)).cntWrap 0x00340008).cntUp (0x00340010 + 4 * r.cls)
  if 2 ≤ r.cls then (c.cntUp 0x00340004).count 310 else c

theorem Chip.logRecord_plain (c : Chip) (e : Event) (r : ErrInfo) (seq : Nat) (h : r.cls ≤ 2) :
    c.logRecord e r seq = c.recLogged e r seq := by
  unfold Chip.logRecord
  simp only
  rw [if_neg (by omega)]
  rfl

/-- Counting a record leaves its log. -/
theorem Chip.reg_recLogged (c : Chip) (e : Event) (r : ErrInfo) (seq : Nat) (h : r.cls ≤ 3) {a : Nat}
    (ha : a ≠ 0x00340004 ∨ r.cls < 2) : (c.recLogged e r seq).reg a =
      (((c.setRegs c.recSlot (e.record r seq c.frc)).cntWrap 0x00340008).cntUp (0x00340010 + 4 * r.cls)).reg a := by
  unfold Chip.recLogged
  simp only
  split
  · rw [Chip.reg_count, Chip.reg_cntUp_other _ _ (by omega)]
  · rfl

/-- A logged record: the log's count, the class's count, the words, and the count of those that are not recoverable. -/
theorem Chip.recLogged_spec (c : Chip) (e : Event) (r : ErrInfo) (seq : Nat) (h : r.cls ≤ 3) :
    (c.recLogged e r seq).reg 0x00340008 = c.reg 0x00340008 + 1 ∧ c.counted (c.recLogged e r seq) (0x00340010 + 4 * r.cls) ∧
    (∀ i, i < 8 → (c.recLogged e r seq).reg (c.recSlot + 4 * i) = (e.record r seq c.frc).getD i 0) ∧
    (r.cls = 2 → c.counted (c.recLogged e r seq) 0x00340004) ∧ (c.recLogged e r seq).dev = c.dev ∧
    (c.recLogged e r seq).sched = c.sched := by
  have hslot : 0x00342000 ≤ c.recSlot := Nat.le_add_right _ _
  have hlog : ∀ a, a < 0x00342000 → (c.setRegs c.recSlot (e.record r seq c.frc)).reg a = c.reg a := fun a ha =>
    Chip.reg_setRegs_other _ _ _ (by omega)
  have hcnt : ∀ a, 0x00340010 + 4 * r.cls ≠ a → a ≠ 0x00340008 →
      (((c.setRegs c.recSlot (e.record r seq c.frc)).cntWrap 0x00340008).cntUp (0x00340010 + 4 * r.cls)).reg a =
        (c.setRegs c.recSlot (e.record r seq c.frc)).reg a := fun a h1 h2 => by
    rw [Chip.reg_cntUp_other _ _ (Ne.symm h1), Chip.reg_cntWrap_other _ _ h2]
  refine ⟨?_, ?_, fun i hi => ?_, fun h2 => ?_, ?_, ?_⟩
  · rw [c.reg_recLogged e r seq h (by omega), Chip.reg_cntUp_other _ _ (by omega), Chip.reg_cntWrap_same,
      hlog _ (by decide)]
    rfl
  · rw [Chip.counted, c.reg_recLogged e r seq h (by omega), Chip.reg_cntUp_same, Chip.reg_cntWrap_other _ _ (by omega),
      hlog _ (by omega)]
  · rw [c.reg_recLogged e r seq h (by omega), hcnt _ (by omega) (by omega)]
    exact Chip.reg_setRegs _ _ _ _ hi
  · unfold Chip.counted Chip.recLogged
    simp only
    rw [if_pos (by omega), Chip.reg_count, Chip.reg_cntUp_same, hcnt _ (by omega) (by decide), hlog _ (by decide)]
  · unfold Chip.recLogged
    simp only
    split <;> simp
  · unfold Chip.recLogged
    simp only
    split <;> simp

/-- A record that is not FATAL. -/
theorem eventAccept_logs (s : State) (p : Nat) (e : Event) (r : ErrInfo) (es : List Event) (h : s.chip.front p e es)
    (ha : e.acts = []) (he : e.err = some r) (hcls : r.cls ≤ 2) :
    ∃ t, exec .eventAccept s = .next t ∧ t.chip.reg 0x00340008 = s.chip.reg 0x00340008 + 1 ∧
      s.chip.counted t.chip (0x00340010 + 4 * r.cls) ∧
      (∀ i, i < 8 → t.chip.reg (s.chip.recSlot + 4 * i) = (e.record r s.chip.cirque.next s.chip.frc).getD i 0) ∧
      (r.cls = 2 → s.chip.counted t.chip 0x00340004) ∧ t.chip.dev.mode = s.chip.dev.mode := by
  obtain ⟨-, -, -, hdev, htm⟩ := s.chip.evtCounted_keeps p es e
  have hregs := fun a h1 h2 => s.chip.reg_evtCounted p es e (a := a) h1 h2
  have hrow := eventAccept_record s h ha he
  generalize (s.chip.evtTaken p es).evtCounted e = c at *
  rw [c.logRecord_plain e r _ hcls] at hrow
  have hfrc : c.frc = s.chip.frc := by
    unfold Chip.frc
    rw [htm]
  have hslot : c.recSlot = s.chip.recSlot := by
    unfold Chip.recSlot
    rw [hregs _ (by decide) (by decide)]
  have hle : 0x00342000 ≤ s.chip.recSlot := Nat.le_add_right _ _
  obtain ⟨hnum, hcount, hwords, hmajor, hd, -⟩ := c.recLogged_spec e r s.chip.cirque.next (by omega)
  rw [hfrc, hslot] at hwords
  refine ⟨_, hrow, ?_, ?_, fun i hi => ?_, fun h2 => ?_, ?_⟩
  · rw [Chip.reg_evtNumbered _ _ _ (by decide), hnum, hregs _ (by decide) (by decide)]
  · rw [Chip.counted, Chip.reg_evtNumbered _ _ _ (by omega), hcount, hregs _ (by omega) (by omega)]
  · rw [Chip.reg_evtNumbered _ _ _ (by omega), hwords i hi]
  · rw [Chip.counted, Chip.reg_evtNumbered _ _ _ (by decide), hmajor h2, hregs _ (by decide) (by decide)]
  · rw [Chip.evtNumbered_dev, hd, hdev]

/-- The first FATAL record stands in its registers. -/
def Chip.fatalKept (c : Chip) (ws : List Word) : Chip :=
  if (List.range 8).all (fun i => c.reg (0x00340020 + 4 * i) = 0) then c.setRegs 0x00340020 ws else c

theorem Chip.fatalKept_shape (c : Chip) (ws : List Word) : ∃ r, c.fatalKept ws = { c with regs := r } := by
  unfold Chip.fatalKept
  split
  · exact Chip.setRegs_shape ws c _
  · exact ⟨_, rfl⟩

theorem Chip.logRecord_fatal (c : Chip) (e : Event) (r : ErrInfo) (seq : Nat) (h : r.cls = 3) :
    c.logRecord e r seq = ((c.recLogged e r seq).fatalKept (e.record r seq c.frc)).toFault 9 seq := by
  unfold Chip.logRecord
  simp only
  rw [if_pos h]
  rfl

/-- FAULT without any context: no burst to stop. -/
theorem Chip.toFault_idle (c : Chip) (cause detail : Nat) (hm : c.dev.mode ≠ .fault) (hs : c.sched.ctxs = []) :
    (c.toFault cause detail).dev.mode = .fault ∧
    (c.toFault cause detail).reg 0x0001000C = BitVec.ofNat 32 (cause * 2 ^ 24 + detail % 2 ^ 24) := by
  have hstop : ∀ d : Chip, d.sched.ctxs = [] → d.stopBursts = d := fun d hd => by
    unfold Chip.stopBursts Chip.holders
    rw [hd]
    rfl
  have hreg := Chip.reg_setReg_same c 0x0001000C (BitVec.ofNat 32 (cause * 2 ^ 24 + detail % 2 ^ 24))
  unfold Chip.toFault
  simp only
  rw [if_neg hm, hstop ((c.setReg 0x0001000C (BitVec.ofNat 32 (cause * 2 ^ 24 + detail % 2 ^ 24))).setMode .fault) hs]
  split
  · exact ⟨congrArg Dev.mode (Chip.bringupAll_dev _), (Chip.reg_bringupAll _ (by decide)).trans hreg⟩
  · exact ⟨rfl, hreg⟩

/-- A FATAL record. -/
theorem eventAccept_fatal (s : State) (p : Nat) (e : Event) (r : ErrInfo) (es : List Event) (h : s.chip.front p e es)
    (ha : e.acts = []) (he : e.err = some r) (hcls : r.cls = 3) (hm : s.chip.dev.mode ≠ .fault)
    (hs : s.chip.sched.ctxs = []) :
    ∃ t, exec .eventAccept s = .next t ∧ t.chip.dev.mode = .fault ∧
      t.chip.reg 0x0001000C = BitVec.ofNat 32 (9 * 2 ^ 24 + s.chip.cirque.next % 2 ^ 24) := by
  obtain ⟨hsched, -, -, hdev, -⟩ := s.chip.evtCounted_keeps p es e
  have hrow := eventAccept_record s h ha he
  generalize (s.chip.evtTaken p es).evtCounted e = c at *
  obtain ⟨-, -, -, -, hd, hsc⟩ := c.recLogged_spec e r s.chip.cirque.next (by omega)
  rw [c.logRecord_fatal e r _ hcls] at hrow
  obtain ⟨rs, hy⟩ := (c.recLogged e r s.chip.cirque.next).fatalKept_shape (e.record r s.chip.cirque.next c.frc)
  generalize (c.recLogged e r s.chip.cirque.next).fatalKept (e.record r s.chip.cirque.next c.frc) = y at hrow hy
  have hyd : y.dev = c.dev := by rw [hy]; exact hd
  have hys : y.sched = c.sched := by rw [hy]; exact hsc
  obtain ⟨hmode, hcause⟩ := y.toFault_idle 9 s.chip.cirque.next (by rw [hyd, hdev]; exact hm) (by rw [hys, hsched]; exact hs)
  exact ⟨_, hrow, (congrArg Dev.mode (Chip.evtNumbered_dev _ _ _)).trans hmode,
    (Chip.reg_evtNumbered _ _ _ (by decide)).trans hcause⟩

/-! ### COMMAND_DONE (R29, R137, R314) -/

/-- The device as its executing command has left the processor. -/
def Chip.cmdLeft (c : Chip) (q : Nat) (tag : Byte) (status state : Nat) (data : List Word) : Chip :=
  { c with
    cmd := { c.cmd with exec := none, done := false }
    images := { c.images with check := none }
    dev := { c.dev with
      resetWait := c.dev.resetWait.map (fun (w : CplWait) => w.issued q tag (cplFrame tag true 0 state status c.lastSeq data))
      dropCompat :=
        c.dev.dropCompat.map (fun (w : CplWait) => w.issued q tag (cplFrame tag true 0 state status c.lastSeq data)) } }

theorem Chip.cmdIssue_own (c : Chip) (q : Nat) (tag : Byte) (status state : Nat) (data : List Word) :
    c.cmdIssue q tag status state data true =
      ((c.cmdLeft q tag status state data).cntWrap 0x00010048).replyAt c.lastSeq q tag status 0 state data := rfl

/-- Without an executing command no retrain holds the head of the queue. -/
theorem Chip.headFsp_idle (c : Chip) (he : c.cmd.exec = none) : c.headFsp = c := by
  have hr : c.retraining = false := by
    unfold Chip.retraining Chip.executing Chip.active
    rw [he, ite_self]
    exact Bool.and_false _
  unfold Chip.headFsp
  split
  · rw [hr]
    rfl
  · rfl

/-- The command's completion is issued, and the processor and the check's range are free. -/
theorem Chip.cmdIssue_own_spec (c : Chip) (q : Nat) (tag : Byte) (status state : Nat) (data : List Word)
    (h : (c.port q).redirect = false) :
    (c.cmdIssue q tag status state data true).cmd = { c.cmd with exec := none, done := false } ∧
    (c.cmdIssue q tag status state data true).images.check = none ∧
    (c.cmdIssue q tag status state data true).reg 0x00010048 = c.reg 0x00010048 + 1 ∧
    (∀ a, a ≠ 0x00010048 → a ≠ 0x00010024 → (c.cmdIssue q tag status state data true).reg a = c.reg a) ∧
    ∃ fs, ((c.cmdIssue q tag status state data true).port q).ready =
      fs ++ [cplFrame tag true 0 state status c.lastSeq data] := by
  rw [c.cmdIssue_own q tag status state data]
  refine ⟨Chip.replyAt_cmd _ _ _ _ _ _ _ _, congrArg Images.check (Chip.replyAt_images _ _ _ _ _ _ _ _), ?_,
    fun a h1 h2 => ?_, (c.port q).ready, ?_⟩
  · rw [Chip.reg_replyAt _ _ _ _ _ _ _ _ (by decide), Chip.reg_cntWrap_same]
    rfl
  · rw [Chip.reg_replyAt _ _ _ _ _ _ _ _ h2, Chip.reg_cntWrap_other _ _ h1]
    rfl
  · have hport : (((c.cmdLeft q tag status state data).cntWrap 0x00010048).port q) = c.port q := rfl
    rw [Chip.replyAt_port ((c.cmdLeft q tag status state data).cntWrap 0x00010048) _ q _ _ _ _ _ (by rw [hport]; exact h),
      hport]

/-- A command's completion. -/
theorem eventAccept_completes (s : State) (p : Nat) (q : Port) (tag : Byte) (status state : Nat) (data : List Word)
    (e : Event) (es : List Event) (h : s.chip.front p e es) (ha : e.acts = [.cplt q tag status state data true])
    (he : e.err = none) (hal : e.always = false)
    (hmask : bitOf (s.chip.field 0x00310004 31 16) (srcPort e.src) = false) (hred : (s.chip.port q).redirect = false) :
    ∃ t, exec .eventAccept s = .next t ∧ t.chip.cmd.exec = none ∧ t.chip.cmd.done = false ∧
      t.chip.images.check = none ∧ t.chip.cmd.queue = s.chip.cmd.queue ∧
      t.chip.reg 0x00010048 = s.chip.reg 0x00010048 + 1 ∧
      ∃ fs, (t.chip.port q).ready = fs ++ [cplFrame tag true 0 state status s.chip.lastSeq data] := by
  obtain ⟨-, -, hcmd, -, -⟩ := s.chip.evtCounted_keeps p es e
  have hregs := fun a h1 h2 => s.chip.reg_evtCounted p es e (a := a) h1 h2
  have hports := s.chip.ports_evtCounted p es e
  have hlast : ((s.chip.evtTaken p es).evtCounted e).lastSeq = s.chip.lastSeq := by
    unfold Chip.lastSeq
    rw [s.chip.next_evtCounted p es e]
  have hrow := eventAccept_act s h ha he
  generalize (s.chip.evtTaken p es).evtCounted e = c at *
  obtain ⟨hleft, hcheck, hcnt, hkept, hcpl⟩ := c.cmdIssue_own_spec q tag status state data
    (by rw [Chip.port_of_ports hports]; exact hred)
  have hact : ∀ d, c.cmdIssue q tag status state data true = d → d.cmd.exec = none →
      c.applyAct s.dram s.chip.cirque.next (.cplt q tag status state data true) = d := fun d hd hx => by
    rw [← hd] at hx ⊢
    exact Chip.headFsp_idle _ hx
  generalize c.cmdIssue q tag status state data true = d at *
  have hfield : d.field 0x00310004 31 16 = s.chip.field 0x00310004 31 16 :=
    Chip.field_of_reg ((hkept _ (by decide) (by decide)).trans (hregs _ (by decide) (by decide))) 31 16
  rw [hact d rfl (by rw [hleft]), Chip.evtNumbered_silent _ e _ hal (by rw [hfield]; exact hmask)] at hrow
  rw [hlast] at hcpl
  rw [hregs _ (by decide) (by decide)] at hcnt
  obtain ⟨fs, hfs⟩ := hcpl
  refine ⟨_, hrow, congrArg CmdProc.exec hleft, congrArg CmdProc.done hleft, hcheck, by rw [hleft, hcmd], hcnt, fs, ?_⟩
  unfold Chip.port at hfs ⊢
  exact hfs

/-! ### The obligation -/

/-- A COMMAND_DONE that issues a completion with STATUS 1 and STATE 0. -/
def refusedDone : Event := { src := srcOf 15 51, typ := 0x80D1, acts := [.cplt 0 5 1 0 [] true] }
/-- It is the one event that waits, and the notify queue takes none. -/
def refusedDoneWaits : State :=
  { chip := { regs := [(0x00310004, 0)], cirque := { queues := [(15, [refusedDone])] } } }

theorem cplFrame_param (tag : Byte) (last : Bool) (word state status s : Nat) (data : List Word) :
    (cplFrame tag last word state status s data).txn.param =
      BitVec.ofNat 32 (b2n last * 2 ^ 31 + word % 64 * 2 ^ 24 + state % 256 * 2 ^ 16 + status) := rfl

/-- Refutes O39: its last clause names the completion's STATE and STATUS in each other's place. A COMMAND_DONE with STATUS 1
and STATE 0 issues a completion of STATUS 1 and STATE 0 (`eventAccept_completes`), where the clause asks for STATUS 0 and
STATE 1. The clauses before it hold: `eventAccept_ready`, `eventAccept_terminal`, `eventAccept_flags`, `eventAccept_cancel`,
`eventAccept_logs` and `eventAccept_fatal`. -/
theorem not_eventEffects : ¬ Obligations.EventEffects := by
  unfold Obligations.EventEffects
  rintro ⟨-, -, -, -, -, -, hdone⟩
  have hfront : refusedDoneWaits.chip.front 15 refusedDone [] := by decide
  obtain ⟨t, ht, -, -, -, -, -, fs, hfs⟩ :=
    hdone refusedDoneWaits 15 0 5 1 0 [] refusedDone [] hfront rfl rfl (by decide) (by decide) (by decide)
  obtain ⟨t', ht', -, -, -, -, -, fs', hfs'⟩ :=
    eventAccept_completes refusedDoneWaits 15 0 5 1 0 [] refusedDone [] hfront rfl rfl (by decide) (by decide) (by decide)
  have htt : t = t' := Host.Outcome.next.inj (ht.symm.trans ht')
  have hframes : cplFrame 5 true 0 1 0 refusedDoneWaits.chip.lastSeq [] =
      cplFrame 5 true 0 0 1 refusedDoneWaits.chip.lastSeq [] := by
    rw [htt, hfs'] at hfs
    exact (List.singleton_injective (List.append_inj' hfs rfl).2).symm
  have hparam := congrArg (fun f => f.txn.param) hframes
  simp only [cplFrame_param] at hparam
  exact absurd hparam (by decide)

end Sys2Proof.Machine
end

section
/-! SUPPORT. Lane rows: what the receive reference, checkers and markers of lane mode do, row by row. -/

namespace Sys2Proof.Machine

/-! ### Registers of a pin (R50, R402) -/

/-- Registers at different offsets of pins differ. -/
theorem pinB_apart {i j : Nat} (p q : Nat) (hi : i < 0x800) (hj : j < 0x800) (h : i ≠ j) : pinB p + i ≠ pinB q + j := by
  unfold pinB
  omega

theorem chkStatus_ne {j : Nat} (p q : Nat) (hj : j < 0x800) (h : j ≠ 0x64) : pinB q + j ≠ chkStatus p :=
  pinB_apart q p hj (by decide) h

@[simp] theorem Chip.reg_setChk (c : Chip) (p : Nat) (k : ChkSt) (a : Nat) : (c.setChk p k).reg a = c.reg a := (rfl)

theorem Chip.field_fieldUp_same (c : Chip) (a hi lo n : Nat) (h : hi < 32) (hlo : lo ≤ hi) :
    (c.fieldUp a hi lo n).field a hi lo = min (c.field a hi lo + n) (ones (hi - lo + 1)) := by
  unfold Chip.fieldUp
  rw [Chip.field_setField_same _ _ _ _ _ h hlo]
  refine Nat.mod_eq_of_lt ?_
  have hpos : 0 < 2 ^ (hi - lo + 1) := Nat.two_pow_pos _
  unfold ones
  omega

/-! ### The receive reference (R67) -/

theorem Chip.fckMeasured_of_ref (c : Chip) (g : Nat) (ps : List Int) (href : c.fckRef g = true) (hlen : ps.length = 16)
    (hf : (c.group g).fckFrozen = false) : c.fckMeasured g ps = true := by
  simp [Chip.fckMeasured, href, hlen, hf]

theorem Chip.fckMeasured_off (c : Chip) (g : Nat) (ps : List Int)
    (h : c.fckRef g = false ∨ (c.group g).fckFrozen = true) : c.fckMeasured g ps = false := by
  unfold Chip.fckMeasured
  rcases h with h | h <;> simp [h]

theorem fckLock_measured (g : Nat) (ps : List Int) (c : Chip) (hm : c.fckMeasured g ps = true)
    (hp : ∃ p ∈ ps, beyondUi (c.period g (c.group g).pa) 2 p = false) :
    fckLock g ps c = c.setGroup g { c.group g with
      fckLock := (c.group g).fckLock || !beyondUi (c.period g (c.group g).pa) 4 (meanPhase ps), fckPhases := ps } := by
  have hall : ps.all (beyondUi (c.period g (c.group g).pa) 2) = false := by
    rw [List.all_eq_false]
    obtain ⟨p, hmem, h⟩ := hp
    exact ⟨p, hmem, by rw [h]; decide⟩
  unfold Machine.fckLock
  simp only [hm, hall, Bool.not_false, Bool.and_self, if_true]

theorem fckLock_off (g : Nat) (ps : List Int) (c : Chip) (hm : c.fckMeasured g ps = false) : fckLock g ps c = c := by
  unfold Machine.fckLock
  simp only [hm, Bool.false_and, Bool.false_eq_true, if_false]

theorem fckUnlock_off (g : Nat) (ps : List Int) (c : Chip) (hm : c.fckMeasured g ps = false) : fckUnlock g ps c = c := by
  unfold fckUnlock
  simp only [hm, Bool.false_and, Bool.false_eq_true, if_false]

/-- Phases all beyond half a UI unlock and freeze the reference, and an error record waits. -/
theorem fckUnlock_beyond (g : Nat) (ps : List Int) (c : Chip) (hm : c.fckMeasured g ps = true)
    (hp : ∀ p ∈ ps, beyondUi (c.period g (c.group g).pa) 2 p = true) :
    (fckUnlock g ps c).group g = { c.group g with fckLock := false, fckFrozen := true } ∧
    (fckUnlock g ps c).waits (srcFck g) 0x0301 := by
  have hall : ps.all (beyondUi (c.period g (c.group g).pa) 2) = true := List.all_eq_true.2 hp
  unfold fckUnlock
  simp only [hm, hall, Bool.and_self, if_true]
  refine ⟨?_, Chip.raiseErr_waits _ _ _ _ _ _⟩
  rw [Chip.group_of_groups (Chip.raiseErr_groups _ _ _ _ _ _), Chip.group_of_groups (Chip.guardReject_groups _),
    Chip.group_setGroup, if_pos rfl]

/-! ### SYNC and its loss (R74, R75) -/

theorem Chip.chkSynced_shows (c : Chip) (p : Nat) (hs : ((c.group (p / 8)).chk (p % 8)).synced = true)
    (hl : ((c.group (p / 8)).chk (p % 8)).lossDue = false) (hm : (c.group (p / 8)).laneMode = true) :
    c.chkSynced p = c.setField (chkStatus p) 31 31 1 := by
  unfold Chip.chkSynced
  simp only [hs, hl, hm, Bool.not_false, Bool.and_self, if_true]

/-- A loss of sync clears SYNC, sets bit 29 and adds to the losses, in PIN_CHK_STATUS. -/
theorem Chip.chkLost_shows (c : Chip) (p : Nat) (hl : ((c.group (p / 8)).chk (p % 8)).lossDue = true) :
    (c.chkLost p).field (chkStatus p) 31 31 = 0 ∧ (c.chkLost p).field (chkStatus p) 29 29 = 1 ∧
    (c.chkLost p).field (chkStatus p) 7 0 = min (c.field (chkStatus p) 7 0 + 1) 255 ∧
    ∀ a, a ≠ chkStatus p → (c.chkLost p).reg a = c.reg a := by
  unfold Chip.chkLost
  simp only [hl, if_true]
  generalize hd : c.setChk p _ = d
  have hreg : ∀ a, d.reg a = c.reg a := fun a => by rw [← hd]; rfl
  have h70 : ∀ v w, ((d.setField (chkStatus p) 31 31 v).setField (chkStatus p) 29 29 w).field (chkStatus p) 7 0 =
      c.field (chkStatus p) 7 0 := fun v w => by
    rw [Chip.field_setField_disjoint _ _ _ _ _ _ _ (by decide) (by decide) (by decide) (by decide),
      Chip.field_setField_disjoint _ _ _ _ _ _ _ (by decide) (by decide) (by decide) (by decide),
      Chip.field_of_reg (hreg _)]
  refine ⟨?_, ?_, ?_, fun a ha => ?_⟩
  · rw [Chip.fieldUp, Chip.field_setField_disjoint _ _ _ _ _ _ _ (by decide) (by decide) (by decide) (by decide),
      Chip.field_setField_disjoint _ _ _ _ _ _ _ (by decide) (by decide) (by decide) (by decide),
      Chip.field_setField_same _ _ _ _ _ (by decide) (by decide)]
    rfl
  · rw [Chip.fieldUp, Chip.field_setField_disjoint _ _ _ _ _ _ _ (by decide) (by decide) (by decide) (by decide),
      Chip.field_setField_same _ _ _ _ _ (by decide) (by decide)]
    rfl
  · rw [Chip.field_fieldUp_same _ _ _ _ _ (by decide) (by decide), h70]
    rfl
  · rw [Chip.fieldUp, Chip.reg_setField_other _ _ _ _ ha, Chip.reg_setField_other _ _ _ _ ha,
      Chip.reg_setField_other _ _ _ _ ha, hreg]

/-! ### Group deskew (R77) -/

/-- The delays of a group's pins are written to their PIN_DESKEW. -/
def Chip.deskewed (c : Chip) (g : Nat) (es : List (Nat × Nat)) : Chip :=
  es.foldl (fun c e =>
    (c.setField (pinB (8 * g + e.1) + 0x7C) 31 31 1).setField (pinB (8 * g + e.1) + 0x7C) 21 16 e.2) c

theorem Chip.reg_deskewed (g : Nat) (es : List (Nat × Nat)) {a : Nat} (ha : ∀ e ∈ es, a ≠ pinB (8 * g + e.1) + 0x7C)
    (c : Chip) : (c.deskewed g es).reg a = c.reg a := by
  induction es generalizing c with
  | nil => rfl
  | cons e es ih =>
    refine (ih (fun x hx => ha x (List.mem_cons_of_mem _ hx)) _).trans ?_
    rw [Chip.reg_setField_other _ _ _ _ (ha e List.mem_cons_self), Chip.reg_setField_other _ _ _ _ (ha e List.mem_cons_self)]

/-- The marker count in the low half of PIN_DESKEW stays. -/
theorem Chip.markers_deskewed (g : Nat) (es : List (Nat × Nat)) (a : Nat) (c : Chip) :
    (c.deskewed g es).field a 15 0 = c.field a 15 0 := by
  have one : ∀ (c : Chip) (b hi lo v : Nat), 15 < lo → lo ≤ hi → (c.setField b hi lo v).field a 15 0 = c.field a 15 0 := by
    intro c b hi lo v h hlo
    by_cases hab : a = b
    · subst hab
      exact Chip.field_setField_disjoint _ _ _ _ _ _ _ (.inl h) hlo (by decide) (by decide)
    · exact Chip.field_setField_other _ _ _ _ _ _ hab
  induction es generalizing c with
  | nil => rfl
  | cons e es ih =>
    refine (ih _).trans ?_
    rw [one _ _ _ _ _ (by decide) (by decide), one _ _ _ _ _ (by decide) (by decide)]

/-- What group deskew comes to: nothing, the pins' delays, or an error record. -/
theorem Chip.deskew_cases (c : Chip) (g p : Nat) :
    c.deskew g p = c ∨
    (∃ x y es, (∀ e ∈ es, e.1 < 8) ∧ c.deskew g p = ((c.setGroup g x).deskewed g es).setGroup g y) ∨
    ∃ x detail task, c.deskew g p = ((c.setGroup g x).guardReject).raiseErr (srcChk p) 0x0302 g detail task := by
  unfold Chip.deskew
  simp only
  split
  · exact .inl rfl
  · split
    · refine .inr (.inl ⟨_, _, _, fun e he => ?_, rfl⟩)
      have hmem := (List.of_mem_zip (show (e.1, e.2) ∈ _ from he)).1
      exact List.mem_range.1 (List.mem_of_mem_filter hmem)
    · exact .inr (.inr ⟨_, _, _, rfl⟩)

theorem Chip.reg_deskew (c : Chip) (g p : Nat) {a : Nat} (ha : ∀ j, j < 8 → a ≠ pinB (8 * g + j) + 0x7C) :
    (c.deskew g p).reg a = c.reg a := by
  obtain h | ⟨x, y, es, hes, h⟩ | ⟨x, detail, task, h⟩ := c.deskew_cases g p
  · rw [h]
  · rw [h, Chip.reg_setGroup, Chip.reg_deskewed g es (fun e he => ha e.1 (hes e he)), Chip.reg_setGroup]
  · rw [h, Chip.reg_raiseErr, Chip.reg_guardReject, Chip.reg_setGroup]

theorem Chip.markers_deskew (c : Chip) (g p a : Nat) : (c.deskew g p).field a 15 0 = c.field a 15 0 := by
  obtain h | ⟨x, y, es, -, h⟩ | ⟨x, detail, task, h⟩ := c.deskew_cases g p
  · rw [h]
  · rw [h]
    exact (Chip.field_of_reg (Chip.reg_setGroup _ _ _ _) _ _).trans
      ((Chip.markers_deskewed g es a _).trans (Chip.field_of_reg (Chip.reg_setGroup _ _ _ _) _ _))
  · refine Chip.field_of_reg ?_ _ _
    rw [h, Chip.reg_raiseErr, Chip.reg_guardReject, Chip.reg_setGroup]

/-! ### Markers (R77 to R79) -/

/-- The checker of pin p listens for markers: the group is in lane mode, the pin receives, its comparator is on, and its
checker's type has markers (R77). -/
def Chip.hearsMarkers (c : Chip) (p : Nat) : Prop :=
  (c.group (p / 8)).laneMode = true ∧ c.pinDir p = 1 ∧ c.cmpEn p = true ∧ (c.chkType p = 2 ∨ c.chkType p = 3)

/-- A marker is counted in PIN_DESKEW. -/
def Chip.markerCounted (c : Chip) (p : Nat) : Chip :=
  c.setField (pinB p + 0x7C) 15 0 (c.field (pinB p + 0x7C) 15 0 + 1)

/-- A marker that is heard is counted; a wrong lane number counts as an error, and the right one sets MARKER_OK and may
complete the deskew of the group. -/
theorem laneMarkerReceived_heard (p num arrival : Nat) (c : Chip) (h : c.hearsMarkers p) :
    (num ≠ c.field (pinB p + 0x60) 15 8 ∧
      laneMarkerReceived p num arrival c = (c.markerCounted p).fieldUp (chkStatus p) 15 8) ∨
    (num = c.field (pinB p + 0x60) 15 8 ∧
      (laneMarkerReceived p num arrival c = (c.markerCounted p).setField (chkStatus p) 30 30 1 ∨
      ∃ k, laneMarkerReceived p num arrival c =
        (((c.markerCounted p).setField (chkStatus p) 30 30 1).setChk p k).deskew (p / 8) p)) := by
  obtain ⟨hm, hd, he, ht⟩ := h
  have hlane : (c.markerCounted p).field (pinB p + 0x60) 15 8 = c.field (pinB p + 0x60) 15 8 :=
    Chip.field_setField_other _ _ _ _ _ _ (pinB_apart p p (by decide) (by decide) (by decide))
  have htyp : (c.chkType p == 2 || c.chkType p == 3) = true := by simpa using ht
  unfold laneMarkerReceived
  simp only [hm, hd, he, htyp, Bool.not_true, bne_self_eq_false, Bool.or_self, Bool.false_eq_true, if_false]
  by_cases hn : num = c.field (pinB p + 0x60) 15 8
  · refine .inr ⟨hn, ?_⟩
    rw [if_neg (fun k => k (hn.trans hlane.symm))]
    split
    · exact .inr ⟨_, rfl⟩
    · exact .inl rfl
  · exact .inl ⟨hn, if_pos fun k => hn (k.trans hlane)⟩

theorem laneMarkerReceived_unheard (p num arrival : Nat) (c : Chip) (h : ¬ c.hearsMarkers p) :
    laneMarkerReceived p num arrival c = c := by
  unfold laneMarkerReceived
  simp only
  refine if_pos ?_
  by_contra hn
  refine h ?_
  simpa [Chip.hearsMarkers, and_assoc, or_iff_not_imp_left] using hn

theorem Chip.field_markerCounted (c : Chip) (p : Nat) :
    (c.markerCounted p).field (pinB p + 0x7C) 15 0 = (c.field (pinB p + 0x7C) 15 0 + 1) % 2 ^ 16 := by
  unfold Chip.markerCounted
  rw [Chip.field_setField_same _ _ _ _ _ (by decide) (by decide)]

theorem laneMarkerReceived_spec (p num arrival : Nat) (c : Chip) (h : c.hearsMarkers p) :
    (laneMarkerReceived p num arrival c).field (pinB p + 0x7C) 15 0 = (c.field (pinB p + 0x7C) 15 0 + 1) % 2 ^ 16 ∧
    (num = c.field (pinB p + 0x60) 15 8 → (laneMarkerReceived p num arrival c).field (chkStatus p) 30 30 = 1) ∧
    (num ≠ c.field (pinB p + 0x60) 15 8 →
      (laneMarkerReceived p num arrival c).field (chkStatus p) 15 8 = min (c.field (chkStatus p) 15 8 + 1) 255 ∧
      (laneMarkerReceived p num arrival c).field (chkStatus p) 30 30 = c.field (chkStatus p) 30 30) := by
  have hne : pinB p + 0x7C ≠ chkStatus p := chkStatus_ne p p (by decide) (by decide)
  have hstat : ∀ hi lo, (c.markerCounted p).field (chkStatus p) hi lo = c.field (chkStatus p) hi lo := fun hi lo =>
    Chip.field_setField_other _ _ _ _ _ _ hne.symm
  have hcount : ∀ hi lo v, ((c.markerCounted p).setField (chkStatus p) hi lo v).field (pinB p + 0x7C) 15 0 =
      (c.field (pinB p + 0x7C) 15 0 + 1) % 2 ^ 16 := fun _ _ _ =>
    (Chip.field_setField_other _ _ _ _ _ _ hne).trans (c.field_markerCounted p)
  have hok : ((c.markerCounted p).setField (chkStatus p) 30 30 1).field (chkStatus p) 30 30 = 1 :=
    Chip.field_setField_same _ _ _ _ _ (by decide) (by decide)
  obtain ⟨hn, e⟩ | ⟨hn, e | ⟨k, e⟩⟩ := laneMarkerReceived_heard p num arrival c h
  · rw [e]
    refine ⟨hcount _ _ _, fun k => absurd k hn, fun _ => ⟨?_, ?_⟩⟩
    · rw [Chip.field_fieldUp_same _ _ _ _ _ (by decide) (by decide), hstat]
      rfl
    · exact (Chip.field_setField_disjoint _ _ _ _ _ _ _ (by decide) (by decide) (by decide) (by decide)).trans (hstat _ _)
  · rw [e]
    exact ⟨hcount _ _ _, fun _ => hok, fun k => absurd hn k⟩
  · rw [e]
    have hchk := Chip.reg_setChk ((c.markerCounted p).setField (chkStatus p) 30 30 1) p k
    refine ⟨?_, fun _ => ?_, fun k => absurd hn k⟩
    · rw [Chip.markers_deskew, Chip.field_of_reg (hchk _), hcount]
    · rw [Chip.field_of_reg (Chip.reg_deskew _ _ _ fun j _ => (chkStatus_ne p _ (by decide) (by decide)).symm),
        Chip.field_of_reg (hchk _), hok]

/-- MARKER_TIMEOUT of a deskewed pin: MARKER_OK ends, the group is deskewed no more, and an error record waits (R78). -/
theorem markerTimeout_deskewed (p : Nat) (c : Chip) (hm : (c.group (p / 8)).laneMode = true)
    (hd : bitOf (c.reg (pinB p + 0x7C)).toNat 31 = true) :
    (markerTimeout p c).field (chkStatus p) 30 30 = 0 ∧ (markerTimeout p c).waits (srcChk p) 0x0303 ∧
    ((markerTimeout p c).group (p / 8)).deskewOk = false := by
  unfold markerTimeout
  simp only [hm, hd, Bool.not_true, Bool.false_eq_true, if_false, if_true]
  refine ⟨?_, Chip.raiseErr_waits _ _ _ _ _ _, ?_⟩
  · rw [Chip.field_of_reg (Chip.reg_raiseErr _ _ _ _ _ _ _), Chip.field_of_reg (Chip.reg_guardReject _ _),
      Chip.field_setField_same _ _ _ _ _ (by decide) (by decide)]
    rfl
  · rw [Chip.group_of_groups (Chip.raiseErr_groups _ _ _ _ _ _), Chip.group_of_groups (Chip.guardReject_groups _),
      Chip.group_of_groups (Chip.setField_groups _ _ _ _ _), Chip.group_setGroup, if_pos rfl]

/-- MARKER_TIMEOUT of a pin that is not deskewed: MARKER_OK is 0, and nothing else differs (log entry 99). -/
theorem markerTimeout_plain (p : Nat) (c : Chip) (hm : (c.group (p / 8)).laneMode = true)
    (hd : bitOf (c.reg (pinB p + 0x7C)).toNat 31 = false) :
    (markerTimeout p c).field (chkStatus p) 30 30 = 0 ∧ (markerTimeout p c).cirque = c.cirque ∧
    (markerTimeout p c).groups = c.groups ∧ ∀ a, a ≠ chkStatus p → (markerTimeout p c).reg a = c.reg a := by
  unfold markerTimeout
  simp only [hm, hd, Bool.not_true, Bool.false_eq_true, if_false]
  split
  · exact ⟨Chip.field_setField_same _ _ _ _ _ (by decide) (by decide), rfl, rfl,
      fun a ha => Chip.reg_setField_other _ _ _ _ ha⟩
  · rename_i hb
    refine ⟨?_, rfl, rfl, fun _ _ => rfl⟩
    have h0 : ((c.reg (chkStatus p)).toNat / 2 ^ 30) % 2 = 0 := by
      simpa [bitOf, Nat.testBit_eq_decide_div_mod_eq] using hb
    exact h0

theorem markerTimeout_off (p : Nat) (c : Chip) (hm : (c.group (p / 8)).laneMode = false) : markerTimeout p c = c := by
  unfold markerTimeout
  simp only [hm, Bool.not_false, if_true]

end Sys2Proof.Machine
end

section
/-! SUPPORT. Lane mode: where PIN_CHK_CTRL stands, what a write of it does, and the obligation of lane mode. -/

namespace Sys2Proof.Machine

/-! ### Where PIN_CHK_CTRL stands (R73, R402) -/

/-- A register of a pin stands in the entry of its group and pin, and what is left of the address is looked up there. -/
theorem RegRow.place_pin (r : RegRow) (b o p : Nat) (hb : r.base = 0x00108000 + b) (hd : r.dims = [gDim, pinDim])
    (hp : p < 96) (hbo : b ≤ o) (ho : o < 0x800) :
    r.place (pinB p + o) = RegRow.place.go r [] (o - b) [p % 8, p / 8] := by
  have e : pinB p + o = r.base + (0x10000 * (p / 8) + (0x800 * (p % 8) + (o - b))) := by
    unfold pinB
    omega
  have hq : (0x800 * (p % 8) + (o - b)) / 0x800 = p % 8 := by omega
  have hr : (0x800 * (p % 8) + (o - b)) % 0x800 = o - b := by omega
  rw [e, RegRow.place_entry r 12 0x10000 (p / 8) _ [pinDim] hd (by omega) (by omega)]
  show RegRow.place.go r ((8, 0x800) :: []) _ _ = _
  rw [RegRow.go_entry _ _ _ (by omega), hq, hr]

/-- A register that ends before an address does not hold it. -/
theorem RegRow.place_pin_past (r : RegRow) (b o p : Nat) (hb : r.base = 0x00108000 + b) (hd : r.dims = [gDim, pinDim])
    (hp : p < 96) (hbo : b + 4 * r.words ≤ o) (ho : o < 0x800) : r.place (pinB p + o) = none := by
  rw [RegRow.place_pin r b o p hb hd hp (by omega) ho, RegRow.go_beyond _ _ (by omega)]

/-- The row of PIN_CHK_CTRL. -/
def chkCtrlRow : RegRow := { base := 0x00108060, dims := [gDim, pinDim], rw := fld 31 28 + fld 26 22 + fld 15 8 }

theorem blockRows_pin (p o : Nat) (hp : p < 96) (ho : o < 0x800) : blockRows (pinB p + o) = rowsPin := by
  have hq : (pinB p + o) / 0x10000 = 0x10 + p / 8 := by unfold pinB; omega
  have hm : 0x8000 ≤ (pinB p + o) % 0x10000 := by unfold pinB; omega
  unfold blockRows
  simp only [hq]
  rw [if_pos ⟨by omega, by omega⟩, if_pos hm]

theorem findReg_chkCtrl (p : Nat) (hp : p < 96) :
    Machine.findReg (pinB p + 0x60) = some (chkCtrlRow, [p / 8, p % 8], 0) := by
  have past : ∀ (r : RegRow) (b : Nat) (rs : List RegRow), r.base = 0x00108000 + b → r.dims = [gDim, pinDim] →
      b + 4 * r.words ≤ 0x60 → findReg.go (pinB p + 0x60) (r :: rs) = findReg.go (pinB p + 0x60) rs :=
    fun r b rs hb hd h => findReg_skip _ r rs (RegRow.place_pin_past r b 0x60 p hb hd hp h (by decide))
  unfold Machine.findReg
  rw [blockRows_pin p 0x60 hp (by decide)]
  unfold rowsPin roRow
  rw [past _ 0 _ rfl rfl (by decide), past _ 4 _ rfl rfl (by decide), past _ 8 _ rfl rfl (by decide),
    past _ 0xC _ rfl rfl (by decide), past _ 0x10 _ rfl rfl (by decide), past _ 0x14 _ rfl rfl (by decide),
    past _ 0x18 _ rfl rfl (by decide), past _ 0x20 _ rfl rfl (by decide), past _ 0x28 _ rfl rfl (by decide),
    past _ 0x40 _ rfl rfl (by decide), findReg_here _ _ _ [p / 8, p % 8] 0]
  · rfl
  · rw [RegRow.place_pin _ 0x60 0x60 p rfl rfl hp (by decide) (by decide)]
    rfl

/-! ### Writes of PIN_CHK_CTRL (R44, R73, R406) -/

theorem execPinChkClear_runs (s : State) (q : Port) (tag : Byte) (p : Pin) (v : Word) (st : Nat) (d : Chip)
    (h : s.chip.writable q tag)
    (hw : (s.chip.tagged q tag).writeWord chkCtrlRow 0 (pinB p + 0x60) v = (st, d)) (hst : st ≠ Machine.waits) :
    exec (.pinChkClear q tag p v) s = .next { s with chip := d.reply q tag st } :=
  State.onReg_word s q tag (pinB p + 0x60) v _ _ 0 st d h (by unfold pinB; omega) (by unfold pinB; omega)
    ((Chip.findReg_plain _ (by unfold pinB; omega)).trans (findReg_chkCtrl p p.isLt)) rfl hw hst

/-- A register of a pin conflicts while the pin's group is owned (R44). -/
theorem Chip.conflict_pin (c : Chip) (p o : Nat) (hp : p < 96) (ho : o < 0x800) :
    c.conflict (pinB p + o) = c.grpOwned (p / 8) := by
  have hq : (pinB p + o) / 0x10000 = 0x10 + p / 8 := by unfold pinB; omega
  have hm : ¬ (pinB p + o) % 0x10000 < 0x300 := by unfold pinB; omega
  have hg : 0x10 + p / 8 ≤ 0x1B := by omega
  unfold Chip.conflict
  simp only [hq]
  split
  any_goals omega
  simp [hm, hg]

theorem Chip.writeWord_pin_owned (c : Chip) (r : RegRow) (w p o : Nat) (v : Word) (hp : p < 96) (ho : o < 0x800)
    (hg : c.grpOwned (p / 8) = true) : c.writeWord r w (pinB p + o) v = (1, c) := by
  unfold Chip.writeWord
  rw [if_pos ((c.conflict_pin p o hp ho).trans hg)]

theorem Chip.writeWord_pin (c : Chip) (r : RegRow) (w p o : Nat) (v : Word) (hp : p < 96) (ho : o < 0x800)
    (hg : c.grpOwned (p / 8) = false) : c.writeWord r w (pinB p + o) v = c.grpWrite r w (pinB p + o) v := by
  have hq : (pinB p + o) / 0x10000 = 0x10 + p / 8 := by unfold pinB; omega
  have hlo : 0x10 ≤ 0x10 + p / 8 := by omega
  have hhi : 0x10 + p / 8 ≤ 0x1B := by omega
  unfold Chip.writeWord
  rw [if_neg (by rw [c.conflict_pin p o hp ho, hg]; decide), hq]
  split
  any_goals omega
  exact if_pos ⟨hlo, hhi⟩

/-- The word that PIN_CHK_CTRL holds after a write. -/
def Chip.chkCtrlWord (c : Chip) (p : Nat) (v : Word) : Word := chkCtrlRow.merge 0 (c.reg (pinB p + 0x60)) v

theorem Chip.chkCtrlWord_field (c : Chip) (p : Nat) (v : Word) :
    bitsOf (c.chkCtrlWord p v).toNat 31 28 = bitsOf v.toNat 31 28 ∧
    bitsOf (c.chkCtrlWord p v).toNat 26 24 = bitsOf v.toNat 26 24 :=
  ⟨RegRow.field_merge _ _ _ _ _ _ (by decide) (by decide) fun i hi hlo => by interval_cases i <;> decide,
    RegRow.field_merge _ _ _ _ _ _ (by decide) (by decide) fun i hi hlo => by interval_cases i <;> decide⟩

/-- A legal write of PIN_CHK_CTRL with CLEAR sets its fields and clears the checker. -/
theorem Chip.grpWrite_chkCtrl (c : Chip) (p : Nat) (v : Word) (hp : p < 96) (h0 : bitOf v.toNat 0 = true)
    (ht : bitsOf v.toNat 31 28 ≤ 3) (ho : bitsOf v.toNat 26 24 ≤ 4)
    (ha : bitsOf v.toNat 31 28 = 0 ∨ c.agreed 3 = true) :
    c.grpWrite chkCtrlRow 0 (pinB p + 0x60) v =
      (0, (c.setReg (pinB p + 0x60) (c.chkCtrlWord p v)).chkClear p) := by
  obtain ⟨htyp, hord⟩ := c.chkCtrlWord_field p v
  have hm : (pinB p + 0x60) % 0x10000 = 0x8060 + 0x800 * (p % 8) := by unfold pinB; omega
  have hg : (pinB p + 0x60) / 0x10000 - 0x10 = p / 8 := by unfold pinB; omega
  have hk : (0x8060 + 0x800 * (p % 8)) % 0x800 = 0x60 := by omega
  have hpin : 8 * (p / 8) + (0x8060 + 0x800 * (p % 8) - 0x8000) / 0x800 = p := by omega
  have hlevel : ∀ n m, levelRule (0x8060 + 0x800 * (p % 8)) n m = true := by
    intro n m
    unfold levelRule
    simp only
    rw [if_neg (by omega), if_neg (by omega), if_neg (by omega)]
  have henc : encodingRule (0x8060 + 0x800 * (p % 8)) (c.chkCtrlWord p v).toNat = true := by
    unfold encodingRule
    rw [if_neg (by omega), if_neg (by omega), hk]
    simp [htyp, hord, ht, ho]
  have hrow : chkCtrlRow.rw ≠ 0 := by decide
  have h8 : 0x8000 ≤ 0x8060 + 0x800 * (p % 8) := by omega
  have h2c : 0x8060 + 0x800 * (p % 8) ≠ 0x2C := by omega
  unfold Chip.chkCtrlWord at *
  unfold Chip.grpWrite
  simp only [hm, hg, hk, hpin, hlevel, henc, h8, if_true]
  rw [if_neg (by omega), if_neg hrow, if_neg (by simp), if_neg ?_, if_neg (by decide), if_neg h2c, if_pos ⟨trivial, h0⟩]
  rcases ha with ha | ha <;> simp [htyp, ha, h2c]

theorem Chip.chkClear_spec (c : Chip) (p : Nat) :
    (c.chkClear p).reg (pinB p + 0x60) = c.reg (pinB p + 0x60) ∧ (c.chkClear p).reg64 (pinB p + 0x68) = 0 ∧
    (c.chkClear p).reg64 (pinB p + 0x70) = 0 ∧ (c.chkClear p).reg (pinB p + 0x78) = 0 ∧
    (c.chkClear p).reg (chkStatus p) = 0 := by
  unfold Chip.chkClear chkStatus
  simp only
  refine ⟨?_, ?_, ?_, Chip.reg_setReg_same _ _ _, ?_⟩
  · rw [Chip.reg_setReg_other _ _ (by omega), Chip.reg_setReg64_other _ _ (by omega) (by omega),
      Chip.reg_setReg64_other _ _ (by omega) (by omega), Chip.reg_setReg_other _ _ (by omega)]
  · rw [Chip.reg64_setReg_other _ _ (by omega), Chip.reg64_setReg64_other _ _ (by omega), Chip.reg64_setReg64]
    rfl
  · rw [Chip.reg64_setReg_other _ _ (by omega), Chip.reg64_setReg64]
    rfl
  · rw [Chip.reg_setReg_other _ _ (by omega), Chip.reg_setReg64_other _ _ (by omega) (by omega),
      Chip.reg_setReg64_other _ _ (by omega) (by omega), Chip.reg_setReg_same]

theorem pinChkClear_clears (s : State) (q : Port) (tag : Byte) (p : Pin) (v : Word) (h : s.chip.writable q tag)
    (hg : s.chip.grpOwned (p / 8) = false) (h0 : bitOf v.toNat 0 = true) (ht : bitsOf v.toNat 31 28 ≤ 3)
    (ho : bitsOf v.toNat 26 24 ≤ 4) (ha : bitsOf v.toNat 31 28 = 0 ∨ s.chip.agreed 3 = true) :
    ∃ t, exec (.pinChkClear q tag p v) s = .next t ∧ t.chip.completed q tag 0 ∧
      t.chip.chkType p = bitsOf v.toNat 31 28 ∧
      t.chip.reg64 (pinB p + 0x68) = 0 ∧ t.chip.reg64 (pinB p + 0x70) = 0 ∧ t.chip.reg (pinB p + 0x78) = 0 ∧
      t.chip.reg (chkStatus p) = 0 := by
  have hw := (Chip.writeWord_pin (s.chip.tagged q tag) chkCtrlRow 0 p 0x60 v p.isLt (by decide) hg).trans
    (Chip.grpWrite_chkCtrl (s.chip.tagged q tag) p v p.isLt h0 ht ho ha)
  obtain ⟨hctrl, hbits, herr, hviol, hstat⟩ := Chip.chkClear_spec
    ((s.chip.tagged q tag).setReg (pinB p + 0x60) ((s.chip.tagged q tag).chkCtrlWord p v)) p
  have hreg := fun a => Chip.reg_reply_done (((s.chip.tagged q tag).setReg (pinB p + 0x60)
    ((s.chip.tagged q tag).chkCtrlWord p v)).chkClear p) q tag a
  refine ⟨_, execPinChkClear_runs s q tag p v 0 _ h hw (by decide), Chip.write_completed _ _ 0 h.1 rfl, ?_, ?_, ?_,
    (hreg _).trans hviol, (hreg _).trans hstat⟩
  · unfold Chip.chkType
    rw [Chip.field_of_reg (hreg _), Chip.field_of_reg hctrl, Chip.field, Chip.reg_setReg_same]
    exact (Chip.chkCtrlWord_field _ p v).1
  · exact (by unfold Chip.reg64; rw [hreg, hreg] : _ = _).trans hbits
  · exact (by unfold Chip.reg64; rw [hreg, hreg] : _ = _).trans herr

theorem pinChkClear_owned (s : State) (q : Port) (tag : Byte) (p : Pin) (v : Word) (h : s.chip.writable q tag)
    (hg : s.chip.grpOwned (p / 8) = true) :
    ∃ t, exec (.pinChkClear q tag p v) s = .next t ∧ t.chip.completed q tag 1 ∧
      ∀ a, a ≠ 0x00010024 → t.chip.reg a = s.chip.reg a :=
  ⟨_, execPinChkClear_runs s q tag p v 1 _ h
      (Chip.writeWord_pin_owned (s.chip.tagged q tag) _ _ p 0x60 v p.isLt (by decide) hg) (by decide),
    Chip.write_completed _ _ 1 h.1 rfl, fun _ ha => Chip.reg_reply _ _ _ _ _ _ _ ha⟩

/-! ### The obligation -/

/-- Settles O49: row by row. The receive reference (`fckLock_measured`, `fckUnlock_beyond`), SYNC and its loss
(`Chip.chkSynced_shows`, `Chip.chkLost_shows`), markers (`laneMarkerReceived_spec`, `markerTimeout_deskewed`,
`markerTimeout_plain`) and writes of PIN_CHK_CTRL (`pinChkClear_clears`, `pinChkClear_owned`). -/
theorem laneMode : Obligations.LaneMode := by
  unfold Obligations.LaneMode
  refine ⟨?lock, ?off, ?unlock, ?sync, ?lost, ?marker, ?deskewed, ?plain, ?idle, pinChkClear_clears, pinChkClear_owned⟩
  case lock =>
    intro s g ps x href hlen hf hp
    exact ⟨_, rfl, fckLock_measured g ps s.chip (s.chip.fckMeasured_of_ref g ps href hlen hf) hp⟩
  case off =>
    intro s g ps h
    have hm := s.chip.fckMeasured_off g ps h
    exact ⟨⟨s, State.onChip_of_eq s (fckLock_off g ps s.chip hm), rfl⟩,
      s, State.onChip_of_eq s (fckUnlock_off g ps s.chip hm), rfl⟩
  case unlock =>
    intro s g ps x href hlen hf hp
    exact ⟨_, rfl, fckUnlock_beyond g ps s.chip (s.chip.fckMeasured_of_ref g ps href hlen hf) hp⟩
  case sync =>
    intro s p k hs hl hm
    refine ⟨_, State.onChip_of_eq s (Chip.chkSynced_shows s.chip p hs hl hm), ?_,
      fun a ha => Chip.reg_setField_other _ _ _ _ ha⟩
    exact Chip.field_setField_same _ _ _ _ _ (by decide) (by decide)
  case lost =>
    intro s p hl
    exact ⟨_, rfl, Chip.chkLost_shows s.chip p hl⟩
  case marker =>
    intro s p num at0 hm hd he ht
    exact ⟨_, rfl, laneMarkerReceived_spec p num.toNat at0 s.chip ⟨hm, hd, he, ht⟩⟩
  case deskewed =>
    intro s p hm hd
    exact ⟨_, rfl, markerTimeout_deskewed p s.chip hm hd⟩
  case plain =>
    intro s p hm hd
    exact ⟨_, rfl, markerTimeout_plain p s.chip hm hd⟩
  case idle =>
    intro s p hm
    exact ⟨s, State.onChip_of_eq s (markerTimeout_off p s.chip hm), rfl⟩

end Sys2Proof.Machine
end

section
/-! SUPPORT. Host side: what leaves the device state, the link, the command processor and the rest of the host's side alone. -/

namespace Sys2Proof.Machine

/-- The part of the device that `Chip.hostSideKept` speaks of. -/
def Chip.hostSide (c : Chip) :=
  (c.dev, c.ports, c.failover, c.cmd, c.notes, c.snap, c.images, c.flash, c.cal, c.time, c.tap, c.staging)

namespace Chip.hostSideKept

theorem of_eq {c d : Chip} (h : d.hostSide = c.hostSide) : c.hostSideKept d := by
  simpa only [Chip.hostSide, Chip.hostSideKept, Prod.mk.injEq] using h

theorem eq {c d : Chip} (h : c.hostSideKept d) : d.hostSide = c.hostSide := by
  simpa only [Chip.hostSide, Chip.hostSideKept, Prod.mk.injEq] using h

theorem refl (c : Chip) : c.hostSideKept c := of_eq rfl

theorem trans {c d e : Chip} (h : c.hostSideKept d) (h' : d.hostSideKept e) : c.hostSideKept e :=
  of_eq (h'.eq.trans h.eq)

theorem ite {p : Prop} [Decidable p] {c d e : Chip} (h : c.hostSideKept d) (h' : c.hostSideKept e) :
    c.hostSideKept (if p then d else e) := by
  split
  · exact h
  · exact h'

theorem foldl {α : Type} {f : Chip → α → Chip} (hf : ∀ (c : Chip) (x : α), c.hostSideKept (f c x)) (xs : List α) (c : Chip) :
    c.hostSideKept (xs.foldl f c) := by
  induction xs generalizing c with
  | nil => exact refl c
  | cons x xs ih => exact (hf c x).trans (ih _)

/-- A fold that carries more than the device. -/
theorem foldl_snd {α β : Type} {f : β × Chip → α → β × Chip} (hf : ∀ (a : β × Chip) (x : α), a.2.hostSideKept (f a x).2)
    (xs : List α) (a : β × Chip) : a.2.hostSideKept (xs.foldl f a).2 := by
  induction xs generalizing a with
  | nil => exact refl a.2
  | cons x xs ih => exact (hf a x).trans (ih _)

theorem settings {c d : Chip} (h : c.settingsOnly d) : c.hostSideKept d := by
  obtain ⟨r, l, g, rfl⟩ := h
  exact of_eq rfl

theorem count (c : Chip) (code n : Nat) : c.hostSideKept (c.count code n) := by
  obtain ⟨k, q, h⟩ := c.count_shape code n
  rw [h]
  exact of_eq rfl

theorem raise (c : Chip) (src typ : Nat) (acts : List Act) (err : Option ErrInfo) (info : Nat) :
    c.hostSideKept (c.raise src typ acts err info) := of_eq (by simp [Chip.hostSide])

theorem raiseErr (c : Chip) (src code unit detail task : Nat) : c.hostSideKept (c.raiseErr src code unit detail task) :=
  of_eq (by simp [Chip.hostSide])

theorem guardReject (c : Chip) : c.hostSideKept c.guardReject := count c 313 1

theorem makeRec (c : Chip) (i : Nat) (r : Rec) : c.hostSideKept (c.makeRec i r) := by
  obtain ⟨l, m, k, q, h⟩ := c.makeRec_shape i r
  rw [h]
  exact of_eq rfl

end Chip.hostSideKept

end Sys2Proof.Machine
end

section
/-! SUPPORT. Lane results: what the results of one lane of a frame write, and what they leave of registers and groups. -/

namespace Sys2Proof.Machine

/-! ### Registers that results write (R190, R191, R210, R257) -/

/-- Registers of group g and its pins. -/
def groupRegs (g a : Nat) : Prop := a / 0x10000 = 0x10 + g
/-- Registers of the check-value units. -/
def crcRegs (a : Nat) : Prop := a / 0x10000 = 0x24
/-- First-fail registers of the sites. -/
def siteRegs (a : Nat) : Prop := 0x00211000 ≤ a ∧ a < 0x00214000
/-- Counters and first-fail register of lane l. -/
def laneRegs (l a : Nat) : Prop := laneReg8 l ≤ a ∧ a < laneReg8 l + 0x20
/-- Registers that the results of lane l of group g may write. -/
def resultRegs (g l a : Nat) : Prop := groupRegs g a ∨ crcRegs a ∨ siteRegs a ∨ laneRegs l a

/-- From c to d the host's side is kept, registers differ within W alone, and of the groups g alone, but for its pipe and
its results. -/
structure Chip.resultsOnly (W : Nat → Prop) (g : Nat) (c d : Chip) : Prop where
  host : c.hostSideKept d
  reg : ∀ a, ¬ W a → d.reg a = c.reg a
  other : ∀ h, h ≠ g → d.group h = c.group h
  pipe : (d.group g).pipe = (c.group g).pipe
  results : (d.group g).results = (c.group g).results

namespace Chip.resultsOnly

variable {W : Nat → Prop} {g : Nat}

theorem of_eq {c d : Chip} (hh : d.hostSide = c.hostSide) (hr : d.regs = c.regs) (hg : d.groups = c.groups) :
    c.resultsOnly W g d :=
  ⟨.of_eq hh, fun a _ => Chip.reg_of_regs hr a, fun h _ => Chip.group_of_groups hg h,
    by rw [Chip.group_of_groups hg], by rw [Chip.group_of_groups hg]⟩

theorem refl (c : Chip) : c.resultsOnly W g c := of_eq rfl rfl rfl

theorem trans {c d e : Chip} (h : c.resultsOnly W g d) (h' : d.resultsOnly W g e) : c.resultsOnly W g e :=
  ⟨h.host.trans h'.host, fun a ha => (h'.reg a ha).trans (h.reg a ha), fun k hk => (h'.other k hk).trans (h.other k hk),
    h'.pipe.trans h.pipe, h'.results.trans h.results⟩

theorem mono {W' : Nat → Prop} {c d : Chip} (h : c.resultsOnly W g d) (hW : ∀ a, W a → W' a) : c.resultsOnly W' g d :=
  ⟨h.host, fun a ha => h.reg a fun k => ha (hW a k), h.other, h.pipe, h.results⟩

theorem ite {p : Prop} [Decidable p] {c d e : Chip} (h : c.resultsOnly W g d) (h' : c.resultsOnly W g e) :
    c.resultsOnly W g (if p then d else e) := by
  split
  · exact h
  · exact h'

theorem foldl {α : Type} {f : Chip → α → Chip} (xs : List α)
    (hf : ∀ x ∈ xs, ∀ c : Chip, c.resultsOnly W g (f c x)) (c : Chip) : c.resultsOnly W g (xs.foldl f c) := by
  induction xs generalizing c with
  | nil => exact refl c
  | cons x xs ih => exact (hf x List.mem_cons_self c).trans (ih (fun y hy => hf y (List.mem_cons_of_mem _ hy)) _)

/-! ### Shared operations -/

theorem setReg (c : Chip) {a : Nat} (w : Word) (h : W a) : c.resultsOnly W g (c.setReg a w) :=
  ⟨.of_eq rfl, fun _ hb => Chip.reg_setReg_other c w fun e => hb (e ▸ h), fun _ _ => rfl, rfl, rfl⟩

theorem setReg64 (c : Chip) {a : Nat} (v : Nat) (h : W a) (h' : W (a + 4)) : c.resultsOnly W g (c.setReg64 a v) :=
  (setReg c _ h).trans (setReg _ _ h')

theorem setField (c : Chip) {a : Nat} (hi lo v : Nat) (h : W a) : c.resultsOnly W g (c.setField a hi lo v) := setReg c _ h

theorem fieldUp (c : Chip) {a : Nat} (hi lo n : Nat) (h : W a) : c.resultsOnly W g (c.fieldUp a hi lo n) := setReg c _ h

theorem cntUp (c : Chip) {a : Nat} (n : Nat) (h : W a) : c.resultsOnly W g (c.cntUp a n) := setReg c _ h

theorem count (c : Chip) (code n : Nat) : c.resultsOnly W g (c.count code n) := by
  obtain ⟨k, q, h⟩ := c.count_shape code n
  rw [h]
  exact of_eq rfl rfl rfl

theorem makeRec (c : Chip) (i : Nat) (r : Rec) : c.resultsOnly W g (c.makeRec i r) := by
  obtain ⟨l, m, k, q, h⟩ := c.makeRec_shape i r
  rw [h]
  exact of_eq rfl rfl rfl

/-- The group changes, but for its pipe and its results. -/
theorem setGroup (c : Chip) (x : Group) (hp : x.pipe = (c.group g).pipe) (hr : x.results = (c.group g).results) :
    c.resultsOnly W g (c.setGroup g x) := by
  refine ⟨.of_eq rfl, fun _ _ => rfl, fun h hne => ?_, ?_, ?_⟩
  · rw [Chip.group_setGroup, if_neg hne]
  · rw [Chip.group_setGroup, if_pos rfl, hp]
  · rw [Chip.group_setGroup, if_pos rfl, hr]

/-! ### Checkers (R74, R75) -/

theorem setChk (c : Chip) (p : Nat) (k : ChkSt) (hp : p / 8 = g) : c.resultsOnly W g (c.setChk p k) := by
  subst hp
  exact setGroup c _ rfl rfl

theorem chkLost (c : Chip) (p : Nat) (hp : p / 8 = g) (hW : W (chkStatus p)) : c.resultsOnly W g (c.chkLost p) := by
  unfold Chip.chkLost
  refine ite ?_ (refl c)
  exact (((setChk c p _ hp).trans (setField _ _ _ _ hW)).trans (setField _ _ _ _ hW)).trans (fieldUp _ _ _ _ hW)

theorem chkSynced (c : Chip) (p : Nat) (hW : W (chkStatus p)) : c.resultsOnly W g (c.chkSynced p) := by
  unfold Chip.chkSynced
  exact ite (setField c _ _ _ hW) (refl c)

/-- A checker that takes bits writes registers of its pin. -/
theorem chkFeed (c : Chip) (p : Nat) (bs : List Bool) (hp : p / 8 = g) (hW : ∀ o, o < 0x800 → W (pinB p + o)) :
    c.resultsOnly W g (c.chkFeed p bs).2 := by
  have hs : W (chkStatus p) := hW 0x64 (by decide)
  have hset : ∀ (c : Chip) (o v : Nat), o + 4 < 0x800 → c.resultsOnly W g (c.setReg64 (pinB p + o) v) := fun c o v ho =>
    setReg64 c v (hW o (by omega)) (by rw [Nat.add_assoc]; exact hW _ ho)
  unfold Chip.chkFeed
  simp only
  refine .trans ?_ (ite (refl _) (count _ _ _))
  refine .trans ?_ (fieldUp _ _ _ _ (hW 0x78 (by decide)))
  refine .trans ?_ (fieldUp _ _ _ _ (hW 0x78 (by decide)))
  refine .trans ?_ (hset _ 0x70 _ (by decide))
  refine .trans ?_ (hset _ 0x68 _ (by decide))
  refine .trans ?_ (setChk _ p _ hp)
  exact (chkLost c p hp hs).trans (chkSynced _ p hs)

theorem dropChks (c : Chip) : c.resultsOnly W g (c.setGroup g { c.group g with chks := [] }) := setGroup c _ rfl rfl

theorem chkReset (c : Chip) (hW : ∀ j, j < 8 → W (chkStatus (8 * g + j))) : c.resultsOnly W g (c.chkReset g) := by
  unfold Chip.chkReset
  refine ite (refl c) ?_
  refine .trans (foldl (f := fun c j => c.chkLost (8 * g + j)) (List.range 8) (fun j hj c => ?_) c) ?_
  · have hj8 := List.mem_range.1 hj
    exact chkLost c _ (by omega) (hW j hj8)
  · exact dropChks _

/-! ### Check-value units (R251, R252) -/

theorem crcFeed (c : Chip) {u : Nat} (bs : List Bool) (hW : ∀ a, crcRegs a → W a) (hu : u < 32) :
    c.resultsOnly W g (c.crcFeed u bs) := by
  have hset : ∀ (c : Chip) (o v : Nat), o + 4 < 0x80 → c.resultsOnly W g (c.setReg64 (crcB u + o) v) := fun c o v ho =>
    setReg64 c v (hW _ (by unfold crcRegs crcB; omega)) (hW _ (by unfold crcRegs crcB; omega))
  unfold Chip.crcFeed
  split
  · exact refl c
  · simp only
    exact .trans (.trans (hset c 0x40 _ (by decide)) (hset _ 0x50 _ (by decide))) (ite (refl _) (count _ _ _))

theorem crcFeedBytes (c : Chip) {u : Nat} (bs : List Byte) (hW : ∀ a, crcRegs a → W a) (hu : u < 32) :
    c.resultsOnly W g (c.crcFeedBytes u bs) := crcFeed c _ hW hu

end Chip.resultsOnly

/-- A unit that a task feeds from a lane is one of the 32. -/
theorem Chip.crcOnLane_lt {c : Chip} {n src l u : Nat} (h : u ∈ c.crcOnLane n src l) : u < 32 := by
  unfold Chip.crcOnLane bitsIn at h
  exact List.mem_range.1 (List.mem_of_mem_filter (List.mem_of_mem_filter h))

namespace Chip.resultsOnly

variable {W : Nat → Prop} {g : Nat}

theorem laneCrc (c : Chip) (n l : Nat) (x : LaneRes) (sum : ChkSum) (hW : ∀ a, crcRegs a → W a) :
    c.resultsOnly W g (c.laneCrc n l x sum) := by
  unfold Chip.laneCrc
  simp only
  refine .trans ?_ (foldl _ (fun u hu c => crcFeed c _ hW (Chip.crcOnLane_lt hu)) _)
  refine .trans ?_ (foldl _ (fun u hu c => .trans (crcFeedBytes c _ hW (Chip.crcOnLane_lt hu))
    (crcFeed _ _ hW (Chip.crcOnLane_lt hu))) _)
  exact foldl _ (fun u hu c => crcFeed c _ hW (Chip.crcOnLane_lt hu)) c

/-! ### Counters, first fails and records of a lane (R190, R191, R193) -/

theorem laneCount (c : Chip) {a : Nat} (n : Nat) (h : W a) (h' : W (a + 4)) : c.resultsOnly W g (c.laneCount a n) :=
  setReg64 c _ h h'

theorem setFirsts (c : Chip) (t : Table Nat) :
    c.resultsOnly W g { c with mor := { c.mor with firsts := t } } := of_eq rfl rfl rfl

theorem firstFail (c : Chip) (l s : Nat) (r : FrameRec) (hs : s < 128) (hS : ∀ a, siteRegs a → W a)
    (hL : ∀ a, laneReg8 l + 0x10 ≤ a → a < laneReg8 l + 0x18 → W a) : c.resultsOnly W g (c.firstFail l s r) := by
  have hlane := setReg64 (g := g) c (2 ^ 63 + r.num % 2 ^ 40) (hL _ (Nat.le_refl _) (by omega))
    (hL (laneReg8 l + 0x10 + 4) (by omega) (by omega))
  unfold Chip.firstFail
  split
  · exact refl c
  simp only
  refine hlane.trans (ite (refl _) ?_)
  refine .trans (setReg64 _ _ (hS _ ?_) (hS _ ?_)) (setFirsts _ _)
  · unfold siteRegs siteLed; omega
  · unfold siteRegs siteLed; omega

theorem laneRecords (c : Chip) (i n l s : Nat) (r : FrameRec) (x : LaneRes) (hW : W (laneReg8 l + 0x18)) :
    c.resultsOnly W g (c.laneRecords i n l s r x) := by
  unfold Chip.laneRecords
  simp only
  refine .trans ?_ (ite (refl _) (makeRec _ _ _))
  exact ite (refl c) (.trans (.trans (cntUp c _ hW) (count _ _ _)) (makeRec _ _ _))

end Chip.resultsOnly

end Sys2Proof.Machine
end

section
/-! SUPPORT. Compare results of one lane: masks of UIs, the counters and first-fail registers of a lane, and what they follow. -/

namespace Sys2Proof.Machine

/-! ### Masks of UIs -/

theorem uiMask_lt (f : Nat → Bool) : uiMask f < 2 ^ 64 := by
  have upTo : ∀ n, ((List.range n).map (fun u => if f u then 2 ^ u else 0)).sum < 2 ^ n := by
    intro n
    induction n with
    | zero => simp
    | succ n ih =>
      rw [List.range_succ, List.map_append, List.sum_append, Nat.pow_succ]
      have h : (if f n then 2 ^ n else 0) ≤ 2 ^ n := by split <;> omega
      simp only [List.map_cons, List.map_nil, List.sum_cons, List.sum_nil]
      omega
  exact upTo 64

theorem uiCount_eq_zero {m : Nat} (h : m < 2 ^ 64) : uiCount m = 0 ↔ m = 0 := by
  refine ⟨fun h0 => Nat.eq_of_testBit_eq fun i => ?_, fun h0 => by subst h0; decide⟩
  rw [Nat.zero_testBit]
  by_cases hi : i < 64
  · by_contra hb
    have hmem : i ∈ uisOf m := List.mem_filter.2 ⟨List.mem_range.2 hi, by simpa using hb⟩
    rw [List.length_eq_zero_iff.1 h0] at hmem
    cases hmem
  · exact Nat.testBit_lt_two_pow (Nat.lt_of_lt_of_le h (Nat.pow_le_pow_right (by decide) (by omega)))

/-! ### Lanes (R46) -/

theorem laneOf_inj {g i j : Nat} (hg : g < 12) (hi : i < 9) (hj : j < 9) (h : laneOf g i = laneOf g j) : i = j := by
  unfold laneOf at h
  split at h <;> split at h <;> omega

theorem laneReg8_apart {l m o : Nat} (h : l ≠ m) (ho : o < 0x20) : ¬ laneRegs m (laneReg8 l + o) := by
  unfold laneRegs laneReg8
  omega

theorem Chip.laneSite_lt (c : Chip) (n l : Nat) : c.laneSite n l < 128 := Nat.mod_lt _ (by decide)

/-- What a compared frame without SOURCE shows does not depend on the registers now (R45, R59). -/
theorem Chip.laneRes_recorded (c d : Chip) (g : Nat) (r : FrameRec) (o : List (Nat × Bool)) (gap : Nat)
    (chk : Option (List Bool)) (j : Nat) (h : r.enc ≠ 3) : c.laneRes g r o gap chk j = d.laneRes g r o gap chk j := by
  have hs : c.laneState g r [] j = d.laneState g r [] j := by
    funext u
    unfold Chip.laneState
    rw [if_neg h, if_neg h]
  unfold Chip.laneRes
  rw [hs]

theorem Chip.laneRes_failed_lt (c : Chip) (g : Nat) (r : FrameRec) (o : List (Nat × Bool)) (gap : Nat)
    (chk : Option (List Bool)) (j : Nat) : (c.laneRes g r o gap chk j).failed < 2 ^ 64 := by
  unfold Chip.laneRes
  dsimp only
  exact uiMask_lt _

/-! ### The results of one lane (R190, R191) -/

/-- The counters of lane l take its results. -/
def Chip.laneCounted (c : Chip) (g l : Nat) (x : LaneRes) : Chip :=
  if x.judged = 0 then c
  else ((c.laneCount (laneReg8 l + 8) (uiCount x.judged)).laneCount (laneReg8 l) (uiCount x.failed)).count (16 * g + 1)
    (uiCount x.judged)
/-- The first-fail registers of lane l and of site s take its fails. -/
def Chip.laneFailed (c : Chip) (g l s : Nat) (r : FrameRec) (x : LaneRes) : Chip :=
  if uiCount x.failed = 0 then c else (c.count (16 * g + 2) (uiCount x.failed)).firstFail l s r
/-- The results of lane l of task n of a frame take effect. -/
def Chip.laneShown (c : Chip) (g n l s : Nat) (r : FrameRec) (x : LaneRes) (sum : ChkSum) : Chip :=
  ((((c.laneCounted g l x).laneFailed g l s r x).laneRecords g n l s r x).laneCrc n l x sum)

/-- The registers of lane l follow its results in frame num. -/
structure Chip.laneFollows (c d : Chip) (l : Nat) (x : LaneRes) (num : Nat) : Prop where
  counted : x.judged ≠ 0 →
    d.reg64 (laneReg8 l) = min (c.reg64 (laneReg8 l) + uiCount x.failed) (2 ^ 48 - 1) ∧
    d.reg64 (laneReg8 l + 8) = min (c.reg64 (laneReg8 l + 8) + uiCount x.judged) (2 ^ 48 - 1)
  unjudged : x.judged = 0 →
    d.reg64 (laneReg8 l) = c.reg64 (laneReg8 l) ∧ d.reg64 (laneReg8 l + 8) = c.reg64 (laneReg8 l + 8)
  first : x.failed ≠ 0 → c.laneFirst l = none → d.laneFirst l = some (num % 2 ^ 40)

/-- c and d hold the same counters and first fail of lane l. -/
def Chip.sameLane (c d : Chip) (l : Nat) : Prop := ∀ o, o < 0x18 → d.reg (laneReg8 l + o) = c.reg (laneReg8 l + o)

theorem Chip.reg64_of_reg {c d : Chip} {a : Nat} (h : d.reg a = c.reg a) (h' : d.reg (a + 4) = c.reg (a + 4)) :
    d.reg64 a = c.reg64 a := by
  unfold Chip.reg64
  rw [h, h']

namespace Chip.sameLane

variable {c d e : Chip} {l : Nat}

theorem trans (h : c.sameLane d l) (h' : d.sameLane e l) : c.sameLane e l := fun o ho => (h' o ho).trans (h o ho)

theorem reg64 (h : c.sameLane d l) : d.reg64 (laneReg8 l) = c.reg64 (laneReg8 l) ∧
    d.reg64 (laneReg8 l + 8) = c.reg64 (laneReg8 l + 8) ∧ d.reg64 (laneReg8 l + 0x10) = c.reg64 (laneReg8 l + 0x10) :=
  ⟨Chip.reg64_of_reg (h 0 (by decide)) (h 4 (by decide)), Chip.reg64_of_reg (h 8 (by decide)) (h 0xC (by decide)),
    Chip.reg64_of_reg (h 0x10 (by decide)) (h 0x14 (by decide))⟩

theorem laneFirst (h : c.sameLane d l) : d.laneFirst l = c.laneFirst l := by
  unfold Chip.laneFirst
  rw [h.reg64.2.2]

end Chip.sameLane

theorem Chip.resultsOnly.sameLane {W : Nat → Prop} {g l : Nat} {c d : Chip} (h : c.resultsOnly W g d)
    (hW : ∀ o, o < 0x18 → ¬ W (laneReg8 l + o)) : c.sameLane d l := fun o ho => h.reg _ (hW o ho)

/-- Registers follow a lane's results whatever happens to other registers before and after. -/
theorem Chip.laneFollows.congr {c c' d d' : Chip} {l num : Nat} {x : LaneRes} (h : c'.laneFollows d' l x num)
    (hc : c.sameLane c' l) (hd : d'.sameLane d l) : c.laneFollows d l x num := by
  obtain ⟨c0, c8, -⟩ := hc.reg64
  obtain ⟨d0, d8, -⟩ := hd.reg64
  refine ⟨fun hj => ?_, fun hj => ?_, fun hf hnone => ?_⟩
  · rw [d0, d8, ← c0, ← c8]
    exact h.counted hj
  · rw [d0, d8, ← c0, ← c8]
    exact h.unjudged hj
  · rw [hd.laneFirst]
    exact h.first hf (hc.laneFirst.trans hnone)

theorem Chip.laneCounted_spec (c : Chip) (g l : Nat) (x : LaneRes) :
    (x.judged ≠ 0 →
      (c.laneCounted g l x).reg64 (laneReg8 l) = min (c.reg64 (laneReg8 l) + uiCount x.failed) (2 ^ 48 - 1) ∧
      (c.laneCounted g l x).reg64 (laneReg8 l + 8) = min (c.reg64 (laneReg8 l + 8) + uiCount x.judged) (2 ^ 48 - 1)) ∧
    (x.judged = 0 → c.laneCounted g l x = c) ∧ (c.laneCounted g l x).laneFirst l = c.laneFirst l := by
  have hmod : ∀ n, min n (2 ^ 48 - 1) % 2 ^ 64 = min n (2 ^ 48 - 1) := fun n => Nat.mod_eq_of_lt (by omega)
  unfold Chip.laneCounted
  by_cases hj : x.judged = 0
  · rw [if_pos hj]
    exact ⟨fun h => absurd hj h, fun _ => rfl, rfl⟩
  · rw [if_neg hj]
    unfold Chip.laneCount Chip.laneFirst
    simp only [Chip.reg64_of_regs (Chip.count_regs _ _ _)]
    refine ⟨fun _ => ⟨?_, ?_⟩, fun h => absurd h hj, ?_⟩
    · rw [Chip.reg64_setReg64, hmod, Chip.reg64_setReg64_other _ _ (by omega)]
    · rw [Chip.reg64_setReg64_other _ _ (by omega), Chip.reg64_setReg64, hmod]
    · rw [Chip.reg64_setReg64_other _ _ (by omega), Chip.reg64_setReg64_other _ _ (by omega)]

theorem Chip.laneFirst_of_regs {c d : Chip} (h : d.regs = c.regs) (l : Nat) : d.laneFirst l = c.laneFirst l := by
  unfold Chip.laneFirst
  rw [Chip.reg64_of_regs h]

/-- The word of a first-fail register: VALID and the frame. -/
theorem firstFail_valid (num : Nat) : (2 ^ 63 + num % 2 ^ 40).testBit 63 = true := by
  rw [Nat.testBit_two_pow_add_eq, Nat.testBit_lt_two_pow (by omega)]
  rfl

theorem Chip.laneFirst_setReg64 (c : Chip) (l num : Nat) :
    (c.setReg64 (laneReg8 l + 0x10) (2 ^ 63 + num % 2 ^ 40)).laneFirst l = some (num % 2 ^ 40) := by
  have hlt : 2 ^ 63 + num % 2 ^ 40 < 2 ^ 64 := by omega
  have hframe : (2 ^ 63 + num % 2 ^ 40) % 2 ^ 40 = num % 2 ^ 40 := by omega
  unfold Chip.laneFirst
  rw [Chip.reg64_setReg64_same _ _ _ hlt]
  exact (if_pos (firstFail_valid num)).trans (congrArg some hframe)

theorem Chip.laneFirst_setSite (c : Chip) (l s v : Nat) (hs : s < 128) (m : Mor) :
    ({ c.setReg64 (siteLed s 6) v with mor := m } : Chip).laneFirst l = c.laneFirst l := by
  refine (Chip.laneFirst_of_regs (c := c.setReg64 (siteLed s 6) v) rfl l).trans ?_
  unfold Chip.laneFirst
  rw [Chip.reg64_setReg64_other _ _ (by unfold laneReg8 siteLed; omega)]

/-- A lane's first fail is held from then on (R191). -/
theorem Chip.laneFirst_firstFail (c : Chip) (l s : Nat) (r : FrameRec) (hs : s < 128) (h : c.laneFirst l = none) :
    (c.firstFail l s r).laneFirst l = some (r.num % 2 ^ 40) := by
  have hset := c.laneFirst_setReg64 l r.num
  unfold Chip.firstFail
  rw [if_neg (by rw [h]; decide)]
  generalize c.setReg64 (laneReg8 l + 0x10) (2 ^ 63 + r.num % 2 ^ 40) = d at hset ⊢
  simp only [-Nat.reducePow]
  split
  · exact hset
  · exact (d.laneFirst_setSite l s _ hs _).trans hset

theorem Chip.laneFailed_spec (c : Chip) (g l s : Nat) (r : FrameRec) (x : LaneRes) (hs : s < 128)
    (hx : x.failed < 2 ^ 64) (hf : x.failed ≠ 0) (h : c.laneFirst l = none) :
    (c.laneFailed g l s r x).laneFirst l = some (r.num % 2 ^ 40) := by
  unfold Chip.laneFailed
  rw [if_neg fun k => hf ((uiCount_eq_zero hx).1 k)]
  exact Chip.laneFirst_firstFail _ l s r hs ((Chip.laneFirst_of_regs (Chip.count_regs _ _ _) l).trans h)

namespace Chip.resultsOnly

variable {W : Nat → Prop} {g : Nat}

theorem laneCounted (c : Chip) (l : Nat) (x : LaneRes) (hL : ∀ o, o < 0x10 → W (laneReg8 l + o)) :
    c.resultsOnly W g (c.laneCounted g l x) := by
  unfold Chip.laneCounted
  refine ite (refl c) (.trans (.trans (laneCount c _ ?_ ?_) (laneCount _ _ ?_ ?_)) (count _ _ _))
  · exact hL 8 (by decide)
  · exact hL 12 (by decide)
  · exact hL 0 (by decide)
  · exact hL 4 (by decide)

theorem laneFailed (c : Chip) (l s : Nat) (r : FrameRec) (x : LaneRes) (hs : s < 128) (hS : ∀ a, siteRegs a → W a)
    (hL : ∀ a, laneReg8 l + 0x10 ≤ a → a < laneReg8 l + 0x18 → W a) :
    c.resultsOnly W g (c.laneFailed g l s r x) := by
  unfold Chip.laneFailed
  exact ite (refl c) (.trans (count c _ _) (firstFail _ l s r hs hS hL))

theorem laneShown (c : Chip) (n l s : Nat) (r : FrameRec) (x : LaneRes) (sum : ChkSum) (hs : s < 128) :
    c.resultsOnly (resultRegs g l) g (c.laneShown g n l s r x sum) := by
  have hL : ∀ o, o < 0x20 → resultRegs g l (laneReg8 l + o) := fun o ho => .inr (.inr (.inr ⟨by omega, by omega⟩))
  have hS : ∀ a, siteRegs a → resultRegs g l a := fun _ h => .inr (.inr (.inl h))
  have hC : ∀ a, crcRegs a → resultRegs g l a := fun _ h => .inr (.inl h)
  unfold Chip.laneShown
  refine .trans ?_ (laneCrc _ n l x sum hC)
  refine .trans ?_ (laneRecords _ g n l s r x (hL 0x18 (by decide)))
  refine .trans (laneCounted c l x fun o ho => hL o (by omega)) (laneFailed _ l s r x hs hS fun a h1 h2 => ?_)
  exact .inr (.inr (.inr ⟨by omega, by omega⟩))

end Chip.resultsOnly

/-- The registers of a lane follow its results as they take effect. -/
theorem Chip.laneFollows_laneShown (c : Chip) (g n l s : Nat) (r : FrameRec) (x : LaneRes) (sum : ChkSum) (hs : s < 128)
    (hl : l < 108) (hx : x.failed < 2 ^ 64) : c.laneFollows (c.laneShown g n l s r x sum) l x r.num := by
  obtain ⟨hcount, hidle, hfirst⟩ := c.laneCounted_spec g l x
  have hsite : ∀ o, o < 0x20 → ¬ siteRegs (laneReg8 l + o) := fun o ho => by unfold siteRegs laneReg8; omega
  have hcrc : ∀ o, o < 0x20 → ¬ crcRegs (laneReg8 l + o) := fun o ho => by unfold crcRegs laneReg8; omega
  have hrec := Chip.resultsOnly.laneRecords (W := fun a => a = laneReg8 l + 0x18) (g := g)
    ((c.laneCounted g l x).laneFailed g l s r x) g n l s r x rfl
  have hfeed := Chip.resultsOnly.laneCrc (W := crcRegs) (g := g)
    (((c.laneCounted g l x).laneFailed g l s r x).laneRecords g n l s r x) n l x sum fun _ h => h
  have hfail := Chip.resultsOnly.laneFailed
    (W := fun a => siteRegs a ∨ (laneReg8 l + 0x10 ≤ a ∧ a < laneReg8 l + 0x18)) (g := g)
    (c.laneCounted g l x) l s r x hs (fun _ h => .inl h) (fun _ h1 h2 => .inr ⟨h1, h2⟩)
  have hlate : ((c.laneCounted g l x).laneFailed g l s r x).sameLane (c.laneShown g n l s r x sum) l :=
    .trans (hrec.sameLane fun o ho => by omega) (hfeed.sameLane fun o ho => hcrc o (by omega))
  have hkeep : ∀ o, o < 0x10 → ((c.laneCounted g l x).laneFailed g l s r x).reg (laneReg8 l + o) =
      (c.laneCounted g l x).reg (laneReg8 l + o) := fun o ho => hfail.reg _ (by
    rintro (h | h)
    · exact hsite o (by omega) h
    · omega)
  have k0 : ((c.laneCounted g l x).laneFailed g l s r x).reg64 (laneReg8 l) = (c.laneCounted g l x).reg64 (laneReg8 l) :=
    Chip.reg64_of_reg (hkeep 0 (by decide)) (hkeep 4 (by decide))
  have k8 : ((c.laneCounted g l x).laneFailed g l s r x).reg64 (laneReg8 l + 8) =
      (c.laneCounted g l x).reg64 (laneReg8 l + 8) :=
    Chip.reg64_of_reg (hkeep 8 (by decide)) (hkeep 12 (by decide))
  obtain ⟨e0, e8, -⟩ := hlate.reg64
  refine ⟨fun hj => ?_, fun hj => ?_, fun hf hnone => ?_⟩
  · rw [e0, e8, k0, k8]
    exact hcount hj
  · rw [e0, e8, k0, k8, hidle hj]
    exact ⟨rfl, rfl⟩
  · rw [hlate.laneFirst]
    exact Chip.laneFailed_spec _ g l s r x hs hx hf (hfirst.trans hnone)

end Sys2Proof.Machine
end

section
/-! SUPPORT. Compare frames: the lanes of a frame one after another, and the obligation of compare results. -/

namespace Sys2Proof.Machine

/-! ### One lane (R189) -/

/-- The results of a lane take effect on a device whose checker of the lane has had its bits. -/
theorem Chip.laneDone_shown (c : Chip) (g n : Nat) (r : FrameRec) (obs : List LaneObs) (j : Nat) (hj : j < 9) :
    ∃ (d : Chip) (sum : ChkSum) (o : List (Nat × Bool)) (gap : Nat) (chk : Option (List Bool)),
      c.resultsOnly (groupRegs g) g d ∧
      c.laneDone g n r obs j = (d.laneRes g r o gap chk j,
        d.laneShown g n (laneOf g j) (d.laneSite n (laneOf g j)) r (d.laneRes g r o gap chk j) sum) := by
  unfold Chip.laneDone
  refine ⟨_, _, _, _, _, ?_, rfl⟩
  have hpin : (8 * g + j) / 8 = g ∨ j = 8 := by omega
  have hreg : ∀ o, o < 0x800 → j ≠ 8 → groupRegs g (pinB (8 * g + j) + o) := fun o ho h => by
    unfold groupRegs pinB; omega
  split
  · rename_i h
    have h8 : j ≠ 8 := by
      rintro rfl
      simp at h
    exact .trans (.setChk c _ _ (hpin.resolve_right h8)) (.chkFeed _ _ _ (hpin.resolve_right h8) fun o ho => hreg o ho h8)
  · exact .refl c

/-- A frame that is no SOURCE frame has no checkers: its results are those of its levels. -/
theorem Chip.laneDone_plain (c : Chip) (g n : Nat) (r : FrameRec) (obs : List LaneObs) (j : Nat) (h : r.enc ≠ 3) :
    (c.laneDone g n r obs j).1 =
      c.laneRes g r (delayed 0 r.uis [] (obs.getD j { volts := [], changed := 0 })).2.1 0 none j := by
  have hgap : (delayed 0 r.uis [] (obs.getD j { volts := [], changed := 0 })).1 = 0 := by
    unfold delayed
    simp
  unfold Chip.laneDone
  simp only [h, decide_false, Bool.false_and, Bool.false_eq_true, if_false, hgap]

theorem Chip.laneDone_spec (c : Chip) (g n : Nat) (r : FrameRec) (obs : List LaneObs) (j : Nat) (hg : g < 12) (hj : j < 9) :
    c.resultsOnly (resultRegs g (laneOf g j)) g (c.laneDone g n r obs j).2 ∧
    c.laneFollows (c.laneDone g n r obs j).2 (laneOf g j) (c.laneDone g n r obs j).1 r.num := by
  obtain ⟨d, sum, o, gap, chk, hd, e⟩ := c.laneDone_shown g n r obs j hj
  have hlane : laneOf g j < 108 := by unfold laneOf; split <;> omega
  have hsite := d.laneSite_lt n (laneOf g j)
  rw [e]
  refine ⟨(hd.mono fun _ h => .inl h).trans (.laneShown d n _ _ r _ sum hsite), ?_⟩
  refine (d.laneFollows_laneShown g n _ _ r _ sum hsite hlane (Chip.laneRes_failed_lt _ _ _ _ _ _ _)).congr ?_
    fun _ _ => rfl
  exact hd.sameLane fun i hi => by unfold groupRegs laneReg8; omega

/-! ### The lanes of a frame -/

/-- The fails and judged lanes so far, and the device, with lane j's results added. -/
def laneStep (g n : Nat) (r : FrameRec) (obs : List LaneObs) (a : Nat × Nat × Chip) (j : Nat) : Nat × Nat × Chip :=
  let d := a.2.2.laneDone g n r obs j
  (if d.1.failed = 0 then a.1 else a.1 + 2 ^ j, if d.1.judged = 0 then a.2.1 else a.2.1 + 2 ^ j, d.2)

/-- A mask that takes bit n takes it alone. -/
theorem testBit_add_bit {m n : Nat} (hm : m < 2 ^ n) (v : Nat) :
    (if v = 0 then m else m + 2 ^ n) < 2 ^ (n + 1) ∧
    ((if v = 0 then m else m + 2 ^ n).testBit n = true ↔ v ≠ 0) ∧
    ∀ j, j < n → (if v = 0 then m else m + 2 ^ n).testBit j = m.testBit j := by
  have hn : m.testBit n = false := Nat.testBit_lt_two_pow hm
  rw [Nat.pow_succ]
  by_cases hv : v = 0
  · rw [if_pos hv, hn]
    exact ⟨by omega, by simp [hv], fun _ _ => rfl⟩
  · rw [if_neg hv, Nat.add_comm]
    refine ⟨by omega, ?_, fun j hj => Nat.testBit_two_pow_add_gt hj m⟩
    rw [Nat.testBit_two_pow_add_eq, hn]
    simp [hv]

/-- After the first k lanes: the masks, the device, and the registers of every lane. -/
structure lanesDone (g : Nat) (c : Chip) (num : Nat) (res : Nat → LaneRes) (k : Nat) (a : Nat × Nat × Chip) : Prop where
  fails_lt : a.1 < 2 ^ k
  judged_lt : a.2.1 < 2 ^ k
  fails : ∀ j, j < k → (a.1.testBit j = true ↔ (res j).failed ≠ 0)
  judged : ∀ j, j < k → (a.2.1.testBit j = true ↔ (res j).judged ≠ 0)
  only : c.resultsOnly (fun x => groupRegs g x ∨ crcRegs x ∨ siteRegs x ∨ ∃ j, j < k ∧ laneRegs (laneOf g j) x) g a.2.2
  follows : ∀ j, j < k → c.laneFollows a.2.2 (laneOf g j) (res j) num

theorem lanesDone.step {g k n : Nat} {c : Chip} {r : FrameRec} {obs : List LaneObs} {res : Nat → LaneRes}
    {a : Nat × Nat × Chip} (h : lanesDone g c r.num res k a) (hg : g < 12) (hk : k < 9)
    (hres : (a.2.2.laneDone g n r obs k).1 = res k) : lanesDone g c r.num res (k + 1) (laneStep g n r obs a k) := by
  obtain ⟨hone, hfol⟩ := a.2.2.laneDone_spec g n r obs k hg hk
  rw [hres] at hfol
  obtain ⟨flt, fk, fj⟩ := testBit_add_bit h.fails_lt (res k).failed
  obtain ⟨jlt, jk, jj⟩ := testBit_add_bit h.judged_lt (res k).judged
  unfold laneStep
  simp only [hres]
  refine ⟨flt, jlt, fun j hj => ?_, fun j hj => ?_, ?_, fun j hj => ?_⟩
  · obtain hj | rfl := Nat.lt_succ_iff_lt_or_eq.1 hj
    · rw [fj j hj]
      exact h.fails j hj
    · exact fk
  · obtain hj | rfl := Nat.lt_succ_iff_lt_or_eq.1 hj
    · rw [jj j hj]
      exact h.judged j hj
    · exact jk
  · refine (h.only.mono ?_).trans (hone.mono ?_)
    · rintro x (hx | hx | hx | ⟨j, hj, hx⟩)
      exacts [.inl hx, .inr (.inl hx), .inr (.inr (.inl hx)), .inr (.inr (.inr ⟨j, by omega, hx⟩))]
    · rintro x (hx | hx | hx | hx)
      exacts [.inl hx, .inr (.inl hx), .inr (.inr (.inl hx)), .inr (.inr (.inr ⟨k, by omega, hx⟩))]
  · have hout : ∀ l o, l < 108 → o < 0x18 → ¬ groupRegs g (laneReg8 l + o) ∧ ¬ crcRegs (laneReg8 l + o) ∧
        ¬ siteRegs (laneReg8 l + o) := fun l o hl ho => by
      unfold groupRegs crcRegs siteRegs laneReg8
      omega
    have hlt : laneOf g j < 108 := by unfold laneOf; split <;> omega
    have hne : ∀ i, i < 9 → i ≠ j → ∀ o, o < 0x18 → ¬ laneRegs (laneOf g i) (laneReg8 (laneOf g j) + o) :=
      fun i hi hij o ho => laneReg8_apart (fun e => hij (laneOf_inj hg (by omega) hi e).symm) (by omega)
    obtain hj' | rfl := Nat.lt_succ_iff_lt_or_eq.1 hj
    · refine (h.follows j hj').congr (fun _ _ => rfl) (hone.sameLane fun o ho => ?_)
      obtain ⟨h1, h2, h3⟩ := hout _ o hlt ho
      rintro (hx | hx | hx | hx)
      exacts [h1 hx, h2 hx, h3 hx, hne k hk (by omega) o ho hx]
    · refine hfol.congr (h.only.sameLane fun o ho => ?_) fun _ _ => rfl
      obtain ⟨h1, h2, h3⟩ := hout _ o hlt ho
      rintro (hx | hx | hx | ⟨i, hi, hx⟩)
      exacts [h1 hx, h2 hx, h3 hx, hne i (by omega) (by omega) o ho hx]

/-- The lanes of a frame whose results depend on its record alone. -/
theorem lanesDone_foldl (g n : Nat) (c : Chip) (r : FrameRec) (obs : List LaneObs) (res : Nat → LaneRes) (hg : g < 12)
    (hres : ∀ (d : Chip) (j : Nat), (d.laneDone g n r obs j).1 = res j) :
    lanesDone g c r.num res 9 ((List.range 9).foldl (laneStep g n r obs) (0, 0, c)) := by
  have upTo : ∀ k, k ≤ 9 → lanesDone g c r.num res k ((List.range k).foldl (laneStep g n r obs) (0, 0, c)) := by
    intro k
    induction k with
    | zero =>
      exact fun _ => ⟨Nat.one_pos, Nat.one_pos, fun j hj => absurd hj (by omega), fun j hj => absurd hj (by omega), .refl c,
        fun j hj => absurd hj (by omega)⟩
    | succ k ih =>
      intro hk
      rw [List.range_succ, List.foldl_append]
      exact (ih (by omega)).step hg (by omega) (hres _ _)
  exact upTo 9 (Nat.le_refl 9)

/-- Registers that the results of a frame of group g may write. -/
def frameRegs (g a : Nat) : Prop := groupRegs g a ∨ crcRegs a ∨ a / 0x10000 = 0x21

theorem Chip.resultsOnly.lanes (g n : Nat) (r : FrameRec) (obs : List LaneObs) (hg : g < 12) (c : Chip) :
    c.resultsOnly (frameRegs g) g ((List.range 9).foldl (laneStep g n r obs) (0, 0, c)).2.2 := by
  have upTo : ∀ k, k ≤ 9 → c.resultsOnly (frameRegs g) g ((List.range k).foldl (laneStep g n r obs) (0, 0, c)).2.2 := by
    intro k
    induction k with
    | zero => exact fun _ => .refl c
    | succ k ih =>
      intro hk
      rw [List.range_succ, List.foldl_append]
      refine (ih (by omega)).trans ((Chip.laneDone_spec _ g n r obs k hg (by omega)).1.mono ?_)
      have hlt : laneOf g k < 108 := by unfold laneOf; split <;> omega
      rintro a (ha | ha | ⟨h1, h2⟩ | ⟨h1, h2⟩)
      · exact .inl ha
      · exact .inr (.inl ha)
      · exact .inr (.inr (by omega))
      · exact .inr (.inr (by unfold laneReg8 at h1 h2; omega))
  exact upTo 9 (Nat.le_refl 9)

/-! ### The results of a frame (R189) -/

/-- The device as the results of the oldest frame begin to complete: the frame has left the pipe, and the checkers of a frame
that is no SOURCE frame start anew. -/
def Chip.frameTaken (c : Chip) (g : Nat) (r : FrameRec) (rs : List FrameRec) : Chip :=
  if r.enc = 3 then c.setGroup g { c.group g with pipe := rs } else (c.setGroup g { c.group g with pipe := rs }).chkReset g
/-- The lanes of the frame, one after another. -/
def Chip.frameLanes (c : Chip) (g n : Nat) (obs : List LaneObs) (r : FrameRec) (rs : List FrameRec) : Nat × Nat × Chip :=
  (List.range 9).foldl (laneStep g n r obs) (0, 0, c.frameTaken g r rs)
/-- The masks of R116 join the group's results. -/
def Chip.frameKept (c : Chip) (g num f m : Nat) : Chip :=
  c.setGroup g { c.group g with results := ((num, f, m) :: (c.group g).results).take 8 }

theorem compareResults_ended (g n : Nat) (obs : List LaneObs) (c : Chip) (r : FrameRec) (rs : List FrameRec)
    (ho : (c.group g).owner = some n) (hp : (c.group g).pipe = r :: rs)
    (he : (c.group g).st ≠ 1 ∨ r.num + 1 < (c.group g).frame) :
    compareResults g obs c = (c.frameLanes g n obs r rs).2.2.frameKept g r.num (c.frameLanes g n obs r rs).1
      (c.frameLanes g n obs r rs).2.1 := by
  unfold compareResults
  extract_lets x
  split
  · rename_i n' r' rs' ho' hp'
    obtain rfl : n = n' := Option.some.inj (ho.symm.trans ho')
    obtain ⟨rfl, rfl⟩ := List.cons.inj (hp.symm.trans hp')
    rw [if_neg (show ¬ ((c.group g).st = 1 ∧ (c.group g).frame ≤ r.num + 1) by omega)]
    extract_lets taken started lanes d y
    have hlanes : lanes = c.frameLanes g n obs r rs := rfl
    rw [← hlanes]
    rfl
  · rename_i h
    exact absurd hp (h n r rs ho)

theorem compareResults_waits (g : Nat) (obs : List LaneObs) (c : Chip)
    (h : (c.group g).owner = none ∨ (c.group g).pipe = [] ∨
      ((c.group g).st = 1 ∧ ∀ r ∈ (c.group g).pipe, (c.group g).frame ≤ r.num + 1)) : compareResults g obs c = c := by
  unfold compareResults
  simp only
  split
  · rename_i n r rs ho hp
    refine if_pos ?_
    rcases h with h | h | ⟨hst, hr⟩
    · rw [ho] at h; cases h
    · rw [hp] at h; cases h
    · exact ⟨hst, hr r (by rw [hp]; exact List.mem_cons_self)⟩
  · rfl

theorem Chip.group_frameTaken (c : Chip) (g : Nat) (r : FrameRec) (rs : List FrameRec) :
    ((c.frameTaken g r rs).group g).pipe = rs ∧ ((c.frameTaken g r rs).group g).results = (c.group g).results ∧
    (∀ h, h ≠ g → (c.frameTaken g r rs).group h = c.group h) ∧ c.hostSideKept (c.frameTaken g r rs) ∧
    ∀ a, ¬ groupRegs g a → (c.frameTaken g r rs).reg a = c.reg a := by
  let d := c.setGroup g { c.group g with pipe := rs }
  have hd : d.group g = { c.group g with pipe := rs } := by
    rw [Chip.group_setGroup, if_pos rfl]
  have hreset : d.resultsOnly (groupRegs g) g (c.frameTaken g r rs) :=
    .ite (.refl d) (.chkReset d fun j hj => by unfold groupRegs chkStatus pinB; omega)
  refine ⟨?_, ?_, fun h hne => ?_, .trans (.of_eq rfl) hreset.host, fun a ha => hreset.reg a ha⟩
  · rw [hreset.pipe, hd]
  · rw [hreset.results, hd]
  · rw [hreset.other h hne, Chip.group_setGroup, if_neg hne]

/-- What the results of a frame leave: the rest of the pipe, the host's side, every other group, and the registers outside
the group's, the check-value units' and Moraine's. -/
theorem compareResults_frame (g n : Nat) (obs : List LaneObs) (c : Chip) (r : FrameRec) (rs : List FrameRec) (hg : g < 12) :
    let d := (c.frameLanes g n obs r rs).2.2.frameKept g r.num (c.frameLanes g n obs r rs).1 (c.frameLanes g n obs r rs).2.1
    (d.group g).pipe = rs ∧
    (d.group g).results = ((r.num, (c.frameLanes g n obs r rs).1, (c.frameLanes g n obs r rs).2.1) ::
      (c.group g).results).take 8 ∧
    c.hostSideKept d ∧ (∀ h, h ≠ g → d.group h = c.group h) ∧ ∀ a, ¬ frameRegs g a → d.reg a = c.reg a := by
  obtain ⟨hpipe, hres, hother, hhost, hreg⟩ := c.group_frameTaken g r rs
  have hlanes := Chip.resultsOnly.lanes g n r obs hg (c.frameTaken g r rs)
  intro d
  have hd : d.group g = { (c.frameLanes g n obs r rs).2.2.group g with
      results := ((r.num, (c.frameLanes g n obs r rs).1, (c.frameLanes g n obs r rs).2.1) ::
        ((c.frameLanes g n obs r rs).2.2.group g).results).take 8 } := by
    exact (Chip.group_setGroup _ _ _ _).trans (if_pos rfl)
  refine ⟨?_, ?_, (hhost.trans hlanes.host).trans (.of_eq rfl), fun h hne => ?_, fun a ha => ?_⟩
  · rw [hd]
    exact hlanes.pipe.trans hpipe
  · rw [hd, ← hres]
    exact congrArg (fun x => List.take 8 (_ :: x)) hlanes.results
  · refine ((Chip.group_setGroup _ _ _ _).trans (if_neg hne)).trans ?_
    exact (hlanes.other h hne).trans (hother h hne)
  · exact (hlanes.reg a ha).trans (hreg a fun h => ha (.inl h))

/-! ### The obligation -/

/-- A level by its thresholds (R45). -/
theorem compareLevel_spec (vcl vch v : Nat) :
    (v < 3 * vcl → compareLevel vcl vch v = .L) ∧ (3 * vcl ≤ v → 3 * vch < v → compareLevel vcl vch v = .H) ∧
    (3 * vcl ≤ v → v ≤ 3 * vch → compareLevel vcl vch v = .M) := by
  unfold compareLevel
  refine ⟨fun h => if_pos h, fun h h' => ?_, fun h h' => ?_⟩
  · rw [if_neg (Nat.not_lt.2 h), if_pos h']
  · rw [if_neg (Nat.not_lt.2 h), if_neg (Nat.not_lt.2 h')]

/-- Settles O47: the frame's lanes complete one after another (`lanesDone_foldl`), each lane's registers follow its results
(`Chip.laneFollows_laneShown`), and what else they write is `frameRegs` (`compareResults_frame`). -/
theorem compareResults_holds : Obligations.CompareResults := by
  unfold Obligations.CompareResults
  refine ⟨?plain, ?ended, ?waits, compareLevel_spec⟩
  case plain =>
    intro s g n obs r rs x ho hp he henc lane res
    obtain ⟨hpipe, hresults, hhost, hother, -⟩ := compareResults_frame g n obs s.chip r rs g.isLt
    obtain ⟨-, -, -, -, hreg⟩ := s.chip.group_frameTaken g r rs
    have hstart : ∀ j, j < 9 → s.chip.sameLane (s.chip.frameTaken g r rs) (lane j) := fun j hj o ho =>
      hreg _ (by unfold groupRegs laneReg8; omega)
    have hall := lanesDone_foldl g n (s.chip.frameTaken g r rs) r obs res g.isLt fun d j =>
      (d.laneDone_plain g n r obs j henc).trans (Chip.laneRes_recorded _ _ _ _ _ _ _ _ henc)
    have hfol : ∀ j, j < 9 → s.chip.laneFollows ((s.chip.frameLanes g n obs r rs).2.2.frameKept g r.num
        (s.chip.frameLanes g n obs r rs).1 (s.chip.frameLanes g n obs r rs).2.1) (lane j) (res j) r.num := fun j hj =>
      (hall.follows j hj).congr (hstart j hj) fun _ _ => rfl
    refine ⟨_, State.onChip_of_eq s (compareResults_ended g n obs s.chip r rs ho hp he), hpipe,
      ⟨_, _, by rw [hresults]; rfl, fun j hj => ⟨hall.fails j hj, hall.judged j hj⟩⟩, fun j hj => (hfol j hj).counted,
      fun j hj => (hfol j hj).unjudged, fun c j => Chip.laneRes_recorded _ _ _ _ _ _ _ _ henc,
      fun j hj => (hfol j hj).first, rfl, hhost, hother⟩
  case ended =>
    intro s g n obs r rs x ho hp he
    obtain ⟨hpipe, hresults, hhost, hother, -⟩ := compareResults_frame g n obs s.chip r rs g.isLt
    exact ⟨_, State.onChip_of_eq s (compareResults_ended g n obs s.chip r rs ho hp he), hpipe, ⟨_, _, hresults⟩, rfl,
      hhost, hother⟩
  case waits =>
    intro s g obs x h
    exact ⟨s, State.onChip_of_eq s (compareResults_waits g obs s.chip h), rfl⟩

end Sys2Proof.Machine
end

section
/-! SUPPORT. Burst operations: Firn, the lanes' edges, TDCs, converters and the sequencer leave the host's side alone. -/

namespace Sys2Proof.Machine

namespace Chip.hostSideKept

/-! ### Shared operations -/

theorem setReg {c : Chip} {a : Nat} {w : Word} : c.hostSideKept (c.setReg a w) := of_eq rfl
theorem setReg64 {c : Chip} {a v : Nat} : c.hostSideKept (c.setReg64 a v) := of_eq rfl
theorem setField {c : Chip} {a hi lo v : Nat} : c.hostSideKept (c.setField a hi lo v) := of_eq rfl
theorem fieldUp {c : Chip} {a hi lo n : Nat} : c.hostSideKept (c.fieldUp a hi lo n) := of_eq rfl
theorem cntUp {c : Chip} {a n : Nat} : c.hostSideKept (c.cntUp a n) := of_eq rfl
theorem ledAdd {c : Chip} {a n : Nat} : c.hostSideKept (c.ledAdd a n) := of_eq rfl
theorem ledSub {c : Chip} {a n : Nat} : c.hostSideKept (c.ledSub a n) := of_eq rfl
theorem ledMove {c : Chip} {a b n : Nat} : c.hostSideKept (c.ledMove a b n) := of_eq rfl
theorem setGroup {c : Chip} {g : Nat} {x : Group} : c.hostSideKept (c.setGroup g x) := of_eq rfl
theorem setCtx {c : Chip} {n : Nat} {x : Ctx} : c.hostSideKept (c.setCtx n x) := of_eq rfl
theorem setTdc {c : Chip} {p : Nat} {t : Tdc} : c.hostSideKept (c.setTdc p t) := of_eq rfl
theorem setConv {c : Chip} {k : Nat} {a : Adc} : c.hostSideKept (c.setConv k a) := of_eq rfl
theorem setAcc {c : Chip} {u : Nat} {a : Acc} : c.hostSideKept (c.setAcc u a) := of_eq rfl
theorem setXcmp {c : Chip} {x : Nat} {a : Xcmp} : c.hostSideKept (c.setXcmp x a) := of_eq rfl

/-- Of two ends of a happening, each with an answer, each leaves the host's side alone. -/
theorem ite_snd {α : Type} {p : Prop} [Decidable p] {c : Chip} {a b : α × Chip} (h : c.hostSideKept a.2)
    (h' : c.hostSideKept b.2) : c.hostSideKept (if p then a else b).2 := by
  split
  · exact h
  · exact h'

/-- Time passes (R183). -/
theorem advance (c : Chip) (n : Nat) : c.hostSideKept (c.advance n) := by
  cases h : c.clocked with
  | true =>
    obtain ⟨l, r, s, k, q, e⟩ := c.advance_shape n h
    rw [e]
    exact of_eq rfl
  | false =>
    unfold Chip.advance
    rw [if_pos (.inl (by rw [h]; rfl))]
    exact refl c

theorem advanceTo (c : Chip) (t : Nat) : c.hostSideKept (c.advanceTo t) := advance c _

theorem memReq (c : Chip) (cls : SlotClass) (r : Req) : c.hostSideKept (c.memReq cls r) := of_eq (by simp [Chip.hostSide])

theorem breach (c : Chip) (src n unit : Nat) : c.hostSideKept (c.breach src n unit) := by
  unfold Chip.breach
  exact .trans setCtx (.ite (refl _) (raiseErr _ _ _ _ _ _))

/-! ### Firn (R98 to R102, R119) -/

theorem pump (c : Chip) (g : Nat) : c.hostSideKept (c.pump g) := by
  have go : ∀ (f : Nat) (c : Chip), c.hostSideKept (Chip.pump.go g f c) := by
    intro f
    induction f with
    | zero => exact fun c => refl c
    | succ f ih =>
      intro c
      unfold Chip.pump.go
      simp only
      split
      · exact refl c
      · refine .ite setGroup ?_
        split
        · exact (setGroup.trans (memReq _ _ _)).trans (ih _)
        · exact (setGroup.trans (memReq _ _ _)).trans (ih _)
        · exact setGroup
  exact go 256 c

theorem freeLine (c : Chip) (g : Nat) (l : RingLine) : c.hostSideKept (c.freeLine g l) := by
  unfold Chip.freeLine
  refine .ite ?_ (.ite setGroup (refl c))
  exact .trans ledMove (.ite ledAdd (.trans ledAdd (count _ _ _)))

theorem dropRing (c : Chip) (g : Nat) : c.hostSideKept (c.dropRing g) := by
  unfold Chip.dropRing
  exact .trans (.trans setGroup (.foldl (fun c l => freeLine c g l) _ _)) (of_eq rfl)

theorem leaveLines (c : Chip) (g play idx : Nat) : c.hostSideKept (c.leaveLines g play idx) := by
  unfold Chip.leaveLines
  exact .ite (refl c) (.trans setGroup (.foldl (fun c l => freeLine c g l) _ _))

theorem judgeLead (c : Chip) (g ahead lead : Nat) : c.hostSideKept (c.judgeLead g ahead lead) := by
  unfold Chip.judgeLead
  exact .trans (.trans setField setReg) (.ite (.trans cntUp (count _ _ _)) (refl _))

theorem lineFilled (c : Chip) (g i : Nat) (bad : Bool) (data : List Byte) : c.hostSideKept (c.lineFilled g i bad data) := by
  unfold Chip.lineFilled
  refine .trans ?_ (pump _ g)
  refine .trans ?_ setField
  refine .trans (.trans ledAdd (count _ _ _)) (.ite ?_ (.trans setGroup ledMove))
  exact .trans (.trans (.trans setGroup ledMove) ledAdd) (count _ _ _)

theorem fillArrived (c : Chip) (g : Nat) : c.hostSideKept (c.fillArrived g) := by
  unfold Chip.fillArrived
  simp only
  split
  · exact setGroup.trans (lineFilled _ _ _ _ _)
  · exact refl c

/-! ### Edges of the lanes (R54 to R68) -/

theorem laneRan (c : Chip) (g j : Nat) (r : LaneRun) (close : Nat) : c.hostSideKept (c.laneRan g j r close) := by
  unfold Chip.laneRan
  exact .trans (.trans (.trans setGroup fieldUp) fieldUp) (.ite (refl _) (count _ _ _))

theorem runEdges (c : Chip) (g j : Nat) (move : Int) (uis : List (Nat × PinState)) :
    c.hostSideKept (c.runEdges g j move uis) := laneRan c _ _ _ _

theorem runClock (c : Chip) (g : Nat) (starts : List Nat) : c.hostSideKept (c.runClock g starts) := laneRan c _ _ _ _

theorem endEdges (c : Chip) (g j fine : Nat) (s : PinState) : c.hostSideKept (c.endEdges g j fine s) := laneRan c _ _ _ _

theorem keepClock (c : Chip) (g : Nat) : c.hostSideKept (c.keepClock g) := by
  unfold Chip.keepClock
  exact .ite setGroup (refl c)

theorem safeState (c : Chip) (g fine : Nat) : c.hostSideKept (c.safeState g fine) := by
  unfold Chip.safeState
  exact .trans (.trans (.foldl (fun c j => endEdges c g j fine _) _ _) (endEdges _ _ _ _ _)) (keepClock _ g)

/-! ### TDCs (R214, R220 to R226) -/

theorem shotRec (c : Chip) (p : Nat) (t : Tdc) (noStop atRes : Bool) (res : Int) :
    c.hostSideKept (c.shotRec p t noStop atRes res) := by
  obtain ⟨l, m, k, q, h⟩ := c.shotRec_shape p t noStop atRes res
  rw [h]
  exact of_eq rfl

theorem tdcAutoSnap (c : Chip) (p : Nat) : c.hostSideKept (c.tdcAutoSnap p) := by
  obtain ⟨b, w, h⟩ := c.tdcAutoSnap_shape p
  rw [h]
  exact of_eq rfl

theorem tdcOpen (c : Chip) (p : Nat) (keep : Bool) : c.hostSideKept (c.tdcOpen p keep) := of_eq rfl

theorem tdcShot (c : Chip) (p : Nat) : c.hostSideKept (c.tdcShot p) := by
  unfold Chip.tdcShot
  refine .ite (refl c) (.ite setTdc ?_)
  exact .trans (.trans setTdc (.ite (tdcAutoSnap _ p) (refl _))) (raise _ _ _ _ _ _)

theorem tdcNoStop (c : Chip) (p : Nat) (shot : Bool) : c.hostSideKept (c.tdcNoStop p shot) := by
  unfold Chip.tdcNoStop
  refine .trans ?_ (.ite (tdcShot _ p) (refl _))
  exact .trans (.trans (.trans (.trans (.trans ledSub ledAdd) setTdc) setReg64) (shotRec _ _ _ _ _ _)) setTdc

theorem tdcResult (c : Chip) (p : Nat) : c.hostSideKept (tdcResult p c) := by
  unfold Machine.tdcResult
  extract_lets +onlyGivenNames t
  split
  · exact refl c
  · refine .trans ?_ (tdcShot _ p)
    refine .trans ?_ setTdc
    refine .trans ?_ (shotRec _ _ _ _ _ _)
    refine .trans ?_ setReg64
    exact .trans (.trans setTdc (.ite cntUp (refl _))) (.ite setField (refl _))

theorem tdcArm (c : Chip) (p n plan : Nat) (e : List Byte) : c.hostSideKept (c.tdcArm p n plan e) := by
  unfold Chip.tdcArm
  refine .trans ?_ (tdcOpen _ p false)
  refine .trans ?_ setTdc
  refine .ite (.trans (.trans (tdcResult c p) (.ite (tdcNoStop _ p false) (refl _))) cntUp) (tdcResult c p)

theorem tdcBurstEnd (c : Chip) (n : Nat) : c.hostSideKept (c.tdcBurstEnd n) := by
  unfold Chip.tdcBurstEnd
  refine .foldl (fun c p => ?_) _ _
  exact .ite (.trans (.ite (tdcNoStop c p false) (refl c)) setTdc) (refl c)

/-! ### Converters (R234 to R240) -/

theorem clearAccs (c : Chip) (us : List Nat) : c.hostSideKept (c.clearAccs us) := .foldl (fun _ _ => setAcc) us c

theorem adcStart (c : Chip) (p : List Byte) (index src : Nat) (task : Option Nat) :
    c.hostSideKept (c.adcStart p index src task) := by
  unfold Chip.adcStart
  refine .ite (.trans (.trans cntUp (count _ _ _)) (raise _ _ _ _ _ _)) ?_
  exact .trans setConv (.ite (clearAccs _ _) (refl _))

theorem adcArmPlan (c : Chip) (p : List Byte) (index : Nat) (task : Option Nat) :
    c.hostSideKept (c.adcArmPlan p index task) := by
  unfold Chip.adcArmPlan
  refine .trans (.ite (clearAccs c _) (refl c)) (.ite setXcmp ?_)
  exact .trans setConv (adcStart _ _ _ _ _)

theorem adcWord (c : Chip) (src n index : Nat) : c.hostSideKept (c.adcWord src n index) := by
  unfold Chip.adcWord
  exact .ite (breach _ _ _ _) (.ite (adcStart _ _ _ _ _) (adcArmPlan _ _ _ _))

theorem adcBurstEnd (c : Chip) (n : Nat) : c.hostSideKept (c.adcBurstEnd n) := by
  unfold Chip.adcBurstEnd
  refine .trans (.foldl (fun _ _ => setConv) _ _) (.foldl (fun c x => ?_) _ _)
  split
  · exact .ite setXcmp (refl c)
  · exact refl c

/-! ### Flags and conditions (R116, R123) -/

theorem pushView (c : Chip) (n seen at0 : Nat) (set clr : Dword) : c.hostSideKept (c.pushView n seen at0 set clr) := setCtx

theorem sbClear (c : Chip) (n e : Nat) : c.hostSideKept (c.sbClear n e) := by
  unfold Chip.sbClear
  exact .ite (refl c) setField

theorem jcond (c : Chip) (x : Group) (n start : Nat) (w : SeqWord) : c.hostSideKept (c.jcond x n start w).2 := by
  unfold Chip.jcond
  exact .ite_snd (.foldl (fun c e => sbClear c _ e) _ _) (refl c)

/-! ### The end of a burst (R63, R130, R131, R134) -/

theorem endTask (c : Chip) (n : Nat) : c.hostSideKept (c.endTask n) := by
  unfold Chip.endTask
  refine .ite ?_ (refl c)
  exact .trans (.trans (tdcBurstEnd c n) (adcBurstEnd _ n)) (.ite (refl _) (.trans setCtx (raise _ _ _ _ _ _)))

theorem pauseEnd (c : Chip) (g fine : Nat) : c.hostSideKept (c.pauseEnd g fine) := by
  unfold Chip.pauseEnd
  exact .ite (.trans setReg64 setField) (refl c)

theorem chkStop (c : Chip) (g : Nat) : c.hostSideKept (c.chkStop g) := by
  unfold Chip.chkStop
  refine .trans (.foldl (fun c j => ?_) _ _) setGroup
  exact .trans (settings (Chip.settingsOnly_chkLost c _)) setField

theorem endGroup (c : Chip) (g cause fine : Nat) : c.hostSideKept (c.endGroup g cause fine) := by
  unfold Chip.endGroup
  extract_lets +onlyGivenNames x
  split
  · exact refl c
  · refine .ite (refl c) ?_
    refine .trans ?_ (endTask _ _)
    refine .trans ?_ setGroup
    refine .trans ?_ (dropRing _ g)
    refine .trans ?_ setGroup
    exact .trans (.trans (pauseEnd c g fine) (safeState _ g fine)) (.ite (chkStop _ g) (refl _))

theorem endPeers (c : Chip) (n g cause fine : Nat) : c.hostSideKept (c.endPeers n g cause fine) := by
  unfold Chip.endPeers
  refine .foldl (fun c h => ?_) _ _
  exact .ite (refl c) (.ite (endGroup c h cause fine) (.ite setGroup (refl c)))

theorem underrunAt (c : Chip) (g n fine : Nat) (w : Walk) (pos : Nat) : c.hostSideKept (c.underrunAt g n fine w pos) := by
  unfold Chip.underrunAt
  refine .trans ?_ (endPeers _ _ _ _ _)
  refine .trans ?_ (endGroup _ _ _ _)
  refine .trans ?_ (raiseErr _ _ _ _ _ _)
  refine .trans ?_ (.foldl (fun _ _ => setReg) _ _)
  exact .trans (.trans (.trans (.trans setReg64 setReg) setReg) setReg) setReg

theorem faultAt (c : Chip) (g n fine : Nat) : c.hostSideKept (c.faultAt g n fine) := by
  unfold Chip.faultAt
  exact .trans (.trans (raiseErr _ _ _ _ _ _) (endGroup _ _ _ _)) (endPeers _ _ _ _ _)

theorem pause (c : Chip) (g st fine : Nat) : c.hostSideKept (c.pause g st fine) := setGroup.trans (count _ _ _)

/-! ### Frames (R52 to R90, R106 to R125) -/

theorem sourceBits (c : Chip) (g : Nat) : c.hostSideKept (c.sourceBits g).2 := by
  unfold Chip.sourceBits
  refine foldl_snd ?_ _ _
  intro a j
  extract_lets +onlyGivenNames d p k x s
  split
  · exact refl d
  · extract_lets +onlyGivenNames r d'
    dsimp only
    exact .trans (d := d') setGroup (.ite (refl d') fieldUp)

theorem armWord (c : Chip) (g n : Nat) (w : SeqWord) : c.hostSideKept (c.armWord g n w) := by
  unfold Chip.armWord
  exact .ite (.foldl (fun c p => tdcArm c p _ _ _) _ _) (breach _ _ _ _)

theorem playFrame (c : Chip) (g n bound : Nat) (w : Walk) (pos : Nat) (word : Option SeqWord) (bytes : List Byte) :
    c.hostSideKept (c.playFrame g n bound w pos word bytes) := by
  unfold Chip.playFrame
  extract_lets +onlyGivenNames x s op arg tgood tset pa per ui start t time modes r x1 was x2 x3 c1 c2 src c3 starts c4 c5
  have hstart : c.hostSideKept c2 := .trans (.trans setGroup (count _ _ _)) (.ite (chkStop _ g) (refl _))
  have hsrc : c2.hostSideKept c3 := .ite_snd (p := s.enc = 3) (sourceBits c2 g) (refl c2)
  have hedges : c3.hostSideKept c4 := .foldl (fun c j => runEdges c g j _ _) _ _
  have hclock : c4.hostSideKept c5 := by
    unfold c5
    split
    · exact runClock c4 g starts
    · exact runEdges c4 g 8 _ _
    · exact refl c4
  refine .trans (.trans (.trans (.trans hstart hsrc) hedges) hclock) ?_
  clear_value c5 op r x3 start
  split
  · exact refl c5
  · rename_i y
    have hraise : c5.hostSideKept
        (if y.flags % 2 = 1 then c5.raise (srcSeq g) 0x8020 [] none (w.pc + r.num * 2 ^ 16) else c5) :=
      .ite (raise c5 _ _ _ _ _) (refl c5)
    refine hraise.trans ?_
    generalize (if y.flags % 2 = 1 then c5.raise (srcSeq g) 0x8020 [] none (w.pc + r.num * 2 ^ 16) else c5) = c6
    split
    · exact armWord c6 g n y
    · exact adcWord c6 _ n y.id
    · exact .trans (pushView c6 n _ _ _ _) (raise _ _ _ _ _ _)
    · exact refl c6

theorem takeJump (c : Chip) (g target : Nat) (abandon : Bool) : c.hostSideKept (c.takeJump g target abandon) := by
  unfold Chip.takeJump
  refine .trans (.trans (.trans setGroup cntUp) (count _ _ _)) (.ite ?_ (refl _))
  exact .trans (.trans (dropRing _ g) setGroup) (pump _ g)

theorem nextFrame (c : Chip) (g n bound : Nat) (again : Bool) (h : Happen) :
    c.hostSideKept (c.nextFrame g n bound again h).2 := by
  unfold Chip.nextFrame
  extract_lets +onlyGivenNames x w0 fresh w1 s fr w pos k c1 c2 x2 ahead c3 peer
  have hlead : c.hostSideKept c3 := by
    refine .trans (.trans (pump c g) (.ite (leaveLines _ _ _ _) (leaveLines _ _ _ _))) (.ite (refl _) (judgeLead _ _ _ _))
  refine hlead.trans ?_
  split
  · exact .ite_snd (.trans (.trans (pause c3 g 4 bound) cntUp) setField) (underrunAt c3 g n bound w pos)
  · exact underrunAt c3 g n bound w pos
  · refine .ite_snd (endGroup c3 g _ bound) ?_
    exact .trans (.trans (.ite (.trans cntUp (count _ _ _)) (refl c3)) (playFrame _ g n bound w pos _ _)) (pump _ g)

theorem holdClock (g : Nat) : ∀ (n ui : Nat) (c : Chip), c.hostSideKept (c.holdClock g ui n)
  | 0, _, c => refl c
  | n + 1, ui, c => (runClock c g _).trans (holdClock g n (ui + 64) _)

theorem holdFrames (c : Chip) (g n : Nat) : c.hostSideKept (c.holdFrames g n) := by
  unfold Chip.holdFrames
  refine .trans ?_ (.ite (refl _) (count _ _ _))
  exact .trans (.trans (.ite (holdClock g n _ c) (refl c)) setGroup) setReg64

/-! ### Boundaries (R106 to R134) -/

theorem beat (c : Chip) (g : Nat) : c.hostSideKept (c.beat g).2 := by
  unfold Chip.beat
  extract_lets +onlyGivenNames x
  split
  · exact refl c
  · rename_i n _
    refine .ite_snd (refl c) ?_
    refine .trans (advanceTo c (x.epoch + uiStart (c.period g x.pa) x.ui / 512)) ?_
    refine .ite_snd (faultAt _ g n _) (.ite_snd (endGroup _ g _ _) (.ite_snd (endGroup _ g 1 _)
      (.ite_snd (endGroup _ g _ _) ?_)))
    generalize c.advanceTo (x.epoch + uiStart (c.period g x.pa) x.ui / 512) = c1
    split
    · exact .trans (takeJump c1 g _ false) (nextFrame _ g n _ false _)
    · refine .trans (jcond c1 x n _ _) (.ite_snd (.trans (takeJump _ g _ true) (nextFrame _ g n _ false _)) ?_)
      generalize (c1.jcond x n (c1.frameStart g) (x.word x.walk.pc)).2 = c2
      refine .ite_snd (.ite_snd (endGroup c2 g _ _) ?_) ?_
      · split
        · exact .trans (playFrame c2 g n _ _ _ _ _) setGroup
        · exact underrunAt c2 g n _ _ _
      · refine .trans setGroup (.ite_snd ?_ (nextFrame _ g n _ false _))
        exact .trans cntUp (nextFrame _ g n _ false _)
    · refine .ite_snd (.trans setGroup (nextFrame _ g n _ false _)) ?_
      exact .ite_snd (endGroup c1 g _ _) (pause c1 g 3 _)
    · refine .ite_snd (.trans setGroup (nextFrame _ g n _ false _)) (.ite_snd ?_ ?_)
      · refine .trans ?_ (nextFrame _ g n _ false _)
        exact .trans (.trans (.trans (advanceTo c1 _) setGroup) cntUp) (raiseErr _ _ _ _ _ _)
      · exact .ite_snd (endGroup c1 g _ _) (holdFrames c1 g 1)
    · exact nextFrame c1 g n _ false _

theorem turn (c : Chip) (g : Nat) : c.hostSideKept (c.turn g).2 := (holdFrames c g _).trans (beat _ g)

theorem peerEnds (c : Chip) (h : Nat) : c.hostSideKept (c.peerEnds h) := .ite (turn c h) (refl c)

theorem boundary (c : Chip) (g : Nat) : c.hostSideKept (c.boundary g).2 := by
  unfold Chip.boundary
  split
  · exact refl c
  · refine .ite_snd (refl c) (.ite_snd (refl c) ?_)
    exact .trans (.foldl (fun c h => peerEnds c h) _ _) (beat _ g)

theorem resume (c : Chip) (g fine : Nat) (again : Bool) : c.hostSideKept (c.resume g fine again).2 := by
  unfold Chip.resume
  extract_lets +onlyGivenNames x
  split
  · exact refl c
  · extract_lets +onlyGivenNames per ui start c1 y c2
    have hstart : c.hostSideKept c2 := .trans (.trans (advanceTo c _) (pauseEnd _ g _)) setGroup
    refine hstart.trans ?_
    exact .ite_snd (faultAt _ g _ _) (nextFrame _ g _ _ again _)

/-! ### Rows (R105 to R135) -/

theorem wordRow (c : Chip) (g op : Nat) : c.hostSideKept (c.wordRow g op) := .ite (boundary c g) (refl c)

theorem beatRow (c : Chip) (g : Nat) (p : Happen → Bool) : c.hostSideKept (c.beatRow g p) := .ite (boundary c g) (refl c)

theorem progFault (c : Chip) (g : Nat) (parity : Bool) : c.hostSideKept (progFault g parity c) := by
  unfold Machine.progFault
  extract_lets +onlyGivenNames x
  split
  · exact refl c
  · refine .ite (refl c) ?_
    refine .trans (.trans (.ite (boundary c g) (refl c)) (.ite (refl _) setGroup)) (.ite (refl _) (boundary _ g))

theorem seqFault (c : Chip) (g : Nat) (parity : ParityAt) : c.hostSideKept (seqFault g parity c) := by
  cases parity with
  | nowhere => exact progFault c g false
  | program => exact progFault c g true
  | block b => exact raiseErr c _ _ _ _ _

theorem holdTo (c : Chip) (g : Nat) : c.hostSideKept (c.holdTo g).2 := (holdFrames c g _).trans (boundary _ g)

theorem syncHoldEnd (c : Chip) (g : Nat) : c.hostSideKept (syncHoldEnd g c) :=
  .ite (.ite (holdTo c g) (refl c)) (refl c)

theorem syncTimeout (c : Chip) (g : Nat) : c.hostSideKept (syncTimeout g c) :=
  .ite (.ite (holdTo c g) (refl c)) (refl c)

theorem waitfResume (c : Chip) (g : Nat) : c.hostSideKept (waitfResume g c) := by
  unfold Machine.waitfResume
  extract_lets +onlyGivenNames x
  split
  · refine .ite ?_ (refl c)
    split
    · exact resume c g _ false
    · exact refl c
  · exact refl c

theorem waitTimeout (c : Chip) (g : Nat) : c.hostSideKept (waitTimeout g c) := by
  unfold Machine.waitTimeout
  refine .ite (.trans ?_ (resume _ g _ false)) (refl c)
  exact .trans (.trans (advanceTo c _) cntUp) (raise _ _ _ _ _ _)

theorem stallResume (c : Chip) (g : Nat) : c.hostSideKept (stallResume g c) :=
  .ite (.ite (refl c) (resume c g _ true)) (refl c)

end Chip.hostSideKept

end Sys2Proof.Machine
end

section
/-! SUPPORT. Burst frames: what lane-mode happenings, filled lines and compare results leave of the host's side and of
registers, and the obligation of burst frames. -/

namespace Sys2Proof.Machine

/-! ### The host's side -/

namespace Chip.hostSideKept

theorem setChk {c : Chip} {p : Nat} {k : ChkSt} : c.hostSideKept (c.setChk p k) := setGroup

theorem fckLock (c : Chip) (g : Nat) (phases : List Int) : c.hostSideKept (fckLock g phases c) := by
  unfold Machine.fckLock
  exact .ite setGroup (refl c)

theorem fckUnlock (c : Chip) (g : Nat) (phases : List Int) : c.hostSideKept (fckUnlock g phases c) := by
  unfold Machine.fckUnlock
  exact .ite (.trans (.trans setGroup (guardReject _)) (raiseErr _ _ _ _ _ _)) (refl c)

theorem checkerSync (c : Chip) (p : Nat) : c.hostSideKept (checkerSync p c) := .ite setField (refl c)

theorem checkerSyncLost (c : Chip) (p : Nat) : c.hostSideKept (checkerSyncLost p c) :=
  settings (Chip.settingsOnly_chkLost c p)

theorem deskewed (c : Chip) (g : Nat) (es : List (Nat × Nat)) : c.hostSideKept (c.deskewed g es) :=
  .foldl (fun _ _ => .trans setField setField) es c

theorem deskew (c : Chip) (g p : Nat) : c.hostSideKept (c.deskew g p) := by
  obtain h | ⟨x, y, es, -, h⟩ | ⟨x, detail, task, h⟩ := c.deskew_cases g p
  · rw [h]
    exact refl c
  · rw [h]
    exact .trans (.trans setGroup (deskewed _ g es)) setGroup
  · rw [h]
    exact .trans (.trans setGroup (guardReject _)) (raiseErr _ _ _ _ _ _)

theorem laneMarkerReceived (c : Chip) (p num arrival : Nat) : c.hostSideKept (laneMarkerReceived p num arrival c) := by
  unfold Machine.laneMarkerReceived
  refine .ite (refl c) (.trans setField (.ite fieldUp (.trans setField (.ite ?_ (refl _)))))
  exact .trans setChk (deskew _ _ p)

theorem markerTimeout (c : Chip) (p : Nat) : c.hostSideKept (markerTimeout p c) := by
  unfold Machine.markerTimeout
  refine .ite (refl c) (.ite ?_ (.ite setField (refl c)))
  exact .trans (.trans (.trans setGroup setField) (guardReject _)) (raiseErr _ _ _ _ _ _)

end Chip.hostSideKept

/-! ### Registers of lane-mode happenings (R67, R74 to R79) -/

theorem reg_fckLock (g : Nat) (phases : List Int) (c : Chip) (a : Nat) : (fckLock g phases c).reg a = c.reg a := by
  unfold fckLock
  simp only
  split <;> rfl

theorem reg_fckUnlock (g : Nat) (phases : List Int) (c : Chip) (a : Nat) : (fckUnlock g phases c).reg a = c.reg a := by
  unfold fckUnlock
  simp only
  split
  · rw [Chip.reg_raiseErr, Chip.reg_guardReject, Chip.reg_setGroup]
  · rfl

theorem groupRegs_pin (p : Nat) {o : Nat} (ho : o < 0x800) : groupRegs (p / 8) (pinB p + o) := by
  unfold groupRegs pinB
  omega

theorem ne_pinB {p a o : Nat} (h : ¬ groupRegs (p / 8) a) (ho : o < 0x800) : pinB p + o ≠ a := fun e =>
  h (e ▸ groupRegs_pin p ho)

theorem reg_checkerSync (p : Nat) (c : Chip) {a : Nat} (h : ¬ groupRegs (p / 8) a) : (checkerSync p c).reg a = c.reg a :=
  (Chip.resultsOnly.chkSynced (W := groupRegs (p / 8)) (g := 0) c p (groupRegs_pin p (by decide))).reg a h

theorem reg_checkerSyncLost (p : Nat) (c : Chip) {a : Nat} (h : ¬ groupRegs (p / 8) a) :
    (checkerSyncLost p c).reg a = c.reg a :=
  (Chip.resultsOnly.chkLost (W := groupRegs (p / 8)) c p rfl (groupRegs_pin p (by decide))).reg a h

theorem reg_laneMarkerReceived (p num arrival : Nat) (c : Chip) {a : Nat} (h : ¬ groupRegs (p / 8) a) :
    (laneMarkerReceived p num arrival c).reg a = c.reg a := by
  have hs : a ≠ chkStatus p := (ne_pinB h (by decide)).symm
  have hcount : (c.markerCounted p).reg a = c.reg a := Chip.reg_setField_other _ _ _ _ (ne_pinB h (by decide)).symm
  by_cases hh : c.hearsMarkers p
  · obtain ⟨-, e⟩ | ⟨-, e | ⟨k, e⟩⟩ := laneMarkerReceived_heard p num arrival c hh
    · rw [e, Chip.fieldUp, Chip.reg_setField_other _ _ _ _ hs, hcount]
    · rw [e, Chip.reg_setField_other _ _ _ _ hs, hcount]
    · rw [e, Chip.reg_deskew _ _ _ (fun j hj => ?_), Chip.reg_setChk, Chip.reg_setField_other _ _ _ _ hs, hcount]
      refine (ne_pinB ?_ (by decide)).symm
      rwa [show (8 * (p / 8) + j) / 8 = p / 8 by omega]
  · rw [laneMarkerReceived_unheard p num arrival c hh]

theorem reg_markerTimeout (p : Nat) (c : Chip) {a : Nat} (h : ¬ groupRegs (p / 8) a) :
    (markerTimeout p c).reg a = c.reg a := by
  have hs : a ≠ chkStatus p := (ne_pinB h (by decide)).symm
  unfold markerTimeout
  simp only
  split
  · rfl
  · split
    · rw [Chip.reg_raiseErr, Chip.reg_guardReject, Chip.reg_setField_other _ _ _ _ hs, Chip.reg_setGroup]
    · split
      · exact Chip.reg_setField_other _ _ _ _ hs
      · rfl

/-! ### Registers of a filled line (R98, R290) -/

theorem Chip.reg_memReq (c : Chip) (cls : SlotClass) (r : Req) {a : Nat} (h : a ≠ 0x00300020) (h' : a ≠ 0x0030001C) :
    (c.memReq cls r).reg a = c.reg a := Chip.reg_memTouch c h h'

theorem Chip.reg_pump (c : Chip) (g : Nat) {a : Nat} (h : a ≠ 0x00300020) (h' : a ≠ 0x0030001C) :
    (c.pump g).reg a = c.reg a := by
  have go : ∀ (f : Nat) (c : Chip), (Chip.pump.go g f c).reg a = c.reg a := by
    intro f
    induction f with
    | zero => exact fun _ => rfl
    | succ f ih =>
      intro c
      unfold Chip.pump.go
      simp only
      split
      · rfl
      · split
        · rfl
        · split
          · rw [ih, Chip.reg_memReq _ _ _ h h', Chip.reg_setGroup]
          · rw [ih, Chip.reg_memReq _ _ _ h h', Chip.reg_setGroup]
          · rfl
  exact go 256 c

theorem Chip.reg_lineFilled (c : Chip) (g i : Nat) (bad : Bool) (data : List Byte) {a : Nat} (hg : ¬ groupRegs g a)
    (h : a ≠ 0x00300020) (h' : a ≠ 0x0030001C) : (c.lineFilled g i bad data).reg a = c.reg a := by
  have ha : a ≠ firnB g + 4 := fun e => hg (by unfold groupRegs; unfold firnB grpB at e; omega)
  unfold Chip.lineFilled
  simp only
  rw [Chip.reg_pump _ _ h h', Chip.firnFilling, Chip.reg_setField_other _ _ _ _ ha]
  split <;> simp

theorem Chip.reg_fillArrived (c : Chip) (g : Nat) {a : Nat} (hg : ¬ groupRegs g a) (h : a ≠ 0x00300020)
    (h' : a ≠ 0x0030001C) : (c.fillArrived g).reg a = c.reg a := by
  unfold Chip.fillArrived
  simp only
  split
  · rw [Chip.reg_lineFilled _ _ _ _ _ hg h h', Chip.reg_setGroup]
  · rfl

/-- A line that has reached Firn is READY at once: no slot runs. -/
theorem firnLineFilled_arrived (g : Nat) (d : Memory) (c : Chip) (h : (c.group g).arrived ≠ []) :
    firnLineFilled g d c = (d, c.fillArrived g) := by
  unfold firnLineFilled
  exact if_pos (bne_iff_ne.2 h)

/-! ### Compare results (R189) -/

theorem compareResults_unended (g : Nat) (obs : List LaneObs) (c : Chip) (r : FrameRec) (rs : List FrameRec)
    (hp : (c.group g).pipe = r :: rs) (he : (c.group g).st = 1 ∧ (c.group g).frame ≤ r.num + 1) :
    compareResults g obs c = c := by
  unfold compareResults
  extract_lets +onlyGivenNames x
  split
  · rename_i n' r' rs' ho' hp'
    obtain ⟨rfl, rfl⟩ := List.cons.inj (hp.symm.trans hp')
    exact if_pos he
  · rfl

/-- Whether or not a frame's results complete, they reach nothing on the host's side, and no register beside the group's,
Moraine's and the check-value units'. -/
theorem compareResults_kept (g : Nat) (obs : List LaneObs) (c : Chip) (hg : g < 12) :
    c.hostSideKept (compareResults g obs c) ∧ ∀ a, ¬ frameRegs g a → (compareResults g obs c).reg a = c.reg a := by
  have same : ∀ {d : Chip}, d = c → c.hostSideKept d ∧ ∀ a, ¬ frameRegs g a → d.reg a = c.reg a := by
    rintro _ rfl
    exact ⟨.refl _, fun _ _ => rfl⟩
  cases ho : (c.group g).owner with
  | none => exact same (compareResults_waits g obs c (.inl ho))
  | some n =>
    cases hp : (c.group g).pipe with
    | nil => exact same (compareResults_waits g obs c (.inr (.inl hp)))
    | cons r rs =>
      by_cases he : (c.group g).st = 1 ∧ (c.group g).frame ≤ r.num + 1
      · exact same (compareResults_unended g obs c r rs hp he)
      · obtain ⟨-, -, hhost, -, hreg⟩ := compareResults_frame g n obs c r rs hg
        rw [compareResults_ended g n obs c r rs ho hp (by omega)]
        exact ⟨hhost, hreg⟩

/-! ### The obligation -/

/-- A row of the die that leaves the host's side alone leaves the LPDDR5X alone too. -/
theorem State.onChip_kept {s t : State} {f : Chip → Chip} (h : s.onChip f = .next t) (hf : s.chip.hostSideKept (f s.chip)) :
    t.dram = s.dram ∧ s.chip.hostSideKept t.chip := by
  cases h
  exact ⟨rfl, hf⟩

theorem State.onChip_reg {s t : State} {f : Chip → Chip} {a : Nat} (h : s.onChip f = .next t)
    (hf : (f s.chip).reg a = s.chip.reg a) : t.chip.reg a = s.chip.reg a := by
  cases h
  exact hf

/-- A line that has reached Firn changes the die alone. -/
theorem firnLineFilled_next {s t : State} {g : Grp} (h : execFirnLineFilled g s = .next t)
    (ha : (s.chip.group g).arrived ≠ []) : t = { s with chip := s.chip.fillArrived g } := by
  unfold execFirnLineFilled State.onBoth at h
  rw [firnLineFilled_arrived g s.dram s.chip ha] at h
  cases h
  rfl

/-- An address outside the pin groups is no register of a group. -/
theorem not_groupRegs {g a : Nat} (hg : g < 12) (h : a < 0x00100000 ∨ 0x001C0000 ≤ a) : ¬ groupRegs g a := by
  unfold groupRegs
  omega

/-- Settles O59: each row's happening leaves the host's side alone, operation by operation (`Chip.hostSideKept`), and the
registers that lane mode, filled lines and compare results write are those of the pin's group and `frameRegs`. -/
theorem burstFrame : Obligations.BurstFrame := by
  unfold Obligations.BurstFrame
  refine ⟨?host, ?regs⟩
  case host =>
    intro s t i hi hex
    cases i with
    | seg g | frames g | loop g | endl g | jmp g | jcond g | mode g | tset g | pslot g | armt g | adct g | setf g | waitf g
    | capm g | sync g | endWord g => exact State.onChip_kept hex (.wordRow _ g _)
    | jcondTimeout g | underrun g | stall g => exact State.onChip_kept hex (.beatRow _ g _)
    | waitfResume g => exact State.onChip_kept hex (.waitfResume _ g)
    | waitTimeout g => exact State.onChip_kept hex (.waitTimeout _ g)
    | syncHoldEnd g => exact State.onChip_kept hex (.syncHoldEnd _ g)
    | syncTimeout g => exact State.onChip_kept hex (.syncTimeout _ g)
    | frameBoundary g => exact State.onChip_kept hex (.boundary _ g)
    | stallResume g => exact State.onChip_kept hex (.stallResume _ g)
    | seqFault g parity => exact State.onChip_kept hex (.seqFault _ g parity)
    | compareResultsComplete g obs => exact State.onChip_kept hex (compareResults_kept g obs _ g.isLt).1
    | fckLock g ps => exact State.onChip_kept hex (.fckLock _ g ps)
    | fckUnlock g ps => exact State.onChip_kept hex (.fckUnlock _ g ps)
    | checkerSync p => exact State.onChip_kept hex (.checkerSync _ p)
    | checkerSyncLost p => exact State.onChip_kept hex (.checkerSyncLost _ p)
    | laneMarkerReceived p num at0 => exact State.onChip_kept hex (.laneMarkerReceived _ p _ at0)
    | markerTimeout p => exact State.onChip_kept hex (.markerTimeout _ p)
    | firnLineFilled g =>
      rw [firnLineFilled_next hex hi]
      exact ⟨rfl, .fillArrived _ g⟩
    | _ => exact hi.elim
  case regs =>
    intro s t i a hi ha hmor hcrc hlate habandon hex
    have hpin : ∀ p : Pin, ¬ groupRegs (p / 8) a := fun p => not_groupRegs (by omega) ha
    cases i with
    | compareResultsComplete g obs =>
      refine State.onChip_reg hex ((compareResults_kept g obs _ g.isLt).2 a ?_)
      exact fun h => h.elim (not_groupRegs g.isLt ha) fun h => h.elim hcrc hmor
    | fckLock g ps => exact State.onChip_reg hex (reg_fckLock g ps _ a)
    | fckUnlock g ps => exact State.onChip_reg hex (reg_fckUnlock g ps _ a)
    | checkerSync p => exact State.onChip_reg hex (reg_checkerSync p _ (hpin p))
    | checkerSyncLost p => exact State.onChip_reg hex (reg_checkerSyncLost p _ (hpin p))
    | laneMarkerReceived p num at0 => exact State.onChip_reg hex (reg_laneMarkerReceived p _ at0 _ (hpin p))
    | markerTimeout p => exact State.onChip_reg hex (reg_markerTimeout p _ (hpin p))
    | firnLineFilled g =>
      rw [firnLineFilled_next hex hi]
      exact Chip.reg_fillArrived _ g (not_groupRegs g.isLt ha) habandon hlate
    | _ => exact hi.elim

end Sys2Proof.Machine
end

section
/-! SUPPORT. Ring lines: what the fill engine leaves of a group's lines, and the obligation of lines whose data arrived. -/

namespace Sys2Proof.Machine

/-! ### The fill engine keeps the lines that are there (R98) -/

/-- The ring of y holds every line of x, at most with another count of the frames that it completes; what has reached Firn,
and what was abandoned, is the same. -/
structure Group.refilled (x y : Group) : Prop where
  arrived : y.arrived = x.arrived
  orphans : y.orphans = x.orphans
  lines : ∀ l ∈ x.ring, ∃ n, { l with count := n } ∈ y.ring

namespace Group.refilled

theorem refl (x : Group) : x.refilled x := ⟨rfl, rfl, fun l hl => ⟨l.count, hl⟩⟩

theorem trans {x y z : Group} (h : x.refilled y) (h' : y.refilled z) : x.refilled z where
  arrived := h'.arrived.trans h.arrived
  orphans := h'.orphans.trans h.orphans
  lines l hl := by
    obtain ⟨n, hn⟩ := h.lines l hl
    obtain ⟨m, hm⟩ := h'.lines _ hn
    exact ⟨m, hm⟩

/-- The engine's walk moved on. -/
theorem fill (x : Group) (f : Fill) : x.refilled { x with fill := f } := ⟨rfl, rfl, (refl x).lines⟩

/-- A line joined the ring. -/
theorem joined (x : Group) (f : Fill) (l : RingLine) : x.refilled { x with fill := f, ring := x.ring ++ [l] } :=
  ⟨rfl, rfl, fun k hk => ⟨k.count, List.mem_append_left _ hk⟩⟩

/-- Lines of the ring complete another count of frames. -/
theorem counted (x : Group) (f : Fill) (p : RingLine → Prop) [DecidablePred p] (n : RingLine → Nat) :
    x.refilled { x with fill := f, ring := x.ring.map fun l => if p l then { l with count := n l } else l } := by
  refine ⟨rfl, rfl, fun l hl => ?_⟩
  have hmem := List.mem_map_of_mem (f := fun l => if p l then { l with count := n l } else l) hl
  by_cases h : p l
  · exact ⟨n l, by simpa only [if_pos h] using hmem⟩
  · exact ⟨l.count, by simpa only [if_neg h] using hmem⟩

theorem fillStep (x : Group) : x.refilled x.fillStep.1 := by
  unfold Group.fillStep
  extract_lets +onlyGivenNames f w set
  split
  · exact refl x
  · split
    · extract_lets +onlyGivenNames prev
      split
      · exact fill x _
      · exact fill x _
    · extract_lets +onlyGivenNames s
      split
      · exact fill x _
      · split
        · exact fill x _
        · extract_lets +onlyGivenNames r k stop n last idx w'
          split
          · exact counted x _ _ _
          · split
            · exact joined x _ _
            · exact joined x _ _

theorem fillFind : ∀ (n : Nat) (x : Group), x.refilled (x.fillFind n).1
  | 0, x => refl x
  | n + 1, x => by
    unfold Group.fillFind
    extract_lets r
    split
    · exact (fillStep x).trans (fillFind n _)
    · exact fillStep x

theorem fillWalk : ∀ (n : Nat) (x : Group), x.refilled (x.fillWalk n)
  | 0, x => refl x
  | n + 1, x => by
    unfold Group.fillWalk
    extract_lets r
    split
    · exact (fillStep x).trans (fillWalk n _)
    · exact fillStep x
    · exact refl x

end Group.refilled

/-- The fill engine of group g moves on: no other group and no ledger changes. -/
structure Chip.refills (g : Nat) (c d : Chip) : Prop where
  group : (c.group g).refilled (d.group g)
  others : ∀ h, h ≠ g → d.group h = c.group h
  led : d.led = c.led

namespace Chip.refills

theorem refl (g : Nat) (c : Chip) : c.refills g c := ⟨.refl _, fun _ _ => rfl, rfl⟩

theorem trans {g : Nat} {c d e : Chip} (h : c.refills g d) (h' : d.refills g e) : c.refills g e :=
  ⟨h.group.trans h'.group, fun k hk => (h'.others k hk).trans (h.others k hk), h'.led.trans h.led⟩

theorem setGroup {g : Nat} {c : Chip} {x : Group} (h : (c.group g).refilled x) : c.refills g (c.setGroup g x) where
  group := by rwa [Chip.group_setGroup, if_pos rfl]
  others k hk := by rw [Chip.group_setGroup, if_neg hk]
  led := rfl

theorem memReq (g : Nat) (c : Chip) (cls : SlotClass) (r : Req) : c.refills g (c.memReq cls r) := by
  have hg := Chip.group_of_groups (c.memReq_groups cls r)
  exact ⟨hg g ▸ .refl _, fun k _ => hg k, c.memReq_led cls r⟩

theorem pump (g : Nat) (c : Chip) : c.refills g (c.pump g) := by
  have go : ∀ (n : Nat) (c : Chip), c.refills g (Chip.pump.go g n c) := by
    intro n
    induction n with
    | zero => exact refl g
    | succ n ih =>
      intro c
      unfold Chip.pump.go
      simp only
      split
      · exact refl g c
      · split
        · exact setGroup (.fillWalk _ _)
        · have hfind := setGroup (c := c) (Group.refilled.fillFind 8192 (c.group g))
          split
          · exact (hfind.trans (memReq g _ _ _)).trans (ih _)
          · exact (hfind.trans (memReq g _ _ _)).trans (ih _)
          · exact hfind
  exact go 256 c

end Chip.refills

/-! ### A line whose data arrived (R98, R119) -/

/-- Ring ledger i of a group is told from ledger j. -/
theorem ringLed_eq_iff {g i j : Nat} : ringLed g i = ringLed g j ↔ i = j := by
  unfold ringLed
  omega

@[simp] theorem Chip.ledger_ledMove (c : Chip) (a b n k : Nat) :
    (c.ledMove a b n).ledger k = if k = b then (c.ledSub a n).ledger b + BitVec.ofNat 64 n else (c.ledSub a n).ledger k :=
  Chip.ledger_ledAdd _ _ _ _

/-- Line i of the ring is READY with its data. -/
def Group.lineReady (x : Group) (i : Nat) (bad : Bool) (data : List Byte) : Group :=
  { x with ring := x.ring.map fun l => if l.id = i then { l with st := 2, bad := bad, data := data } else l }

theorem Group.mem_lineReady (x : Group) {i : Nat} (bad : Bool) (data : List Byte) {l : RingLine} (hl : l ∈ x.ring)
    (h : l.id = i) : { l with st := 2, bad := bad, data := data } ∈ (x.lineReady i bad data).ring := by
  have hmem := List.mem_map_of_mem
    (f := fun l : RingLine => if l.id = i then { l with st := 2, bad := bad, data := data } else l) hl
  rwa [if_pos h] at hmem

/-- Line i of group g's ring is READY, before the engine moves on. -/
def Chip.lineReady (c : Chip) (g i : Nat) (bad : Bool) (data : List Byte) : Chip :=
  ((((c.ledAdd (ringLed g 3)).count (16 * g + 9)).setGroup g ((c.group g).lineReady i bad data)).ledMove
    (ringLed g 1) (ringLed g 2)).firnFilling g

/-- The abandoned line i of group g is discarded, before the engine moves on. -/
def Chip.lineDiscarded (c : Chip) (g i : Nat) : Chip :=
  ((((((c.ledAdd (ringLed g 3)).count (16 * g + 9)).setGroup g
    { c.group g with orphans := (c.group g).orphans.erase i }).ledMove (ringLed g 1) (ringLed g 0)).ledAdd
      (ringLed g 5)).count (16 * g + 10)).firnFilling g

theorem Chip.group_counted (c : Chip) (g : Nat) :
    ((c.ledAdd (ringLed g 3)).count (16 * g + 9)).group g = c.group g :=
  Chip.group_of_groups (Chip.count_groups _ _ _) g

theorem Chip.lineFilled_ready (c : Chip) (g i : Nat) (bad : Bool) (data : List Byte) (h : i ∉ (c.group g).orphans) :
    c.lineFilled g i bad data = (c.lineReady g i bad data).pump g := by
  unfold Chip.lineFilled Chip.lineReady
  simp only [Chip.group_counted]
  rw [if_neg (by simpa using h)]
  rfl

theorem Chip.lineFilled_discarded (c : Chip) (g i : Nat) (bad : Bool) (data : List Byte) (h : i ∈ (c.group g).orphans) :
    c.lineFilled g i bad data = (c.lineDiscarded g i).pump g := by
  unfold Chip.lineFilled Chip.lineDiscarded
  simp only [Chip.group_counted]
  rw [if_pos (by simpa using h)]

theorem Chip.group_lineReady (c : Chip) (g i k : Nat) (bad : Bool) (data : List Byte) :
    (c.lineReady g i bad data).group k = if k = g then (c.group g).lineReady i bad data else c.group k := by
  have hgroups : (c.lineReady g i bad data).groups = (c.setGroup g ((c.group g).lineReady i bad data)).groups := by
    simp [Chip.lineReady, Chip.firnFilling, Chip.setGroup]
  exact (Chip.group_of_groups hgroups k).trans (Chip.group_setGroup _ _ _ _)

theorem Chip.group_lineDiscarded (c : Chip) (g i : Nat) :
    (c.lineDiscarded g i).group g = { c.group g with orphans := (c.group g).orphans.erase i } := by
  have hgroups : (c.lineDiscarded g i).groups =
      (c.setGroup g { c.group g with orphans := (c.group g).orphans.erase i }).groups := by
    simp [Chip.lineDiscarded, Chip.firnFilling, Chip.setGroup]
  rw [Chip.group_of_groups hgroups, Chip.group_setGroup, if_pos rfl]

@[simp] theorem Chip.ledger_setGroup (c : Chip) (g a : Nat) (x : Group) : (c.setGroup g x).ledger a = c.ledger a := rfl
@[simp] theorem Chip.ledger_firnFilling (c : Chip) (g a : Nat) : (c.firnFilling g).ledger a = c.ledger a := rfl

/-- FILLED and READY are one more, IN_FILL one less (R98). -/
theorem Chip.ledger_lineReady (c : Chip) (g i : Nat) (bad : Bool) (data : List Byte) :
    (c.lineReady g i bad data).ledger (ringLed g 1) = c.ledger (ringLed g 1) - 1 ∧
    (c.lineReady g i bad data).ledger (ringLed g 2) = c.ledger (ringLed g 2) + 1 ∧
    (c.lineReady g i bad data).ledger (ringLed g 3) = c.ledger (ringLed g 3) + 1 := by
  simp [Chip.lineReady, Chip.ledger_ledAdd, Chip.ledger_ledSub, ringLed_eq_iff]

/-- FILLED, FREE and DISCARDED are one more, IN_FILL one less (R98, R100). -/
theorem Chip.ledger_lineDiscarded (c : Chip) (g i : Nat) :
    (c.lineDiscarded g i).ledger (ringLed g 0) = c.ledger (ringLed g 0) + 1 ∧
    (c.lineDiscarded g i).ledger (ringLed g 1) = c.ledger (ringLed g 1) - 1 ∧
    (c.lineDiscarded g i).ledger (ringLed g 3) = c.ledger (ringLed g 3) + 1 ∧
    (c.lineDiscarded g i).ledger (ringLed g 5) = c.ledger (ringLed g 5) + 1 := by
  simp [Chip.lineDiscarded, Chip.ledger_ledAdd, Chip.ledger_ledSub, ringLed_eq_iff]

/-- A line of the ring is READY, whatever the engine then asks for (R98). -/
theorem Chip.lineFilled_ready_spec (c : Chip) (g i : Nat) (bad : Bool) (data : List Byte) (h : i ∉ (c.group g).orphans) :
    ((c.lineFilled g i bad data).group g).arrived = (c.group g).arrived ∧
    (∀ l ∈ (c.group g).ring, l.id = i → ∃ m ∈ ((c.lineFilled g i bad data).group g).ring,
      m.id = i ∧ m.st = 2 ∧ m.bad = bad ∧ m.data = data ∧ m.idx = l.idx ∧ m.play = l.play) ∧
    (∀ a, (c.lineFilled g i bad data).ledger a = (c.lineReady g i bad data).ledger a) ∧
    ∀ k, k ≠ g → (c.lineFilled g i bad data).group k = c.group k := by
  obtain ⟨⟨harr, -, hlines⟩, hothers, hled⟩ := Chip.refills.pump g (c.lineReady g i bad data)
  rw [Chip.group_lineReady, if_pos rfl] at harr hlines
  rw [c.lineFilled_ready g i bad data h]
  refine ⟨harr, fun l hl hid => ?_, Chip.ledger_of_led hled, fun k hk => ?_⟩
  · obtain ⟨n, hn⟩ := hlines _ (Group.mem_lineReady _ bad data hl hid)
    exact ⟨_, hn, hid, rfl, rfl, rfl, rfl, rfl⟩
  · rw [hothers k hk, Chip.group_lineReady, if_neg hk]

/-- An abandoned line is discarded, whatever the engine then asks for (R119). -/
theorem Chip.lineFilled_discarded_spec (c : Chip) (g i : Nat) (bad : Bool) (data : List Byte)
    (h : i ∈ (c.group g).orphans) :
    ((c.lineFilled g i bad data).group g).arrived = (c.group g).arrived ∧
    ((c.lineFilled g i bad data).group g).orphans = (c.group g).orphans.erase i ∧
    ∀ a, (c.lineFilled g i bad data).ledger a = (c.lineDiscarded g i).ledger a := by
  obtain ⟨⟨harr, horph, -⟩, -, hled⟩ := Chip.refills.pump g (c.lineDiscarded g i)
  rw [Chip.group_lineDiscarded] at harr horph
  rw [c.lineFilled_discarded g i bad data h]
  exact ⟨harr, horph, Chip.ledger_of_led hled⟩

/-! ### FIRN_LINE_FILLED -/

/-- The oldest line that reached group g's Firn is taken from what has arrived. -/
def Chip.oldestTaken (c : Chip) (g : Nat) (rest : List (Nat × Bool × List Byte)) : Chip :=
  c.setGroup g { c.group g with arrived := rest }

theorem Chip.group_oldestTaken_same (c : Chip) (g : Nat) (rest : List (Nat × Bool × List Byte)) :
    (c.oldestTaken g rest).group g = { c.group g with arrived := rest } :=
  (c.group_setGroup g g _).trans (if_pos rfl)

theorem Chip.group_oldestTaken_other (c : Chip) {g k : Nat} (rest : List (Nat × Bool × List Byte)) (h : k ≠ g) :
    (c.oldestTaken g rest).group k = c.group k := (c.group_setGroup g k _).trans (if_neg h)

/-- The row takes the oldest line that arrived. -/
theorem execFirnLineFilled_arrived (s : State) (g : Grp) (i : Nat) (bad : Bool) (data : List Byte)
    (rest : List (Nat × Bool × List Byte)) (h : (s.chip.group g).arrived = (i, bad, data) :: rest) :
    exec (.firnLineFilled g) s = .next { s with chip := (s.chip.oldestTaken g rest).lineFilled g i bad data } := by
  show s.onBoth (firnLineFilled g) = _
  unfold State.onBoth
  rw [firnLineFilled_arrived g s.dram s.chip (by simp [h])]
  unfold Chip.fillArrived
  simp only [h]
  rfl

/-- Without a line that arrived, the row changes nothing where none is on its way or no slot runs. -/
theorem execFirnLineFilled_none (s : State) (g : Grp) (h : (s.chip.group g).arrived = [])
    (hw : s.chip.memHas (Who.isFill g) = false ∨ s.chip.tableRuns = false) :
    exec (.firnLineFilled g) s = .next s := by
  have hrow : firnLineFilled g s.dram s.chip = (s.dram, s.chip) := by
    unfold firnLineFilled
    rw [if_neg (by simp [h])]
    split
    · rfl
    · rename_i hfill
      have ht : s.chip.tableRuns = false := hw.resolve_left fun e => hfill (by simp [e])
      simp only [awaitMem_idle _ _ _ _ _ _ (.inr ht), h]
      rfl
  show s.onBoth (firnLineFilled g) = _
  unfold State.onBoth
  rw [hrow]

/-! ### The obligation -/

/-- Settles O48: what the line's arrival does before the fill engine moves on (`Chip.lineReady`, `Chip.lineDiscarded`), and
that the engine keeps the lines that are there (`Chip.refills.pump`). -/
theorem ringLines : Obligations.RingLines := by
  unfold Obligations.RingLines
  refine ⟨fun s g i bad data rest ha hi => ?ready, fun s g i bad data rest ha hi => ?discarded, fun s g ha hw => ?none⟩
  case ready =>
    have hg := s.chip.group_oldestTaken_same g rest
    obtain ⟨harr, hlines, hled, hothers⟩ :=
      (s.chip.oldestTaken g rest).lineFilled_ready_spec g i bad data (by rwa [hg])
    obtain ⟨h1, h2, h3⟩ := (s.chip.oldestTaken g rest).ledger_lineReady g i bad data
    rw [hg] at harr hlines
    exact ⟨_, execFirnLineFilled_arrived s g i bad data rest ha, harr, hlines, (hled _).trans h1, (hled _).trans h2,
      (hled _).trans h3, rfl, .trans .setGroup (.lineFilled _ g i bad data),
      fun k hk => (hothers k hk).trans (s.chip.group_oldestTaken_other rest hk)⟩
  case discarded =>
    have hg := s.chip.group_oldestTaken_same g rest
    obtain ⟨harr, horph, hled⟩ := (s.chip.oldestTaken g rest).lineFilled_discarded_spec g i bad data (by rwa [hg])
    obtain ⟨h0, h1, h3, h5⟩ := (s.chip.oldestTaken g rest).ledger_lineDiscarded g i
    rw [hg] at harr horph
    exact ⟨_, execFirnLineFilled_arrived s g i bad data rest ha, harr, horph, (hled _).trans h0, (hled _).trans h1,
      (hled _).trans h3, (hled _).trans h5⟩
  case none => exact ⟨s, execFirnLineFilled_none s g ha hw, rfl⟩

end Sys2Proof.Machine
end

section
/-! SUPPORT. Lost launches: an ADCT word whose converter still waits for the acceptance of its last ADC_DONE. -/

namespace Sys2Proof.Machine

/-! ### ADCT on a converter that is busy without a sequence (R29, R121, R234) -/

/-- A plan of KIND 0 on converter 0 with DONE_EVT: one entry, one sample. -/
def launchPlan : List Byte := [0, 1, 2, 0, 1]

/-- A group of context 0 that plays frame 0, owned by a SEG of a resident DATA1 segment on which every pin is DK; its next
word is an ADCT of plan 0. -/
def beforeAdct : Group :=
  { owner := some 0, st := 1, frame := 1, ui := 64
    prog := [{ op := 2, flags := 0, b2 := 0, b3 := 0, w1 := 0, w2 := 0, w3 := 0 },
             { op := 0xB, flags := 0, b2 := 0, b3 := 0, w1 := 0, w2 := 0, w3 := 0 }]
    segs := [(0, { enc := 2, frames := 8, dmode := 0xAAAA })]
    walk := { npc := 1, seg := some 0, pos := 1 } }

/-- That group is G0, its task's envelope holds converter 0, and converter 0 is as ADC_SEQUENCE_END leaves it while ADC_DONE
waits. -/
def doneWaitsAtAdct : State :=
  { chip :=
    { dev := { mode := .running, committed := true, pllLocked := true }
      images := { loaded := [(0, { env := { groups := 1, adcConv := 1, adcAcc := 1 } })] }
      sched := { ctxs := [(0, { gen := 1, st := 6, held := true, adcPlan := [launchPlan] })] }
      groups := [(0, beforeAdct)]
      adc := { conv := [(0, { ending := true })] } } }

/-- The next frame of group 0 plays, and its word is ADCT. -/
theorem boundary_doneWaitsAtAdct :
    (doneWaitsAtAdct.chip.boundary 0).1 = { beat := .plays, op := some 0xB } := by decide +kernel

/-- The word whose frame it is launches plan 0. -/
theorem adctWord_doneWaitsAtAdct_id :
    (((adctWord 0 doneWaitsAtAdct.chip).group (0 : Grp)).word
      ((adctWord 0 doneWaitsAtAdct.chip).group (0 : Grp)).walk.pc).id = 0 := by
  decide +kernel

/-- The launch is lost: the row leaves converter 0 without a sequence (R234). -/
theorem adctWord_doneWaitsAtAdct_run : ((adctWord 0 doneWaitsAtAdct.chip).conv 0).run = none := by decide +kernel

/-! ### The obligation -/

/-- Refutes O44: an ADCT of KIND 0 inside the envelope need not leave a sequence on its converter. A launch on a busy
converter is lost (R234), and a converter whose sequence has ended with DONE_EVT stays busy until its ADC_DONE is accepted
(R29, log entry 75), while no sequence runs on it. -/
theorem not_programWords : ¬ Obligations.ProgramWords := by
  unfold Obligations.ProgramWords
  rintro ⟨word, -⟩
  obtain ⟨t, ht, -, -, -, -, -, -, -, -, -, -, -, -, -, -, -, -, hlaunch, -⟩ :=
    word doneWaitsAtAdct 0 0xB 0 .adct rfl rfl (congrArg Happen.op boundary_doneWaitsAtAdct)
      (congrArg Happen.beat boundary_doneWaitsAtAdct)
  have hrun : exec (.adct 0) doneWaitsAtAdct =
    .next { doneWaitsAtAdct with chip := adctWord 0 doneWaitsAtAdct.chip } := rfl
  have hchip : t.chip = adctWord 0 doneWaitsAtAdct.chip := by
    rw [Host.Outcome.next.inj (ht.symm.trans hrun)]
  have hplan : (doneWaitsAtAdct.chip.ctx 0).adcPlan.getD
      ((t.chip.group (0 : Grp)).word (t.chip.group (0 : Grp)).walk.pc).id [] = launchPlan := by
    rw [hchip, adctWord_doneWaitsAtAdct_id]
    rfl
  have hruns := hlaunch rfl
  dsimp only at hruns
  rw [hplan, hchip, show adcConvOf launchPlan = 0 from rfl, adctWord_doneWaitsAtAdct_run] at hruns
  exact Bool.noConfusion (hruns (by decide) rfl)

end Sys2Proof.Machine
end

section
/-! SUPPORT. Pauses: the state that refutes PausesAndHolds, whose group counts on an accumulator that it does not have. -/

namespace Sys2Proof.Machine

/-! ### A pause whose length is the period (R52, R53, R124, R136) -/

/-- A group of context 0 in the pause of a WAITF on flag 0, which began at its epoch; END follows. The number of its
accumulator, 76, is past the four of R52: the pair that stands for its period (`Chip.period`) is SEQ_PAUSE_NS. -/
def pausedOnPauseNs : Group :=
  { owner := some 0, st := 3, frame := 1, ui := 1, pa := 76, judged := false
    prog := [{ op := 0xD, flags := 0, b2 := 0, b3 := 0, w1 := 1, w2 := 0, w3 := 0 }]
    segs := [(0, { enc := 2, frames := 8, dmode := 0xAAAA })]
    walk := { npc := 1, seg := some 0, pos := 1 } }

/-- That group is G0, its task's view shows flag 0, and 8,184 ns of its pause have passed. Its SEQ_PAUSE_NS is 2^39, which
as a period is the shortest of R53. -/
def pauseIsPeriod : State :=
  { chip :=
    { dev := { mode := .running, committed := true, pllLocked := true }
      tm := 130944
      regs := [(seqB 0 + 0x64, 0x80)]
      images := { loaded := [(0, { env := { groups := 1 } })] }
      sched := { ctxs := [(0, { gen := 1, st := 6, held := true, view := 1 })] }
      groups := [(0, pausedOnPauseNs)] } }

theorem period_pauseIsPeriod : pauseIsPeriod.chip.period 0 76 = 2 ^ 39 := by decide +kernel

/-- The condition holds now, the pause ends 8 ns later, and the next frame plays. -/
theorem resume_pauseIsPeriod_beat : (pauseIsPeriod.chip.resume 0 (512 * 130944 + 65536) false).1.beat = .plays := by
  decide +kernel

/-- The end of the pause adds its 8,192 ns to SEQ_PAUSE_NS, and the frame is placed by the period that this makes. -/
theorem waitfResume_pauseIsPeriod :
    ((waitfResume 0 pauseIsPeriod.chip).group 0).pa = 76 ∧
    ((waitfResume 0 pauseIsPeriod.chip).group 0).pipe.map (·.start) = [2 ^ 26 + 1] := by decide +kernel

/-- Under the period 2^39 every UI start is a multiple of 256 fine units (R52). -/
theorem uiStart_shortest (u : Nat) : uiStart (2 ^ 39) u = 256 * u := by
  unfold uiStart
  omega

/-! ### The obligation -/

/-- Refutes O46: the first clause speaks of every state, also of one whose group counts on an accumulator that no group has
(R52 gives four, and a PSLOT that names another is refused at load, R110). Where its period is read from SEQ_PAUSE_NS, the
end of the pause changes that period (R136), and the frame does not begin at a UI start of the one before. -/
theorem not_pausesAndHolds : ¬ Obligations.PausesAndHolds := by
  unfold Obligations.PausesAndHolds
  rintro ⟨resumes, -⟩
  obtain ⟨t, ht, -, -, r, u, hpipe, -, -, -, -, hstart, -⟩ :=
    resumes pauseIsPeriod 0 0 (512 * 130944) rfl rfl ((by decide : 0 < 2 ^ 39).trans_eq period_pauseIsPeriod.symm)
      (by decide +kernel) resume_pauseIsPeriod_beat
  have hchip : t.chip = waitfResume 0 pauseIsPeriod.chip := by
    have hrun : exec (.waitfResume 0) pauseIsPeriod =
      .next { pauseIsPeriod with chip := waitfResume 0 pauseIsPeriod.chip } := rfl
    rw [Host.Outcome.next.inj (ht.symm.trans hrun)]
  obtain ⟨hpa, hstarts⟩ := waitfResume_pauseIsPeriod
  rw [← hchip] at hpa hstarts
  have hplayed : [r.start] = [2 ^ 26 + 1] := by
    rw [← hstarts]
    exact (congrArg (List.map (·.start)) hpipe).symm
  have hgrid : r.start = 256 * u := by
    rw [hstart hpa, ← uiStart_shortest]
    exact congrArg (uiStart · u) period_pauseIsPeriod
  have := List.head_eq_of_cons_eq hplayed
  omega

end Sys2Proof.Machine
end

section
/-! SUPPORT. Sequencer frame: what Firn, the lanes' edges, TDCs and converters leave of a group's sequencer. -/

namespace Sys2Proof.Machine

/-! ### Where a sequencer stands (R106, R134, R136) -/

/-- What of a group tells where its sequencer stands: its owner, STATE and END_CAUSE, the next frame, the walk of its
program and the frames whose results are not complete. -/
def Group.seqPart (x : Group) := (x.owner, x.st, x.cause, x.frame, x.walk, x.pipe)

/-- The group is not in a pause. -/
def Group.unpaused (x : Group) : Prop := x.st ≠ 3 ∧ x.st ≠ 4

/-- The counters of group g's sequencer and the frame of its underrun (R131, R136), without SEQ_CNT_WRAP and SEQ_PAUSE_NS,
which frames that play and pauses that end move on. -/
def seqRegs (g a : Nat) : Prop :=
  a < 0x00200000 ∧
  (seqB g + 0x40 ≤ a ∧ a < seqB g + 0x50 ∨ seqB g + 0x54 ≤ a ∧ a < seqB g + 0x60 ∨ a = seqB g + 0x68)

/-- From c to d the sequencer of group g shows the same counters, and what waits in Cirque goes on waiting. -/
structure Chip.seqShown (g : Nat) (c d : Chip) : Prop where
  reg : ∀ a, seqRegs g a → d.reg a = c.reg a
  waits : ∀ src typ, c.waits src typ → d.waits src typ

/-- From c to d the sequencer of group g also stands where it did; a paused one may have been ended by a peer (R130,
R134). -/
structure Chip.seqKept (g : Nat) (c d : Chip) : Prop extends c.seqShown g d where
  group : (c.group g).unpaused → (d.group g).seqPart = (c.group g).seqPart

theorem Chip.group_setGroup_same (c : Chip) (g : Nat) (x : Group) : (c.setGroup g x).group g = x := by
  rw [Chip.group_setGroup, if_pos rfl]

theorem Group.seqPart_eq_iff {x y : Group} : y.seqPart = x.seqPart ↔ y.owner = x.owner ∧ y.st = x.st ∧ y.cause = x.cause ∧
    y.frame = x.frame ∧ y.walk = x.walk ∧ y.pipe = x.pipe := by
  simp only [Group.seqPart, Prod.mk.injEq]

theorem Group.st_of_seqPart {x y : Group} (h : y.seqPart = x.seqPart) : y.st = x.st := (Group.seqPart_eq_iff.1 h).2.1

theorem Group.unpaused_of_seqPart {x y : Group} (h : y.seqPart = x.seqPart) (hx : x.unpaused) : y.unpaused := by
  unfold Group.unpaused
  rwa [Group.st_of_seqPart h]

theorem Group.unpaused_of_runs {x : Group} (h : x.st = 1 ∨ x.st = 2) : x.unpaused := by
  unfold Group.unpaused
  omega

/-! ### Registers beside a sequencer's -/

theorem not_seqRegs_far {g a : Nat} (h : 0x00200000 ≤ a) : ¬ seqRegs g a := fun k => absurd k.1 (by omega)

theorem not_seqRegs_grp {g h o : Nat} (ho : o < 0x240) : ¬ seqRegs g (grpB h + o) := by
  unfold seqRegs seqB grpB
  omega

theorem not_seqRegs_firn {g h o : Nat} (ho : o < 0x140) : ¬ seqRegs g (firnB h + o) := by
  unfold firnB
  rw [Nat.add_assoc]
  exact not_seqRegs_grp (by omega)

theorem not_seqRegs_pin {g p o : Nat} (ho : o < 0x800) : ¬ seqRegs g (pinB p + o) := by
  unfold seqRegs seqB grpB pinB
  omega

theorem not_seqRegs_chk {g p : Nat} : ¬ seqRegs g (chkStatus p) := not_seqRegs_pin (p := p) (o := 0x64) (by decide)

theorem not_seqRegs_tdc {g p o : Nat} : ¬ seqRegs g (tdcB p + o) := not_seqRegs_far (by unfold tdcB; omega)

/-- What an underrun leaves beside its frame (R131). -/
theorem not_seqRegs_underrun {g h o : Nat} (ho : 0x70 ≤ o ∧ o < 0x100) : ¬ seqRegs g (seqB h + o) := by
  unfold seqRegs seqB grpB
  omega

/-- Another group's registers. -/
theorem not_seqRegs_other {g h o : Nat} (hne : g ≠ h) (ho : o < 0x100) : ¬ seqRegs g (seqB h + o) := by
  unfold seqRegs seqB grpB
  omega

/-! ### The fill engine's steps move its own walk and the ring (R98) -/

theorem Group.seqPart_fillStep (x : Group) : x.fillStep.1.seqPart = x.seqPart := by
  unfold Group.fillStep
  extract_lets +onlyGivenNames f w set
  split
  · rfl
  · split
    · extract_lets +onlyGivenNames prev
      split <;> rfl
    · extract_lets +onlyGivenNames s
      split
      · rfl
      · split
        · rfl
        · extract_lets +onlyGivenNames r k stop n last idx w'
          split
          · rfl
          · split <;> rfl

theorem Group.seqPart_fillFind : ∀ (n : Nat) (x : Group), (x.fillFind n).1.seqPart = x.seqPart
  | 0, _ => rfl
  | n + 1, x => by
    unfold Group.fillFind
    extract_lets r
    split
    · exact (Group.seqPart_fillFind n _).trans x.seqPart_fillStep
    · exact x.seqPart_fillStep

theorem Group.seqPart_fillWalk : ∀ (n : Nat) (x : Group), (x.fillWalk n).seqPart = x.seqPart
  | 0, _ => rfl
  | n + 1, x => by
    unfold Group.fillWalk
    extract_lets r
    split
    · exact (Group.seqPart_fillWalk n _).trans x.seqPart_fillStep
    · exact x.seqPart_fillStep
    · rfl

namespace Chip.seqShown

variable {g : Nat}

theorem refl (c : Chip) : c.seqShown g c := ⟨fun _ _ => rfl, fun _ _ h => h⟩

theorem trans {c d e : Chip} (h : c.seqShown g d) (h' : d.seqShown g e) : c.seqShown g e :=
  ⟨fun a ha => (h'.reg a ha).trans (h.reg a ha), fun s t k => h'.waits s t (h.waits s t k)⟩

theorem setGroup (c : Chip) (h : Nat) (x : Group) : c.seqShown g (c.setGroup h x) :=
  ⟨fun _ _ => rfl, fun _ _ => waits_congr rfl⟩

theorem setReg (c : Chip) {a : Nat} (w : Word) (h : ¬ seqRegs g a) : c.seqShown g (c.setReg a w) :=
  ⟨fun _ hb => Chip.reg_setReg_other c w fun e => h (e ▸ hb), fun _ _ => waits_congr rfl⟩

theorem setReg64 (c : Chip) {a : Nat} (v : Nat) (h : ¬ seqRegs g a) (h' : ¬ seqRegs g (a + 4)) :
    c.seqShown g (c.setReg64 a v) := (setReg c _ h).trans (setReg _ _ h')

theorem ite {p : Prop} [Decidable p] {c d e : Chip} (h : c.seqShown g d) (h' : c.seqShown g e) :
    c.seqShown g (if p then d else e) := by
  split
  · exact h
  · exact h'

/-- The length of a pause joins SEQ_PAUSE_NS alone (R136). -/
theorem pauseEnd (c : Chip) (h fine : Nat) : c.seqShown g (c.pauseEnd h fine) := by
  unfold Chip.pauseEnd
  refine ite ?_ (refl c)
  refine .trans (setReg64 c _ ?_ ?_) (setReg _ _ (not_seqRegs_firn (h := h) (o := 4) (by decide)))
  · unfold seqRegs seqB grpB; omega
  · unfold seqRegs seqB grpB; omega

end Chip.seqShown

namespace Chip.seqKept

variable {g : Nat}

theorem of_groups {c d : Chip} (hs : c.seqShown g d) (hg : d.groups = c.groups) : c.seqKept g d :=
  ⟨hs, fun _ => by rw [Chip.group_of_groups hg]⟩

theorem of_eq {c d : Chip} (hr : d.regs = c.regs) (hg : d.groups = c.groups) (hq : d.cirque = c.cirque) : c.seqKept g d :=
  of_groups ⟨fun a _ => Chip.reg_of_regs hr a, fun _ _ => waits_congr hq⟩ hg

theorem refl (c : Chip) : c.seqKept g c := of_eq rfl rfl rfl

theorem trans {c d e : Chip} (h : c.seqKept g d) (h' : d.seqKept g e) : c.seqKept g e :=
  ⟨h.toseqShown.trans h'.toseqShown, fun hc =>
    (h'.group (Group.unpaused_of_seqPart (h.group hc) hc)).trans (h.group hc)⟩

theorem ite_of {p : Prop} [Decidable p] {c d e : Chip} (h : p → c.seqKept g d) (h' : ¬ p → c.seqKept g e) :
    c.seqKept g (if p then d else e) := by
  split
  · exact h ‹_›
  · exact h' ‹_›

theorem ite {p : Prop} [Decidable p] {c d e : Chip} (h : c.seqKept g d) (h' : c.seqKept g e) :
    c.seqKept g (if p then d else e) := ite_of (fun _ => h) fun _ => h'

/-- Of two ends of a happening, each with an answer, each leaves the sequencer alone. -/
theorem ite_snd {α : Type} {p : Prop} [Decidable p] {c : Chip} {a b : α × Chip} (h : c.seqKept g a.2)
    (h' : c.seqKept g b.2) : c.seqKept g (if p then a else b).2 := by
  split
  · exact h
  · exact h'

theorem foldl {α : Type} {f : Chip → α → Chip} (xs : List α) (hf : ∀ x ∈ xs, ∀ c : Chip, c.seqKept g (f c x)) (c : Chip) :
    c.seqKept g (xs.foldl f c) := by
  induction xs generalizing c with
  | nil => exact refl c
  | cons x xs ih => exact (hf x List.mem_cons_self c).trans (ih (fun y hy => hf y (List.mem_cons_of_mem _ hy)) _)

/-- A fold that carries more than the device. -/
theorem foldl_snd {α β : Type} {f : β × Chip → α → β × Chip} (hf : ∀ (a : β × Chip) (x : α), a.2.seqKept g (f a x).2)
    (xs : List α) (a : β × Chip) : a.2.seqKept g (xs.foldl f a).2 := by
  induction xs generalizing a with
  | nil => exact refl a.2
  | cons x xs ih => exact (hf a x).trans (ih _)

/-! ### Shared operations -/

theorem setReg (c : Chip) {a : Nat} (w : Word) (h : ¬ seqRegs g a) : c.seqKept g (c.setReg a w) :=
  of_groups (.setReg c w h) rfl
theorem setField (c : Chip) {a : Nat} (hi lo v : Nat) (h : ¬ seqRegs g a) : c.seqKept g (c.setField a hi lo v) :=
  setReg c _ h
theorem fieldUp (c : Chip) {a : Nat} (hi lo n : Nat) (h : ¬ seqRegs g a) :
    c.seqKept g (c.fieldUp a hi lo n) := setReg c _ h
theorem cntUp (c : Chip) {a : Nat} (n : Nat) (h : ¬ seqRegs g a) : c.seqKept g (c.cntUp a n) := setReg c _ h
theorem setReg64 (c : Chip) {a : Nat} (v : Nat) (h : ¬ seqRegs g a) (h' : ¬ seqRegs g (a + 4)) :
    c.seqKept g (c.setReg64 a v) := (setReg c _ h).trans (setReg _ _ h')
theorem ledAdd {c : Chip} {a n : Nat} : c.seqKept g (c.ledAdd a n) := of_eq rfl rfl rfl
theorem ledSub {c : Chip} {a n : Nat} : c.seqKept g (c.ledSub a n) := of_eq rfl rfl rfl
theorem ledMove {c : Chip} {a b n : Nat} : c.seqKept g (c.ledMove a b n) := of_eq rfl rfl rfl
theorem setCtx {c : Chip} {n : Nat} {x : Ctx} : c.seqKept g (c.setCtx n x) := of_eq rfl rfl rfl
theorem setTdc {c : Chip} {p : Nat} {t : Tdc} : c.seqKept g (c.setTdc p t) := of_eq rfl rfl rfl
theorem setConv {c : Chip} {k : Nat} {a : Adc} : c.seqKept g (c.setConv k a) := of_eq rfl rfl rfl
theorem setAcc {c : Chip} {u : Nat} {a : Acc} : c.seqKept g (c.setAcc u a) := of_eq rfl rfl rfl
theorem setXcmp {c : Chip} {x : Nat} {a : Xcmp} : c.seqKept g (c.setXcmp x a) := of_eq rfl rfl rfl

/-- A group changes, but where its sequencer stands. -/
theorem setGroup (c : Chip) (h : Nat) {x : Group} (hx : x.seqPart = (c.group h).seqPart) :
    c.seqKept g (c.setGroup h x) := by
  refine ⟨.setGroup c h x, fun _ => ?_⟩
  rw [Chip.group_setGroup]
  split
  · rename_i e
    rw [hx, e]
  · rfl

theorem setGroup_other (c : Chip) {h : Nat} (x : Group) (hne : g ≠ h) : c.seqKept g (c.setGroup h x) :=
  ⟨.setGroup c h x, fun _ => by rw [Chip.group_setGroup, if_neg hne]⟩

theorem count (c : Chip) (code n : Nat) : c.seqKept g (c.count code n) :=
  of_groups ⟨fun a _ => c.reg_count code n a, fun _ _ => Chip.count_keeps c code n⟩ (c.count_groups code n)

theorem raise (c : Chip) (src typ : Nat) (acts : List Act) (err : Option ErrInfo) (info : Nat) :
    c.seqKept g (c.raise src typ acts err info) :=
  of_groups ⟨fun _ _ => Chip.reg_raise .., fun _ _ => Chip.raise_keeps c src typ acts err info⟩ (Chip.raise_groups ..)

theorem raiseErr (c : Chip) (src code unit detail task : Nat) : c.seqKept g (c.raiseErr src code unit detail task) :=
  of_groups ⟨fun _ _ => Chip.reg_raiseErr .., fun _ _ => Chip.raiseErr_keeps c src code unit detail task⟩
    (Chip.raiseErr_groups ..)

theorem breach (c : Chip) (src n unit : Nat) : c.seqKept g (c.breach src n unit) := by
  unfold Chip.breach
  exact .trans setCtx (.ite (refl _) (raiseErr _ _ _ _ _ _))

/-- A core's busy time is booked outside the groups' blocks (R183). -/
theorem coreBusy (c : Chip) (a b : Nat) {h : Nat} (hh : h < 12) : c.seqKept g (c.coreBusy a b h) := by
  obtain ⟨l, r, s, e⟩ := c.coreBusy_shape a b h
  refine of_groups ⟨fun x hx => Chip.reg_coreBusy c a b h hh ?_, fun _ _ => waits_congr (by rw [e])⟩ (by rw [e])
  have := hx.1
  omega

theorem dropFull (c : Chip) (i site : Nat) (reason : Option Nat) : c.seqKept g (c.dropFull i site reason) := by
  unfold Chip.dropFull
  cases reason with
  | none => exact .trans (.trans ledAdd ledAdd) (.ite (count _ _ _) (refl _))
  | some l => exact .trans (.trans (.trans ledAdd ledAdd) ledAdd) (.ite (count _ _ _) (refl _))

theorem makeRec (c : Chip) (i : Nat) (r : Rec) : c.seqKept g (c.makeRec i r) := by
  unfold Chip.makeRec
  refine .trans (.trans ledAdd ledAdd) (.ite (dropFull _ _ _ _) ?_)
  exact of_eq rfl rfl rfl

/-- Time passes (R183). -/
theorem advance (c : Chip) (n : Nat) : c.seqKept g (c.advance n) := by
  unfold Chip.advance
  refine .ite (refl c) ?_
  have hlater : c.seqKept g { c with tm := c.tm + n } := of_eq rfl rfl rfl
  refine hlater.trans (.ite (refl _) (.trans (.trans ?_ (count _ _ _)) (count _ _ _)))
  exact foldl _ (fun h hh c => coreBusy c _ _ (List.mem_range.1 hh)) _

theorem advanceTo (c : Chip) (t : Nat) : c.seqKept g (c.advanceTo t) := advance c _

theorem memReq (c : Chip) (cls : SlotClass) (r : Req) : c.seqKept g (c.memReq cls r) :=
  of_groups ⟨fun a ha => Chip.reg_memReq c cls r (fun e => not_seqRegs_far (by omega) ha)
    (fun e => not_seqRegs_far (by omega) ha), fun _ _ => waits_congr (c.memReq_cirque cls r)⟩ (c.memReq_groups cls r)

/-! ### Firn (R98 to R102, R119) -/

theorem pump (c : Chip) (h : Nat) : c.seqKept g (c.pump h) := by
  have go : ∀ (f : Nat) (c : Chip), c.seqKept g (Chip.pump.go h f c) := by
    intro f
    induction f with
    | zero => exact fun c => refl c
    | succ f ih =>
      intro c
      unfold Chip.pump.go
      simp only
      split
      · exact refl c
      · refine .ite (setGroup c h (Group.seqPart_fillWalk _ _)) ?_
        have hfind := setGroup (g := g) c h (Group.seqPart_fillFind 8192 (c.group h))
        split
        · exact (hfind.trans (memReq _ _ _)).trans (ih _)
        · exact (hfind.trans (memReq _ _ _)).trans (ih _)
        · exact hfind
  exact go 256 c

theorem freeLine (c : Chip) (h : Nat) (l : RingLine) : c.seqKept g (c.freeLine h l) := by
  unfold Chip.freeLine
  refine .ite ?_ (.ite (setGroup c h (by rfl)) (refl c))
  exact .trans ledMove (.ite ledAdd (.trans ledAdd (count _ _ _)))

theorem dropRing (c : Chip) (h : Nat) : c.seqKept g (c.dropRing h) := by
  unfold Chip.dropRing
  exact .trans (.trans (setGroup c h (by rfl)) (foldl _ (fun l _ c => freeLine c h l) _)) (of_eq rfl rfl rfl)

theorem leaveLines (c : Chip) (h play idx : Nat) : c.seqKept g (c.leaveLines h play idx) := by
  unfold Chip.leaveLines
  exact .ite (refl c) (.trans (setGroup c h (by rfl)) (foldl _ (fun l _ c => freeLine c h l) _))

theorem judgeLead (c : Chip) (h ahead lead : Nat) : c.seqKept g (c.judgeLead h ahead lead) := by
  unfold Chip.judgeLead
  exact .trans (.trans (setField c _ _ _ (not_seqRegs_firn (by decide))) (setReg _ _ (not_seqRegs_firn (by decide))))
    (.ite (.trans (cntUp _ _ (not_seqRegs_firn (by decide))) (count _ _ _)) (refl _))

/-! ### Edges of the lanes (R54 to R68) -/

theorem laneRan (c : Chip) (h j : Nat) (r : LaneRun) (close : Nat) : c.seqKept g (c.laneRan h j r close) := by
  unfold Chip.laneRan
  exact .trans (.trans (.trans (setGroup c h (by rfl)) (fieldUp _ _ _ _ (not_seqRegs_grp (by decide))))
    (fieldUp _ _ _ _ (not_seqRegs_grp (by decide)))) (.ite (refl _) (count _ _ _))

theorem runEdges (c : Chip) (h j : Nat) (move : Int) (uis : List (Nat × PinState)) :
    c.seqKept g (c.runEdges h j move uis) := laneRan c _ _ _ _

theorem runClock (c : Chip) (h : Nat) (starts : List Nat) : c.seqKept g (c.runClock h starts) := laneRan c _ _ _ _

theorem endEdges (c : Chip) (h j fine : Nat) (s : PinState) : c.seqKept g (c.endEdges h j fine s) := laneRan c _ _ _ _

theorem keepClock (c : Chip) (h : Nat) : c.seqKept g (c.keepClock h) := by
  unfold Chip.keepClock
  exact .ite (setGroup c h (by rfl)) (refl c)

theorem safeState (c : Chip) (h fine : Nat) : c.seqKept g (c.safeState h fine) := by
  unfold Chip.safeState
  exact .trans (.trans (foldl _ (fun j _ c => endEdges c h j fine _) c) (endEdges _ _ _ _ _)) (keepClock _ h)

/-! ### Sources and checkers (R69 to R75) -/

theorem setChk (c : Chip) (p : Nat) (s : ChkSt) : c.seqKept g (c.setChk p s) := setGroup c (p / 8) (by rfl)

theorem chkLost (c : Chip) (p : Nat) : c.seqKept g (c.chkLost p) := by
  unfold Chip.chkLost
  refine .ite ?_ (refl c)
  exact .trans (.trans (.trans (setChk c p _) (setField _ _ _ _ not_seqRegs_chk)) (setField _ _ _ _ not_seqRegs_chk))
    (fieldUp _ _ _ _ not_seqRegs_chk)

theorem chkStop (c : Chip) (h : Nat) : c.seqKept g (c.chkStop h) := by
  unfold Chip.chkStop
  have hlane (d : Chip) : d.seqKept g (d.setGroup h { d.group h with laneMode := false }) := setGroup d h rfl
  refine .trans (foldl _ (fun j _ c => ?_) c) (hlane _)
  exact .trans (chkLost c _) (setField _ _ _ _ not_seqRegs_chk)

theorem sourceBits (c : Chip) (h : Nat) : c.seqKept g (c.sourceBits h).2 := by
  unfold Chip.sourceBits
  refine foldl_snd (fun a j => ?_) _ ([], c)
  extract_lets +onlyGivenNames d p k x s
  split
  · exact refl d
  · extract_lets +onlyGivenNames r d'
    dsimp only
    exact .trans (d := d') (setGroup d h (by rfl)) (.ite (refl d') (fieldUp _ _ _ _ not_seqRegs_chk))

/-! ### TDCs (R214, R220 to R226) -/

theorem shotRec (c : Chip) (p : Nat) (t : Tdc) (noStop atRes : Bool) (res : Int) :
    c.seqKept g (c.shotRec p t noStop atRes res) := by
  unfold Chip.shotRec
  exact .ite (refl c) (makeRec _ _ _)

theorem tdcAutoSnap (c : Chip) (p : Nat) : c.seqKept g (c.tdcAutoSnap p) := by
  obtain ⟨b, w, h⟩ := c.tdcAutoSnap_shape p
  rw [h]
  exact of_eq rfl rfl rfl

theorem tdcOpen (c : Chip) (p : Nat) (keep : Bool) : c.seqKept g (c.tdcOpen p keep) := of_eq rfl rfl rfl

theorem tdcShot (c : Chip) (p : Nat) : c.seqKept g (c.tdcShot p) := by
  unfold Chip.tdcShot
  refine .ite (refl c) (.ite setTdc ?_)
  exact .trans (.trans setTdc (.ite (tdcAutoSnap _ p) (refl _))) (raise _ _ _ _ _ _)

theorem tdcNoStop (c : Chip) (p : Nat) (shot : Bool) : c.seqKept g (c.tdcNoStop p shot) := by
  unfold Chip.tdcNoStop
  refine .trans ?_ (.ite (tdcShot _ p) (refl _))
  refine .trans (.trans ?_ (shotRec _ _ _ _ _ _)) setTdc
  exact .trans (.trans (.trans ledSub ledAdd) setTdc) (setReg64 _ _ not_seqRegs_tdc not_seqRegs_tdc)

theorem tdcResult (c : Chip) (p : Nat) : c.seqKept g (tdcResult p c) := by
  unfold Machine.tdcResult
  extract_lets +onlyGivenNames t
  split
  · exact refl c
  · refine .trans (.trans (.trans ?_ (shotRec _ _ _ _ _ _)) setTdc) (tdcShot _ p)
    refine .trans ?_ (setReg64 _ _ not_seqRegs_tdc not_seqRegs_tdc)
    exact .trans (.trans setTdc (.ite (cntUp _ _ not_seqRegs_tdc) (refl _)))
      (.ite (setField _ _ _ _ (not_seqRegs_tdc (o := 0))) (refl _))

theorem tdcArm (c : Chip) (p n plan : Nat) (e : List Byte) : c.seqKept g (c.tdcArm p n plan e) := by
  unfold Chip.tdcArm
  refine .trans (.trans ?_ setTdc) (tdcOpen _ p false)
  refine .ite (.trans ?_ (cntUp _ _ not_seqRegs_tdc)) (tdcResult c p)
  exact .trans (tdcResult c p) (.ite (tdcNoStop _ p false) (refl _))

theorem tdcBurstEnd (c : Chip) (n : Nat) : c.seqKept g (c.tdcBurstEnd n) := by
  unfold Chip.tdcBurstEnd
  refine foldl _ (fun p _ c => ?_) c
  exact .ite (.trans (.ite (tdcNoStop c p false) (refl c)) setTdc) (refl c)

/-! ### Converters (R234 to R240) -/

theorem clearAccs (c : Chip) (us : List Nat) : c.seqKept g (c.clearAccs us) := foldl us (fun _ _ _ => setAcc) c

theorem adcStart (c : Chip) (p : List Byte) (index src : Nat) (task : Option Nat) :
    c.seqKept g (c.adcStart p index src task) := by
  unfold Chip.adcStart
  refine .ite (.trans (.trans (cntUp c _ (not_seqRegs_far ?_)) (count _ _ _)) (raise _ _ _ _ _ _)) ?_
  · unfold convB; omega
  · exact .trans setConv (.ite (clearAccs _ _) (refl _))

theorem adcArmPlan (c : Chip) (p : List Byte) (index : Nat) (task : Option Nat) :
    c.seqKept g (c.adcArmPlan p index task) := by
  unfold Chip.adcArmPlan
  refine .trans (.ite (clearAccs c _) (refl c)) (.ite setXcmp ?_)
  exact .trans setConv (adcStart _ _ _ _ _)

theorem adcWord (c : Chip) (src n index : Nat) : c.seqKept g (c.adcWord src n index) := by
  unfold Chip.adcWord
  exact .ite (breach _ _ _ _) (.ite (adcStart _ _ _ _ _) (adcArmPlan _ _ _ _))

theorem adcBurstEnd (c : Chip) (n : Nat) : c.seqKept g (c.adcBurstEnd n) := by
  unfold Chip.adcBurstEnd
  refine .trans (foldl _ (fun _ _ _ => setConv) c) (foldl _ (fun x _ c => ?_) _)
  split
  · exact .ite setXcmp (refl c)
  · exact refl c

/-! ### Flags, conditions and arming (R116, R121, R123) -/

theorem pushView (c : Chip) (n seen at0 : Nat) (set clr : Dword) : c.seqKept g (c.pushView n seen at0 set clr) := setCtx

theorem sbClear (c : Chip) (n e : Nat) : c.seqKept g (c.sbClear n e) := by
  unfold Chip.sbClear
  refine .ite (refl c) (setField _ _ _ _ (not_seqRegs_far ?_))
  unfold sbHit sbB
  omega

theorem jcond (c : Chip) (x : Group) (n start : Nat) (w : SeqWord) : c.seqKept g (c.jcond x n start w).2 := by
  unfold Chip.jcond
  exact .ite_snd (foldl _ (fun e _ c => sbClear c _ e) c) (refl c)

theorem armWord (c : Chip) (h n : Nat) (w : SeqWord) : c.seqKept g (c.armWord h n w) := by
  unfold Chip.armWord
  exact .ite (foldl _ (fun p _ c => tdcArm c p _ _ _) c) (breach _ _ _ _)

theorem endTask (c : Chip) (n : Nat) : c.seqKept g (c.endTask n) := by
  unfold Chip.endTask
  refine .ite ?_ (refl c)
  exact .trans (.trans (tdcBurstEnd c n) (adcBurstEnd _ n)) (.ite (refl _) (.trans setCtx (raise _ _ _ _ _ _)))

end Chip.seqKept

end Sys2Proof.Machine
end

section
/-! SUPPORT. Sequencer ends: how the burst of a group ends, and what that leaves of the other groups' sequencers. -/

namespace Sys2Proof.Machine

/-! ### The end of a burst (R63, R130, R131, R134) -/

theorem Chip.seqKept.pauseEnd {g : Nat} (c : Chip) (h fine : Nat) : c.seqKept g (c.pauseEnd h fine) := by
  refine .of_groups (.pauseEnd c h fine) ?_
  unfold Chip.pauseEnd
  simp only
  split <;> rfl

/-- A group that is in a burst ends it: STATE and END_CAUSE tell so, and the rest of what happens leaves every sequencer
alone. -/
theorem Chip.endGroup_spec (c : Chip) (g cause fine : Nat) :
    ((c.group g).owner = none ∨ (c.group g).st = 5 ∨ (c.group g).st = 0) ∧ c.endGroup g cause fine = c ∨
    ∃ (n : Nat) (d : Chip) (y : Group), (∀ k, c.seqKept k d) ∧ y.st = 5 ∧ y.cause = cause ∧
      c.endGroup g cause fine = (d.setGroup g y).endTask n := by
  unfold Chip.endGroup
  extract_lets +onlyGivenNames x
  split
  · rename_i ho
    exact .inl ⟨.inl ho, rfl⟩
  · rename_i n ho
    split
    · rename_i hst
      exact .inl ⟨.inr hst, rfl⟩
    · refine .inr ⟨n, _, _, fun k => ?_, rfl, rfl, rfl⟩
      refine .trans ?_ (.dropRing _ g)
      have hfill (d : Chip) :
          d.seqKept k (d.setGroup g { d.group g with fill := { (d.group g).fill with active := false } }) :=
        .setGroup d g rfl
      exact .trans (.trans (.trans (.pauseEnd c g fine) (.safeState _ g fine)) (.ite (.chkStop _ g) (.refl _))) (hfill _)

theorem Chip.seqShown.endGroup {k : Nat} (c : Chip) (g cause fine : Nat) : c.seqShown k (c.endGroup g cause fine) := by
  obtain ⟨-, h⟩ | ⟨n, d, y, hd, -, -, h⟩ := c.endGroup_spec g cause fine
  · rw [h]
    exact .refl c
  · rw [h]
    exact (hd k).toseqShown.trans (.trans (.setGroup d g y) (Chip.seqKept.endTask _ n).toseqShown)

/-- A group that plays or holds ends its burst. -/
theorem Chip.endGroup_runs (c : Chip) {g : Nat} (cause fine : Nat) (ho : (c.group g).owner ≠ none)
    (hst : (c.group g).st = 1 ∨ (c.group g).st = 2) :
    ((c.endGroup g cause fine).group g).st = 5 ∧ ((c.endGroup g cause fine).group g).cause = cause := by
  obtain ⟨h, -⟩ | ⟨n, d, y, -, hy, hc, h⟩ := c.endGroup_spec g cause fine
  · have := h.resolve_left ho
    omega
  · have hset : (d.setGroup g y).group g = y := Chip.group_setGroup_same _ _ _
    have hpart := (Chip.seqKept.endTask (g := g) (d.setGroup g y) n).group (by rw [hset]; unfold Group.unpaused; omega)
    obtain ⟨-, hst', hcause, -⟩ := Group.seqPart_eq_iff.1 hpart
    rw [h, hst', hcause, hset]
    exact ⟨hy, hc⟩

namespace Chip.seqKept

variable {g : Nat}

theorem endGroup_other (c : Chip) {h : Nat} (cause fine : Nat) (hne : g ≠ h) : c.seqKept g (c.endGroup h cause fine) := by
  obtain ⟨-, e⟩ | ⟨n, d, y, hd, -, -, e⟩ := c.endGroup_spec h cause fine
  · rw [e]
    exact refl c
  · rw [e]
    exact (hd g).trans (.trans (setGroup_other d y hne) (endTask _ n))

/-- A peer that is not in a pause goes on to its next boundary (R130, R134). -/
theorem endPeers (c : Chip) (n h cause fine : Nat) : c.seqKept g (c.endPeers n h cause fine) := by
  unfold Chip.endPeers
  refine foldl _ (fun k _ c => ?_) c
  refine .ite (refl c) ?_
  by_cases hk : g = k
  · subst hk
    refine ite_of (fun hp => ⟨.endGroup c g cause fine, fun hu => ?_⟩) fun _ => .ite (setGroup c g rfl) (refl c)
    exact absurd hp (not_or.2 hu)
  · exact .ite (endGroup_other c cause fine hk) (.ite (setGroup_other c _ hk) (refl c))

end Chip.seqKept

/-- An underrun is recorded, raised, and ends the group and then its peers (R130, R131). -/
theorem Chip.underrunAt_spec (c : Chip) (g n fine : Nat) (w : Walk) (pos : Nat) :
    ∃ d, (∀ k, (c.setReg64 (seqB g + 0x68) (c.group g).frame).seqKept k d) ∧ d.waits (srcSeq g) 0x0100 ∧
      c.underrunAt g n fine w pos = (d.endGroup g 2 fine).endPeers n g 3 fine := by
  unfold Chip.underrunAt
  refine ⟨_, fun k => ?_, Chip.raiseErr_waits _ _ _ _ _ _, rfl⟩
  have hset (c : Chip) (o : Nat) (v : Word) (ho : 0x70 ≤ o ∧ o < 0x100) : c.seqKept k (c.setReg (seqB g + o) v) :=
    .setReg c v (not_seqRegs_underrun ho)
  refine .trans ?_ (.raiseErr _ _ _ _ _ _)
  refine .trans (.trans (.trans (.trans (hset _ 0x70 _ (by decide)) (hset _ 0x74 _ (by decide)))
    (hset _ 0x78 _ (by decide))) (hset _ 0x7C _ (by decide))) (.foldl _ (fun i hi c => ?_) _)
  have := List.mem_range.1 hi
  rw [Nat.add_assoc]
  exact hset c _ _ (by omega)

/-- SEQ_UR_FRAME takes the frame, and no other counter moves. -/
theorem reg_underrunFrame (c : Chip) (g v : Nat) :
    (c.setReg64 (seqB g + 0x68) v).reg (seqB g + 0x68) = BitVec.ofNat 32 v ∧
    ∀ a, a < seqB g + 0x60 → (c.setReg64 (seqB g + 0x68) v).reg a = c.reg a := by
  refine ⟨?_, fun a ha => Chip.reg_setReg64_other c v (by omega) (by omega)⟩
  unfold Chip.setReg64
  rw [Chip.reg_setReg_other _ _ (by omega), Chip.reg_setReg_same]

end Sys2Proof.Machine
end

section
/-! SUPPORT. Sequencer frames: how frames play, jumps are taken, holds pass and the next frame begins. -/

namespace Sys2Proof.Machine

/-! ### Frames (R52 to R90, R106 to R125) -/

theorem Group.seqPart_fckStep (x : Group) (fine : Nat) : (x.fckStep fine).seqPart = x.seqPart := by
  unfold Group.fckStep
  split <;> rfl

/-- A frame plays: the group plays on from the frame after it, and what else happens leaves every sequencer alone. -/
theorem Chip.playFrame_spec (c : Chip) (g n bound : Nat) (w : Walk) (pos : Nat) (word : Option SeqWord)
    (bytes : List Byte) : ∃ y : Group, y.st = 1 ∧ y.frame = (c.group g).frame + 1 ∧ y.walk = w ∧
      ∀ k, (c.setGroup g y).seqKept k (c.playFrame g n bound w pos word bytes) := by
  unfold Chip.playFrame
  extract_lets +onlyGivenNames x s op arg tgood tset pa per ui start t time modes r x1 was x2 x3 c1 c2 src c3 starts c4 c5
  have hpart : x3.seqPart = x1.seqPart := by
    unfold x3
    split
    · exact x2.seqPart_fckStep _
    · rfl
  obtain ⟨-, hst, -, hframe, hwalk, -⟩ := Group.seqPart_eq_iff.1 hpart
  refine ⟨x3, hst, hframe, hwalk, fun k => ?_⟩
  have hstart : (c.setGroup g x3).seqKept k c2 := .trans (.count _ _ _) (.ite (.chkStop _ g) (.refl _))
  have hsrc : c2.seqKept k c3 := .ite_snd (p := s.enc = 3) (.sourceBits c2 g) (.refl c2)
  have hedges : c3.seqKept k c4 := .foldl _ (fun j _ c => .runEdges c g j _ _) _
  have hclock : c4.seqKept k c5 := by
    unfold c5
    split
    · exact .runClock c4 g starts
    · exact .runEdges c4 g 8 _ _
    · exact .refl c4
  refine .trans (.trans (.trans (.trans hstart hsrc) hedges) hclock) ?_
  clear_value c5 op r x3 start
  split
  · exact .refl c5
  · rename_i y
    have hraise : c5.seqKept k
        (if y.flags % 2 = 1 then c5.raise (srcSeq g) 0x8020 [] none (w.pc + r.num * 2 ^ 16) else c5) :=
      .ite (.raise c5 _ _ _ _ _) (.refl c5)
    refine hraise.trans ?_
    generalize (if y.flags % 2 = 1 then c5.raise (srcSeq g) 0x8020 [] none (w.pc + r.num * 2 ^ 16) else c5) = c6
    split
    · exact .armWord c6 g n y
    · exact .adcWord c6 _ n y.id
    · exact .trans (.pushView c6 n _ _ _ _) (.raise _ _ _ _ _ _)
    · exact .refl c6

/-- A frame plays, and nothing after it moves the sequencer. -/
theorem Chip.playFrame_runs (c : Chip) (g n bound : Nat) (w : Walk) (pos : Nat) (word : Option SeqWord) (bytes : List Byte)
    {d : Chip} (hd : (c.playFrame g n bound w pos word bytes).seqKept g d) :
    (d.group g).st = 1 ∧ (d.group g).frame = (c.group g).frame + 1 ∧ (d.group g).walk = w ∧ c.seqShown g d := by
  obtain ⟨y, hst, hframe, hwalk, hy⟩ := c.playFrame_spec g n bound w pos word bytes
  have hkept := (hy g).trans hd
  have hpart := hkept.group (by rw [Chip.group_setGroup_same]; unfold Group.unpaused; omega)
  rw [Chip.group_setGroup_same] at hpart
  obtain ⟨-, hst', -, hframe', hwalk', -⟩ := Group.seqPart_eq_iff.1 hpart
  exact ⟨hst'.trans hst, hframe'.trans hframe, hwalk'.trans hwalk, .trans (.setGroup c g y) hkept.toseqShown⟩

/-- A taken jump: the walk goes to the target, the jump counts, and what else happens leaves every sequencer alone. -/
theorem Chip.takeJump_spec (c : Chip) (g target : Nat) (abandon : Bool) :
    ∃ y : Group, y.owner = (c.group g).owner ∧ y.st = (c.group g).st ∧ y.frame = (c.group g).frame ∧
      y.walk = (c.group g).walk.jump (c.group g).prog target ∧
      ∀ k, ((c.setGroup g y).cntUp (seqB g + 0x40)).seqKept k (c.takeJump g target abandon) := by
  refine ⟨{ c.group g with walk := (c.group g).walk.jump (c.group g).prog target, judged := true }, rfl, rfl, rfl, rfl,
    fun k => ?_⟩
  unfold Chip.takeJump
  have hfill (d : Chip) (w : Walk) :
      d.seqKept k (d.setGroup g
        { d.group g with fill := { (d.group g).fill with walk := w, line := 0, active := true } }) :=
    .setGroup d g rfl
  exact .trans (.count _ _ _) (.ite (.trans (.trans (.dropRing _ g) (hfill _ _)) (.pump _ g)) (.refl _))

theorem Chip.seqKept.holdClock {k : Nat} (g : Nat) : ∀ (n ui : Nat) (c : Chip), c.seqKept k (c.holdClock g ui n)
  | 0, _, c => .refl c
  | n + 1, ui, c => (runClock c g _).trans (holdClock g n (ui + 64) _)

/-- Hold frames: the group holds, so many frames on, and SEQ_HOLD_FRAMES counts them. -/
theorem Chip.holdFrames_spec (c : Chip) (g n : Nat) :
    ∃ (d : Chip) (y : Group), (∀ k, c.seqKept k d) ∧ y.st = 2 ∧ y.frame = (d.group g).frame + n ∧
      ∀ k, ((d.setGroup g y).setReg64 (seqB g + 0x58) (d.reg64 (seqB g + 0x58) + n)).seqKept k (c.holdFrames g n) := by
  unfold Chip.holdFrames
  exact ⟨_, _, fun k => .ite (.holdClock g n _ c) (.refl c), rfl, rfl, fun k => .ite (.refl _) (.count _ _ _)⟩

/-- A pause begins: the group waits at the frame and the word where it stood. -/
theorem Chip.pause_spec (c : Chip) (g st fine : Nat) :
    ∃ y : Group, y.st = st ∧ y.frame = (c.group g).frame ∧ y.walk = (c.group g).walk ∧
      (c.pause g st fine).group g = y ∧ ∀ a, (c.pause g st fine).reg a = c.reg a := by
  refine ⟨{ c.group g with st := st, pauseFrom := fine, stallFrom := some ((c.group g).stallFrom.getD (c.group g).frame) },
    rfl, rfl, rfl, ?_, fun a => Chip.reg_count _ _ _ a⟩
  exact (Chip.group_of_groups (Chip.count_groups _ _ _) g).trans (Chip.group_setGroup_same _ _ _)

/-! ### The next frame (R99, R130, R132) -/

/-- What the frame after a judged end comes to: `pc` is the word that owns it. -/
inductive Chip.FrameNext (c : Chip) (g n bound pc : Nat) (h : Happen) : Happen × Chip → Prop
  | stalls (d : Chip) (hd : ∀ k, c.seqKept k d) : c.FrameNext g n bound pc h
      ({ h with beat := .stalls }, ((d.pause g 4 bound).cntUp (seqB g + 0x54)).setField (firnB g + 4) 31 31 1)
  | underran (d : Chip) (w : Walk) (pos : Nat) (hd : ∀ k, c.seqKept k d) : c.FrameNext g n bound pc h
      ({ h with beat := .underran }, d.underrunAt g n bound w pos)
  | ended (d : Chip) (cause : Nat) (hd : ∀ k, c.seqKept k d) : c.FrameNext g n bound pc h
      ({ h with beat := .ended }, d.endGroup g cause bound)
  | plays (d : Chip) (w : Walk) (pos : Nat) (word : Option SeqWord) (bytes : List Byte) (op : Option Nat)
      (hd : ∀ k, c.seqKept k d) (hw : w.pc = pc) : c.FrameNext g n bound pc h
      ({ h with beat := .plays, op := op }, (d.playFrame g n bound w pos word bytes).pump g)

theorem Walk.begin_pc (w : Walk) (x : Group) : (w.begin x).pc = w.npc := by
  unfold Walk.begin
  extract_lets +onlyGivenNames i y again w'
  split <;> try rfl
  split
  · split <;> rfl
  · rfl

/-- The word that owns the next frame. -/
def Walk.nextPc (w : Walk) : Nat := if w.left = 0 then w.npc else w.pc

theorem Chip.nextFrame_spec (c : Chip) (g n bound : Nat) (again : Bool) (h : Happen) :
    c.FrameNext g n bound (c.group g).walk.nextPc h (c.nextFrame g n bound again h) := by
  unfold Chip.nextFrame
  extract_lets +onlyGivenNames x w0 fresh w1 s fr w pos k c1 c2 x2 ahead c3 peer
  have hlead (k' : Nat) : c.seqKept k' c3 :=
    .trans (.trans (.pump c g) (.ite (.leaveLines _ _ _ _) (.leaveLines _ _ _ _))) (.ite (.refl _) (.judgeLead _ _ _ _))
  have hpc : w.pc = (c.group g).walk.nextPc := by
    show w1.pc = w0.nextPc
    unfold w1 Walk.nextPc fresh
    split
    · exact Walk.begin_pc _ _
    · rfl
  split
  · split
    · exact .stalls c3 hlead
    · exact .underran c3 w pos hlead
  · exact .underran c3 w pos hlead
  · rename_i bytes _
    split
    · exact .ended c3 _ hlead
    · refine .plays _ w pos _ bytes _ (fun k' => (hlead k').trans (.ite ?_ (.refl _))) hpc
      refine .trans (.cntUp _ _ ?_) (.count _ _ _)
      unfold seqRegs seqB grpB
      omega

/-- A next frame that plays is that of its word, and no counter of R136 but SEQ_CNT_WRAP moves. -/
theorem Chip.FrameNext.plays_pc {c : Chip} {g n bound pc : Nat} {h : Happen} {r : Happen × Chip}
    (hr : c.FrameNext g n bound pc h r) (hb : r.1.beat = .plays) : (r.2.group g).walk.pc = pc ∧ c.seqShown g r.2 := by
  obtain ⟨_, _⟩ | ⟨_, _, _, _⟩ | ⟨_, _, _⟩ | ⟨d, w, pos, word, bytes, op, hd, hw⟩ := hr
  · exact nomatch hb
  · exact nomatch hb
  · exact nomatch hb
  · obtain ⟨-, -, hwalk, hs⟩ := d.playFrame_runs g n bound w pos word bytes (.pump _ g)
    exact ⟨(congrArg Walk.pc hwalk).trans hw, (hd g).toseqShown.trans hs⟩

namespace Chip.seqKept

variable {g : Nat}

/-! ### The other groups' sequencers -/

theorem underrunAt_other (c : Chip) {h : Nat} (n fine : Nat) (w : Walk) (pos : Nat) (hne : g ≠ h) :
    c.seqKept g (c.underrunAt h n fine w pos) := by
  obtain ⟨d, hd, -, e⟩ := c.underrunAt_spec h n fine w pos
  rw [e]
  refine .trans (.trans (.trans (setReg64 c _ ?_ ?_) (hd g)) (endGroup_other d 2 fine hne)) (endPeers _ n h 3 fine)
  · exact not_seqRegs_other hne (by decide)
  · exact not_seqRegs_other (o := 0x68 + 4) hne (by decide)

theorem faultAt_other (c : Chip) {h : Nat} (n fine : Nat) (hne : g ≠ h) : c.seqKept g (c.faultAt h n fine) := by
  unfold Chip.faultAt
  exact .trans (.trans (raiseErr _ _ _ _ _ _) (endGroup_other _ _ _ hne)) (endPeers _ _ _ _ _)

theorem pause_other (c : Chip) {h : Nat} (st fine : Nat) (hne : g ≠ h) : c.seqKept g (c.pause h st fine) :=
  (setGroup_other c _ hne).trans (count _ _ _)

theorem playFrame_other (c : Chip) {h : Nat} (n bound : Nat) (w : Walk) (pos : Nat) (word : Option SeqWord)
    (bytes : List Byte) (hne : g ≠ h) : c.seqKept g (c.playFrame h n bound w pos word bytes) := by
  obtain ⟨y, -, -, -, hy⟩ := c.playFrame_spec h n bound w pos word bytes
  exact (setGroup_other c y hne).trans (hy g)

theorem takeJump_other (c : Chip) {h : Nat} (target : Nat) (abandon : Bool) (hne : g ≠ h) :
    c.seqKept g (c.takeJump h target abandon) := by
  obtain ⟨y, -, -, -, -, hy⟩ := c.takeJump_spec h target abandon
  exact .trans (.trans (setGroup_other c y hne) (cntUp _ _ (not_seqRegs_other hne (by decide)))) (hy g)

theorem holdFrames_other (c : Chip) {h : Nat} (n : Nat) (hne : g ≠ h) : c.seqKept g (c.holdFrames h n) := by
  obtain ⟨d, y, hd, -, -, hy⟩ := c.holdFrames_spec h n
  refine (hd g).trans (.trans (.trans (setGroup_other d y hne) (setReg64 _ _ ?_ ?_)) (hy g))
  · exact not_seqRegs_other hne (by decide)
  · exact not_seqRegs_other (o := 0x58 + 4) hne (by decide)

theorem of_frameNext {c : Chip} {h n bound pc : Nat} {e : Happen} {r : Happen × Chip} (hr : c.FrameNext h n bound pc e r)
    (hne : g ≠ h) : c.seqKept g r.2 := by
  obtain ⟨d, hd⟩ | ⟨d, w, pos, hd⟩ | ⟨d, cause, hd⟩ | ⟨d, w, pos, word, bytes, op, hd, -⟩ := hr
  · exact .trans (.trans (.trans (hd g) (pause_other d _ _ hne)) (cntUp _ _ (not_seqRegs_other hne (by decide))))
      (setField _ _ _ _ (not_seqRegs_firn (by decide)))
  · exact (hd g).trans (underrunAt_other d n bound w pos hne)
  · exact (hd g).trans (endGroup_other d cause bound hne)
  · exact .trans (.trans (hd g) (playFrame_other d n bound w pos word bytes hne)) (pump _ h)

theorem nextFrame_other (c : Chip) {h : Nat} (n bound : Nat) (again : Bool) (e : Happen) (hne : g ≠ h) :
    c.seqKept g (c.nextFrame h n bound again e).2 := of_frameNext (c.nextFrame_spec h n bound again e) hne

end Chip.seqKept

end Sys2Proof.Machine
end

section
/-! SUPPORT. Frame boundaries: what the end of a frame comes to, for the group itself and for the other groups. -/

namespace Sys2Proof.Machine

/-! ### The judged end of a frame, before the next begins (R106 to R126) -/

/-- Group g plays or holds. -/
def Group.runs (x : Group) : Prop := x.st = 1 ∨ x.st = 2

/-- From c to e the end of group g's frame is judged, and its next frame can begin: the group may
have jumped or left a hold, and SEQ_CNT_MATCH_TO counts where a JCOND fell through; the other groups' sequencers stand. -/
structure Chip.leads (g : Nat) (fell : Bool) (c e : Chip) : Prop where
  other : ∀ k, k ≠ g → c.seqKept k e
  owner : (e.group g).owner = (c.group g).owner
  runs : (e.group g).runs
  frame : (e.group g).frame = (c.group g).frame
  reg : ∀ a, seqB g + 0x54 ≤ a → a < seqB g + 0x60 → e.reg a = c.reg a
  fell : fell = true → c.counted e (seqB g + 0x44)

theorem seqRegs_own {g a : Nat} (hg : g < 12)
    (h : seqB g + 0x40 ≤ a ∧ a < seqB g + 0x50 ∨ seqB g + 0x54 ≤ a ∧ a < seqB g + 0x60 ∨ a = seqB g + 0x68) :
    seqRegs g a := by
  refine ⟨?_, h⟩
  unfold seqB grpB at h
  omega

namespace Chip.leads

variable {g : Nat} {c d e : Chip} {fell : Bool}

theorem kept (hg : g < 12) (h : c.leads g fell d) (hd : ∀ k, d.seqKept k e) : c.leads g fell e := by
  obtain ⟨howner, hst, -, hframe, -, -⟩ := Group.seqPart_eq_iff.1 ((hd g).group (Group.unpaused_of_runs h.runs))
  refine ⟨fun k hk => (h.other k hk).trans (hd k), howner.trans h.owner, ?_, hframe.trans h.frame, fun a h1 h2 => ?_,
    fun hf => ?_⟩
  · unfold Group.runs
    rw [hst]
    exact h.runs
  · exact ((hd g).reg a (seqRegs_own hg (by omega))).trans (h.reg a h1 h2)
  · exact ((hd g).reg _ (seqRegs_own hg (by omega))).trans (h.fell hf)

theorem refl (hr : (c.group g).runs) : c.leads g false c :=
  ⟨fun _ _ => .refl c, rfl, hr, rfl, fun _ _ _ => rfl, nofun⟩

/-- The group changes, and no counter. -/
theorem setGroup (hg : g < 12) (hd : ∀ k, c.seqKept k d) {y : Group} (howner : y.owner = (c.group g).owner) (hr : y.runs)
    (hframe : y.frame = (c.group g).frame) : c.leads g false (d.setGroup g y) := by
  have hy : (d.setGroup g y).group g = y := Chip.group_setGroup_same _ _ _
  exact ⟨fun k hk => (hd k).trans (.setGroup_other d y hk), by rwa [hy], by rwa [hy], by rwa [hy],
    fun a h1 h2 => (hd g).reg a (seqRegs_own hg (by omega)), nofun⟩

/-- A counter of the group moves on. -/
theorem cntUp (h : c.leads g fell d) {o : Nat} (ho : o < 0x50) : c.leads g false (d.cntUp (seqB g + o)) :=
  ⟨fun k hk => (h.other k hk).trans (.cntUp d _ (not_seqRegs_other hk (by omega))), h.owner, h.runs, h.frame,
    fun a h1 h2 => (Chip.reg_cntUp_other d _ (by omega)).trans (h.reg a h1 h2), nofun⟩

/-- A JCOND falls through (R118). -/
theorem matchTimeout (hg : g < 12) (hd : ∀ k, c.seqKept k d) {y : Group} (howner : y.owner = (c.group g).owner)
    (hr : y.runs) (hframe : y.frame = (c.group g).frame) :
    c.leads g true ((d.setGroup g y).cntUp (seqB g + 0x44)) := by
  obtain ⟨hother, howner', hr', hframe', hreg, -⟩ := (setGroup hg hd howner hr hframe).cntUp (o := 0x44) (by decide)
  refine ⟨hother, howner', hr', hframe', hreg, fun _ => ?_⟩
  rw [Chip.counted, Chip.reg_cntUp_same, Chip.reg_setGroup, (hd g).reg _ (seqRegs_own hg (by omega))]

/-- A jump is taken (R115, R117). -/
theorem takeJump (hg : g < 12) (hr : (c.group g).runs) (hd : ∀ k, c.seqKept k d) (target : Nat) (abandon : Bool) :
    c.leads g false (d.takeJump g target abandon) := by
  obtain ⟨y, howner, hst, hframe, -, hy⟩ := d.takeJump_spec g target abandon
  obtain ⟨ho, hs, -, hf, -, -⟩ := Group.seqPart_eq_iff.1 ((hd g).group (Group.unpaused_of_runs hr))
  have hyr : y.runs := by
    unfold Group.runs
    rw [hst, hs]
    exact hr
  exact ((setGroup hg hd (howner.trans ho) hyr (hframe.trans hf)).cntUp (by decide)).kept hg hy

end Chip.leads

/-! ### The end of a frame (R106 to R134) -/

/-- What the end of the frame that group g plays or holds comes to, at a boundary. -/
inductive Chip.BeatAt (c : Chip) (g n bound : Nat) : Happen × Chip → Prop
  | goesOn (e : Chip) (h : Happen) (he : c.leads g h.fell e) : c.BeatAt g n bound (e.nextFrame g n bound false h)
  | replays (e : Chip) (w : Walk) (pos : Nat) (bytes : List Byte) (tests : Nat) (he : ∀ k, c.seqKept k e) :
    c.BeatAt g n bound ({ beat := .plays, op := some 6 }, (e.playFrame g n bound w pos none bytes).setGroup g
      { (e.playFrame g n bound w pos none bytes).group g with judged := false, tests := tests })
  | underran (e : Chip) (w : Walk) (pos : Nat) (he : ∀ k, c.seqKept k e) :
    c.BeatAt g n bound ({ beat := .underran }, e.underrunAt g n bound w pos)
  | faults (e : Chip) (he : ∀ k, c.seqKept k e) : c.BeatAt g n bound ({ beat := .ended }, e.faultAt g n bound)
  | ends (e : Chip) (cause : Nat) (op : Option Nat) (he : ∀ k, c.seqKept k e) :
    c.BeatAt g n bound ({ beat := .ended, op := op }, e.endGroup g cause bound)
  | pauses (e : Chip) (he : ∀ k, c.seqKept k e) : c.BeatAt g n bound ({ beat := .pauses }, e.pause g 3 bound)
  | holds (e : Chip) (he : ∀ k, c.seqKept k e) : c.BeatAt g n bound ({ beat := .holds }, e.holdFrames g 1)

/-- A boundary waits for a group that plays or holds, and for the results that its judgement needs. -/
theorem Chip.beat_waits (c : Chip) (g : Nat)
    (h : (c.group g).owner = none ∨ ¬ (c.group g).runs ∨ (c.group g).awaitsResults = true) : c.beat g = ({}, c) := by
  unfold Chip.beat
  simp only
  split
  · rfl
  · rename_i n ho
    rw [if_pos]
    rw [ho] at h
    simp only [reduceCtorEq, false_or] at h
    exact h.imp_left not_or.1

theorem Chip.BeatAt.ite {c : Chip} {g n bound : Nat} {p : Prop} [Decidable p] {a b : Happen × Chip}
    (h : c.BeatAt g n bound a) (h' : c.BeatAt g n bound b) : c.BeatAt g n bound (if p then a else b) := by
  split
  · exact h
  · exact h'

theorem Chip.beat_spec (c : Chip) {g n : Nat} (hg : g < 12) (ho : (c.group g).owner = some n) (hr : (c.group g).runs)
    (hw : (c.group g).awaitsResults = false) :
    c.BeatAt g n (uiStart (c.period g (c.group g).pa) (c.group g).ui) (c.beat g) := by
  have hst : ¬ (((c.group g).st ≠ 1 ∧ (c.group g).st ≠ 2) ∨ (c.group g).awaitsResults = true) := by
    unfold Group.runs at hr
    simp only [hw, Bool.false_eq_true, or_false]
    omega
  unfold Chip.beat
  extract_lets +onlyGivenNames x
  split
  · rename_i ho'
    exact nomatch ho.symm.trans ho'
  rename_i m ho'
  obtain rfl : m = n := Option.some.inj (ho'.symm.trans ho)
  rw [if_neg hst]
  extract_lets +onlyGivenNames per bound c1 y op peer cause before due
  have h1 (k : Nat) : c.seqKept k c1 := .advanceTo c _
  refine .ite (.faults c1 h1) (.ite (.ends c1 cause none h1) (.ite (.ends c1 1 _ h1) (.ite (.ends c1 cause none h1) ?_)))
  clear_value c1 op cause peer
  split
  · exact .goesOn _ {} (.takeJump hg hr h1 _ _)
  · extract_lets +onlyGivenNames r c2
    have h2 (k : Nat) : c.seqKept k c2 := (h1 k).trans (.jcond c1 x m _ y)
    clear_value c2
    refine .ite (.goesOn _ {} (.takeJump hg hr h2 _ _)) (.ite (.ite (.ends c2 cause none h2) ?_) ?_)
    · split
      · exact .replays c2 _ _ _ _ h2
      · exact .underran c2 _ _ h2
    · obtain ⟨ho2, hs2, -, hf2, -, -⟩ := Group.seqPart_eq_iff.1 ((h2 g).group (Group.unpaused_of_runs hr))
      have hr2 : (c2.group g).runs := by rwa [Group.runs, hs2]
      exact .ite (.goesOn _ { fell := true } (.matchTimeout hg h2 ho2 hr2 hf2))
        (.goesOn _ {} (.setGroup hg h2 ho2 hr2 hf2))
  · exact .ite (.goesOn _ {} (.setGroup hg h1 rfl hr rfl)) (.ite (.ends c1 cause none h1) (.pauses c1 h1))
  · refine .ite (.goesOn _ { edge := true } (.setGroup hg h1 rfl (.inl rfl) rfl))
      (.ite (.goesOn _ { late := true } ?_) (.ite (.ends c1 cause none h1) (.holds c1 h1)))
    refine .kept hg (.cntUp (.setGroup hg (fun k => (h1 k).trans (.advanceTo c1 _)) ?_ ?_ ?_) (by decide))
      fun k => .raiseErr _ _ _ _ _ _
    · rfl
    · exact .inl rfl
    · rfl
  · exact .goesOn c1 {} ((Chip.leads.refl hr).kept hg h1)

end Sys2Proof.Machine
end

section
/-! SUPPORT. Boundary ends: what each end of a boundary leaves in the group, its counters and its records. -/

namespace Sys2Proof.Machine

/-! ### The boundary of another group -/

namespace Chip.seqKept

variable {g : Nat}

theorem of_beatAt {c : Chip} {h n bound : Nat} {r : Happen × Chip} (hr : c.BeatAt h n bound r) (hne : g ≠ h) :
    c.seqKept g r.2 := by
  cases hr with
  | goesOn e _ he => exact (he.other g hne).trans (nextFrame_other e n bound false _ hne)
  | replays e w pos bytes _ he =>
    exact (he g).trans ((playFrame_other e n bound w pos none bytes hne).trans (setGroup_other _ _ hne))
  | underran e w pos he => exact (he g).trans (underrunAt_other e n bound w pos hne)
  | faults e he => exact (he g).trans (faultAt_other e n bound hne)
  | ends e cause _ he => exact (he g).trans (endGroup_other e cause bound hne)
  | pauses e he => exact (he g).trans (pause_other e 3 bound hne)
  | holds e he => exact (he g).trans (holdFrames_other e 1 hne)

theorem beat_other (c : Chip) {h : Nat} (hh : h < 12) (hne : g ≠ h) : c.seqKept g (c.beat h).2 := by
  by_cases hw : (c.group h).owner = none ∨ ¬ (c.group h).runs ∨ (c.group h).awaitsResults = true
  · rw [Chip.beat_waits c h hw]
    exact refl c
  · obtain ⟨ho, hr, hres⟩ := by simpa only [not_or, not_not, Bool.not_eq_true] using hw
    obtain ⟨n, ho⟩ := Option.ne_none_iff_exists'.1 ho
    exact of_beatAt (c.beat_spec hh ho hr hres) hne

theorem peerEnds (c : Chip) {h : Nat} (hh : h < 12) (hne : g ≠ h) : c.seqKept g (c.peerEnds h) := by
  unfold Chip.peerEnds Chip.turn
  exact .ite ((holdFrames_other c _ hne).trans (beat_other _ hh hne)) (refl c)

end Chip.seqKept

/-! ### What the group's own boundary comes to -/

/-- What an end of group g's boundary in c leaves in d (R124, R125, R130 to R132, R136). -/
def Chip.comesTo (c : Chip) (g : Nat) (d : Chip) (b : Beat) : Prop :=
  let x := c.group g
  let z := d.group g
  match b with
  | .nothing => d = c
  | .plays => z.st = 1 ∧ z.frame = x.frame + 1
  | .holds => z.st = 2 ∧ z.frame = x.frame + 1 ∧ d.reg64 (seqB g + 0x58) = (c.reg64 (seqB g + 0x58) + 1) % 2 ^ 64
  | .pauses => z.st = 3 ∧ z.frame = x.frame ∧ z.walk = x.walk
  | .stalls => z.st = 4 ∧ z.frame = x.frame ∧ d.field (firnB g + 4) 31 31 = 1 ∧ c.counted d (seqB g + 0x54)
  | .ended => z.st = 5
  | .underran => z.st = 5 ∧ z.cause = 2 ∧ d.reg (seqB g + 0x68) = BitVec.ofNat 32 x.frame ∧ d.waits (srcSeq g) 0x0100

/-- A boundary of group g that has come to an end: what that leaves, and SEQ_CNT_MATCH_TO where a JCOND fell through
(R118). -/
structure Chip.tells (c : Chip) (g : Nat) (r : Happen × Chip) : Prop where
  busy : r.1.beat ≠ .nothing
  comes : c.comesTo g r.2 r.1.beat
  fell : r.1.fell = true → c.counted r.2 (seqB g + 0x44)

theorem Chip.reg64_setReg64_mod (c : Chip) (a v : Nat) : (c.setReg64 a v).reg64 a = v % 2 ^ 64 := by
  unfold Chip.reg64 Chip.setReg64
  rw [Chip.reg_setReg_other _ _ (by omega : a ≠ a + 4), Chip.reg_setReg_same, Chip.reg_setReg_same]
  simp only [BitVec.toNat_ofNat]
  omega

theorem Chip.reg64_congr {c d : Chip} {a : Nat} (h : d.reg a = c.reg a) (h' : d.reg (a + 4) = c.reg (a + 4)) :
    d.reg64 a = c.reg64 a := by
  unfold Chip.reg64
  rw [h, h']

/-- What a boundary told after something else that left the sequencer alone, it told. -/
theorem Chip.tells.of_kept {c d : Chip} {g : Nat} {r : Happen × Chip} (hg : g < 12) (h : d.tells g r) (hd : c.seqKept g d)
    (hr : (c.group g).runs) : c.tells g r := by
  obtain ⟨busy, comes, fell⟩ := h
  obtain ⟨-, -, -, hframe, hwalk, -⟩ := Group.seqPart_eq_iff.1 (hd.group (Group.unpaused_of_runs hr))
  have hreg {a : Nat} (h1 : seqB g + 0x40 ≤ a) (h2 : a < seqB g + 0x60) (h3 : a < seqB g + 0x50 ∨ seqB g + 0x54 ≤ a) :
      d.reg a = c.reg a := hd.reg a (seqRegs_own hg (by omega))
  refine ⟨busy, ?_, fun hf => ?_⟩
  · generalize r.1.beat = b at busy comes
    unfold Chip.comesTo Chip.counted at *
    dsimp only at comes ⊢
    rw [hframe, hwalk, hreg (by omega) (by omega) (by omega), Chip.reg64_congr (hreg (by omega) (by omega) (by omega))
      (hreg (by omega) (by omega) (by omega))] at comes
    cases b with
    | nothing => exact absurd rfl busy
    | plays | stalls | underran | ended | pauses | holds => exact comes
  · rw [Chip.counted, ← hreg (by omega) (by omega) (by omega)]
    exact fell hf

namespace Chip.leads

variable {g : Nat} {c d : Chip} {fell : Bool} {h : Happen}

theorem of_kept (hg : g < 12) (hr : (c.group g).runs) (hd : ∀ k, c.seqKept k d) : c.leads g false d := (refl hr).kept hg hd

theorem fell_of_shown (hg : g < 12) {e : Chip} (hl : c.leads g fell d) (hs : d.seqShown g e) :
    fell = true → c.counted e (seqB g + 0x44) := fun hf =>
  (hs.reg _ (seqRegs_own hg (by omega))).trans (hl.fell hf)

/-- Data is missing in an elastic burst (R132). -/
theorem stalls (hl : c.leads g h.fell d) (bound : Nat) : c.tells g
    ({ h with beat := .stalls }, ((d.pause g 4 bound).cntUp (seqB g + 0x54)).setField (firnB g + 4) 31 31 1) := by
  have hne (o : Nat) : seqB g + o ≠ firnB g + 4 := by
    unfold seqB firnB
    omega
  obtain ⟨y, hst, hframe, -, hgroup, hreg⟩ := d.pause_spec g 4 bound
  subst hgroup
  refine ⟨nofun, ⟨hst, hframe.trans hl.frame, ?_, ?_⟩, fun hf => ?_⟩
  · exact Chip.field_setField_same _ _ _ _ _ (by decide) (by decide)
  · rw [Chip.counted, Chip.reg_setField_other _ _ _ _ (hne _), Chip.reg_cntUp_same, hreg, hl.reg _ (by omega) (by omega)]
  · rw [Chip.counted, Chip.reg_setField_other _ _ _ _ (hne _), Chip.reg_cntUp_other _ _ (by omega), hreg]
    exact hl.fell hf

/-- Data is missing, or poisoned (R130, R131). -/
theorem underran (hg : g < 12) (hl : c.leads g h.fell d) (ho : (c.group g).owner ≠ none) (n bound : Nat) (w : Walk)
    (pos : Nat) : c.tells g ({ h with beat := .underran }, d.underrunAt g n bound w pos) := by
  obtain ⟨e, he, hw, hend⟩ := d.underrunAt_spec g n bound w pos
  obtain ⟨hframe, hregs⟩ := reg_underrunFrame d g (d.group g).frame
  obtain ⟨ho', hst', -, -, -, -⟩ := Group.seqPart_eq_iff.1 ((he g).group (Group.unpaused_of_runs hl.runs))
  obtain ⟨hst, hcause⟩ := e.endGroup_runs 2 bound (by rw [ho']; exact hl.owner ▸ ho) (by rw [hst']; exact hl.runs)
  have hpeers := Chip.seqKept.endPeers (g := g) (e.endGroup g 2 bound) n g 3 bound
  obtain ⟨-, hst2, hcause2, -⟩ := Group.seqPart_eq_iff.1 (hpeers.group (by unfold Group.unpaused; omega))
  have hs : e.seqShown g (d.underrunAt g n bound w pos) := by
    rw [hend]
    exact .trans (.endGroup e g 2 bound) hpeers.toseqShown
  refine ⟨nofun, ⟨?_, ?_, ?_, hs.waits _ _ hw⟩, fun hf => ?_⟩
  · rw [hend, hst2, hst]
  · rw [hend, hcause2, hcause]
  · rw [hs.reg _ (seqRegs_own hg (by omega)), (he g).reg _ (seqRegs_own hg (by omega)), hframe, hl.frame]
  · rw [Chip.counted, hs.reg _ (seqRegs_own hg (by omega)), (he g).reg _ (seqRegs_own hg (by omega)),
      hregs _ (by omega)]
    exact hl.fell hf

/-- The burst of the group ends (R127, R130, R134). -/
theorem ended (hg : g < 12) (hl : c.leads g h.fell d) (ho : (c.group g).owner ≠ none) (cause bound : Nat)
    (op : Option Nat) : c.tells g ({ h with beat := .ended, op := op }, d.endGroup g cause bound) :=
  ⟨nofun, (d.endGroup_runs cause bound (hl.owner ▸ ho) hl.runs).1, hl.fell_of_shown hg (.endGroup d g cause bound)⟩

/-- A frame plays (R106). -/
theorem plays (hg : g < 12) (hl : c.leads g h.fell d) (n bound : Nat) (w : Walk) (pos : Nat) (word : Option SeqWord)
    (bytes : List Byte) (op : Option Nat) {e : Chip} (he : (d.playFrame g n bound w pos word bytes).seqKept g e) :
    c.tells g ({ h with beat := .plays, op := op }, e) := by
  obtain ⟨hst, hframe, -, hs⟩ := d.playFrame_runs g n bound w pos word bytes he
  exact ⟨nofun, ⟨hst, hframe.trans (by rw [hl.frame])⟩, hl.fell_of_shown hg hs⟩

end Chip.leads

theorem Chip.tells.of_frameNext {c d : Chip} {g n bound pc : Nat} {h : Happen} {r : Happen × Chip} (hg : g < 12)
    (hl : c.leads g h.fell d) (ho : (c.group g).owner ≠ none) (hr : d.FrameNext g n bound pc h r) : c.tells g r := by
  cases hr with
  | stalls e he => exact (hl.kept hg he).stalls bound
  | underran e w pos he => exact (hl.kept hg he).underran hg ho n bound w pos
  | ended e cause he => exact (hl.kept hg he).ended hg ho cause bound _
  | plays e w pos word bytes op he _ => exact (hl.kept hg he).plays hg n bound w pos word bytes op (.pump _ g)

theorem Chip.faultAt_runs (c : Chip) {g : Nat} (n bound : Nat) (ho : (c.group g).owner ≠ none) (hr : (c.group g).runs) :
    ((c.faultAt g n bound).group g).st = 5 ∧ ((c.faultAt g n bound).group g).cause = 5 ∧
      (c.faultAt g n bound).waits (srcSeq g) 0x0101 := by
  unfold Chip.faultAt
  extract_lets d
  have hd : d.group g = c.group g := Chip.group_of_groups (Chip.raiseErr_groups ..) g
  obtain ⟨hst, hcause⟩ := d.endGroup_runs (g := g) 5 bound (by rwa [hd]) (by rwa [hd])
  have hpeers := Chip.seqKept.endPeers (g := g) (d.endGroup g 5 bound) n g 6 bound
  obtain ⟨-, hst', hcause', -⟩ := Group.seqPart_eq_iff.1 (hpeers.group (by unfold Group.unpaused; omega))
  refine ⟨hst'.trans hst, hcause'.trans hcause, hpeers.waits _ _ ?_⟩
  exact (Chip.seqShown.endGroup (k := g) d g 5 bound).waits _ _ (Chip.raiseErr_waits ..)

/-- The end of each frame tells what it came to. -/
theorem Chip.tells.of_beatAt {c : Chip} {g n bound : Nat} {r : Happen × Chip} (hg : g < 12)
    (ho : (c.group g).owner ≠ none) (hr : (c.group g).runs) (hb : c.BeatAt g n bound r) : c.tells g r := by
  have hl {e : Chip} (he : ∀ k, c.seqKept k e) : c.leads g false e := .of_kept hg hr he
  cases hb with
  | goesOn e h he => exact .of_frameNext hg he ho (e.nextFrame_spec g n bound false h)
  | replays e w pos bytes tests he =>
    exact (hl he).plays (h := {}) hg n bound w pos none bytes _ (.setGroup _ g (by rfl))
  | underran e w pos he => exact (hl he).underran (h := {}) hg ho n bound w pos
  | faults e he =>
    have hl' := hl he
    exact ⟨nofun, (e.faultAt_runs n bound (hl'.owner ▸ ho) hl'.runs).1, nofun⟩
  | ends e cause op he => exact (hl he).ended (h := {}) hg ho cause bound op
  | pauses e he =>
    obtain ⟨y, hst, hframe, hwalk, hgroup, -⟩ := e.pause_spec g 3 bound
    obtain ⟨-, -, -, hframe', hwalk', -⟩ := Group.seqPart_eq_iff.1 ((he g).group (Group.unpaused_of_runs hr))
    subst hgroup
    exact ⟨nofun, ⟨hst, hframe.trans hframe', hwalk.trans hwalk'⟩, nofun⟩
  | holds e he =>
    obtain ⟨d, y, hd, hst, hframe, hlast⟩ := e.holdFrames_spec g 1
    have hld := hl fun k => (he k).trans (hd k)
    have hset : ((d.setGroup g y).setReg64 (seqB g + 0x58) (d.reg64 (seqB g + 0x58) + 1)).group g = y :=
      Chip.group_setGroup_same d g y
    have hpart := (hlast g).group (by rw [hset]; unfold Group.unpaused; omega)
    rw [hset] at hpart
    obtain ⟨-, hst', -, hframe', -, -⟩ := Group.seqPart_eq_iff.1 hpart
    refine ⟨nofun, ⟨hst'.trans hst, hframe'.trans (hframe.trans (by rw [hld.frame])), ?_⟩, nofun⟩
    have hkept (a : Nat) (h1 : seqB g + 0x54 ≤ a) (h2 : a < seqB g + 0x60) := (hlast g).reg a (seqRegs_own hg (by omega))
    rw [Chip.reg64_congr (hkept _ (by omega) (by omega)) (hkept _ (by omega) (by omega)), Chip.reg64_setReg64_mod,
      Chip.reg64_congr (hld.reg _ (by omega) (by omega)) (hld.reg _ (by omega) (by omega))]

end Sys2Proof.Machine
end

section
/-! SUPPORT. Boundary rows: the boundary of a group among its peers, jumps, faults, and the obligation of frame
boundaries. -/

namespace Sys2Proof.Machine

/-! ### The boundary of a group (R106, R117, R130, R134) -/

theorem Group.runs_of_seqPart {x y : Group} (h : y.seqPart = x.seqPart) (hx : x.runs) : y.runs := by
  unfold Group.runs
  rwa [Group.st_of_seqPart h]

theorem Group.awaitsResults_of_seqPart {x y : Group} (h : y.seqPart = x.seqPart) : y.awaitsResults = x.awaitsResults := by
  obtain ⟨-, -, -, hframe, -, hpipe⟩ := Group.seqPart_eq_iff.1 h
  unfold Group.awaitsResults
  rw [hframe, hpipe]

theorem Chip.peers_mem {c : Chip} {n g h : Nat} (hm : h ∈ c.peers n g) : h < 12 ∧ g ≠ h := by
  obtain ⟨hmem, hne⟩ := List.mem_filter.1 hm
  exact ⟨Chip.taskGroups_lt hmem, fun e => by simp [e] at hne⟩

/-- The next boundary of group g, in fine units after the epoch. -/
def Chip.bound (c : Chip) (g : Nat) : Nat := uiStart (c.period g (c.group g).pa) (c.group g).ui
/-- The device as time has gone on to it. -/
def Chip.atBound (c : Chip) (g : Nat) : Chip := c.advanceTo ((c.group g).epoch + c.bound g / 512)

/-- A boundary waits, or it tells what it came to; peers that end at its time leave the group where it stands until
then. -/
theorem Chip.boundary_spec (c : Chip) {g : Nat} (hg : g < 12) : c.boundary g = ({}, c) ∨ c.tells g (c.boundary g) := by
  unfold Chip.boundary
  split
  · exact .inl rfl
  rename_i n ho
  extract_lets +onlyGivenNames x b ps
  split
  · exact .inl rfl
  rename_i hbusy
  split
  · exact .inl rfl
  right
  have hr : (c.group g).runs := by
    have hst : ¬ ((c.group g).st ≠ 1 ∧ (c.group g).st ≠ 2) := (not_or.1 hbusy).1
    unfold Group.runs
    omega
  have hw : (c.group g).awaitsResults = false := by simpa using (not_or.1 hbusy).2
  have hpeers : c.seqKept g ((ps.filter (fun h => decide (c.turnAt h = b))).foldl Chip.peerEnds c) :=
    .foldl _ (fun h hh d =>
      have hpeer := Chip.peers_mem (List.mem_filter.1 hh).1
      .peerEnds d hpeer.1 hpeer.2) c
  generalize (ps.filter (fun h => decide (c.turnAt h = b))).foldl Chip.peerEnds c = d at hpeers
  have hpart := hpeers.group (Group.unpaused_of_runs hr)
  obtain ⟨hod, -⟩ := Group.seqPart_eq_iff.1 hpart
  have hdr := Group.runs_of_seqPart hpart hr
  have hd := d.beat_spec hg (hod.trans ho) hdr ((Group.awaitsResults_of_seqPart hpart).trans hw)
  exact (Chip.tells.of_beatAt hg (by rw [hod, ho]; exact nofun) hdr hd).of_kept hg hpeers hr

theorem Chip.boundary_comes (c : Chip) {g : Nat} (hg : g < 12) : c.comesTo g (c.boundary g).2 (c.boundary g).1.beat := by
  obtain h | h := c.boundary_spec hg
  · rw [h]
    exact rfl
  · exact h.comes

theorem Chip.boundary_fell (c : Chip) {g : Nat} (hg : g < 12) (hf : (c.boundary g).1.fell = true) :
    c.counted (c.boundary g).2 (seqB g + 0x44) := by
  obtain h | h := c.boundary_spec hg
  · rw [h] at hf
    exact nomatch hf
  · exact h.fell hf

/-- Peers whose turn at the time of a boundary ends none of them change nothing. -/
theorem Chip.foldl_peerEnds_still {c : Chip} :
    ∀ {hs : List Nat}, (∀ h ∈ hs, c.peerEnds h = c) → hs.foldl Chip.peerEnds c = c
  | [], _ => rfl
  | h :: hs, hc => by
    rw [List.foldl_cons, hc h List.mem_cons_self]
    exact foldl_peerEnds_still fun k hk => hc k (List.mem_cons_of_mem _ hk)

/-- A boundary that does not wait, and at whose time no peer ends, is the end of the group's own frame. -/
theorem Chip.boundary_still (c : Chip) {g n : Nat} (ho : (c.group g).owner = some n)
    (hp : ∀ h ∈ c.peers n g, c.turnAt h = c.bound g → c.peerEnds h = c)
    (hb : (c.boundary g).1.beat ≠ .nothing) : c.boundary g = c.beat g := by
  revert hb
  unfold Chip.bound at hp
  unfold Chip.boundary
  simp only [ho]
  split
  · exact fun hb => absurd rfl hb
  split
  · exact fun hb => absurd rfl hb
  · rw [Chip.foldl_peerEnds_still fun h hh => hp h (List.mem_filter.1 hh).1 (of_decide_eq_true (List.mem_filter.1 hh).2)]
    exact fun _ => rfl

/-- A boundary that every peer reaches later is the end of the group's own frame. -/
theorem Chip.boundary_first (c : Chip) {g n : Nat} (ho : (c.group g).owner = some n) (hr : (c.group g).runs)
    (hw : (c.group g).awaitsResults = false)
    (hp : ∀ h ∈ c.peers n g, c.bound g < c.turnAt h) : c.boundary g = c.beat g := by
  unfold Chip.bound at hp
  have hnone : (c.peers n g).filter
      (fun h => decide (c.turnAt h = uiStart (c.period g (c.group g).pa) (c.group g).ui)) = [] :=
    List.filter_eq_nil_iff.2 fun h hh => by
      have := hp h hh
      simp only [decide_eq_true_eq]
      omega
  unfold Chip.boundary
  simp only [ho]
  rw [if_neg, if_neg, hnone]
  · rfl
  · simp only [List.any_eq_true, Bool.or_eq_true, Bool.and_eq_true, decide_eq_true_eq, not_exists, not_and]
    intro h hh
    have := hp h hh
    omega
  · unfold Group.runs at hr
    simp only [hw, Bool.false_eq_true, or_false]
    omega

/-- A boundary that does not wait is that of a group that plays or holds. -/
theorem Chip.runs_of_beat (c : Chip) {g : Nat} (hb : (c.beat g).1.beat ≠ .nothing) : (c.group g).runs := by
  by_contra hn
  rw [c.beat_waits g (.inr (.inl hn))] at hb
  exact hb rfl

/-! ### Jumps (R115, R117) -/

/-- Where a boundary comes to a frame that plays, a taken jump to a word went before it. -/
def Chip.playsByJump (c : Chip) (g n bound target : Nat) (r : Happen × Chip) : Prop :=
  r.1.beat = .plays → ∃ d abandon, (∀ k, c.seqKept k d) ∧ r = (d.takeJump g target abandon).nextFrame g n bound false {}

theorem Chip.playsByJump.ite {c : Chip} {g n bound target : Nat} {p : Prop} [Decidable p] {a b : Happen × Chip}
    (h : c.playsByJump g n bound target a) (h' : c.playsByJump g n bound target b) :
    c.playsByJump g n bound target (if p then a else b) := by
  split
  · exact h
  · exact h'

/-- A JMP, or a JCOND whose condition holds, takes its jump before the next frame plays. -/
theorem Chip.beat_jumps (c : Chip) {g n : Nat} (ho : (c.group g).owner = some n) (hj : (c.group g).judged = false)
    {y : SeqWord} (hy : (c.group g).word (c.group g).walk.pc = y)
    (hop : y.op = 5 ∨ y.op = 6 ∧ ((c.atBound g).jcond (c.group g) n ((c.atBound g).frameStart g) y).1 = true) :
    c.playsByJump g n (c.bound g) y.w1 (c.beat g) := by
  subst hy
  unfold Chip.beat
  extract_lets +onlyGivenNames x
  split
  · exact nofun
  rename_i m ho'
  obtain rfl : m = n := Option.some.inj (ho'.symm.trans ho)
  refine .ite nofun ?_
  extract_lets +onlyGivenNames per bound c1 y op peer cause before due
  have h1 (k : Nat) : c.seqKept k c1 := .advanceTo c _
  have hop' : op = y.op := if_neg (by rw [show x.judged = false from hj]; decide)
  refine .ite nofun (.ite nofun (.ite nofun (.ite nofun ?_)))
  clear_value op
  obtain hop | ⟨hop, hc⟩ := hop
  · obtain rfl : op = 5 := hop'.trans hop
    exact fun _ => ⟨c1, false, h1, rfl⟩
  · obtain rfl : op = 6 := hop'.trans hop
    exact fun _ => ⟨_, true, fun k => (h1 k).trans (.jcond c1 x m (c1.frameStart g) y), if_pos hc⟩

/-- After a taken jump the frame of the word it names plays, and SEQ_CNT_JUMP counts it. -/
theorem Chip.playsByJump.jumped {c : Chip} {g n bound target : Nat} {r : Happen × Chip} (hg : g < 12)
    (hr : (c.group g).runs) (h : c.playsByJump g n bound target r) (hb : r.1.beat = .plays) :
    (r.2.group g).walk.pc = target ∧ c.counted r.2 (seqB g + 0x40) := by
  obtain ⟨d, abandon, hd, rfl⟩ := h hb
  obtain ⟨y, -, hst, -, hwalk, hy⟩ := d.takeJump_spec g target abandon
  have hset : ((d.setGroup g y).cntUp (seqB g + 0x40)).group g = y := Chip.group_setGroup_same d g y
  have hyr : y.runs := by
    unfold Group.runs
    rw [hst]
    exact Group.runs_of_seqPart ((hd g).group (Group.unpaused_of_runs hr)) hr
  have hpart := (hy g).group (by rw [hset]; exact Group.unpaused_of_runs hyr)
  rw [hset] at hpart
  obtain ⟨-, -, -, -, hwalk', -⟩ := Group.seqPart_eq_iff.1 hpart
  obtain ⟨hpc, hs⟩ := ((d.takeJump g target abandon).nextFrame_spec g n bound false {}).plays_pc hb
  refine ⟨hpc.trans ?_, ?_⟩
  · rw [hwalk', hwalk]
    rfl
  · rw [Chip.counted, hs.reg _ (seqRegs_own hg (by omega)), (hy g).reg _ (seqRegs_own hg (by omega)), Chip.reg_cntUp_same,
      Chip.reg_setGroup, (hd g).reg _ (seqRegs_own hg (by omega))]

/-! ### Faults (R134, R395) -/

/-- A fault that is due ends the burst at the boundary (R134). -/
theorem Chip.beat_faultDue (c : Chip) {g n : Nat} (ho : (c.group g).owner = some n) (hr : (c.group g).runs)
    (hw : (c.group g).awaitsResults = false) (hf : (c.group g).faultDue = true) :
    c.beat g = ({ beat := .ended }, (c.atBound g).faultAt g n (c.bound g)) := by
  unfold Chip.beat
  extract_lets +onlyGivenNames x
  split
  · rename_i ho'
    exact nomatch ho.symm.trans ho'
  rename_i m ho'
  obtain rfl : m = n := Option.some.inj (ho'.symm.trans ho)
  rw [if_neg, if_pos hf]
  · rfl
  · unfold Group.runs at hr
    simp only [x, hw, Bool.false_eq_true, or_false]
    omega

theorem Chip.faultAt_atBound (c : Chip) {g n : Nat} (ho : (c.group g).owner = some n) (hr : (c.group g).runs) :
    (((c.atBound g).faultAt g n (c.bound g)).group g).st = 5 ∧
    (((c.atBound g).faultAt g n (c.bound g)).group g).cause = 5 ∧
    ((c.atBound g).faultAt g n (c.bound g)).waits (srcSeq g) 0x0101 := by
  have hpart := (Chip.seqKept.advanceTo (g := g) c ((c.group g).epoch + c.bound g / 512)).group (Group.unpaused_of_runs hr)
  refine (c.atBound g).faultAt_runs n _ ?_ (Group.runs_of_seqPart hpart hr)
  obtain ⟨hod, -⟩ := Group.seqPart_eq_iff.1 hpart
  unfold Chip.atBound
  rw [hod, ho]
  exact nofun

/-- The device with a fault of group g due. -/
def Chip.withFault (c : Chip) (g : Nat) : Chip := c.setGroup g { c.group g with faultDue := true }

/-- A fault that is due where every peer reaches its next boundary later ends the burst. -/
theorem Chip.boundary_withFault (c : Chip) {g n : Nat} (ho : (c.group g).owner = some n) (hr : (c.group g).runs)
    (hw : (c.group g).awaitsResults = false) (hp : ∀ h ∈ c.peers n g, c.bound g < c.turnAt h) :
    (((c.withFault g).boundary g).2.group g).st = 5 ∧ (((c.withFault g).boundary g).2.group g).cause = 5 ∧
      ((c.withFault g).boundary g).2.waits (srcSeq g) 0x0101 := by
  have hgroup : (c.withFault g).group g = { c.group g with faultDue := true } := Chip.group_setGroup_same _ _ _
  have hother {h : Nat} (hne : g ≠ h) : (c.withFault g).group h = c.group h := by
    rw [Chip.withFault, Chip.group_setGroup, if_neg hne.symm]
  have ho' : ((c.withFault g).group g).owner = some n := by rwa [hgroup]
  have hr' : ((c.withFault g).group g).runs := by rwa [hgroup]
  have hw' : ((c.withFault g).group g).awaitsResults = false := by rwa [hgroup]
  have hbound : (c.withFault g).bound g = c.bound g := by
    unfold Chip.bound
    rw [hgroup]
    rfl
  rw [Chip.boundary_first _ ho' hr' hw', Chip.beat_faultDue _ ho' hr' hw' (by rw [hgroup])]
  · exact (c.withFault g).faultAt_atBound ho' hr'
  · intro h hh
    have hne := (Chip.peers_mem hh).2
    have hturn : (c.withFault g).turnAt h = c.turnAt h := by
      unfold Chip.turnAt
      rw [hother hne]
      rfl
    rw [hturn]
    refine hbound.trans_lt (hp h ?_)
    unfold Chip.peers at hh ⊢
    rw [List.mem_filter, hother hne] at hh
    exact List.mem_filter.2 hh

/-- A fault of program memory met where no peer is at or before the boundary: it ends the burst there. -/
theorem progFault_met (c : Chip) {g n : Nat} {parity : Bool} (ho : (c.group g).owner = some n) (hr : (c.group g).runs)
    (hm : parity = true ∧ c.begun n g = false ∨ (c.group g).faultDue = true) :
    progFault g parity c = ((c.withFault g).boundary g).2 := by
  unfold progFault
  extract_lets +onlyGivenNames x
  split
  · rename_i ho'
    exact nomatch ho.symm.trans ho'
  rename_i m ho'
  obtain rfl : m = n := Option.some.inj (ho'.symm.trans ho)
  have hst : ¬ ((c.group g).st = 0 ∨ (c.group g).st = 5) := by
    unfold Group.runs at hr
    omega
  have hnow : (!x.faultDue && (x.st == 1 || x.st == 2) && c.begun m g) = false := by
    obtain ⟨-, hb⟩ | hf := hm
    · rw [hb, Bool.and_false]
    · rw [show x.faultDue = true from hf]
      rfl
  rw [if_neg]
  · simp only [hnow, Bool.false_eq_true, if_false]
    rw [if_neg hst]
    rfl
  · rw [← or_assoc]
    refine not_or.2 ⟨hst, ?_⟩
    obtain ⟨hp, -⟩ | hf := hm
    · rw [hp, Bool.true_or]
      decide
    · rw [show x.faultDue = true from hf, Bool.or_true]
      decide

/-- A fault met in a pause waits for its end (R134). -/
theorem progFault_paused (c : Chip) {g : Nat} (ho : (c.group g).owner ≠ none)
    (hst : (c.group g).st = 3 ∨ (c.group g).st = 4) : progFault g true c = c.withFault g := by
  have hout : ¬ ((c.group g).st = 0 ∨ (c.group g).st = 5) := by omega
  have hpaused : ((c.group g).st == 1 || (c.group g).st == 2) = false := by
    simp only [Bool.or_eq_false_iff, beq_eq_false_iff_ne]
    omega
  unfold progFault
  extract_lets +onlyGivenNames x
  split
  · rename_i ho'
    exact absurd ho' ho
  rw [if_neg]
  · simp only [x, hpaused, Bool.and_false, Bool.false_and, Bool.false_eq_true, if_false]
    rw [if_neg hout]
    unfold Chip.boundary
    split
    · rfl
    · refine congrArg Prod.snd (if_pos (.inl ?_))
      rw [Chip.group_setGroup_same]
      show (c.group g).st ≠ 1 ∧ (c.group g).st ≠ 2
      omega
  · rw [← or_assoc]
    exact not_or.2 ⟨hout, by rw [Bool.true_or]; decide⟩

/-- Without a parity error or a fault that is due nothing happens. -/
theorem progFault_none (c : Chip) {g : Nat} (hf : (c.group g).faultDue = false) : progFault g false c = c := by
  unfold progFault
  extract_lets +onlyGivenNames x
  split
  · rfl
  · exact if_pos (.inr (.inr (by rw [show x.faultDue = false from hf]; rfl)))

/-- A row that is told by how the boundary ends, and a boundary that ends otherwise. -/
theorem Chip.beatRow_pos (c : Chip) {g : Nat} {p : Happen → Bool} (h : p (c.boundary g).1 = true) :
    c.beatRow g p = (c.boundary g).2 := if_pos h
theorem Chip.beatRow_neg (c : Chip) {g : Nat} {p : Happen → Bool} (h : p (c.boundary g).1 = false) : c.beatRow g p = c :=
  if_neg (by rw [h]; decide)

/-! ### The clauses of the obligation -/

/-- A row that changes nothing of the die changes nothing. -/
theorem State.onChip_same {s : State} {f : Chip → Chip} (h : f s.chip = s.chip) : ∃ t, s.onChip f = .next t ∧ t = s :=
  ⟨s, s.onChip_of_eq h, rfl⟩

theorem frameBoundary_comes (s : State) (g : Grp) :
    ∃ t, exec (.frameBoundary g) s = .next t ∧ s.chip.comesTo g t.chip (s.chip.boundary g).1.beat ∧
      ((s.chip.boundary g).1.beat = .nothing → t = s) := by
  refine ⟨_, rfl, s.chip.boundary_comes g.isLt, fun hb => ?_⟩
  have hsame := s.chip.boundary_comes g.isLt
  rw [hb] at hsame
  exact congrArg (fun c => { s with chip := c }) hsame

theorem seqFault_ends (s : State) (g : Grp) (n : Nat) {f : ParityAt} (ho : (s.chip.group g).owner = some n)
    (hr : (s.chip.group g).runs) (hw : (s.chip.group g).awaitsResults = false)
    (hp : ∀ h ∈ s.chip.peers n g, s.chip.bound g < s.chip.turnAt h)
    (hf : f = .program ∧ s.chip.begun n g = false ∨ (f = .program ∨ f = .nowhere) ∧ (s.chip.group g).faultDue = true) :
    ∃ t, exec (.seqFault g f) s = .next t ∧ (t.chip.group g).st = 5 ∧ (t.chip.group g).cause = 5 ∧
      t.chip.waits (srcSeq g) 0x0101 := by
  have hrow : seqFault g f s.chip = ((s.chip.withFault g).boundary g).2 := by
    obtain ⟨rfl, hb⟩ | ⟨rfl | rfl, hd⟩ := hf
    · exact progFault_met s.chip ho hr (.inl ⟨rfl, hb⟩)
    · exact progFault_met s.chip ho hr (.inr hd)
    · exact progFault_met s.chip ho hr (.inr hd)
  exact ⟨_, s.onChip_of_eq hrow, s.chip.boundary_withFault ho hr hw hp⟩

/-! ### The obligation -/

/-- Settles O45: each end of a boundary through what it leaves in the group (`Chip.comesTo`), peers leaving the sequencer
where it stands (`Chip.seqKept`), a jump through the walk it sends to its word, and a fault through the boundary that ends
the burst. -/
theorem frameBoundaries : Obligations.FrameBoundaries := by
  unfold Obligations.FrameBoundaries
  refine ⟨?_, ?_, ?_, ?_, ?_, ?_, ?_, ?_, ?_, ?_, ?_⟩
  · intro s g
    obtain ⟨t, ht, hcomes, hnothing⟩ := frameBoundary_comes s g
    refine ⟨t, ht, hnothing, ?_, ?_, ?_, ?_, ?_, ?_⟩
    all_goals
      intro hb
      rw [hb] at hcomes
    · exact hcomes
    · exact hcomes
    · exact hcomes
    · exact ⟨hcomes.1, hcomes.2.1⟩
    · exact hcomes
    · exact ⟨hcomes.1, hcomes.2.1⟩
  · intro s g n x y per c ho hj hp hop hb
    have hstill := s.chip.boundary_still ho hp (by rw [hb]; exact nofun)
    rw [hstill] at hb
    have hr : (s.chip.group g).runs := s.chip.runs_of_beat (by rw [hb]; exact nofun)
    obtain ⟨hpc, hcount⟩ := (s.chip.beat_jumps ho hj rfl hop).jumped g.isLt hr hb
    refine ⟨_, rfl, ?_⟩
    change ((s.chip.boundary g).2.group g).walk.pc = y.w1 ∧ s.chip.counted (s.chip.boundary g).2 _
    rw [hstill]
    exact ⟨hpc, hcount⟩
  · intro s g hf
    exact ⟨_, s.onChip_of_eq (s.chip.beatRow_pos hf), s.chip.boundary_fell g.isLt hf⟩
  · intro s g hf
    exact State.onChip_same (s.chip.beatRow_neg hf)
  · intro s g hb
    have hcomes := s.chip.boundary_comes g.isLt
    rw [hb] at hcomes
    exact ⟨_, s.onChip_of_eq (s.chip.beatRow_pos (by rw [hb]; rfl)), hcomes⟩
  · intro s g hb
    have hcomes := s.chip.boundary_comes g.isLt
    rw [hb] at hcomes
    exact ⟨_, s.onChip_of_eq (s.chip.beatRow_pos (by rw [hb]; rfl)), hcomes⟩
  · intro s g hb
    exact ⟨State.onChip_same (s.chip.beatRow_neg (by rw [hb]; rfl)),
      State.onChip_same (s.chip.beatRow_neg (by rw [hb]; rfl))⟩
  · intro s g n f x ho hr hw hp hf
    exact seqFault_ends s g n ho hr hw hp hf
  · intro s g x ho hst
    refine ⟨_, s.onChip_of_eq (progFault_paused s.chip ho hst), ?_⟩
    rw [Chip.withFault, Chip.group_setGroup_same]
    exact ⟨rfl, rfl⟩
  · intro s g hf
    exact State.onChip_same (progFault_none s.chip hf)
  · intro s g b
    exact ⟨_, rfl, Chip.raiseErr_waits _ _ _ _ _ _, Chip.raiseErr_groups .., Chip.raiseErr_sched ..⟩

end Sys2Proof.Machine
end

section
/-! SUPPORT. Image commands: IMAGE_LOAD, the end of its check, IMAGE_UNLOAD, and their obligation. -/

namespace Sys2Proof.Machine

/-! ### The table of loaded images (R138) -/

theorem Chip.imageLoaded_of_tabSet {c : Chip} {t : Table Image} {k : Nat} {im : Image}
    (h : c.images.loaded = tabSet t k im) : c.imageLoaded k = true := by
  unfold Chip.imageLoaded
  rw [h]
  exact List.any_eq_true.2 ⟨_, List.mem_of_find?_eq_some (find?_tabSet_same t k im), by simp⟩

theorem Chip.imageLoaded_of_images {c d : Chip} (h : d.images.loaded = c.images.loaded) (k : Nat) :
    d.imageLoaded k = c.imageLoaded k := by
  unfold Chip.imageLoaded
  rw [h]

theorem Chip.image_of_images {c d : Chip} (h : d.images = c.images) (k : Nat) : d.image k = c.image k := by
  unfold Chip.image
  rw [h]

/-! ### The lines that a check asks for (R137, R139) -/

/-- The memory has what waits for a host slot. -/
theorem Chip.memHas_of_mem (c : Chip) (p : Who → Bool) {r : Req} {ch : Nat} (h : r ∈ (c.memCh ch).host)
    (hp : p r.who = true) : c.memHas p = true := by
  rcases tabGet_default_or_mem {} c.mem.ch ch with hd | hm
  · rw [Chip.memCh, hd] at h
    exact absurd h List.not_mem_nil
  · refine List.any_eq_true.2 ⟨_, hm, Bool.or_eq_true_iff.2 (.inl (List.any_eq_true.2 ⟨r, ?_, hp⟩))⟩
    exact List.mem_append_right _ h

/-- The check asks for the line at an address. -/
def Chip.askLine (c : Chip) (a : Nat) : Chip :=
  { c with images := { c.images with asked := c.images.asked + 1 } }.memReq .host { addr := a, who := .check }

@[simp] theorem Chip.askLine_images (c : Chip) (a : Nat) :
    (c.askLine a).images = { c.images with asked := c.images.asked + 1 } := Chip.memReq_images _ _ _
@[simp] theorem Chip.askLine_cmd (c : Chip) (a : Nat) : (c.askLine a).cmd = c.cmd := Chip.memReq_cmd _ _ _
theorem Chip.askLine_waits (c : Chip) (a : Nat) : (c.askLine a).memHas (fun w => w == .check) = true :=
  Chip.memHas_of_mem _ _ (Chip.mem_memPut_self _ { addr := a, who := .check }) rfl

/-- A check that has asked for nothing asks for the two lines of the header. -/
theorem Chip.checkAsk_header (c : Chip) (base len : Nat) (hc : c.images.check = some (base, len))
    (hb : c.images.bad = []) (hg : c.images.grown = false) (ha : c.images.asked = 0) :
    c.checkAsk = (c.askLine base).askLine (base + 128) := by
  have hask : c.checkAsk = (List.range (headerLines - c.images.asked)).foldl
      (fun c _ => c.askLine (base + 128 * c.images.asked)) c := by
    unfold Chip.checkAsk
    rw [hc]
    simp only
    rw [if_neg (by simp [hb]), if_pos (by simp [hg])]
    rfl
  rw [hask, ha]
  change (c.askLine (base + 128 * c.images.asked)).askLine
    (base + 128 * (c.askLine (base + 128 * c.images.asked)).images.asked) = _
  rw [Chip.askLine_images, ha]
  rfl

/-! ### IMAGE_LOAD (R137, R139) -/

theorem exec_imageLoad (s : State) (h : CmdHdr) (base : Dword) (hc : s.chip.hears h (.imageLoad base.toNat)) :
    exec (.imageLoad h base) s =
      .next { s with chip := (s.chip.cmdBegun h (.imageLoad base.toNat)).imageLoadStart base.toNat } :=
  State.onChip_of_eq (f := fun c => c.cmdArrive h (.imageLoad base.toNat)) s
    (Chip.cmdArrive_hears s.chip h (.imageLoad base.toNat) hc)

/-- A beginning command leaves the images alone. -/
theorem Chip.cmdBegun_images (c : Chip) (h : CmdHdr) (x : Cmd) : (c.cmdBegun h x).images = c.images := by
  obtain ⟨ps, rs, q, k, e⟩ := c.cmdBegun_shape h x
  rw [e]

/-- With room for the image, the range of the header is closed and the header asked for. -/
theorem exec_imageLoad_asks (s : State) (h : CmdHdr) (base : Dword) (hc : s.chip.hears h (.imageLoad base.toNat))
    (hroom : s.chip.images.loaded.length < 256) :
    ∃ t, exec (.imageLoad h base) s = .next t ∧ t.chip.executes h (.imageLoad base.toNat) ∧
      t.chip.images.loaded = s.chip.images.loaded ∧ t.chip.images.check = some (base.toNat, 256) ∧
      t.chip.images.grown = false ∧ t.chip.memHas (fun w => w == .check) = true := by
  have hact := s.chip.cmdBegun_active h _ hc
  have him := s.chip.cmdBegun_images h (.imageLoad base.toNat)
  have hrow := exec_imageLoad s h base hc
  generalize s.chip.cmdBegun h (.imageLoad base.toNat) = c at hact him hrow
  have hstart : c.imageLoadStart base.toNat =
      (Chip.askLine { c with images := { c.images.noCheck with check := some (base.toNat, 256) } } base.toNat).askLine
        (base.toNat + 128) := by
    unfold Chip.imageLoadStart
    rw [him, if_neg (by omega)]
    exact Chip.checkAsk_header _ base.toNat 256 rfl rfl rfl rfl
  rw [hstart] at hrow
  refine ⟨_, hrow, ?_, ?_, ?_, ?_, Chip.askLine_waits _ _⟩
  · exact (Chip.active_of_cmd ((Chip.askLine_cmd _ _).trans (Chip.askLine_cmd _ _))).trans hact
  · rw [Chip.askLine_images, Chip.askLine_images, ← him]
    rfl
  · rw [Chip.askLine_images, Chip.askLine_images]
  · rw [Chip.askLine_images, Chip.askLine_images]
    rfl

/-- With every handle taken the command ends at once. -/
theorem exec_imageLoad_full (s : State) (h : CmdHdr) (base : Dword) (hc : s.chip.hears h (.imageLoad base.toNat))
    (hfull : 256 ≤ s.chip.images.loaded.length) :
    ∃ t, exec (.imageLoad h base) s = .next t ∧ t.chip.ended h 0xC ∧ t.chip.images = s.chip.images := by
  have hact := s.chip.cmdBegun_active h _ hc
  have him := s.chip.cmdBegun_images h (.imageLoad base.toNat)
  have hrow := exec_imageLoad s h base hc
  generalize s.chip.cmdBegun h (.imageLoad base.toNat) = c at hact him hrow
  have hstart : c.imageLoadStart base.toNat = (c.count 319).cmdFinish 0xC := by
    unfold Chip.imageLoadStart
    rw [him, if_pos hfull]
  rw [hstart] at hrow
  refine ⟨_, hrow, Chip.cmdFinish_ended _ h _ _ _ _ ((Chip.active_of_cmd (Chip.count_cmd _ _ _)).trans hact), ?_⟩
  rw [Chip.cmdFinish_images, Chip.count_images, him]

/-- A base that is not a multiple of 4,096, or whose header would pass the end of the LPDDR5X, is refused as it comes. -/
theorem Chip.cmdArrive_misplaced (c : Chip) (h : CmdHdr) (base : Nat) (ht : c.takes h.port h.tag)
    (hq : c.cmd.queue.length < 32) (hok : c.cmdOk (.imageLoad base) = true)
    (hbad : base % 4096 ≠ 0 ∨ c.memBytes < base + 256) :
    c.cmdArrive h (.imageLoad base) = ((c.tagged h.port h.tag).count 319).cmdRefuse h 2 0 := by
  obtain ⟨hup, hheld, hrx, htag, -⟩ := ht
  have hoperand : (c.tagged h.port h.tag).badOperand (.imageLoad base) = true := by
    change (false || (base % 4096 != 0 || decide (c.memBytes < base + 256))) = true
    simpa using hbad
  have hjudge : (c.tagged h.port h.tag).judgeCmd c h (.imageLoad base) =
      ((c.tagged h.port h.tag).count 319).cmdRefuse h 2 0 := by
    unfold Chip.judgeCmd
    rw [if_neg (by rw [show (c.tagged h.port h.tag).cmdOk (.imageLoad base) = true from hok]; decide),
      if_pos (by rw [hoperand, Bool.or_true])]
    rfl
  unfold Chip.cmdArrive
  rw [if_neg (by rw [hheld]; simpa using hq)]
  simp only
  split
  · rename_i hcons
    rw [hrx] at hcons
    cases hcons
  · rw [if_neg (by simp [hup]), if_neg htag]
    exact hjudge

theorem exec_imageLoad_misplaced (s : State) (h : CmdHdr) (base : Dword) (ht : s.chip.takes h.port h.tag)
    (hq : s.chip.cmd.queue.length < 32) (hok : s.chip.cmdOk (.imageLoad base.toNat) = true)
    (hbad : base.toNat % 4096 ≠ 0 ∨ s.chip.memBytes < base.toNat + 256) :
    ∃ t, exec (.imageLoad h base) s = .next t ∧ t.chip.completed h.port h.tag 2 (cmdResult h []) ∧
      t.chip.images = s.chip.images ∧ t.chip.cmd = s.chip.cmd := by
  have hrow := State.onChip_of_eq (f := fun c => c.cmdArrive h (.imageLoad base.toNat)) s
    (Chip.cmdArrive_misplaced s.chip h base.toNat ht hq hok hbad)
  refine ⟨_, hrow, Chip.reply_completed _ _ _ _ _ _ _ ?_, ?_, ?_⟩
  · rw [Chip.port_count]
    exact Chip.redirect_of_takes _ ht
  · exact (Chip.reply_images _ _ _ _ _ _ _).trans (Chip.count_images _ _ _)
  · exact (Chip.reply_cmd _ _ _ _ _ _ _).trans (Chip.count_cmd _ _ _)

/-! ### The end of a check (R137, R139) -/

/-- The device that asks for no more lines of a check and has counted its CRCs, before the verdict takes effect. -/
def Chip.checkEnded (c : Chip) (v : Option Breach × Nat × Nat) : Chip := c.endCheck.privCheck 2 v.2.1 v.2.2

theorem Chip.checkEnded_images (c : Chip) (v : Option Breach × Nat × Nat) :
    (c.checkEnded v).images = { c.images.noCheck with check := c.images.check } := rfl
theorem Chip.checkEnded_active (c : Chip) (v : Option Breach × Nat × Nat) : (c.checkEnded v).active = c.active := rfl

/-- An image without a breach takes the lowest free handle. -/
theorem Chip.imageVerdict_passes (c : Chip) (d : Memory) (base k : Nat) (h : CmdHdr) (x : Cmd)
    (hact : c.executes h x) (hk : k < 256) (hfree : c.imageLoaded k = false)
    (hlow : ∀ j, j < k → c.imageLoaded j = true) (hv : (c.verdict d c.images.bad base).1 = none) :
    (c.imageVerdict d base).images.check = none ∧ (c.imageVerdict d base).imageLoaded k = true ∧
      (c.imageVerdict d base).image k = imageOf d base ∧ (c.imageVerdict d base).ended h 0 [BitVec.ofNat 32 k] := by
  generalize hw : c.verdict d c.images.bad base = v at hv
  have hfind : (List.range 256).find? (fun j => !(c.checkEnded v).imageLoaded j) = some k :=
    List.find?_range_eq_some.2
      ⟨by rw [Chip.imageLoaded_of_images (c := c) (d := c.checkEnded v) rfl, hfree]; rfl, List.mem_range.2 hk,
        fun j hj => by rw [Chip.imageLoaded_of_images (c := c) (d := c.checkEnded v) rfl, hlow j hj]; rfl⟩
  have hend : c.imageVerdict d base = (Chip.count { c.checkEnded v with images :=
      { (c.checkEnded v).images with
        loaded := tabSet (c.checkEnded v).images.loaded k (imageOf d base), check := none } } 318).cmdFinish 0
      [BitVec.ofNat 32 k] := by
    unfold Chip.imageVerdict
    simp only [hw, hv]
    change (Chip.count { c.checkEnded v with images := { (c.checkEnded v).images with
      loaded := tabSet (c.checkEnded v).images.loaded
        (((List.range 256).find? (fun j => !(c.checkEnded v).imageLoaded j)).getD 0) (imageOf d base), check := none } }
      318).cmdFinish 0 [BitVec.ofNat 32 (((List.range 256).find? (fun j => !(c.checkEnded v).imageLoaded j)).getD 0)] = _
    rw [hfind]
    rfl
  have him := (Chip.cmdFinish_images _ 0 [BitVec.ofNat 32 k] 0).trans (Chip.count_images { c.checkEnded v with images :=
      { (c.checkEnded v).images with
        loaded := tabSet (c.checkEnded v).images.loaded k (imageOf d base), check := none } } 318 1)
  rw [← hend] at him
  refine ⟨by rw [him], ?_, ?_, ?_⟩
  · exact Chip.imageLoaded_of_tabSet (congrArg Images.loaded him)
  · rw [Chip.image_of_images him]
    exact tabGet_tabSet_same _ _ _ _
  · rw [hend]
    exact Chip.cmdFinish_ended _ h x _ _ _
      ((Chip.active_of_cmd (Chip.count_cmd _ _ _)).trans ((c.checkEnded_active v).trans hact))

/-- An image with a breach is not loaded, and its range stays closed. -/
theorem Chip.imageVerdict_breach (c : Chip) (d : Memory) (base : Nat) (b : Breach) (h : CmdHdr) (x : Cmd)
    (hact : c.executes h x) (hv : (c.verdict d c.images.bad base).1 = some b) :
    (c.imageVerdict d base).images.loaded = c.images.loaded ∧ (c.imageVerdict d base).images.check = c.images.check ∧
      (c.imageVerdict d base).ended h 0xE
        ([BitVec.ofNat 32 (b.code + b.record * 2 ^ 16), BitVec.ofNat 32 b.item] ++ twoWords b.off) := by
  generalize hw : c.verdict d c.images.bad base = v at hv
  have hend : c.imageVerdict d base = (((c.checkEnded v).count 319).guardReject).cmdFinish 0xE
      ([BitVec.ofNat 32 (b.code + b.record * 2 ^ 16), BitVec.ofNat 32 b.item] ++ twoWords b.off) := by
    unfold Chip.imageVerdict
    simp only [hw, hv]
    rfl
  have him : (c.imageVerdict d base).images = (c.checkEnded v).images := by
    rw [hend, Chip.cmdFinish_images, Chip.guardReject_images, Chip.count_images]
  refine ⟨by rw [him]; rfl, by rw [him]; rfl, ?_⟩
  rw [hend]
  refine Chip.cmdFinish_ended _ h x _ _ _ ?_
  exact (Chip.active_of_cmd ((Chip.guardReject_cmd _).trans (Chip.count_cmd _ _ _))).trans
    ((c.checkEnded_active v).trans hact)

/-- With every line there, the row gives the verdict at once. -/
theorem imageCheckDone_complete (unc : Option Nat) (d : Memory) (c : Chip) (base len : Nat)
    (hc : c.images.check = some (base, len)) (hdone : c.checkComplete = true) :
    imageCheckDone unc d c = (d, c.imageVerdict d base) := by
  have hasked : c.images.asked ≠ 0 := by
    unfold Chip.checkComplete at hdone
    simpa using (Bool.and_eq_true_iff.1 hdone).2
  unfold imageCheckDone
  simp only [hc]
  rw [if_neg hasked, awaitMem_idle _ _ _ _ _ _ (.inl hdone), if_pos hdone]

/-- While a line is missing and the slot tables stand still, the row waits. -/
theorem imageCheckDone_stopped (unc : Option Nat) (d : Memory) (c : Chip) (hdone : c.checkComplete = false)
    (hrun : c.tableRuns = false) : imageCheckDone unc d c = (d, c) := by
  unfold imageCheckDone
  split
  · rfl
  · split
    · rfl
    · simp only [awaitMem_idle _ _ _ _ _ _ (.inr hrun), hdone, Bool.false_eq_true, if_false]

/-! ### IMAGE_UNLOAD (R138) -/

theorem exec_imageUnload (s : State) (h : CmdHdr) (k : Byte) (hc : s.chip.hears h (.imageUnload k.toNat)) :
    exec (.imageUnload h k) s =
      .next { s with chip := (s.chip.cmdBegun h (.imageUnload k.toNat)).imageUnload k.toNat } :=
  State.onChip_of_eq (f := fun c => c.cmdArrive h (.imageUnload k.toNat)) s
    (Chip.cmdArrive_hears s.chip h (.imageUnload k.toNat) hc)

theorem Chip.cmdBegun_liveCtxs (c : Chip) (h : CmdHdr) (x : Cmd) : (c.cmdBegun h x).liveCtxs = c.liveCtxs := by
  obtain ⟨ps, rs, q, k, e⟩ := c.cmdBegun_shape h x
  rw [e]
  rfl

/-- A handle that no image has, or whose image a live task uses, leaves the images as they are. -/
theorem Chip.imageUnload_refused (c : Chip) (h : CmdHdr) (k status : Nat) (hc : c.hears h (.imageUnload k))
    (hr : (c.cmdBegun h (.imageUnload k)).imageUnload k = (c.cmdBegun h (.imageUnload k)).cmdFinish status) :
    ((c.cmdBegun h (.imageUnload k)).imageUnload k).images = c.images ∧
      ((c.cmdBegun h (.imageUnload k)).imageUnload k).ended h status := by
  rw [hr]
  exact ⟨(Chip.cmdFinish_images _ _ _ _).trans (c.cmdBegun_images h _),
    Chip.cmdFinish_ended _ h _ _ _ _ (c.cmdBegun_active h _ hc)⟩

theorem exec_imageUnload_forgets (s : State) (h : CmdHdr) (k : Byte) (hc : s.chip.hears h (.imageUnload k.toNat))
    (hl : s.chip.imageLoaded k.toNat = true) (hu : s.chip.liveCtxs.any (fun e => e.2.image == k.toNat) = false) :
    ∃ t, exec (.imageUnload h k) s = .next t ∧ t.chip.imageLoaded k.toNat = false ∧ t.chip.ended h 0 := by
  have hact := s.chip.cmdBegun_active h _ hc
  have him := s.chip.cmdBegun_images h (.imageUnload k.toNat)
  have hlive := s.chip.cmdBegun_liveCtxs h (.imageUnload k.toNat)
  have hrow := exec_imageUnload s h k hc
  generalize s.chip.cmdBegun h (.imageUnload k.toNat) = c at hact him hlive hrow
  have hun : c.imageUnload k.toNat = Chip.cmdFinish { c with images :=
      { c.images with loaded := tabDel c.images.loaded k.toNat } } 0 := by
    unfold Chip.imageUnload
    rw [Chip.imageLoaded_of_images (congrArg Images.loaded him), hl, hlive, hu]
    rfl
  rw [hun] at hrow
  refine ⟨_, hrow, ?_, Chip.cmdFinish_ended _ h _ _ _ _ hact⟩
  rw [Chip.imageLoaded_of_images (congrArg Images.loaded (Chip.cmdFinish_images _ _ _ _))]
  refine List.any_eq_false.2 fun e he => ?_
  simpa using (List.mem_filter.1 he).2

theorem exec_imageUnload_inUse (s : State) (h : CmdHdr) (k : Byte) (hc : s.chip.hears h (.imageUnload k.toNat))
    (hl : s.chip.imageLoaded k.toNat = true) (hu : s.chip.liveCtxs.any (fun e => e.2.image == k.toNat) = true) :
    ∃ t, exec (.imageUnload h k) s = .next t ∧ t.chip.images = s.chip.images ∧ t.chip.ended h 0xD := by
  refine ⟨_, exec_imageUnload s h k hc, s.chip.imageUnload_refused h k.toNat 0xD hc ?_⟩
  unfold Chip.imageUnload
  rw [Chip.imageLoaded_of_images (congrArg Images.loaded (s.chip.cmdBegun_images h _)), hl, s.chip.cmdBegun_liveCtxs, hu]
  rfl

theorem exec_imageUnload_unknown (s : State) (h : CmdHdr) (k : Byte) (hc : s.chip.hears h (.imageUnload k.toNat))
    (hl : s.chip.imageLoaded k.toNat = false) :
    ∃ t, exec (.imageUnload h k) s = .next t ∧ t.chip.images = s.chip.images ∧ t.chip.ended h 3 := by
  refine ⟨_, exec_imageUnload s h k hc, s.chip.imageUnload_refused h k.toNat 3 hc ?_⟩
  unfold Chip.imageUnload
  rw [Chip.imageLoaded_of_images (congrArg Images.loaded (s.chip.cmdBegun_images h _)), hl]
  rfl

/-! ### The obligation -/

/-- Settles O25: IMAGE_LOAD by what it asks for or what refuses it, the end of its check by the verdict, and IMAGE_UNLOAD
by the handle and its users. -/
theorem imageCommands : Obligations.ImageCommands := by
  unfold Obligations.ImageCommands
  refine ⟨exec_imageLoad_asks, exec_imageLoad_full, exec_imageLoad_misplaced, ?_, ?_, exec_imageUnload_forgets,
    exec_imageUnload_inUse, exec_imageUnload_unknown⟩
  · intro s h unc base len k hcheck hdone hact hk hfree hlow
    refine ⟨{ s with chip := s.chip.imageVerdict s.dram base }, ?_, rfl,
      s.chip.imageVerdict_passes s.dram base k h _ hact hk hfree hlow, fun b hb => ?_⟩
    · change s.onBoth (imageCheckDone unc) = _
      unfold State.onBoth
      rw [imageCheckDone_complete unc s.dram s.chip base len hcheck hdone]
    · rw [← hcheck]
      exact s.chip.imageVerdict_breach s.dram base b h _ hact hb
  · intro s unc hdone hrun
    refine ⟨s, ?_, rfl⟩
    change s.onBoth (imageCheckDone unc) = _
    unfold State.onBoth
    rw [imageCheckDone_stopped unc s.dram s.chip hdone hrun]

end Sys2Proof.Machine
end

section
/-! SUPPORT. Slot service: what the work on context slots and on converters leaves of groups, the device state and the
contexts beside their slots. -/

namespace Sys2Proof.Machine

/-- A context without what serving slots changes in it (R164, R181, R182). -/
def Ctx.besideSlot (x : Ctx) : Ctx :=
  { x with resident := true, arriving := false, thawBad := false, move := none, wantSlot := none }

/-- The device state, the groups, whether a pass is due, and every context beside its slot are the same. -/
def Chip.besideSlots (c d : Chip) : Prop :=
  d.dev = c.dev ∧ d.groups = c.groups ∧ d.sched.passDue = c.sched.passDue ∧
  ∀ n, (d.ctx n).besideSlot = (c.ctx n).besideSlot

namespace Chip.besideSlots

theorem of_eq {c d : Chip} (hd : d.dev = c.dev) (hg : d.groups = c.groups) (hp : d.sched.passDue = c.sched.passDue)
    (hx : d.sched.ctxs = c.sched.ctxs) : c.besideSlots d :=
  ⟨hd, hg, hp, fun n => by rw [Chip.ctx_of_ctxs hx]⟩

theorem of_sched {c d : Chip} (hd : d.dev = c.dev) (hg : d.groups = c.groups) (hs : d.sched = c.sched) :
    c.besideSlots d := of_eq hd hg (by rw [hs]) (by rw [hs])

theorem refl (c : Chip) : c.besideSlots c := of_sched rfl rfl rfl

theorem trans {c d e : Chip} (h : c.besideSlots d) (h' : d.besideSlots e) : c.besideSlots e := by
  obtain ⟨hd, hg, hp, hx⟩ := h
  obtain ⟨hd', hg', hp', hx'⟩ := h'
  exact ⟨hd'.trans hd, hg'.trans hg, hp'.trans hp, fun n => (hx' n).trans (hx n)⟩

theorem foldl {α : Type} {f : Chip → α → Chip} (hf : ∀ (c : Chip) (x : α), c.besideSlots (f c x)) (xs : List α)
    (c : Chip) : c.besideSlots (xs.foldl f c) := by
  induction xs generalizing c with
  | nil => exact refl c
  | cons x xs ih => exact (hf c x).trans (ih _)

/-- What a context is beside its slot, it is after every step on slots. -/
theorem ctx_field {c d : Chip} (h : c.besideSlots d) {α : Type} (f : Ctx → α) (hf : ∀ x, f x.besideSlot = f x) (n : Nat) :
    f (d.ctx n) = f (c.ctx n) := by
  obtain ⟨-, -, -, hx⟩ := h
  rw [← hf (d.ctx n), hx n, hf]

theorem updCtx (c : Chip) (n : Nat) (f : Ctx → Ctx) (hf : ∀ x, (f x).besideSlot = x.besideSlot) :
    c.besideSlots (c.updCtx n f) := by
  refine ⟨rfl, rfl, rfl, fun m => ?_⟩
  change (tabGet {} (tabSet c.sched.ctxs n (f (c.ctx n))) m).besideSlot = (c.ctx m).besideSlot
  rw [tabGet_tabSet]
  split
  · rename_i hm
    rw [hm, hf]
  · rfl

theorem memWriteReqs (c : Chip) (a : Nat) (bs : List Byte) (f : Nat → Who) :
    c.besideSlots (c.memWriteReqs .host a bs f) := by
  rw [(c.memWriteReqs_host a bs f).2]
  exact of_sched c.memTouch_dev c.memTouch_groups c.memTouch_sched

theorem memReadReqs (c : Chip) (a n : Nat) (f : Nat → Who) : c.besideSlots (c.memReadReqs .host a n f) := by
  rw [(c.memReadReqs_host a n f).2]
  exact of_sched c.memTouch_dev c.memTouch_groups c.memTouch_sched

theorem freezeStart (c : Chip) (n : Nat) : c.besideSlots (c.freezeStart n) := by
  refine trans (updCtx c n _ ?_) (memWriteReqs _ _ _ _)
  exact fun _ => rfl

theorem settleFrozen (c : Chip) (n : Nat) : c.besideSlots (c.settleFrozen n) := by
  refine trans (updCtx c n _ ?_) (memWriteReqs _ _ _ _)
  exact fun _ => rfl

theorem selReply (status : Nat) (c : Chip) (w : SelWait) : c.besideSlots (c.selReply status w) := by
  obtain ⟨st, i, e⟩ := c.selReply_eq status w
  rw [e]
  exact of_sched (Chip.replyAt_dev _ _ _ _ _ _ _ _) (Chip.replyAt_groups _ _ _ _ _ _ _ _)
    (Chip.replyAt_sched _ _ _ _ _ _ _ _)

/-- A TSK_CTX_SEL that ends shows its context, where it selects it. -/
theorem selDone (c : Chip) (n status : Nat) : c.besideSlots (c.selDone n status) := by
  unfold Chip.selDone
  simp only
  split
  · exact refl c
  · refine trans (d := { c with sched := { c.sched with selWait := c.sched.selWait.filter (fun w => w.n != n) } })
      (of_eq rfl rfl rfl rfl) ?_
    refine trans ?_ (foldl (selReply status) _ _)
    split
    · exact of_eq rfl rfl rfl rfl
    · exact refl _

/-- Each step of serving slots moves contexts in and out of them only. -/
theorem serveSlots_go (k : Nat) (c : Chip) : c.besideSlots (Chip.serveSlots.go k c) := by
  induction k generalizing c with
  | zero => exact refl c
  | succ k ih =>
    unfold Chip.serveSlots.go
    split
    · exact refl c
    · rename_i n t _
      split
      · have hmove : c.besideSlots (c.ledMove tskFrozen tskResident) := of_eq rfl rfl rfl rfl
        simp only
        split
        · refine trans (trans (hmove.trans (updCtx _ n _ ?_)) (selDone _ n 0)) (ih _)
          exact fun _ => rfl
        · refine trans (trans (hmove.trans (updCtx _ n _ ?_)) (memReadReqs _ _ _ _)) (ih _)
          exact fun _ => rfl
      · split
        · simp only
          split
          · exact (freezeStart c _).trans (ih _)
          · split
            · exact (settleFrozen c _).trans (ih _)
            · exact refl c
        · exact refl c

theorem keepSlot (c : Chip) (n : Nat) : c.besideSlots (c.keepSlot n) := by
  unfold Chip.keepSlot
  split
  · refine trans (updCtx c n _ ?_) (serveSlots_go 512 _)
    exact fun _ => rfl
  · exact refl c

/-- The converters and comparators that a task takes stop working for others (R240). -/
theorem adcTake (c : Chip) (e : Env) : c.besideSlots (c.adcTake e) := by
  unfold Chip.adcTake
  refine trans (foldl (fun c k => ?_) _ c) (foldl (fun c k => ?_) _ _)
  rotate_left
  · exact of_eq rfl rfl rfl rfl
  simp only
  split
  · exact of_eq rfl rfl rfl rfl
  · exact of_eq rfl rfl rfl rfl

end Chip.besideSlots

end Sys2Proof.Machine
end

section
/-! SUPPORT. Admission: what an admission pass does with its one candidate, and the obligation of admission. -/

namespace Sys2Proof.Machine

/-! ### The fit (R174, R365) -/

/-- The device as context n has taken its groups and units, before its admission is counted and raised. -/
def Chip.resourcesTaken (c : Chip) (n : Nat) : Chip :=
  ((bitsIn (c.env n).groups 12).foldl (fun c g => c.setGroup g { c.group g with owner := some n })
    ((c.setCtx n { c.ctx n with held := true, admitFrc := c.frc }).keepSlot n)).adcTake (c.env n)

theorem Chip.resourcesTaken_spec (c : Chip) (n : Nat) :
    (c.resourcesTaken n).dev = c.dev ∧ (c.resourcesTaken n).sched.passDue = c.sched.passDue ∧
    ((c.resourcesTaken n).ctx n).held = true ∧ ((c.resourcesTaken n).ctx n).admitFrc = c.frc ∧
    ∀ g ∈ bitsIn (c.env n).groups 12, ((c.resourcesTaken n).group g).owner = some n := by
  have hkeep := Chip.besideSlots.keepSlot (c.setCtx n { c.ctx n with held := true, admitFrc := c.frc }) n
  have hctx := Chip.ctx_setCtx_same c n { c.ctx n with held := true, admitFrc := c.frc }
  unfold Chip.resourcesTaken
  generalize (c.setCtx n { c.ctx n with held := true, admitFrc := c.frc }).keepSlot n = k at hkeep
  have howner := Chip.group_foldl_setGroup (P := fun x => x.owner = some n) (fun x => { x with owner := some n })
    (fun _ => rfl) (bitsIn (c.env n).groups 12) k
  obtain ⟨gs, hgs⟩ := Chip.foldl_setGroup_shape (fun x => { x with owner := some n }) (bitsIn (c.env n).groups 12) k
  have htake := Chip.besideSlots.adcTake ((bitsIn (c.env n).groups 12).foldl
    (fun c g => c.setGroup g { c.group g with owner := some n }) k) (c.env n)
  rw [hgs] at howner htake ⊢
  have hheld := (htake.ctx_field Ctx.held (fun _ => rfl) n).trans (hkeep.ctx_field Ctx.held (fun _ => rfl) n)
  have hadmit := (htake.ctx_field Ctx.admitFrc (fun _ => rfl) n).trans (hkeep.ctx_field Ctx.admitFrc (fun _ => rfl) n)
  rw [hctx] at hheld hadmit
  obtain ⟨hdev, -, hpass, -⟩ := hkeep
  obtain ⟨hdev', hgroups, hpass', -⟩ := htake
  exact ⟨hdev'.trans hdev, hpass'.trans hpass, hheld, hadmit,
    fun g hg => by rw [Chip.group_of_groups hgroups]; exact howner g (.inl hg)⟩

/-- The device as the admission of context n is counted: it runs (R188, R365). -/
def Chip.admissionBooked (c : Chip) (n : Nat) : Chip :=
  let d := ((c.resourcesTaken n).cntUp
    (0x00200400 + 64 * (c.ctx n).prio + 4 * waitBin ((c.resourcesTaken n).frc - (c.ctx n).readyFrc))).count 294
  let d := if d.dev.mode = .ready then d.setMode .running else d
  { d with mem := { d.mem with idleFrom := none } }

theorem Chip.admitTask_eq (c : Chip) (n : Nat) : c.admitTask n = (c.admissionBooked n).raiseState n 5 := rfl

theorem Chip.admissionBooked_spec (c : Chip) (n : Nat) (hm : c.dev.mode = .ready ∨ c.dev.mode = .running) :
    (c.admissionBooked n).dev.mode = .running ∧ (c.admissionBooked n).groups = (c.resourcesTaken n).groups ∧
    (c.admissionBooked n).sched = (c.resourcesTaken n).sched := by
  obtain ⟨hdev, -⟩ := c.resourcesTaken_spec n
  unfold Chip.admissionBooked
  generalize 0x00200400 + 64 * (c.ctx n).prio + 4 * waitBin ((c.resourcesTaken n).frc - (c.ctx n).readyFrc) = a
  have hmode : (((c.resourcesTaken n).cntUp a).count 294).dev.mode = c.dev.mode := by
    rw [Chip.count_dev, Chip.cntUp_dev, hdev]
  simp only [hmode]
  split
  · exact ⟨rfl, Chip.count_groups _ _ _, Chip.count_sched _ _ _⟩
  · rename_i hne
    exact ⟨hmode.trans (hm.resolve_left hne), Chip.count_groups _ _ _, Chip.count_sched _ _ _⟩

/-- What raising a state leaves, and the state that is raised. -/
theorem Chip.raiseState_spec (c : Chip) (n st : Nat) :
    (c.raiseState n st).ctx n = { c.ctx n with pend := some st } ∧ (c.raiseState n st).dev = c.dev ∧
    (c.raiseState n st).groups = c.groups ∧ (c.raiseState n st).sched.passDue = c.sched.passDue := by
  unfold Chip.raiseState
  refine ⟨?_, Chip.raise_dev _ _ _ _ _ _, Chip.raise_groups _ _ _ _ _ _, by rw [Chip.raise_sched]; rfl⟩
  rw [Chip.ctx_raise]
  exact Chip.ctx_setCtx_same _ _ _

/-- A terminal state that is raised leaves its STATUS in the context, and the context's own fields and the groups alone. -/
theorem Chip.raiseEnd_kept (c : Chip) (n st status : Nat) :
    (c.raiseEnd n st status).ctx n = { c.ctx n with due := status, pend := some st } ∧
    (c.raiseEnd n st status).groups = c.groups := by
  obtain ⟨hctx, -, hgroups, -⟩ := (c.updCtx n fun x => { x with due := status }).raiseState_spec n st
  rw [show (c.updCtx n fun x => { x with due := status }).ctx n = { c.ctx n with due := status } from
    Chip.ctx_setCtx_same _ _ _] at hctx
  exact ⟨hctx, hgroups⟩

theorem Chip.admitTask_spec (c : Chip) (n : Nat) (hm : c.dev.mode = .ready ∨ c.dev.mode = .running) :
    (c.admitTask n).sched.passDue = c.sched.passDue ∧ ((c.admitTask n).ctx n).held = true ∧
    ((c.admitTask n).ctx n).admitFrc = c.frc ∧ ((c.admitTask n).ctx n).pend = some 5 ∧
    (c.admitTask n).waits (srcTask n) 0x8005 ∧ (c.admitTask n).dev.mode = .running ∧
    ∀ g ∈ bitsIn (c.env n).groups 12, ((c.admitTask n).group g).owner = some n := by
  obtain ⟨-, hpass, hheld, hadmit, howner⟩ := c.resourcesTaken_spec n
  obtain ⟨hmode, hgroups, hsched⟩ := c.admissionBooked_spec n hm
  obtain ⟨hctx, hdev', hgroups', hpass'⟩ := (c.admissionBooked n).raiseState_spec n 5
  rw [Chip.ctx_of_ctxs (congrArg Sched.ctxs hsched)] at hctx
  rw [Chip.admitTask_eq]
  refine ⟨by rw [hpass', hsched, hpass], by rw [hctx]; exact hheld, by rw [hctx]; exact hadmit, by rw [hctx],
    Chip.waits_raiseState _ _ _, by rw [hdev', hmode], fun g hg => ?_⟩
  rw [Chip.group_of_groups (hgroups'.trans hgroups)]
  exact howner g hg

/-! ### The pass (R172, R173) -/

/-- The device as a pass begins: it is due no more, and counted. -/
def Chip.passBegun (c : Chip) : Chip := ({ c with sched := { c.sched with passDue := false } } : Chip).count 296

theorem Chip.passBegun_shape (c : Chip) :
    ∃ k q, c.passBegun = { c with sched := { c.sched with passDue := false }, counters := k, cirque := q } := by
  obtain ⟨k, q, e⟩ := ({ c with sched := { c.sched with passDue := false } } : Chip).count_shape 296 1
  exact ⟨k, q, e⟩

/-- A context that does not fit now waits in ADMIT-WAIT. -/
def Chip.waitsOn (c : Chip) (n : Nat) : Chip :=
  if (c.ctx n).st = 3 ∧ (c.ctx n).pend = none then c.raiseState n 4 else c

/-- What a pass does with one of its candidates (R155, R172). -/
def passStep (a : PassSt × Chip) (t : Nat × Ctx) : PassSt × Chip :=
  if (a.2.env t.1).neverFits then (a.1, a.2.raiseEnd t.1 10 0x0103)
  else if a.1.blocked then (a.1, a.2.waitsOn t.1)
  else if a.1.free.fits (a.2.env t.1) t.2.siteBase then
    ({ a.1 with free := a.1.free.take (a.2.env t.1) t.2.siteBase }, a.2.admitTask t.1)
  else if (a.2.reg 0x00200004).toNat ≠ 0 ∧ (a.2.reg 0x00200004).toNat ≤ a.2.frc - t.2.readyFrc then
    ({ a.1 with blocked := true }, (a.2.waitsOn t.1).cntUp 0x00200090)
  else (a.1, a.2.waitsOn t.1)

/-- What a pass may give (R155, R285, R384). -/
def Chip.passFree (c : Chip) : FreeRes :=
  if c.retraining then { c.calHolds c.freeRes with stream := List.replicate 8 0 } else c.calHolds c.freeRes

theorem admissionPass_eq (c : Chip) :
    admissionPass c = if !c.sched.passDue ∨ ¬ (c.dev.mode = .ready ∨ c.dev.mode = .running) then c
      else (c.passBegun.candidates.foldl passStep ({ free := c.passBegun.passFree }, c.passBegun)).2 := rfl

/-- A pass with one candidate takes one step. -/
theorem admissionPass_one (c : Chip) (n : Nat) (x : Ctx) (hdue : c.sched.passDue = true)
    (hm : c.dev.mode = .ready ∨ c.dev.mode = .running) (hc : c.candidates = [(n, x)]) :
    admissionPass c = (passStep ({ free := c.passFree }, c.passBegun) (n, x)).2 := by
  obtain ⟨k, q, e⟩ := c.passBegun_shape
  have hcand : c.passBegun.candidates = [(n, x)] := by rw [← hc, e]; rfl
  have hfree : c.passBegun.passFree = c.passFree := by rw [e]; rfl
  rw [admissionPass_eq, if_neg (by simp [hdue, hm]), hcand, hfree]
  rfl

theorem Chip.env_passBegun (c : Chip) (n : Nat) : c.passBegun.env n = c.env n := by
  obtain ⟨k, q, e⟩ := c.passBegun_shape
  rw [e]
  rfl
theorem Chip.ctx_passBegun (c : Chip) (n : Nat) : c.passBegun.ctx n = c.ctx n := by
  obtain ⟨k, q, e⟩ := c.passBegun_shape
  rw [e]
  rfl
theorem Chip.dev_passBegun (c : Chip) : c.passBegun.dev = c.dev := Chip.count_dev _ _ _
theorem Chip.groups_passBegun (c : Chip) : c.passBegun.groups = c.groups := Chip.count_groups _ _ _

theorem admissionPass_never (c : Chip) (n : Nat) (x : Ctx) (hdue : c.sched.passDue = true)
    (hm : c.dev.mode = .ready ∨ c.dev.mode = .running) (hc : c.candidates = [(n, x)])
    (hn : (c.env n).neverFits = true) : admissionPass c = c.passBegun.raiseEnd n 10 0x0103 := by
  rw [admissionPass_one c n x hdue hm hc]
  unfold passStep
  rw [if_pos (by rw [c.env_passBegun]; exact hn)]

theorem admissionPass_fits (c : Chip) (n : Nat) (x : Ctx) (hdue : c.sched.passDue = true)
    (hm : c.dev.mode = .ready ∨ c.dev.mode = .running) (hc : c.candidates = [(n, x)]) (ht : c.retraining = false)
    (hn : (c.env n).neverFits = false) (hf : (c.calHolds c.freeRes).fits (c.env n) x.siteBase = true) :
    admissionPass c = c.passBegun.admitTask n := by
  rw [admissionPass_one c n x hdue hm hc]
  unfold passStep Chip.passFree
  simp only [c.env_passBegun, hn, ht, hf, Bool.false_eq_true, if_false, if_true]

/-- A candidate that does not fit waits in ADMIT-WAIT, whether or not its age is counted. -/
theorem admissionPass_waits (c : Chip) (n : Nat) (x : Ctx) (hdue : c.sched.passDue = true)
    (hm : c.dev.mode = .ready ∨ c.dev.mode = .running) (hc : c.candidates = [(n, x)]) (ht : c.retraining = false)
    (hn : (c.env n).neverFits = false) (hf : (c.calHolds c.freeRes).fits (c.env n) x.siteBase = false)
    (hst : (c.ctx n).st = 3) (hp : (c.ctx n).pend = none) :
    ∃ rs, admissionPass c = { c.passBegun.raiseState n 4 with regs := rs } := by
  have hwait : c.passBegun.waitsOn n = c.passBegun.raiseState n 4 := by
    unfold Chip.waitsOn
    rw [if_pos (by rw [c.ctx_passBegun]; exact ⟨hst, hp⟩)]
  rw [admissionPass_one c n x hdue hm hc]
  unfold passStep Chip.passFree
  simp only [c.env_passBegun, hn, ht, hf, hwait, Bool.false_eq_true, if_false]
  split
  · exact ⟨_, rfl⟩
  · exact ⟨_, rfl⟩

/-! ### The obligation -/

/-- Settles O41: the pass's one candidate fits (`admissionPass_fits`), never fits (`admissionPass_never`), or waits
(`admissionPass_waits`), and each outcome is raised as its state. -/
theorem admission : Obligations.Admission := by
  unfold Obligations.Admission
  refine ⟨?fits, ?never, ?waits, ?idle⟩
  case fits =>
    intro s n x hdue hm hc ht hn hf
    obtain ⟨k, q, e⟩ := s.chip.passBegun_shape
    obtain ⟨hpass, hheld, hadmit, hpend, hwaits, hmode, howner⟩ :=
      s.chip.passBegun.admitTask_spec n (by rw [s.chip.dev_passBegun]; exact hm)
    rw [s.chip.env_passBegun] at howner
    exact ⟨_, State.onChip_of_eq s (admissionPass_fits s.chip n x hdue hm hc ht hn hf), hpass.trans (by rw [e]), hheld,
      hadmit.trans (by rw [e]; rfl), hpend, hwaits, hmode, howner⟩
  case never =>
    intro s n x hdue hm hc hn
    obtain ⟨hwaits, hstatus⟩ := s.chip.passBegun.raiseEnd_spec n 10 0x0103
    obtain ⟨hctx, hgroups⟩ := s.chip.passBegun.raiseEnd_kept n 10 0x0103
    rw [s.chip.ctx_passBegun] at hctx
    have hlater : ((s.chip.passBegun.raiseEnd n 10 0x0103).ctx n).status = (s.chip.ctx n).status := by rw [hctx]
    have hheld : ((s.chip.passBegun.raiseEnd n 10 0x0103).ctx n).held = (s.chip.ctx n).held := by rw [hctx]
    exact ⟨_, State.onChip_of_eq s (admissionPass_never s.chip n x hdue hm hc hn), hwaits, hstatus, hlater, hheld,
      hgroups.trans s.chip.groups_passBegun⟩
  case waits =>
    intro s n x hdue hm hc ht hn hf hst hp
    obtain ⟨rs, hrow⟩ := admissionPass_waits s.chip n x hdue hm hc ht hn hf hst hp
    obtain ⟨hctx, hdev, hgroups, -⟩ := s.chip.passBegun.raiseState_spec n 4
    rw [s.chip.ctx_passBegun] at hctx
    rw [s.chip.dev_passBegun] at hdev
    have hpend : ((s.chip.passBegun.raiseState n 4).ctx n).pend = some 4 := by rw [hctx]
    have hheld : ((s.chip.passBegun.raiseState n 4).ctx n).held = (s.chip.ctx n).held := by rw [hctx]
    exact ⟨_, State.onChip_of_eq s hrow, waits_congr (c := s.chip.passBegun.raiseState n 4) rfl
      (Chip.waits_raiseState _ _ _), hpend, hheld, congrArg Dev.mode hdev, hgroups.trans s.chip.groups_passBegun⟩
  case idle =>
    intro s hdue
    refine State.onChip_same ?_
    rw [admissionPass_eq, if_pos (.inl (by rw [hdue]; rfl))]

end Sys2Proof.Machine
end

section
/-! SUPPORT. Ring pushes: events that wait whatever else is counted, the rings of Moraine, and the pushes of R206. -/

namespace Sys2Proof.Machine

/-! ### Events of another TYPE (R21) -/

/-- Cirque holds an event before acceptance, staged or in the queue of port p. -/
def Cirque.holds (q : Cirque) (p : Nat) (e : Event) : Prop := e ∈ q.staged ∨ e ∈ tabGet [] q.queues p

theorem waitsTo_iff (c : Chip) (src typ : Nat) (a : Act) :
    c.waitsTo src typ a ↔ ∃ e : Event, e.src = src ∧ e.typ = typ ∧ a ∈ e.acts ∧ c.cirque.holds (srcPort src) e := Iff.rfl

/-- Staging merges into an event of the same TYPE alone: any other stays as it is. -/
theorem stage_holds (q : Cirque) (e : Event) {p : Nat} {x : Event} (ht : x.typ ≠ e.typ) (h : q.holds p x) :
    (stage q e).1.holds p x := by
  unfold stage
  simp only
  split
  · refine h.imp id fun hx => ?_
    rw [tabGet_tabSet]
    split
    · rename_i hp
      rw [← hp]
      exact List.mem_append_left _ hx
    · exact hx
  · split
    · exact h.imp (fun hx => List.mem_map.2 ⟨x, hx, if_neg fun hm => ht hm.2⟩) id
    · exact h.imp (List.mem_append_left _) id

theorem thr_holds {p : Nat} {x : Event} (ht : x.typ ≠ 0x80B0) (is : List Nat) (q : Cirque) (h : q.holds p x) :
    (Chip.count.thr is q).1.holds p x := by
  induction is generalizing q with
  | nil => exact h
  | cons i is ih => exact ih _ (stage_holds q _ ht h)

/-- Counting stages CNT_THRESH alone (R392). -/
theorem Chip.count_holds (c : Chip) (code n : Nat) {p : Nat} {x : Event} (ht : x.typ ≠ 0x80B0) (h : c.cirque.holds p x) :
    (c.count code n).cirque.holds p x := by
  have go (f : Nat) : ∀ (c : Chip) (code n : Nat), c.cirque.holds p x → (Chip.count.go f c code n).cirque.holds p x := by
    induction f with
    | zero => exact fun _ _ _ h => h
    | succ f ih =>
      intro c code n h
      simp only [Chip.count.go]
      split
      · exact thr_holds ht _ _ h
      · exact ih _ _ _ (thr_holds ht _ _ h)
  unfold Chip.count
  split
  · exact h
  · exact go 65 c code n h

theorem Chip.waitsTo_count (c : Chip) (code n : Nat) {src typ : Nat} {a : Act} (ht : typ ≠ 0x80B0)
    (h : c.waitsTo src typ a) : (c.count code n).waitsTo src typ a := by
  obtain ⟨e, hsrc, htyp, ha, hq⟩ := (waitsTo_iff _ _ _ _).1 h
  exact (waitsTo_iff _ _ _ _).2 ⟨e, hsrc, htyp, ha, c.count_holds code n (by rw [htyp]; exact ht) hq⟩

/-- A raised event waits with what its acceptance changes, the push of a ring with them (R21, R206). -/
theorem Chip.raise_waitsTo_newest (c : Chip) (src typ : Nat) (acts : List Act) (err : Option ErrInfo) (info : Nat) {a : Act}
    (ht : typ ≠ 0x80B0) (ha : a ∈ acts) : (c.raise src typ acts err info).waitsTo src typ a := by
  have hstaged := stage_has c.cirque { src := src, typ := typ, info := info, acts := acts, err := err }
    (fun e => a ∈ e.acts) ha fun x => merge_takes a x acts ha
  unfold Chip.raise
  simp only
  split
  · exact Chip.waitsTo_count _ _ _ ht hstaged
  · exact hstaged

/-- A write's completion with SUCCESS leaves Cirque as it is. -/
theorem Chip.cirque_reply_done (c : Chip) (q : Nat) (tag : Byte) : (c.reply q tag 0).cirque = c.cirque := by
  unfold Chip.reply Chip.replyAt Chip.answerAt
  simp only [if_neg (by decide : ¬(0 : Nat) = 1)]
  split <;> simp

/-! ### The rings of Moraine (R203 to R206) -/

theorem Chip.ring_setRing_same (c : Chip) (k : Nat) (g : RingSt) : (c.setRing k g).ring k = g :=
  tabGet_tabSet_same _ _ _ _
theorem Chip.ring_of_mor {c d : Chip} (h : d.mor = c.mor) (k : Nat) : d.ring k = c.ring k := by
  unfold Chip.ring
  rw [h]

/-- As time passes the rings stay. -/
theorem Chip.mor_advanceTo (c : Chip) (t : Nat) : (c.advanceTo t).mor = c.mor := by
  unfold Chip.advanceTo
  cases hc : c.clocked with
  | true =>
    obtain ⟨l, r, s, k, q, e⟩ := c.advance_shape (t - c.tm) hc
    rw [e]
  | false =>
    unfold Chip.advance
    rw [if_pos (.inl (by rw [hc]; rfl))]

theorem Chip.reg64_advanceTo_ring (c : Chip) (t : Nat) (k : Ring) : (c.advanceTo t).reg64 (ringWr k) = c.reg64 (ringWr k) :=
  Chip.reg64_congr (c.reg_advance _ (by unfold ringWr ringB; omega)) (c.reg_advance _ (by unfold ringWr ringB; omega))

/-! ### Pushes (R206) -/

/-- A push of ring k is raised: registers, ledgers and ports stay, and so do the ring's records and lines. -/
theorem Chip.pushRing_spec (c : Chip) (k : Nat) :
    (c.pushRing k).waitsTo (srcRing k) 0x8070 (.push k (c.reg64 (ringWr k))) ∧
    (c.pushRing k).ring k = { c.ring k with mark := c.reg64 (ringWr k), ages := [] } ∧
    (c.pushRing k).regs = c.regs ∧ (c.pushRing k).led = c.led ∧ (c.pushRing k).ports = c.ports := by
  unfold Chip.pushRing
  refine ⟨Chip.raise_waitsTo_newest _ _ _ _ _ _ (by decide) (List.mem_singleton_self _), ?_, ?_, ?_, ?_⟩
  · exact (Chip.ring_of_mor (Chip.raise_mor _ _ _ _ _ _) k).trans (c.ring_setRing_same k _)
  · exact Chip.raise_regs _ _ _ _ _ _
  · exact Chip.raise_led _ _ _ _ _ _
  · exact Chip.raise_ports _ _ _ _ _ _

/-- The lines since the mark have reached THRESH of ring k. -/
def Chip.pushDue (c : Chip) (k : Nat) : Prop :=
  c.field (ringB k + 0x28) 31 16 * 128 ≤ c.reg64 (ringWr k) - (c.ring k).mark

theorem Chip.pushIfDue_due (c : Chip) (k : Nat) (h : c.pushDue k) : c.pushIfDue k = c.pushRing k := if_pos h

/-- A push raised or not, registers and ledgers stay, and the ring's lines. -/
theorem Chip.pushIfDue_kept (c : Chip) (k : Nat) :
    (c.pushIfDue k).regs = c.regs ∧ (c.pushIfDue k).led = c.led ∧ ((c.pushIfDue k).ring k).lines = (c.ring k).lines := by
  unfold Chip.pushIfDue
  split
  · obtain ⟨-, hring, hregs, hled, -⟩ := c.pushRing_spec k
    exact ⟨hregs, hled, by rw [hring]⟩
  · exact ⟨rfl, rfl, rfl⟩

theorem pushMaxage_pushes (c : Chip) (k : Ring) (a : Nat) (as : List Nat) (h : (c.ring k).ages = a :: as) :
    (pushMaxage k c).waitsTo (srcRing k) 0x8070 (.push k (c.reg64 (ringWr k))) ∧
    ((pushMaxage k c).ring k).mark = c.reg64 (ringWr k) ∧ ((pushMaxage k c).ring k).ages = [] := by
  have hrow : pushMaxage k c = (c.advanceTo (16 * (a + 1000 * c.field (ringB k + 0x28) 15 0))).pushRing k := by
    unfold pushMaxage
    rw [h]
  obtain ⟨hwaits, hring, -⟩ := (c.advanceTo (16 * (a + 1000 * c.field (ringB k + 0x28) 15 0))).pushRing_spec k
  rw [c.reg64_advanceTo_ring] at hwaits hring
  rw [hrow, hring]
  exact ⟨hwaits, rfl, rfl⟩

/-! ### A write of MOR_RING_PUSH (R206) -/

/-- The row of the MOR_RING_PUSH registers. -/
def ringPushRow : RegRow := { base := 0x00216028, dims := [ringDim], rw := ones 32, reset := 0x0040000A }

theorem findReg_ringPush (k : Ring) : Machine.findReg (ringB k + 0x28) = some (ringPushRow, [k.val], 0) := by
  revert k
  decide

/-- THRESH of ring k, once v is written to MOR_RING_PUSH. -/
theorem ringPushRow_thresh (old v : Word) :
    bitsOf (ringPushRow.merge 0 old v).toNat 31 16 = bitsOf v.toNat 31 16 := by
  refine RegRow.field_merge ringPushRow 0 31 16 old v (by decide) (by decide) ?_
  decide

/-- The device as MOR_RING_PUSH of ring k takes v. -/
def Chip.ringPushSet (c : Chip) (k : Nat) (v : Word) : Chip :=
  c.setReg (ringB k + 0x28) (ringPushRow.merge 0 (c.reg (ringB k + 0x28)) v)

theorem Chip.reg64_ringPushSet (c : Chip) (k : Nat) (v : Word) : (c.ringPushSet k v).reg64 (ringWr k) = c.reg64 (ringWr k) :=
  c.reg64_setReg_other _ (by unfold ringWr; omega)

theorem Chip.ringPushSet_due (c : Chip) (k : Ring) (v : Word)
    (h : bitsOf v.toNat 31 16 * 128 ≤ c.reg64 (ringWr k) - (c.ring k).mark) : (c.ringPushSet k v).pushDue k := by
  unfold Chip.pushDue Chip.field
  rw [c.reg64_ringPushSet]
  unfold Chip.ringPushSet
  rw [Chip.reg_setReg_same, ringPushRow_thresh]
  exact h

theorem Chip.writeWord_ringPush (c : Chip) (k : Ring) (v : Word) (hon : c.ringOn k = true) (hthr : bitsOf v.toNat 31 16 ≠ 0)
    (hage : bitsOf v.toNat 15 0 ≠ 0) :
    c.writeWord ringPushRow 0 (ringB k + 0x28) v = (0, (c.ringPushSet k v).pushIfDue k) := by
  have hb : (ringB k + 0x28) / 0x10000 = 0x21 := by unfold ringB; omega
  have hm : (ringB k + 0x28) % 0x10000 = 0x6000 + 64 * k + 0x28 := by unfold ringB; omega
  have hi : (0x6000 + 64 * k.val + 0x28) % 0x40 = 0x28 := by omega
  have hq : (0x6000 + 64 * k.val + 0x28 - 0x6000) / 0x40 = k := by omega
  have hc : c.conflict (ringB k + 0x28) = false := by
    unfold Chip.conflict
    simp only [hb, hm, hi]
    simp
  have hplain : c.plainIf (bitsOf v.toNat 31 16 != 0 && bitsOf v.toNat 15 0 != 0) 6 ringPushRow 0 (ringB k + 0x28) v =
      (0, c.ringPushSet k v) := by
    unfold Chip.plainIf Chip.plain
    rw [if_pos (by simp [hthr, hage]), if_neg (by decide)]
    rfl
  have hon' : (c.ringPushSet k v).ringOn k = true := by
    unfold Chip.ringOn Chip.ringPushSet
    rw [Chip.reg_setReg_other _ _ (by unfold ringCfg; omega)]
    exact hon
  unfold Chip.writeWord
  simp only [hc, hb, Bool.false_eq_true, if_false]
  unfold Chip.morWrite
  simp only [hm, hi, hq, hplain, hon]
  rw [if_neg (by omega), if_neg (by omega), if_neg (by omega)]
  rfl

theorem exec_ringPush (s : State) (q : Port) (tag : Byte) (k : Ring) (v : Word) (h : s.chip.writable q tag)
    (hon : s.chip.ringOn k = true) (hthr : bitsOf v.toNat 31 16 ≠ 0) (hage : bitsOf v.toNat 15 0 ≠ 0)
    (hdue : bitsOf v.toNat 31 16 * 128 ≤ s.chip.reg64 (ringWr k) - (s.chip.ring k).mark) :
    exec (.regWr q tag (BitVec.ofNat 64 (ringB k + 0x28)) [v]) s =
      .next { s with chip := (((s.chip.tagged q tag).ringPushSet k v).pushRing k).reply q tag 0 } := by
  have hlt : ringB k + 0x28 < 2 ^ 64 := by unfold ringB; omega
  have haddr : (BitVec.ofNat 64 (ringB k + 0x28)).toNat = ringB k + 0x28 := by
    rw [BitVec.toNat_ofNat]
    exact Nat.mod_eq_of_lt hlt
  rw [← Chip.pushIfDue_due _ _ ((s.chip.tagged q tag).ringPushSet_due k v hdue)]
  have hrow : exec (.regWr q tag (BitVec.ofNat 64 (ringB k + 0x28)) [v]) s = s.onReg q tag (ringB k + 0x28) [v] := by
    rw [← haddr]
    rfl
  rw [hrow]
  exact State.onReg_word s q tag (ringB k + 0x28) v ringPushRow [k.val] 0 0 _ h (by unfold ringB; omega) hlt
    ((Chip.findReg_plain _ (by unfold ringB; omega)).trans (findReg_ringPush k)) rfl
    (Chip.writeWord_ringPush _ k v hon hthr hage) (by decide)

end Sys2Proof.Machine
end

section
/-! SUPPORT. Record admission: RECORD_ADMISSION as one record taken from its queue, judged, and given to a ring or dropped
(R157, R200, R201). -/

namespace Sys2Proof.Machine

/-! ### Ledgers of records (R210) -/

theorem morLed_eq_iff {i j : Nat} : morLed i = morLed j ↔ i = j := by
  unfold morLed
  omega
theorem siteLed_eq_iff {s i j : Nat} : siteLed s i = siteLed s j ↔ i = j := by
  unfold siteLed
  omega
theorem siteLed_ne_morLed {i : Nat} (h : i < 12) (s j : Nat) : siteLed s j ≠ morLed i := (morLed_ne_siteLed h s j).symm

theorem Chip.ledger_dropFull_some (c : Chip) (i site l a : Nat) :
    (c.dropFull i site (some l)).ledger a = (((c.ledAdd (morLed 7)).ledAdd (siteLed site 3)).ledAdd (morLed l)).ledger a := by
  unfold Chip.dropFull
  simp only
  split
  · exact Chip.ledger_count _ _ _ _
  · rfl
theorem Chip.ledger_dropFull_none (c : Chip) (i site a : Nat) :
    (c.dropFull i site none).ledger a = ((c.ledAdd (morLed 7)).ledAdd (siteLed site 3)).ledger a := by
  unfold Chip.dropFull
  simp only
  split
  · exact Chip.ledger_count _ _ _ _
  · rfl
theorem Chip.ledger_dropQuota_quota (c : Chip) (i site a : Nat) :
    (c.dropQuota i site false).ledger a = ((c.ledAdd (morLed 6)).ledAdd (siteLed site 2)).ledger a := by
  unfold Chip.dropQuota
  simp only [Bool.false_eq_true, if_false]
  split
  · exact Chip.ledger_count _ _ _ _
  · rfl
theorem Chip.ledger_dropQuota_rate (c : Chip) (i site a : Nat) :
    (c.dropQuota i site true).ledger a =
      ((((c.ledAdd (morLed 6)).ledAdd (siteLed site 2)).ledAdd (morLed 9)).ledAdd (siteLed site 5)).ledger a := by
  unfold Chip.dropQuota
  simp only [if_true]
  split
  · exact Chip.ledger_count _ _ _ _
  · rfl

/-- A record dropped for its quota or its rate changes ledgers, counters and Cirque only. -/
theorem Chip.dropQuota_shape (c : Chip) (i site : Nat) (rate : Bool) :
    ∃ l k q, c.dropQuota i site rate = { c with led := l, counters := k, cirque := q } := by
  unfold Chip.dropQuota
  cases rate <;> simp only [Bool.false_eq_true, if_false, if_true] <;> split
  · obtain ⟨k, q, h⟩ := Chip.count_shape ((c.ledAdd (morLed 6)).ledAdd (siteLed site 2)) (16 * i + 4) 1
    exact ⟨_, k, q, h⟩
  · exact ⟨_, _, _, rfl⟩
  · obtain ⟨k, q, h⟩ := Chip.count_shape
      ((((c.ledAdd (morLed 6)).ledAdd (siteLed site 2)).ledAdd (morLed 9)).ledAdd (siteLed site 5)) (16 * i + 4) 1
    exact ⟨_, k, q, h⟩
  · exact ⟨_, _, _, rfl⟩

/-! ### The windows of a task (R144) -/

/-- A later window changes the window and its counts in a context, and nothing else of it. -/
theorem Chip.rollWindow_ctx (c : Chip) (n : Nat) :
    ∃ w ws, (c.rollWindow n).ctx n = { c.ctx n with window := w, siteWin := ws } := by
  unfold Chip.rollWindow
  simp only
  split
  · exact ⟨_, _, rfl⟩
  · split
    · exact ⟨_, _, Chip.ctx_setCtx_same c n _⟩
    · exact ⟨_, _, rfl⟩

theorem Chip.rollWindow_shape (c : Chip) (n : Nat) : ∃ s m, c.rollWindow n = { c with sched := s, mem := m } := by
  unfold Chip.rollWindow
  simp only
  split
  · exact ⟨_, _, rfl⟩
  · split <;> exact ⟨_, _, rfl⟩

/-- What a later window leaves of a task's guards. -/
theorem Chip.rollWindow_guards (c : Chip) (n : Nat) :
    ((c.rollWindow n).ctx n).siteBase = (c.ctx n).siteBase ∧ (c.rollWindow n).env n = c.env n ∧
    ((c.rollWindow n).ctx n).breach = (c.ctx n).breach ∧ ((c.rollWindow n).ctx n).fired = (c.ctx n).fired := by
  obtain ⟨w, ws, h⟩ := c.rollWindow_ctx n
  have himages : (c.rollWindow n).images = c.images := by
    obtain ⟨s, m, e⟩ := c.rollWindow_shape n
    rw [e]
  have henv : (c.rollWindow n).env n = c.env n := by
    unfold Chip.env Chip.image
    rw [h, himages]
  exact ⟨by rw [h], henv, by rw [h], by rw [h]⟩

/-! ### A record taken from its queue -/

/-- The oldest record of queue i leaves it; rs stay. -/
def Chip.recTaken (c : Chip) (i : Nat) (rs : List Rec) : Chip :=
  ({ c with mor := { c.mor with queues := tabSet c.mor.queues i rs } } : Chip).ledSub (morLed 8)

theorem Chip.rollWindow_recTaken (c : Chip) (i : Nat) (rs : List Rec) (n : Nat) :
    (c.recTaken i rs).rollWindow n = (c.rollWindow n).recTaken i rs := by
  unfold Chip.rollWindow
  change (if (c.ctx n).st ≠ 6 ∧ (c.ctx n).st ≠ 7 ∧ (c.ctx n).pend ≠ some 6 then _
    else if (c.ctx n).window < c.windowNow (c.env n) (c.ctx n).startTm then _ else _) = _
  simp only
  by_cases hst : (c.ctx n).st ≠ 6 ∧ (c.ctx n).st ≠ 7 ∧ (c.ctx n).pend ≠ some 6
  · rw [if_pos hst, if_pos hst]
  · rw [if_neg hst, if_neg hst]
    by_cases hlater : (c.ctx n).window < c.windowNow (c.env n) (c.ctx n).startTm
    · rw [if_pos hlater, if_pos hlater]
      rfl
    · rw [if_neg hlater, if_neg hlater]

/-- From c to d the oldest record of queue i has left it, and, of what admission reads, nothing else differs but the window
counts of a task. -/
structure Chip.tookRec (c d : Chip) (i : Nat) (rs : List Rec) : Prop where
  queue : tabGet [] d.mor.queues i = rs
  rings : d.mor.rings = c.mor.rings
  regs : d.regs = c.regs
  led : ∀ a, d.ledger a = (c.ledSub (morLed 8)).ledger a
  frc : d.frc = c.frc
  groups : d.groups = c.groups
  host : c.hostSideKept d

theorem Chip.tookRec_recTaken (c : Chip) (i : Nat) (rs : List Rec) : c.tookRec (c.recTaken i rs) i rs :=
  ⟨tabGet_tabSet_same _ _ _ _, rfl, rfl, fun _ => rfl, rfl, rfl, .of_eq rfl⟩

theorem Chip.tookRec_rollWindow (c : Chip) (i : Nat) (rs : List Rec) (n : Nat) :
    c.tookRec ((c.rollWindow n).recTaken i rs) i rs := by
  obtain ⟨s, m, e⟩ := c.rollWindow_shape n
  rw [e]
  exact ⟨tabGet_tabSet_same _ _ _ _, rfl, rfl, fun _ => rfl, rfl, rfl, .of_eq rfl⟩

namespace Chip.tookRec

variable {c d : Chip} {i : Nat} {rs : List Rec}

theorem reg (h : c.tookRec d i rs) (a : Nat) : d.reg a = c.reg a := Chip.reg_of_regs h.regs a
theorem field (h : c.tookRec d i rs) (a hi lo : Nat) : d.field a hi lo = c.field a hi lo := by
  unfold Chip.field
  rw [h.reg]
theorem ring (h : c.tookRec d i rs) (k : Nat) : d.ring k = c.ring k := by
  unfold Chip.ring
  rw [h.rings]
theorem ringOn (h : c.tookRec d i rs) (k : Nat) : d.ringOn k = c.ringOn k := by
  unfold Chip.ringOn
  rw [h.reg]

theorem ledger (h : c.tookRec d i rs) {a : Nat} (ha : a ≠ morLed 8) : d.ledger a = c.ledger a := by
  rw [h.led, Chip.ledger_ledSub, if_neg ha]
theorem morLedger (h : c.tookRec d i rs) {j : Nat} (hj : j ≠ 8) : d.ledger (morLed j) = c.ledger (morLed j) :=
  h.ledger fun he => hj (morLed_eq_iff.1 he)
theorem ledger_queue (h : c.tookRec d i rs) : d.ledger (morLed 8) = c.ledger (morLed 8) - 1 := by
  rw [h.led, Chip.ledger_ledSub, if_pos rfl]
  rfl

end Chip.tookRec

/-! ### A record that its ring takes (R200) -/

/-- A tag of ring k goes to the record: what holds it, what is counted, and what stays. -/
theorem Chip.admitRec_spec (c : Chip) (k : Nat) (r : Rec) :
    ((c.admitRec k r).ring k).held = (c.ring k).held ++ [(r, c.frc)] ∧
    (c.admitRec k r).mor.queues = c.mor.queues ∧ (c.admitRec k r).sched = c.sched ∧
    (c.admitRec k r).groups = c.groups ∧ c.hostSideKept (c.admitRec k r) ∧
    (∀ a, (c.admitRec k r).ledger a = ((c.ledMove (morLed 0) (morLed 1)).ledAdd (morLed 2)).ledger a) ∧
    ∀ a, a ≠ 0x00210068 → (c.admitRec k r).reg a = c.reg a := by
  obtain ⟨ks, q, hcount⟩ := ((c.ledMove (morLed 0) (morLed 1)).ledAdd (morLed 2)).count_shape 299 1
  unfold Chip.admitRec
  simp only [hcount]
  refine ⟨?_, rfl, rfl, rfl, .of_eq rfl, fun _ => rfl, fun a ha => ?_⟩
  · rw [Chip.ring_setRing_same]
    rfl
  · exact Chip.reg_setField_other _ _ _ _ ha

/-! ### The tests of R200 in order -/

/-- The ring and tag tests on a record of queue i; where they pass, `charge` counts it for its task. -/
def Chip.intoRing (c : Chip) (i : Nat) (r : Rec) (charge : Chip → Chip) : Chip :=
  let k := c.field (siteRingReg r.site) 3 0
  if !c.ringOn k || decide (c.field (ringB k + 0xC) 17 0 ≤ (c.ring k).tags) then
    (c.ledSub (siteLed r.site 4)).dropFull i r.site (some 11)
  else if c.ledger (morLed 0) = 0 then (c.ledSub (siteLed r.site 4)).dropFull i r.site none
  else (charge (c.setReg (siteUsed r.site) (BitVec.ofNat 32 ((c.reg (siteUsed r.site)).toNat + r.units)))).admitRec k r

/-- The quota, the rate and the window's count of a record's site, as the task of context n has them. -/
def Chip.quotaOf (c : Chip) (n : Nat) (r : Rec) : Nat := (c.env n).siteQuota.getD (r.site - (c.ctx n).siteBase) 0
def Chip.rateOf (c : Chip) (n : Nat) (r : Rec) : Nat := (c.env n).siteRate.getD (r.site - (c.ctx n).siteBase) 0
def Chip.winOf (c : Chip) (n : Nat) (r : Rec) : Nat := tabGet 0 (c.ctx n).siteWin (r.site - (c.ctx n).siteBase)
/-- A record's units are counted in the window of its site. -/
def Chip.winCharge (c : Chip) (n : Nat) (r : Rec) : Chip :=
  c.updCtx n fun x => { x with
    siteWin := tabSet x.siteWin (r.site - x.siteBase) (c.winOf n r + r.units) }

theorem Chip.winCharge_spec (c : Chip) (n : Nat) (r : Rec) :
    tabGet 0 ((c.winCharge n r).ctx n).siteWin (r.site - (c.ctx n).siteBase) = c.winOf n r + r.units ∧
    ((c.winCharge n r).ctx n).breach = (c.ctx n).breach := by
  unfold Chip.winCharge Chip.updCtx
  rw [Chip.ctx_setCtx_same]
  exact ⟨tabGet_tabSet_same _ _ _ _, rfl⟩

/-- A record of a site that no admitted task holds comes to the tests of its ring. -/
theorem recordAdmission_free (c : Chip) (i : Nat) (r : Rec) (rs : List Rec) (hq : tabGet [] c.mor.queues i = r :: rs)
    (ho : c.siteOwner r.site = none) : recordAdmission i c = (c.recTaken i rs).intoRing i r id := by
  have ho' : (c.recTaken i rs).siteOwner r.site = none := ho
  unfold Chip.recTaken at ho'
  unfold recordAdmission
  rw [hq]
  simp only [ho', ne_eq, not_true_eq_false, false_and, if_false, Option.isSome_none, Bool.false_eq_true]
  rfl

/-- A record of a site that context n holds is tested against its quota and its rate first. -/
theorem recordAdmission_owned (c : Chip) (i : Nat) (r : Rec) (rs : List Rec) (n : Nat)
    (hq : tabGet [] c.mor.queues i = r :: rs) (ho : c.siteOwner r.site = some n) :
    let d := (c.rollWindow n).recTaken i rs
    let gone := d.ledSub (siteLed r.site 4)
    recordAdmission i c =
      if d.quotaOf n r ≠ 0xFFFFFFFF ∧ d.quotaOf n r < (d.reg (siteUsed r.site)).toNat + r.units then
        gone.dropQuota i r.site false
      else if d.rateOf n r < d.winOf n r + r.units then
        (gone.dropQuota i r.site true).breach srcMor n (0x0100 + (r.site - (d.ctx n).siteBase))
      else d.intoRing i r (·.winCharge n r) := by
  intro d gone
  have ho' : (c.recTaken i rs).siteOwner r.site = some n := ho
  have hd : (c.recTaken i rs).rollWindow n = d := c.rollWindow_recTaken i rs n
  unfold Chip.recTaken at ho' hd
  unfold recordAdmission
  rw [hq]
  simp only [ho', hd, Option.isSome_some, true_and]
  rfl

/-! ### What the tests come to -/

section Ring

variable {d : Chip} {k : Nat} {r : Rec} (i : Nat) (charge : Chip → Chip)

theorem Chip.intoRing_admits (hk : d.field (siteRingReg r.site) 3 0 = k) (hon : d.ringOn k = true)
    (hroom : (d.ring k).tags < d.field (ringB k + 0xC) 17 0) (htag : d.ledger (morLed 0) ≠ 0) :
    d.intoRing i r charge =
      (charge (d.setReg (siteUsed r.site) (BitVec.ofNat 32 ((d.reg (siteUsed r.site)).toNat + r.units)))).admitRec k r := by
  unfold Chip.intoRing
  simp only [hk, hon, Nat.not_le.2 hroom, htag, Bool.not_true, decide_false, Bool.or_self, Bool.false_eq_true, if_false]

theorem Chip.intoRing_full (hk : d.field (siteRingReg r.site) 3 0 = k)
    (h : d.ringOn k = false ∨ d.field (ringB k + 0xC) 17 0 ≤ (d.ring k).tags) :
    d.intoRing i r charge = (d.ledSub (siteLed r.site 4)).dropFull i r.site (some 11) := by
  unfold Chip.intoRing
  simp only [hk]
  rw [if_pos]
  rcases h with h | h <;> simp [h]

theorem Chip.intoRing_noTag (hk : d.field (siteRingReg r.site) 3 0 = k) (hon : d.ringOn k = true)
    (hroom : (d.ring k).tags < d.field (ringB k + 0xC) 17 0) (htag : d.ledger (morLed 0) = 0) :
    d.intoRing i r charge = (d.ledSub (siteLed r.site 4)).dropFull i r.site none := by
  unfold Chip.intoRing
  simp only [hk, hon, Nat.not_le.2 hroom, htag, Bool.not_true, decide_false, Bool.or_self, Bool.false_eq_true, if_false,
    if_true]

end Ring

namespace Chip.tookRec

variable {c d : Chip} {i k : Nat} {r : Rec} {rs : List Rec}

/-- The record taken from its queue is held in its ring, each ledger moves by one tag, and its units are used. -/
theorem admitted (h : c.tookRec d i rs) (k : Nat) (r : Rec) (w : Word) (charge : Chip → Chip)
    (hcharge : ∀ e : Chip, ∃ s, charge e = { e with sched := s }) :
    let t := (charge (d.setReg (siteUsed r.site) w)).admitRec k r
    tabGet [] t.mor.queues i = rs ∧ (t.ring k).held = (c.ring k).held ++ [(r, c.frc)] ∧
    t.ledger (morLed 0) = c.ledger (morLed 0) - 1 ∧ t.ledger (morLed 1) = c.ledger (morLed 1) + 1 ∧
    t.ledger (morLed 2) = c.ledger (morLed 2) + 1 ∧ t.ledger (morLed 8) = c.ledger (morLed 8) - 1 ∧
    t.reg (siteUsed r.site) = w ∧ c.hostSideKept t ∧ t.groups = c.groups ∧
    t.sched = (charge (d.setReg (siteUsed r.site) w)).sched := by
  intro t
  obtain ⟨sched, he⟩ := hcharge (d.setReg (siteUsed r.site) w)
  obtain ⟨hheld, hqueues, hsched, hgroups, hhost, hled, hreg⟩ :=
    (charge (d.setReg (siteUsed r.site) w)).admitRec_spec k r
  have hled' : ∀ a, (charge (d.setReg (siteUsed r.site) w)).ledger a = d.ledger a := fun a => by rw [he]; rfl
  refine ⟨?_, ?_, ?_, ?_, ?_, ?_, ?_, ?_, ?_, hsched⟩
  · rw [hqueues, he]
    exact h.queue
  · rw [hheld, he]
    change (d.ring k).held ++ [(r, d.frc)] = _
    rw [h.ring, h.frc]
  iterate 4
    · rw [hled]
      simp [Chip.ledger_ledAdd, Chip.ledger_ledSub, morLed_eq_iff, hled', h.morLedger, h.ledger_queue]
  · rw [hreg _ (by unfold siteUsed; omega), he]
    exact Chip.reg_setReg_same _ _ _
  · exact (h.host.trans (by rw [he]; exact .of_eq rfl)).trans hhost
  · rw [hgroups, he]
    exact h.groups

/-- A record dropped is gone from its queue, and rings and registers are as they were. -/
theorem dropped (h : c.tookRec d i rs) {e : Chip} (he : ∃ l k q, e = { d with led := l, counters := k, cirque := q }) :
    tabGet [] e.mor.queues i = rs ∧ e.mor.rings = c.mor.rings ∧ ∀ a, e.reg a = c.reg a := by
  obtain ⟨l, k, q, rfl⟩ := he
  exact ⟨h.queue, h.rings, h.reg⟩

theorem siteLedger (h : c.tookRec d i rs) (site j : Nat) : d.ledger (siteLed site j) = c.ledger (siteLed site j) :=
  h.ledger (morLed_ne_siteLed (by decide) _ _).symm

end Chip.tookRec

/-- An excess of a guard: the breach count, and ENVELOPE_BREACH where it is the guard's first (R157). -/
theorem Chip.breach_spec (c : Chip) (src n unit : Nat) :
    ((c.breach src n unit).ctx n).breach = min ((c.ctx n).breach + 1) 0xFFFFFFFF ∧
    ((c.breach src n unit).ctx n).siteWin = (c.ctx n).siteWin ∧ (c.breach src n unit).mor = c.mor ∧
    (c.breach src n unit).regs = c.regs ∧ (c.breach src n unit).led = c.led ∧
    (unit ∉ (c.ctx n).fired → (c.breach src n unit).waits src 0x0300) := by
  unfold Chip.breach
  simp only
  split
  · rename_i hf
    exact ⟨by rw [Chip.ctx_setCtx_same], by rw [Chip.ctx_setCtx_same], rfl, rfl, rfl, fun hn => absurd hf hn⟩
  · refine ⟨?_, ?_, by simp, by simp, by simp, fun _ => Chip.raiseErr_waits _ _ _ _ _ _⟩
    all_goals rw [Chip.ctx_of_ctxs (congrArg (·.ctxs) (Chip.raiseErr_sched _ _ _ _ _ _)), Chip.ctx_setCtx_same]

/-! ### A record of an admitted task's site -/

section Owned

variable {c : Chip} {i n : Nat} {r : Rec} {rs : List Rec}

/-- The guards of a task's site, once its record is taken and the window rolled. -/
theorem Chip.guards_recTaken (c : Chip) (i n : Nat) (r : Rec) (rs : List Rec) :
    let d := (c.rollWindow n).recTaken i rs
    let rel := r.site - (c.ctx n).siteBase
    (d.ctx n).siteBase = (c.ctx n).siteBase ∧ d.quotaOf n r = (c.env n).siteQuota.getD rel 0 ∧
    d.rateOf n r = (c.env n).siteRate.getD rel 0 ∧ d.winOf n r = tabGet 0 ((c.rollWindow n).ctx n).siteWin rel ∧
    (d.reg (siteUsed r.site)).toNat = (c.reg (siteUsed r.site)).toNat := by
  intro d rel
  obtain ⟨hbase, henv, -, -⟩ := c.rollWindow_guards n
  have hbase' : (d.ctx n).siteBase = (c.ctx n).siteBase := hbase
  have henv' : d.env n = c.env n := henv
  refine ⟨hbase', ?_, ?_, ?_, congrArg BitVec.toNat ((c.tookRec_rollWindow i rs n).reg _)⟩
  · unfold Chip.quotaOf
    rw [hbase', henv']
  · unfold Chip.rateOf
    rw [hbase', henv']
  · unfold Chip.winOf
    rw [hbase']
    rfl

theorem recordAdmission_overQuota (hq : tabGet [] c.mor.queues i = r :: rs) (ho : c.siteOwner r.site = some n)
    (hlimit : (c.env n).siteQuota.getD (r.site - (c.ctx n).siteBase) 0 ≠ 0xFFFFFFFF)
    (hover : (c.env n).siteQuota.getD (r.site - (c.ctx n).siteBase) 0 < (c.reg (siteUsed r.site)).toNat + r.units) :
    recordAdmission i c =
      (((c.rollWindow n).recTaken i rs).ledSub (siteLed r.site 4)).dropQuota i r.site false := by
  obtain ⟨-, hquota, -, -, hused⟩ := c.guards_recTaken i n r rs
  exact (recordAdmission_owned c i r rs n hq ho).trans (if_pos (by rw [hquota, hused]; exact ⟨hlimit, hover⟩))

theorem recordAdmission_overRate (hq : tabGet [] c.mor.queues i = r :: rs) (ho : c.siteOwner r.site = some n)
    (hin : (c.env n).siteQuota.getD (r.site - (c.ctx n).siteBase) 0 = 0xFFFFFFFF ∨
      (c.reg (siteUsed r.site)).toNat + r.units ≤ (c.env n).siteQuota.getD (r.site - (c.ctx n).siteBase) 0)
    (hover : (c.env n).siteRate.getD (r.site - (c.ctx n).siteBase) 0 <
      tabGet 0 ((c.rollWindow n).ctx n).siteWin (r.site - (c.ctx n).siteBase) + r.units) :
    recordAdmission i c =
      ((((c.rollWindow n).recTaken i rs).ledSub (siteLed r.site 4)).dropQuota i r.site true).breach srcMor n
        (0x0100 + (r.site - (c.ctx n).siteBase)) := by
  obtain ⟨hbase, hquota, hrate, hwin, hused⟩ := c.guards_recTaken i n r rs
  refine (recordAdmission_owned c i r rs n hq ho).trans ?_
  rw [if_neg (by rw [hquota, hused]; omega), if_pos (by rw [hrate, hwin]; exact hover), hbase]

theorem recordAdmission_within (hq : tabGet [] c.mor.queues i = r :: rs) (ho : c.siteOwner r.site = some n)
    (hin : (c.env n).siteQuota.getD (r.site - (c.ctx n).siteBase) 0 = 0xFFFFFFFF ∨
      (c.reg (siteUsed r.site)).toNat + r.units ≤ (c.env n).siteQuota.getD (r.site - (c.ctx n).siteBase) 0)
    (hrate : tabGet 0 ((c.rollWindow n).ctx n).siteWin (r.site - (c.ctx n).siteBase) + r.units ≤
      (c.env n).siteRate.getD (r.site - (c.ctx n).siteBase) 0) :
    recordAdmission i c = ((c.rollWindow n).recTaken i rs).intoRing i r (·.winCharge n r) := by
  obtain ⟨-, hquota, hrate', hwin, hused⟩ := c.guards_recTaken i n r rs
  refine (recordAdmission_owned c i r rs n hq ho).trans ?_
  rw [if_neg (by rw [hquota, hused]; omega), if_neg (by rw [hrate', hwin]; omega)]

end Owned

/-! ### Ledgers of a dropped record -/

namespace Chip.tookRec

variable {c d : Chip} {i : Nat} {rs : List Rec}

/-- A record dropped for the quota counts as DROPPED_QUOTA, of the device and of its site (R200, R210). -/
theorem ledger_overQuota (h : c.tookRec d i rs) (q site : Nat) :
    let t := (d.ledSub (siteLed site 4)).dropQuota q site false
    t.ledger (morLed 6) = c.ledger (morLed 6) + 1 ∧ t.ledger (siteLed site 2) = c.ledger (siteLed site 2) + 1 := by
  intro t
  refine ⟨?_, ?_⟩
  all_goals simp [t, Chip.ledger_dropQuota_quota, Chip.ledger_ledAdd, Chip.ledger_ledSub, siteLed_eq_iff,
    morLed_ne_siteLed, siteLed_ne_morLed, h.morLedger, h.siteLedger]

/-- A record dropped for the rate counts as RATE as well (R157, R210). -/
theorem ledger_overRate (h : c.tookRec d i rs) (q site : Nat) :
    let t := (d.ledSub (siteLed site 4)).dropQuota q site true
    t.ledger (morLed 6) = c.ledger (morLed 6) + 1 ∧ t.ledger (morLed 9) = c.ledger (morLed 9) + 1 ∧
    t.ledger (siteLed site 2) = c.ledger (siteLed site 2) + 1 ∧
    t.ledger (siteLed site 5) = c.ledger (siteLed site 5) + 1 ∧
    t.ledger (siteLed site 4) = c.ledger (siteLed site 4) - 1 := by
  intro t
  refine ⟨?_, ?_, ?_, ?_, ?_⟩
  all_goals simp [t, Chip.ledger_dropQuota_rate, Chip.ledger_ledAdd, Chip.ledger_ledSub, morLed_eq_iff, siteLed_eq_iff,
    morLed_ne_siteLed, siteLed_ne_morLed, h.morLedger, h.siteLedger]

/-- A record dropped at its ring counts as DROPPED_FULL, and as RING (R200, R210). -/
theorem ledger_ringFull (h : c.tookRec d i rs) (q site : Nat) :
    let t := (d.ledSub (siteLed site 4)).dropFull q site (some 11)
    t.ledger (morLed 7) = c.ledger (morLed 7) + 1 ∧ t.ledger (morLed 11) = c.ledger (morLed 11) + 1 ∧
    t.ledger (siteLed site 3) = c.ledger (siteLed site 3) + 1 ∧
    t.ledger (siteLed site 4) = c.ledger (siteLed site 4) - 1 := by
  intro t
  refine ⟨?_, ?_, ?_, ?_⟩
  all_goals simp [t, Chip.ledger_dropFull_some, Chip.ledger_ledAdd, Chip.ledger_ledSub, morLed_eq_iff, siteLed_eq_iff,
    morLed_ne_siteLed, siteLed_ne_morLed, h.morLedger, h.siteLedger]

/-- A record dropped where no tag is free counts as DROPPED_FULL alone (R200, R210). -/
theorem ledger_noTag (h : c.tookRec d i rs) (q site : Nat) :
    let t := (d.ledSub (siteLed site 4)).dropFull q site none
    t.ledger (morLed 7) = c.ledger (morLed 7) + 1 ∧ t.ledger (morLed 11) = c.ledger (morLed 11) ∧
    t.ledger (siteLed site 3) = c.ledger (siteLed site 3) + 1 ∧
    t.ledger (siteLed site 4) = c.ledger (siteLed site 4) - 1 := by
  intro t
  refine ⟨?_, ?_, ?_, ?_⟩
  all_goals simp [t, Chip.ledger_dropFull_none, Chip.ledger_ledAdd, Chip.ledger_ledSub, morLed_eq_iff, siteLed_eq_iff,
    morLed_ne_siteLed, siteLed_ne_morLed, h.morLedger, h.siteLedger]

end Chip.tookRec

end Sys2Proof.Machine
end

section
/-! SUPPORT. Ring lines: a line written to its ring, the flush of a partial line, the commits of lines, and the obligation of
result records (R205, R206). -/

namespace Sys2Proof.Machine

/-! ### A line goes to its ring (R205) -/

/-- A request of capture class joins the end of its channel's capture queue. -/
theorem Chip.capture_memReq (c : Chip) (r : Req) :
    ((c.memReq .capture r).memCh (chanOf r.addr)).capture = (c.memCh (chanOf r.addr)).capture ++ [r] := by
  unfold Chip.memReq Chip.memPut
  simp only [Chip.memCh_setMemCh, if_true, Chip.memCh_of_ch c.memTouch_ch]

/-- Ring k, which stands as g, is served last. -/
def Chip.ringServed (c : Chip) (k : Nat) (g : RingSt) : Chip :=
  { c.setRing k g with mor := { (c.setRing k g).mor with lastRing := k } }

theorem ringLineWrite_turn (c : Chip) (k : Ring) (h : c.ringTurn = some k.val) :
    let g := c.ring k
    let p := packLine g.held 0 []
    let off := c.reg64 (ringWr k) + 128 * g.lines.length
    let a := c.reg64 (ringB k) + off % c.ringSize k
    let t := ringLineWrite k c
    t.mor.lastRing = k ∧ (t.ring k).lines = g.lines ++ [{ off := off, sites := (p.1.filterMap id).map (·.site) }] ∧
      (t.memCh (chanOf a)).capture = (c.memCh (chanOf a)).capture ++
        [{ addr := a, data := some (lineBytes p.1), who := .ring k (off / 128) }] ∧
      t.reg64 (ringWr k) = c.reg64 (ringWr k) := by
  intro g p off a t
  have hrow : t = (c.ringServed k { g with
      held := g.held.drop (p.1.filterMap id).length
      lines := g.lines ++ [{ off := off, sites := (p.1.filterMap id).map (·.site) }]
      flushDue := false }).memReq .capture
        { addr := a, data := some (lineBytes p.1), who := .ring k (off / 128) } := if_neg (by rw [h]; simp)
  rw [hrow]
  refine ⟨?_, ?_, Chip.capture_memReq _ _, ?_⟩
  · rw [Chip.memReq_mor]
    rfl
  · rw [Chip.ring_of_mor (Chip.memReq_mor _ _ _)]
    exact congrArg RingSt.lines (c.ring_setRing_same k _)
  · exact Chip.reg64_congr (Chip.reg_memReq _ _ _ (by unfold ringWr ringB; omega) (by unfold ringWr ringB; omega))
      (Chip.reg_memReq _ _ _ (by unfold ringWr ringB; omega) (by unfold ringWr ringB; omega))

theorem flushTimeout_partial (c : Chip) (k : Nat) (hheld : (c.ring k).held ≠ [])
    (hline : (packLine (c.ring k).held 0 []).2.2 = false) :
    (flushTimeout k c).ring k = { c.ring k with flushDue := true } := by
  unfold flushTimeout
  split
  · rename_i hnil
    exact absurd hnil hheld
  · rename_i at0 _ _
    have hring := Chip.ring_of_mor (c.mor_advanceTo (16 * (at0 + c.field 0x00210000 15 0))) k
    simp only [hring, hline, Bool.false_eq_true, if_false]
    exact Chip.ring_setRing_same _ _ _

/-! ### Commits (R205, R206) -/

/-- The sites of a line's records each count one as committed. -/
def Chip.sitesCommitted (c : Chip) (sites : List Nat) : Chip :=
  sites.foldl (fun c s => (c.ledAdd (siteLed s 1)).ledSub (siteLed s 4)) c

theorem Chip.sitesCommitted_kept (c : Chip) (sites : List Nat) :
    (c.sitesCommitted sites).regs = c.regs ∧ (c.sitesCommitted sites).mor = c.mor ∧
    ∀ i < 12, (c.sitesCommitted sites).ledger (morLed i) = c.ledger (morLed i) := by
  induction sites generalizing c with
  | nil => exact ⟨rfl, rfl, fun _ _ => rfl⟩
  | cons s sites ih =>
    obtain ⟨hregs, hmor, hled⟩ := ih ((c.ledAdd (siteLed s 1)).ledSub (siteLed s 4))
    refine ⟨hregs, hmor, fun i hi => (hled i hi).trans ?_⟩
    rw [Chip.ledger_ledSub, if_neg (morLed_ne_siteLed hi _ _), Chip.ledger_ledAdd, if_neg (morLed_ne_siteLed hi _ _)]

/-- A commit gives the n tags of a line's records back. -/
def Chip.tagsFreed (c : Chip) (n : Nat) : Chip :=
  (((c.ledAdd (morLed 5) n).ledMove (morLed 1) (morLed 0) n).ledAdd (morLed 3) n).count 300 n

theorem Chip.tagsFreed_spec (c : Chip) (n : Nat) :
    (c.tagsFreed n).regs = c.regs ∧ (c.tagsFreed n).mor = c.mor ∧
    (c.tagsFreed n).ledger (morLed 0) = c.ledger (morLed 0) + BitVec.ofNat 64 n ∧
    (c.tagsFreed n).ledger (morLed 1) = c.ledger (morLed 1) - BitVec.ofNat 64 n ∧
    (c.tagsFreed n).ledger (morLed 5) = c.ledger (morLed 5) + BitVec.ofNat 64 n := by
  unfold Chip.tagsFreed
  refine ⟨by simp, by simp, ?_, ?_, ?_⟩
  all_goals simp [Chip.ledger_ledAdd, Chip.ledger_ledSub, morLed_eq_iff]

/-- The written line l leaves ring k, and WR moves past it; ls stay. -/
def Chip.lineTaken (c : Chip) (k : Nat) (l : DrainLine) (ls : List DrainLine) : Chip :=
  (c.setRing k { c.ring k with lines := ls, ages := (c.ring k).ages ++ [l.writtenAt] }).setReg64 (ringWr k)
    (c.reg64 (ringWr k) + 128)

/-- The written line l of ring k commits, before a push is considered. -/
def Chip.lineCommitted (c : Chip) (k : Nat) (l : DrainLine) (ls : List DrainLine) : Chip :=
  ((c.lineTaken k l ls).tagsFreed l.sites.length).sitesCommitted l.sites

theorem Chip.commitLine_written (c : Chip) (k : Nat) (l : DrainLine) (ls : List DrainLine) (h : (c.ring k).lines = l :: ls)
    (hw : l.written = true) : c.commitLine k = (c.lineCommitted k l ls).pushIfDue k := by
  unfold Chip.commitLine
  rw [h]
  simp only [hw, Bool.not_true, Bool.false_eq_true, if_false]
  rfl

theorem Chip.lineCommitted_spec (c : Chip) (k : Nat) (l : DrainLine) (ls : List DrainLine) :
    let n := BitVec.ofNat 64 l.sites.length
    let t := c.lineCommitted k l ls
    t.reg64 (ringWr k) = (c.reg64 (ringWr k) + 128) % 2 ^ 64 ∧ t.reg (ringB k + 0x28) = c.reg (ringB k + 0x28) ∧
    (t.ring k).lines = ls ∧ (t.ring k).mark = (c.ring k).mark ∧ t.ledger (morLed 0) = c.ledger (morLed 0) + n ∧
    t.ledger (morLed 1) = c.ledger (morLed 1) - n ∧ t.ledger (morLed 5) = c.ledger (morLed 5) + n := by
  intro n t
  obtain ⟨hregs, hmor, h0, h1, h5⟩ := (c.lineTaken k l ls).tagsFreed_spec l.sites.length
  obtain ⟨hregs', hmor', hled⟩ := ((c.lineTaken k l ls).tagsFreed l.sites.length).sitesCommitted_kept l.sites
  have hring : t.ring k = { c.ring k with lines := ls, ages := (c.ring k).ages ++ [l.writtenAt] } :=
    (Chip.ring_of_mor (hmor'.trans hmor) k).trans (c.ring_setRing_same k _)
  refine ⟨?_, ?_, by rw [hring], by rw [hring], (hled 0 (by decide)).trans h0, (hled 1 (by decide)).trans h1,
    (hled 5 (by decide)).trans h5⟩
  · exact (Chip.reg64_of_regs (hregs'.trans hregs) _).trans (Chip.reg64_setReg64 _ _ _)
  · exact (Chip.reg_of_regs (hregs'.trans hregs) _).trans
      (Chip.reg_setReg64_other _ _ (by unfold ringWr; omega) (by unfold ringWr; omega))

theorem ringLineCommit_written (d : Memory) (c : Chip) (k : Nat) (l : DrainLine) (ls : List DrainLine)
    (h : (c.ring k).lines = l :: ls) (hw : l.written = true) :
    ringLineCommit k d c = (d, (c.lineCommitted k l ls).pushIfDue k) := by
  unfold ringLineCommit
  rw [h]
  simp only [hw, if_true, c.commitLine_written k l ls h hw]

/-- With the tables stopped nothing more of a line is written, and it waits. -/
theorem ringLineCommit_stopped (d : Memory) (c : Chip) (k : Nat) (l : DrainLine) (ls : List DrainLine)
    (h : (c.ring k).lines = l :: ls) (hw : l.written = false) (ht : c.tableRuns = false) : ringLineCommit k d c = (d, c) := by
  have hnow : c.commitLine k = c := by
    unfold Chip.commitLine
    rw [h]
    simp only [hw, Bool.not_false, if_true]
  unfold ringLineCommit whenServed awaitWho
  rw [h]
  simp only [hw, Bool.false_eq_true, awaitMem_idle _ _ _ _ _ _ (.inr ht), hnow, ite_self]

/-! ### The obligation -/

/-- Settles O50: a record is taken from its queue (`Chip.tookRec`), and the tests of R200 give it to its ring
(`Chip.tookRec.admitted`) or drop it (`Chip.tookRec.dropped`); a line is written (`ringLineWrite_turn`) and commits
(`Chip.lineCommitted_spec`), and every push is `Chip.pushRing`. -/
theorem records : Obligations.Records := by
  unfold Obligations.Records
  refine ⟨?free, ?owned, ?rate, ?noTag, ?full, ?quota, ?write, ?notTurn, ?flush, ?commit, ?stopped, ?pushWrite, ?maxage⟩
  case free =>
    intro s i r rs k hq hs ho hon hroom htag
    have h := s.chip.tookRec_recTaken i rs
    have hrow := (recordAdmission_free s.chip i r rs hq ho).trans (Chip.intoRing_admits (k := k) i id (h.field _ _ _)
      (by rw [h.ringOn]; exact hon) (by rw [h.ring, h.field]; exact hroom) (by rw [h.ledger (by decide)]; exact htag))
    obtain ⟨hqueue, hheld, h0, h1, h2, h8, hused, hhost, hgroups, -⟩ := h.admitted k r
      (BitVec.ofNat 32 (((s.chip.recTaken i rs).reg (siteUsed r.site)).toNat + r.units)) id fun e => ⟨e.sched, rfl⟩
    exact ⟨_, State.onChip_of_eq s hrow, hqueue, hheld, h0, h1, h2, h8, hused, rfl, hhost, hgroups⟩
  case owned =>
    intro s i r rs n k rel used win hq hs ho hquota hrate hon hroom htag
    have h := s.chip.tookRec_rollWindow i rs n
    obtain ⟨hbase, -, -, hwin, hreg⟩ := s.chip.guards_recTaken i n r rs
    have hrow := (recordAdmission_within hq ho hquota hrate).trans (Chip.intoRing_admits (k := k) i (·.winCharge n r)
      (h.field _ _ _) (by rw [h.ringOn]; exact hon) (by rw [h.ring, h.field]; exact hroom)
      (by rw [h.ledger (by decide)]; exact htag))
    rw [hreg] at hrow
    obtain ⟨hqueue, hheld, h0, h1, h2, h8, hused, -, -, hsched⟩ := h.admitted k r (BitVec.ofNat 32 (used + r.units))
      (·.winCharge n r) fun e => ⟨_, rfl⟩
    obtain ⟨hcharged, hkept⟩ := (((s.chip.rollWindow n).recTaken i rs).setReg (siteUsed r.site)
      (BitVec.ofNat 32 (used + r.units))).winCharge_spec n r
    obtain ⟨-, -, hbreach, -⟩ := s.chip.rollWindow_guards n
    have hctx := Chip.ctx_of_ctxs (congrArg (·.ctxs) hsched) n
    refine ⟨_, State.onChip_of_eq s hrow, hqueue, hheld, h0, h1, h2, h8, hused, ?_, ?_⟩
    · rw [hctx]
      exact (congrArg (fun b => tabGet 0 _ (r.site - b)) hbase.symm).trans (hcharged.trans (congrArg (· + r.units) hwin))
    · rw [hctx, hkept]
      exact hbreach
  case rate =>
    intro s i r rs n rel used x win hq hs ho hquota hrate
    have h := s.chip.tookRec_rollWindow i rs n
    obtain ⟨-, -, hbreach, hfired⟩ := s.chip.rollWindow_guards n
    obtain ⟨l, ks, q, hdrop⟩ :=
      (((s.chip.rollWindow n).recTaken i rs).ledSub (siteLed r.site 4)).dropQuota_shape i r.site true
    obtain ⟨hqueue, hrings, hreg⟩ := h.dropped ⟨l, ks, q, hdrop⟩
    obtain ⟨h6, h9, h2, h5, h4⟩ := h.ledger_overRate i r.site
    obtain ⟨hcount, hwin, hmor, hregs, hled, hwaits⟩ := Chip.breach_spec
      ((((s.chip.rollWindow n).recTaken i rs).ledSub (siteLed r.site 4)).dropQuota i r.site true) srcMor n (0x0100 + rel)
    have hctx : ((((s.chip.rollWindow n).recTaken i rs).ledSub (siteLed r.site 4)).dropQuota i r.site true).ctx n = x := by
      rw [hdrop]
      rfl
    have hledger := Chip.ledger_of_led hled
    rw [hctx] at hcount hwin hwaits
    rw [hbreach] at hcount
    rw [hfired] at hwaits
    exact ⟨_, State.onChip_of_eq s (recordAdmission_overRate hq ho hquota hrate), by rw [hmor]; exact hqueue,
      by rw [hmor]; exact hrings, (hledger _).trans h6, (hledger _).trans h9, (hledger _).trans h2, (hledger _).trans h5,
      (hledger _).trans h4, (Chip.reg_of_regs hregs _).trans (hreg _), hwin, hcount, hwaits⟩
  case noTag =>
    intro s i r rs k hq hs ho hon hroom htag
    have h := s.chip.tookRec_recTaken i rs
    have hrow := (recordAdmission_free s.chip i r rs hq ho).trans (Chip.intoRing_noTag (k := k) i id (h.field _ _ _)
      (by rw [h.ringOn]; exact hon) (by rw [h.ring, h.field]; exact hroom) (by rw [h.ledger (by decide)]; exact htag))
    obtain ⟨hqueue, hrings, hreg⟩ :=
      h.dropped (((s.chip.recTaken i rs).ledSub (siteLed r.site 4)).dropFull_shape i r.site none)
    obtain ⟨h7, h11, h3, h4⟩ := h.ledger_noTag i r.site
    exact ⟨_, State.onChip_of_eq s hrow, hqueue, hrings, h7, h11, h3, h4, hreg _⟩
  case full =>
    intro s i r rs k hq hs ho hfull
    have h := s.chip.tookRec_recTaken i rs
    have hrow := (recordAdmission_free s.chip i r rs hq ho).trans (Chip.intoRing_full (k := k) i id (h.field _ _ _)
      (by rw [h.ringOn, h.ring, h.field]; exact hfull))
    obtain ⟨-, hrings, hreg⟩ :=
      h.dropped (((s.chip.recTaken i rs).ledSub (siteLed r.site 4)).dropFull_shape i r.site (some 11))
    obtain ⟨h7, h11, h3, h4⟩ := h.ledger_ringFull i r.site
    exact ⟨_, State.onChip_of_eq s hrow, hrings, hreg _, h7, h11, h3, h4⟩
  case quota =>
    intro s i r rs n quota hq hs ho hlimit hover
    have h := s.chip.tookRec_rollWindow i rs n
    obtain ⟨-, hrings, hreg⟩ :=
      h.dropped ((((s.chip.rollWindow n).recTaken i rs).ledSub (siteLed r.site 4)).dropQuota_shape i r.site false)
    obtain ⟨h6, h2⟩ := h.ledger_overQuota i r.site
    exact ⟨_, State.onChip_of_eq s (recordAdmission_overQuota hq ho hlimit hover), hrings, h6, h2, hreg _⟩
  case write =>
    intro s k h g p off a
    obtain ⟨hlast, hlines, hcapture, hwr⟩ := ringLineWrite_turn s.chip k h
    exact ⟨_, State.onChip_of_eq s rfl, hlast, hlines, hcapture, hwr, rfl⟩
  case notTurn =>
    intro s k h
    exact State.onChip_same (if_pos h)
  case flush =>
    intro s k hheld hline
    exact ⟨_, State.onChip_of_eq s rfl, flushTimeout_partial s.chip k hheld hline, rfl⟩
  case commit =>
    intro s k l ls hl hw n wr
    obtain ⟨hwr, hthresh, hlines, hmark, h0, h1, h5⟩ := s.chip.lineCommitted_spec k l ls
    obtain ⟨hregs, hled, hkept⟩ := (s.chip.lineCommitted k l ls).pushIfDue_kept k
    have hrow : s.onBoth (ringLineCommit k) =
        .next { s with chip := (s.chip.lineCommitted k l ls).pushIfDue k } := by
      unfold State.onBoth
      rw [ringLineCommit_written s.dram s.chip k l ls hl hw]
    refine ⟨_, hrow, (Chip.reg64_of_regs hregs _).trans hwr, hkept.trans hlines, rfl, (Chip.ledger_of_led hled _).trans h0,
      (Chip.ledger_of_led hled _).trans h1, (Chip.ledger_of_led hled _).trans h5, fun hdue => ?_⟩
    have hdue' : (s.chip.lineCommitted k l ls).pushDue k := by
      unfold Chip.pushDue Chip.field
      rw [hwr, hthresh, hmark]
      exact hdue
    obtain ⟨hwaits, hring, -⟩ := (s.chip.lineCommitted k l ls).pushRing_spec k
    rw [hwr] at hwaits hring
    rw [Chip.pushIfDue_due _ _ hdue', hring]
    exact ⟨hwaits, rfl⟩
  case stopped =>
    intro s k l ls h hw ht
    refine ⟨s, ?_, rfl⟩
    change s.onBoth (ringLineCommit k) = _
    unfold State.onBoth
    rw [ringLineCommit_stopped s.dram s.chip k l ls h hw ht]
  case pushWrite =>
    intro s q tag k v h hon hthr hage hdue
    obtain ⟨hwaits, hring, -, -, hports⟩ := ((s.chip.tagged q tag).ringPushSet k v).pushRing_spec k
    have hwr : ((s.chip.tagged q tag).ringPushSet k v).reg64 (ringWr k) = s.chip.reg64 (ringWr k) :=
      (s.chip.tagged q tag).reg64_ringPushSet k v
    rw [hwr] at hwaits hring
    refine ⟨_, exec_ringPush s q tag k v h hon hthr hage hdue, Chip.write_completed _ _ 0 h.1 hports, ?_, ?_⟩
    · unfold Chip.waitsTo
      rw [Chip.cirque_reply_done]
      exact hwaits
    · rw [Chip.ring_of_mor (Chip.reply_mor _ _ _ _ _ _ _), hring]
  case maxage =>
    intro s k a as h
    obtain ⟨hwaits, hmark, hages⟩ := pushMaxage_pushes s.chip k a as h
    exact ⟨_, State.onChip_of_eq s rfl, hwaits, hmark, hages⟩

end Sys2Proof.Machine
end

section
/-! SUPPORT. Task commands: how a command row starts, TASK_CANCEL, TASK_FLAGS and TASK_PRIO, and their obligation. -/

namespace Sys2Proof.Machine

/-! ### Command rows (R369, R370) -/

/-- A command that nothing holds back starts as its row comes. -/
theorem State.onCmd_hears (s : State) (h : CmdHdr) (x : Cmd) (hc : s.chip.hears h x) :
    s.onCmd h x = .next { s with chip := (s.chip.heard h).startCmd s.chip h x } :=
  State.onChip_of_eq (f := fun c => c.cmdArrive h x) s (s.chip.cmdArrive_hears h x hc)

theorem Chip.cmdBegun_sched (c : Chip) (h : CmdHdr) (x : Cmd) : (c.cmdBegun h x).sched = c.sched := by
  obtain ⟨ps, rs, q, k, e⟩ := c.cmdBegun_shape h x
  rw [e]

/-- A begun command that ends at once leaves the tasks alone. -/
theorem Chip.cmdBegun_finish (c : Chip) (h : CmdHdr) (x : Cmd) (status : Nat) (r : List Word) (state : Nat)
    (hc : c.hears h x) : ((c.cmdBegun h x).cmdFinish status r state).ended h status r state ∧
      ((c.cmdBegun h x).cmdFinish status r state).sched = c.sched :=
  ⟨Chip.cmdFinish_ended _ h x _ _ _ (c.cmdBegun_active h x hc), (Chip.cmdFinish_sched _ _ _ _).trans (c.cmdBegun_sched h x)⟩

/-- A command with an operand out of range, other than IMAGE_LOAD, is refused as it comes. -/
theorem Chip.cmdArrive_badOperand (c : Chip) (h : CmdHdr) (x : Cmd) (ht : c.takes h.port h.tag)
    (hq : c.cmd.queue.length < 32) (hok : c.cmdOk x = true) (hbad : x.badOperand = true)
    (hload : ∀ d : Chip, d.refusedLoad x = d) :
    c.cmdArrive h x = (c.tagged h.port h.tag).cmdRefuse h 2 0 := by
  obtain ⟨hup, hheld, hrx, htag, -⟩ := ht
  have hjudge : (c.tagged h.port h.tag).judgeCmd c h x = (c.tagged h.port h.tag).cmdRefuse h 2 0 := by
    unfold Chip.judgeCmd
    rw [if_neg (by rw [show (c.tagged h.port h.tag).cmdOk x = true from hok]; decide),
      if_pos (by unfold Chip.badOperand; rw [hbad, Bool.true_or, Bool.or_true]), hload]
  unfold Chip.cmdArrive
  rw [if_neg (by rw [hheld]; simpa using hq)]
  simp only
  split
  · rename_i hcons
    rw [hrx] at hcons
    cases hcons
  · rw [if_neg (by simp [hup]), if_neg htag]
    exact hjudge

theorem State.onCmd_badOperand (s : State) (h : CmdHdr) (x : Cmd) (ht : s.chip.takes h.port h.tag)
    (hq : s.chip.cmd.queue.length < 32) (hok : s.chip.cmdOk x = true) (hbad : x.badOperand = true)
    (hload : ∀ d : Chip, d.refusedLoad x = d) :
    ∃ t, s.onCmd h x = .next t ∧ t.chip.completed h.port h.tag 2 (cmdResult h []) ∧
      t.chip.sched = s.chip.sched ∧ t.chip.cmd = s.chip.cmd :=
  ⟨_, State.onChip_of_eq (f := fun c => c.cmdArrive h x) s (s.chip.cmdArrive_badOperand h x ht hq hok hbad hload),
    Chip.reply_completed _ _ _ _ _ _ _ (Chip.redirect_of_takes _ ht), Chip.cmdRefuse_sched _ _ _ _,
    Chip.cmdRefuse_cmd _ _ _ _⟩

/-! ### Handles (R160) -/

theorem Chip.findTask_of_sched {c d : Chip} (h : d.sched = c.sched) (k : Nat) : d.findTask k = c.findTask k := by
  unfold Chip.findTask
  simp only [Chip.ctx_of_ctxs (congrArg Sched.ctxs h)]

/-- A handle is the generation and number of the context that it names. -/
theorem Chip.findTask_handle {c : Chip} {k n : Nat} (h : c.findTask k = some n) : (c.ctx n).gen * 4096 + n = k := by
  unfold Chip.findTask at h
  simp only at h
  split at h
  · rename_i hlive
    obtain ⟨-, hgen⟩ := hlive
    cases h
    omega
  · cases h

/-! ### Contexts that are set -/

theorem Chip.ctx_setCtx_other (c : Chip) {n m : Nat} (x : Ctx) (h : m ≠ n) : (c.setCtx n x).ctx m = c.ctx m :=
  tabGet_tabSet_other _ _ _ h

/-- TSK_QMAX takes the queue depths; nothing but registers differs (R184). -/
theorem Chip.qmax_shape (c : Chip) : ∃ rs, c.qmax = { c with regs := rs } := by
  unfold Chip.qmax
  generalize List.range 8 = qs
  induction qs generalizing c with
  | nil => exact ⟨_, rfl⟩
  | cons q qs ih =>
    rw [List.foldl_cons]
    simp only
    split
    · exact ih _
    · exact ih c

/-! ### TASK_CANCEL (R178) -/

/-- A context of which a cancel is raised, before its terminal event or its burst's end is. -/
def Ctx.cancelAsked (x : Ctx) : Ctx :=
  { x with cancelDue := true, spent := false, pend := if x.st = 6 then some 7 else x.pend }

/-- A cancel of a context that has raised nothing, and is not ending, is raised as the state it leads to. -/
theorem Chip.cancelStart_raises (c : Chip) (n : Nat) (hst : (c.ctx n).st ≠ 7) (hp : (c.ctx n).pend = none) :
    c.cancelStart n = (c.setCtx n (c.ctx n).cancelAsked).raise (srcTask n) (if (c.ctx n).st = 6 then 0x8007 else 0x8009)
      [.cancel n (c.ctx n).gen] := by
  unfold Chip.cancelStart Ctx.cancelAsked Chip.updCtx
  simp [hp, hst]

/-- What a raised cancel leaves, and what waits for its acceptance. -/
theorem Chip.cancelStart_spec (c : Chip) (n : Nat) (hst : (c.ctx n).st ≠ 7) (hp : (c.ctx n).pend = none) :
    (c.cancelStart n).cmd = c.cmd ∧ (c.cancelStart n).ctx n = (c.ctx n).cancelAsked ∧
      (c.cancelStart n).waits (srcTask n) (if (c.ctx n).st = 6 then 0x8007 else 0x8009) := by
  rw [c.cancelStart_raises n hst hp]
  exact ⟨Chip.raise_cmd _ _ _ _ _ _, (Chip.ctx_raise _ _ _ _ _ _ _).trans (Chip.ctx_setCtx_same _ _ _),
    Chip.raise_waits _ _ _ _ _ _⟩

/-- A cancel that finds its task ending completes at once. -/
theorem Chip.cancelStart_ending (c : Chip) (n : Nat) (hst : (c.ctx n).st = 7) (hp : (c.ctx n).pend = none) :
    c.cancelStart n = c.cancelReply n (c.ctx n).gen 1 7 := by
  unfold Chip.cancelStart
  simp [hp, hst]

/-- A cancel that finds its task's terminal event raised completes at once. -/
theorem Chip.cancelStart_ended (c : Chip) (n e : Nat) (hp : (c.ctx n).pend = some e) (h8 : 8 ≤ e) (h10 : e ≤ 10) :
    c.cancelStart n = c.cancelReply n (c.ctx n).gen 3 0 := by
  have he : e = 8 ∨ e = 9 ∨ e = 10 := by omega
  unfold Chip.cancelStart
  simp [hp, he]

/-! ### The rows -/

/-- A begun command does its work on the task that a handle names, or ends with BAD_HANDLE. -/
def Chip.onTask (c : Chip) (k : Nat) (f : Nat → Chip) : Chip :=
  match c.findTask k with
  | some n => f n
  | none => c.cmdFinish 3

theorem Chip.onTask_known {c : Chip} {k n : Nat} (f : Nat → Chip) (h : c.findTask k = some n) : c.onTask k f = f n := by
  unfold Chip.onTask
  rw [h]

theorem Chip.onTask_unknown {c : Chip} {k : Nat} (f : Nat → Chip) (h : c.findTask k = none) :
    c.onTask k f = c.cmdFinish 3 := by
  unfold Chip.onTask
  rw [h]

theorem Chip.cmdBegun_findTask (c : Chip) (h : CmdHdr) (x : Cmd) (k : Nat) :
    (c.cmdBegun h x).findTask k = c.findTask k := Chip.findTask_of_sched (c.cmdBegun_sched h x) k

theorem Chip.startCmd_taskCancel (c : Chip) (h : CmdHdr) (k : Nat) :
    (c.heard h).startCmd c h (.taskCancel k) =
      (c.cmdBegun h (.taskCancel k)).onTask k (c.cmdBegun h (.taskCancel k)).cancelStart := rfl

theorem Chip.startCmd_taskFlags (c : Chip) (h : CmdHdr) (k : Nat) (set clr : Dword) :
    (c.heard h).startCmd c h (.taskFlags k set clr) =
      (c.cmdBegun h (.taskFlags k set clr)).onTask k fun n =>
        (c.cmdBegun h (.taskFlags k set clr)).raise (srcTask n) 0x8011 [.flags n (k / 4096) 1 set clr] := rfl

/-- A command on a task that its handle does not name ends with BAD_HANDLE. -/
theorem State.onCmd_badHandle (s : State) (h : CmdHdr) (x : Cmd) (k : Nat) (f : Nat → Chip) (hc : s.chip.hears h x)
    (hs : (s.chip.heard h).startCmd s.chip h x = (s.chip.cmdBegun h x).onTask k f) (hf : s.chip.findTask k = none) :
    ∃ t, s.onCmd h x = .next t ∧ t.chip.ended h 3 ∧ t.chip.sched = s.chip.sched := by
  have hrow := s.onCmd_hears h x hc
  rw [hs, Chip.onTask_unknown _ ((s.chip.cmdBegun_findTask h x k).trans hf)] at hrow
  exact ⟨_, hrow, s.chip.cmdBegun_finish h x 3 [] 0 hc⟩

theorem exec_taskCancel (s : State) (h : CmdHdr) (k : Word) (n : Nat) (hc : s.chip.hears h (.taskCancel k.toNat))
    (hf : s.chip.findTask k.toNat = some n) :
    exec (.taskCancel h k) s = .next { s with chip := (s.chip.cmdBegun h (.taskCancel k.toNat)).cancelStart n } := by
  rw [← Chip.onTask_known (Chip.cancelStart _) ((s.chip.cmdBegun_findTask h _ _).trans hf), ← Chip.startCmd_taskCancel]
  exact s.onCmd_hears h _ hc

/-- TASK_PRIO ends with what the change of the priority answers. -/
theorem exec_taskPrio (s : State) (h : CmdHdr) (k : Word) (p : Byte) (status state : Nat) (d : Chip)
    (hc : s.chip.hears h (.taskPrio k.toNat p.toNat))
    (hr : (s.chip.cmdBegun h (.taskPrio k.toNat p.toNat)).taskPrio k.toNat p.toNat = (status, state, d)) :
    exec (.taskPrio h k p) s = .next { s with chip := d.cmdFinish status [] state } := by
  have hstart : (s.chip.heard h).startCmd s.chip h (.taskPrio k.toNat p.toNat) = d.cmdFinish status [] state := by
    unfold Chip.cmdBegun at hr
    unfold Chip.startCmd
    simp only [hr]
  rw [← hstart]
  exact s.onCmd_hears h _ hc

/-! ### TASK_CANCEL (R178) -/

/-- A cancel that waits for its acceptance: its command executes on. -/
theorem exec_taskCancel_raises (s : State) (h : CmdHdr) (k : Word) (n : Nat) (hc : s.chip.hears h (.taskCancel k.toNat))
    (hf : s.chip.findTask k.toNat = some n) (hst : (s.chip.ctx n).st ≠ 7) (hp : (s.chip.ctx n).pend = none) :
    ∃ t, exec (.taskCancel h k) s = .next t ∧ t.chip.executes h (.taskCancel k.toNat) ∧
      t.chip.waits (srcTask n) (if (s.chip.ctx n).st = 6 then 0x8007 else 0x8009) ∧
      t.chip.ctx n = (s.chip.ctx n).cancelAsked := by
  have hctx := Chip.ctx_of_ctxs (congrArg Sched.ctxs (s.chip.cmdBegun_sched h (.taskCancel k.toNat))) n
  obtain ⟨hcmd, hasked, hwaits⟩ := (s.chip.cmdBegun h (.taskCancel k.toNat)).cancelStart_spec n (by rw [hctx]; exact hst)
    (by rw [hctx]; exact hp)
  rw [hctx] at hasked hwaits
  have hrow := exec_taskCancel s h k n hc hf
  exact ⟨_, hrow, (Chip.active_of_cmd hcmd).trans (s.chip.cmdBegun_active h _ hc), hwaits, hasked⟩

/-- A cancel that completes at once. -/
theorem exec_taskCancel_replies (s : State) (h : CmdHdr) (k : Word) (n status state : Nat)
    (hc : s.chip.hears h (.taskCancel k.toNat)) (hf : s.chip.findTask k.toNat = some n)
    (hr : ∀ c : Chip, c.ctx n = s.chip.ctx n → c.cancelStart n = c.cancelReply n (c.ctx n).gen status state) :
    ∃ t, exec (.taskCancel h k) s = .next t ∧ t.chip.ended h status [] state ∧ t.chip.sched = s.chip.sched := by
  have hctx := Chip.ctx_of_ctxs (congrArg Sched.ctxs (s.chip.cmdBegun_sched h (.taskCancel k.toNat))) n
  have hexec : (s.chip.cmdBegun h (.taskCancel k.toNat)).executes h (.taskCancel ((s.chip.ctx n).gen * 4096 + n)) := by
    rw [Chip.findTask_handle hf]
    exact s.chip.cmdBegun_active h _ hc
  have hrow := exec_taskCancel s h k n hc hf
  rw [hr _ hctx, hctx, Chip.cancelReply_executes _ n _ status state h hexec] at hrow
  exact ⟨_, hrow, s.chip.cmdBegun_finish h _ status [] state hc⟩

/-! ### TASK_FLAGS (R167) -/

theorem exec_taskFlags_raises (s : State) (h : CmdHdr) (k : Word) (set clr : Dword) (n : Nat)
    (hc : s.chip.hears h (.taskFlags k.toNat set clr)) (hf : s.chip.findTask k.toNat = some n) :
    ∃ t, exec (.taskFlags h k set clr) s = .next t ∧ t.chip.executes h (.taskFlags k.toNat set clr) ∧
      t.chip.waits (srcTask n) 0x8011 ∧ t.chip.sched = s.chip.sched := by
  have hrow := s.onCmd_hears h _ hc
  rw [Chip.startCmd_taskFlags, Chip.onTask_known _ ((s.chip.cmdBegun_findTask h _ _).trans hf)] at hrow
  exact ⟨_, hrow, (Chip.active_of_cmd (Chip.raise_cmd _ _ _ _ _ _)).trans (s.chip.cmdBegun_active h _ hc),
    Chip.raise_waits _ _ _ _ _ _, (Chip.raise_sched _ _ _ _ _ _).trans (s.chip.cmdBegun_sched h _)⟩

/-! ### TASK_PRIO (R179) -/

/-- Before admission the priority changes, and no other context. -/
theorem Chip.taskPrio_changes (c : Chip) (k p n : Nat) (hf : c.findTask k = some n) (hst : (c.ctx n).st < 5) :
    ∃ d, c.taskPrio k p = (0, 0, d) ∧ d.cmd = c.cmd ∧ d.ctx n = { c.ctx n with prio := p } ∧
      ∀ m, m ≠ n → d.ctx m = c.ctx m := by
  obtain ⟨rs, hqmax⟩ := (c.setCtx n { c.ctx n with prio := p }).qmax_shape
  refine ⟨(c.setCtx n { c.ctx n with prio := p }).qmax, ?_, ?_⟩
  · unfold Chip.taskPrio
    simp only [hf]
    rw [if_neg (by omega)]
  · rw [hqmax]
    exact ⟨rfl, Chip.ctx_setCtx_same _ _ _, fun m hm => c.ctx_setCtx_other _ hm⟩

/-- From admission on it does not. -/
theorem Chip.taskPrio_admitted (c : Chip) (k p n : Nat) (hf : c.findTask k = some n) (hst : 5 ≤ (c.ctx n).st) :
    c.taskPrio k p = (1, (c.ctx n).st, c) := by
  unfold Chip.taskPrio
  simp only [hf]
  rw [if_pos hst]

theorem Chip.taskPrio_unknown (c : Chip) (k p : Nat) (hf : c.findTask k = none) : c.taskPrio k p = (3, 0, c) := by
  unfold Chip.taskPrio
  simp only [hf]

theorem exec_taskPrio_changes (s : State) (h : CmdHdr) (k : Word) (p : Byte) (n : Nat)
    (hc : s.chip.hears h (.taskPrio k.toNat p.toNat)) (hf : s.chip.findTask k.toNat = some n)
    (hst : (s.chip.ctx n).st < 5) :
    ∃ t, exec (.taskPrio h k p) s = .next t ∧ t.chip.ended h 0 ∧
      t.chip.ctx n = { s.chip.ctx n with prio := p.toNat } ∧ ∀ m, m ≠ n → t.chip.ctx m = s.chip.ctx m := by
  have hsched := s.chip.cmdBegun_sched h (.taskPrio k.toNat p.toNat)
  have hctx := Chip.ctx_of_ctxs (congrArg Sched.ctxs hsched)
  obtain ⟨d, hprio, hcmd, hset, hother⟩ := (s.chip.cmdBegun h (.taskPrio k.toNat p.toNat)).taskPrio_changes k.toNat p.toNat n
    ((Chip.findTask_of_sched hsched _).trans hf) (by rw [hctx]; exact hst)
  rw [hctx] at hset
  have hafter : ∀ m, (d.cmdFinish 0).ctx m = d.ctx m :=
    Chip.ctx_of_ctxs (congrArg Sched.ctxs (Chip.cmdFinish_sched _ _ _ _))
  exact ⟨_, exec_taskPrio s h k p 0 0 d hc hprio,
    Chip.cmdFinish_ended d h _ 0 [] 0 ((Chip.active_of_cmd hcmd).trans (s.chip.cmdBegun_active h _ hc)),
    (hafter n).trans hset, fun m hm => (hafter m).trans ((hother m hm).trans (hctx m))⟩

/-- A TASK_PRIO that changes nothing ends with a status. -/
theorem exec_taskPrio_refused (s : State) (h : CmdHdr) (k : Word) (p : Byte) (status state : Nat)
    (hc : s.chip.hears h (.taskPrio k.toNat p.toNat))
    (hr : ∀ c : Chip, c.sched = s.chip.sched → c.taskPrio k.toNat p.toNat = (status, state, c)) :
    ∃ t, exec (.taskPrio h k p) s = .next t ∧ t.chip.ended h status [] state ∧ t.chip.sched = s.chip.sched :=
  ⟨_, exec_taskPrio s h k p _ _ _ hc (hr _ (s.chip.cmdBegun_sched h _)), s.chip.cmdBegun_finish h _ status [] state hc⟩

/-! ### The obligation -/

/-- Settles O27: a cancel is raised (`exec_taskCancel_raises`) or completes at once (`exec_taskCancel_replies`), a flag
write is raised, and a priority changes at once or not at all. -/
theorem taskCommands : Obligations.TaskCommands := by
  unfold Obligations.TaskCommands
  refine ⟨?waiting, ?running, ?ending, ?ended, exec_taskFlags_raises, exec_taskPrio_changes, ?admitted, ?badPrio, ?unknown⟩
  case waiting =>
    intro s h k n hc hf hst hp
    obtain ⟨t, hrow, hexec, hwaits, hctx⟩ := exec_taskCancel_raises s h k n hc hf (by omega) hp
    rw [if_neg (by omega)] at hwaits
    exact ⟨t, hrow, hexec, hwaits, by rw [hctx]; rfl, by rw [hctx]; rfl⟩
  case running =>
    intro s h k n hc hf hst hp
    obtain ⟨t, hrow, hexec, hwaits, hctx⟩ := exec_taskCancel_raises s h k n hc hf (by omega) hp
    rw [if_pos hst] at hwaits
    exact ⟨t, hrow, hexec, hwaits, by rw [hctx]; rfl, by rw [hctx]; exact if_pos hst⟩
  case ending =>
    intro s h k n hc hf hst hp
    exact exec_taskCancel_replies s h k n 1 7 hc hf fun c hctx =>
      c.cancelStart_ending n (by rw [hctx]; exact hst) (by rw [hctx]; exact hp)
  case ended =>
    intro s h k n e hc hf hp h8 h10
    exact exec_taskCancel_replies s h k n 3 0 hc hf fun c hctx =>
      c.cancelStart_ended n e (by rw [hctx]; exact hp) h8 h10
  case admitted =>
    intro s h k p n hc hf hst
    refine exec_taskPrio_refused s h k p 1 _ hc fun c hsched => ?_
    have hctx := Chip.ctx_of_ctxs (congrArg Sched.ctxs hsched) n
    rw [← hctx]
    exact c.taskPrio_admitted _ _ n ((Chip.findTask_of_sched hsched _).trans hf) (by rw [hctx]; exact hst)
  case badPrio =>
    intro s h k p ht hq hok hp
    exact s.onCmd_badOperand h _ ht hq hok (decide_eq_true hp) fun _ => rfl
  case unknown =>
    intro s h k set clr p hf
    refine ⟨fun hc => s.onCmd_badHandle h _ _ _ hc (s.chip.startCmd_taskCancel h _) hf,
      fun hc => s.onCmd_badHandle h _ _ _ hc (s.chip.startCmd_taskFlags h _ _ _) hf,
      fun hc => exec_taskPrio_refused s h k p 3 0 hc fun c hsched => ?_⟩
    exact c.taskPrio_unknown _ _ ((Chip.findTask_of_sched hsched _).trans hf)

end Sys2Proof.Machine
end

section
/-! SUPPORT. Task creation: the new context, its first state, and the obligation of TASK_CREATE. -/

namespace Sys2Proof.Machine

/-! ### Memory requests beside the ledgers (R38) -/

theorem Chip.memWriteReqs_led (c : Chip) (a : Nat) (bs : List Byte) (f : Nat → Who) :
    (c.memWriteReqs .host a bs f).led = c.led := by
  obtain ⟨-, hshape⟩ := c.memWriteReqs_host a bs f
  rw [hshape]
  exact c.memTouch_led

theorem Chip.memWriteReqs_cmd (c : Chip) (a : Nat) (bs : List Byte) (f : Nat → Who) :
    (c.memWriteReqs .host a bs f).cmd = c.cmd := by
  obtain ⟨-, hcmd, -⟩ := c.memWriteReqs_host_keeps a bs f
  exact hcmd

theorem Chip.freezeStart_led (c : Chip) (n : Nat) : (c.freezeStart n).led = c.led := Chip.memWriteReqs_led _ _ _ _

theorem Chip.freezeStart_cmd (c : Chip) (n : Nat) : (c.freezeStart n).cmd = c.cmd := Chip.memWriteReqs_cmd _ _ _ _

/-! ### The new context (R160 to R164) -/

/-- The generation that a new context n gets (R160). -/
def Chip.newGen (c : Chip) (n : Nat) : Nat := nextGen (tabGet 0 c.sched.gens n)

/-- The context that TASK_CREATE makes of its operands, before its slot is settled (R161, R162). -/
def Chip.newCtx (c : Chip) (n : Nat) (o : TaskOps) : Ctx :=
  { gen := c.newGen n, prio := o.prio.toNat, all := bitOf o.cflags.toNat 0, dlist := bitsOf o.cflags.toNat 3 2
    image := o.image.toNat, siteBase := o.siteBase.toNat, delay := o.delay.toNat, flags := o.flags
    waitMask := o.waitMask, admitTimeout := o.admitTimeout.toNat, link := o.linkHandle.toNat, linkMask := o.linkMask
    userTag := o.userTag, imageId := (c.image o.image.toNat).id, flagAt := c.sched.flagNo + 1 }

/-- The state in which a context leaves creation (R163). -/
def firstState (o : TaskOps) : Nat :=
  let met := if bitOf o.cflags.toNat 0 then o.flags &&& o.waitMask == o.waitMask else o.flags &&& o.waitMask != 0
  if o.waitMask ≠ 0 ∧ met = false then 1 else if o.delay ≠ 0 then 2 else 3

/-- The state in which the model raises the new context (R163, R168). -/
theorem firstState_newCtx (c : Chip) (n : Nat) (o : TaskOps) :
    (if o.waitMask ≠ 0 ∧ (!(c.newCtx n o).waitOk) = true then 1 else if (c.newCtx n o).delay ≠ 0 then 2 else 3) =
      firstState o := by
  have hmet : (!(c.newCtx n o).waitOk) = true ↔ (if bitOf o.cflags.toNat 0 then o.flags &&& o.waitMask == o.waitMask
      else o.flags &&& o.waitMask != 0) = false := by
    rw [Bool.not_eq_true']
    rfl
  have hdelay : (c.newCtx n o).delay ≠ 0 ↔ o.delay ≠ 0 := by
    rw [ne_eq, ne_eq, ← BitVec.toNat_inj]
    rfl
  unfold firstState
  simp only [hmet, hdelay]

/-- The device that has numbered context n and a flag change. -/
def Chip.numbered (c : Chip) (n : Nat) : Chip :=
  { c with sched := { c.sched with gens := tabSet c.sched.gens n (c.newGen n), flagNo := c.sched.flagNo + 1 } }

/-- A new context enters the table and the ledgers; where the slots are full, another leaves for it or it is created frozen
(R164). -/
def Chip.placed (c : Chip) (n : Nat) (x : Ctx) (full : Bool) (room : Option Nat) : Chip :=
  let d := (((c.setCtx n { x with
      resident := !full, arriving := room.isSome, wantSlot := if room.isSome then some c.frc else none }).ledAdd
    tskCreated).ledAdd tskLive).ledAdd (if full then tskFrozen else tskResident)
  match room with
  | some v => d.freezeStart v
  | none => d

/-- A freeze that makes room changes no ledger and no command. -/
theorem Chip.placed_freeze (c : Chip) (n : Nat) (x : Ctx) (full : Bool) (room : Option Nat) :
    let d := (((c.setCtx n { x with
        resident := !full, arriving := room.isSome, wantSlot := if room.isSome then some c.frc else none }).ledAdd
      tskCreated).ledAdd tskLive).ledAdd (if full then tskFrozen else tskResident)
    (c.placed n x full room).led = d.led ∧ (c.placed n x full room).cmd = d.cmd := by
  cases room with
  | none => exact ⟨rfl, rfl⟩
  | some v => exact ⟨Chip.freezeStart_led _ v, Chip.freezeStart_cmd _ v⟩

theorem Chip.placed_led (c : Chip) (n : Nat) (x : Ctx) (full : Bool) (room : Option Nat) :
    (c.placed n x full room).ledger tskCreated = c.ledger tskCreated + 1 ∧
      (c.placed n x full room).ledger tskLive = c.ledger tskLive + 1 := by
  obtain ⟨hled, -⟩ := c.placed_freeze n x full room
  have hgauge : ∀ a, a ≠ tskFrozen → a ≠ tskResident → a ≠ if full then tskFrozen else tskResident := fun a hf hr => by
    cases full <;> assumption
  constructor
  · rw [Chip.ledger_of_led hled, Chip.ledger_ledAdd, if_neg (hgauge _ (by decide) (by decide)), Chip.ledger_ledAdd,
      if_neg (by decide), Chip.ledger_ledAdd, if_pos rfl]
    rfl
  · rw [Chip.ledger_of_led hled, Chip.ledger_ledAdd, if_neg (hgauge _ (by decide) (by decide)), Chip.ledger_ledAdd,
      if_pos rfl, Chip.ledger_ledAdd, if_neg (by decide)]
    rfl

theorem Chip.placed_cmd (c : Chip) (n : Nat) (x : Ctx) (full : Bool) (room : Option Nat) :
    (c.placed n x full room).cmd = c.cmd := by
  obtain ⟨-, hcmd⟩ := c.placed_freeze n x full room
  exact hcmd

/-- With a slot free the context is resident. -/
theorem Chip.placed_ctx (c : Chip) (n : Nat) (x : Ctx) :
    (c.placed n x false none).ctx n = { x with resident := true, arriving := false, wantSlot := none } :=
  Chip.ctx_setCtx_same c n { x with resident := true, arriving := false, wantSlot := none }

/-! ### What TASK_CREATE comes to (R162) -/

theorem Chip.createTask_notLoaded (c : Chip) (o : TaskOps) (h : c.imageLoaded o.image.toNat = false) :
    c.createTask o = (3, 0, c) := by
  unfold Chip.createTask
  simp only [h, Bool.not_false, if_true]

theorem Chip.createTask_noLink (c : Chip) (o : TaskOps) (h : o.linkHandle.toNat ≠ noTask)
    (hf : c.findTask o.linkHandle.toNat = none) : c.createTask o = (3, 0, c) := by
  unfold Chip.createTask
  simp [h, hf]

section Judged

variable {c : Chip} {o : TaskOps} (himage : c.imageLoaded o.image.toNat = true)
  (hlink : ¬ (o.linkHandle.toNat ≠ noTask ∧ (c.findTask o.linkHandle.toNat).isNone = true))
  (hsites : o.siteBase.toNat + (c.image o.image.toNat).env.siteCount ≤ 128)
include himage hlink hsites

theorem Chip.createTask_noContext (hfree : c.freeCtx = none) : c.createTask o = (0xB, 0, c.ledAdd 0x00200078) := by
  unfold Chip.createTask
  simp only [himage, Bool.not_true, Bool.false_eq_true, if_false]
  rw [if_neg hlink, if_neg (by omega)]
  simp only [hfree]

/-- The lowest FREE context is made, placed, counted, and raised in its first state. -/
theorem Chip.createTask_creates {n : Nat} (hfree : c.freeCtx = some n) :
    ∃ full room, full = decide (256 ≤ c.slotsUsed) ∧ (full = false → room = none) ∧
      c.createTask o = (0, c.newGen n * 4096 + n,
        (((c.numbered n).placed n (c.newCtx n o) full room).count 293).raiseState n (firstState o)) := by
  refine ⟨decide (256 ≤ c.slotsUsed), if decide (256 ≤ c.slotsUsed) then
    (c.numbered n).roomFor { c.newCtx n o with pend := some (firstState o) } else none, rfl, fun h => by rw [h]; rfl, ?_⟩
  unfold Chip.createTask
  simp only [himage, Bool.not_true, Bool.false_eq_true, if_false]
  rw [if_neg hlink, if_neg (by omega)]
  simp only [hfree]
  rw [← firstState_newCtx c n o]
  rfl

/-- What TASK_CREATE leaves: the ledgers, the event of the first state, and the context where a slot is free. -/
theorem Chip.createTask_spec {n : Nat} (hfree : c.freeCtx = some n) :
    ∃ d, c.createTask o = (0, c.newGen n * 4096 + n, d) ∧ d.cmd = c.cmd ∧
      d.ledger tskCreated = c.ledger tskCreated + 1 ∧ d.ledger tskLive = c.ledger tskLive + 1 ∧
      d.waits (srcTask n) (0x8000 + firstState o) ∧
      (c.slotsUsed < 256 → d.ctx n = { c.newCtx n o with resident := true, pend := some (firstState o) }) := by
  obtain ⟨full, room, hfull, hroom, hcreate⟩ := Chip.createTask_creates himage hlink hsites hfree
  obtain ⟨hcreated, hlive⟩ := (c.numbered n).placed_led n (c.newCtx n o) full room
  have hcmd := (c.numbered n).placed_cmd n (c.newCtx n o) full room
  have hctx : c.slotsUsed < 256 → ((c.numbered n).placed n (c.newCtx n o) full room).ctx n =
      { c.newCtx n o with resident := true } := fun hslot => by
    have hnot : full = false := by rw [hfull]; exact decide_eq_false (by omega)
    rw [hnot, hroom hnot]
    exact (c.numbered n).placed_ctx n (c.newCtx n o)
  generalize (c.numbered n).placed n (c.newCtx n o) full room = p at *
  obtain ⟨hraised, -⟩ := (p.count 293).raiseState_spec n (firstState o)
  rw [Chip.ctx_of_ctxs (congrArg Sched.ctxs (p.count_sched 293 1)) n] at hraised
  have hwaits := (p.count 293).waits_raiseState n (firstState o)
  have hled : ((p.count 293).raiseState n (firstState o)).led = p.led :=
    (Chip.raise_led _ _ _ _ _ _).trans (p.count_led 293 1)
  have hdcmd : ((p.count 293).raiseState n (firstState o)).cmd = p.cmd :=
    (Chip.raise_cmd _ _ _ _ _ _).trans (p.count_cmd 293 1)
  generalize (p.count 293).raiseState n (firstState o) = d at *
  exact ⟨d, hcreate, hdcmd.trans hcmd, (Chip.ledger_of_led hled _).trans hcreated,
    (Chip.ledger_of_led hled _).trans hlive, hwaits, fun hslot => by rw [hraised, hctx hslot]⟩

end Judged

/-! ### The rows -/

/-- What waits in Cirque waits on as a command ends. -/
theorem Chip.cmdFinish_keeps (c : Chip) (status : Nat) (r : List Word) (state : Nat) {src typ : Nat}
    (h : c.waits src typ) : (c.cmdFinish status r state).waits src typ := by
  unfold Chip.cmdFinish
  split
  · exact h
  · exact Chip.raise_keeps _ _ _ _ _ _ (waits_congr (c := c) rfl h)

/-- TASK_CREATE ends with what the creation answers; the handle is its result. -/
theorem exec_taskCreate (s : State) (h : CmdHdr) (o : TaskOps) (status handle : Nat) (d : Chip)
    (hc : s.chip.hears h (.taskCreate o))
    (hr : (s.chip.cmdBegun h (.taskCreate o)).createTask o = (status, handle, d)) :
    exec (.taskCreate h o) s =
      .next { s with chip := d.cmdFinish status (if status = 0 then [BitVec.ofNat 32 handle] else []) } := by
  have hstart : (s.chip.heard h).startCmd s.chip h (.taskCreate o) =
      d.cmdFinish status (if status = 0 then [BitVec.ofNat 32 handle] else []) := by
    unfold Chip.cmdBegun at hr
    unfold Chip.startCmd
    simp only [hr]
  rw [← hstart]
  exact s.onCmd_hears h _ hc

theorem Chip.cmdBegun_led (c : Chip) (h : CmdHdr) (x : Cmd) : (c.cmdBegun h x).led = c.led := by
  obtain ⟨ps, rs, q, k, e⟩ := c.cmdBegun_shape h x
  rw [e]

theorem Chip.cmdBegun_imageLoaded (c : Chip) (h : CmdHdr) (x : Cmd) (k : Nat) :
    (c.cmdBegun h x).imageLoaded k = c.imageLoaded k :=
  Chip.imageLoaded_of_images (congrArg Images.loaded (c.cmdBegun_images h x)) k

theorem Chip.cmdBegun_image (c : Chip) (h : CmdHdr) (x : Cmd) (k : Nat) : (c.cmdBegun h x).image k = c.image k :=
  Chip.image_of_images (c.cmdBegun_images h x) k

theorem Chip.cmdBegun_freeCtx (c : Chip) (h : CmdHdr) (x : Cmd) : (c.cmdBegun h x).freeCtx = c.freeCtx := by
  unfold Chip.freeCtx
  simp only [Chip.ctx_of_ctxs (congrArg Sched.ctxs (c.cmdBegun_sched h x))]

theorem Chip.cmdBegun_newCtx (c : Chip) (h : CmdHdr) (x : Cmd) (n : Nat) (o : TaskOps) :
    (c.cmdBegun h x).newCtx n o = c.newCtx n o := by
  unfold Chip.newCtx Chip.newGen
  rw [c.cmdBegun_sched, c.cmdBegun_image]

/-- A creation that is refused without effect. -/
theorem exec_taskCreate_refused (s : State) (h : CmdHdr) (o : TaskOps) (status : Nat)
    (hc : s.chip.hears h (.taskCreate o)) (h0 : status ≠ 0)
    (hr : (s.chip.cmdBegun h (.taskCreate o)).createTask o = (status, 0, s.chip.cmdBegun h (.taskCreate o))) :
    ∃ t, exec (.taskCreate h o) s = .next t ∧ t.chip.ended h status ∧ t.chip.sched = s.chip.sched := by
  have hrow := exec_taskCreate s h o status 0 _ hc hr
  rw [if_neg h0] at hrow
  exact ⟨_, hrow, s.chip.cmdBegun_finish h _ status [] 0 hc⟩

theorem exec_taskCreate_noContext (s : State) (h : CmdHdr) (o : TaskOps) (hc : s.chip.hears h (.taskCreate o))
    (hlink : o.linkHandle.toNat = noTask) (himage : s.chip.imageLoaded o.image.toNat = true)
    (hsites : o.siteBase.toNat + (s.chip.image o.image.toNat).env.siteCount ≤ 128) (hfree : s.chip.freeCtx = none) :
    ∃ t, exec (.taskCreate h o) s = .next t ∧ t.chip.ended h 0xB ∧ t.chip.sched = s.chip.sched ∧
      t.chip.ledger 0x00200078 = s.chip.ledger 0x00200078 + 1 := by
  have hact := s.chip.cmdBegun_active h _ hc
  have hsched := s.chip.cmdBegun_sched h (.taskCreate o)
  have hled := Chip.ledger_of_led (s.chip.cmdBegun_led h (.taskCreate o)) 0x00200078
  have hcreate := Chip.createTask_noContext (c := s.chip.cmdBegun h (.taskCreate o)) (o := o)
    (by rw [s.chip.cmdBegun_imageLoaded]; exact himage) (fun ⟨hne, _⟩ => hne hlink)
    (by rw [s.chip.cmdBegun_image]; exact hsites) (by rw [s.chip.cmdBegun_freeCtx]; exact hfree)
  refine ⟨_, exec_taskCreate s h o 0xB 0 _ hc hcreate, Chip.cmdFinish_ended _ h _ _ _ _ hact,
    (Chip.cmdFinish_sched _ _ _ _).trans hsched, ?_⟩
  rw [Chip.ledger_of_led (Chip.cmdFinish_led _ _ _ _), Chip.ledger_ledAdd, if_pos rfl, hled]
  rfl

theorem exec_taskCreate_creates (s : State) (h : CmdHdr) (o : TaskOps) (n : Nat) (hc : s.chip.hears h (.taskCreate o))
    (himage : s.chip.imageLoaded o.image.toNat = true)
    (hlink : o.linkHandle.toNat = noTask ∨ (s.chip.findTask o.linkHandle.toNat).isSome = true)
    (hsites : o.siteBase.toNat + (s.chip.image o.image.toNat).env.siteCount ≤ 128) (hfree : s.chip.freeCtx = some n) :
    ∃ t, exec (.taskCreate h o) s = .next t ∧ t.chip.ended h 0 [BitVec.ofNat 32 (s.chip.newGen n * 4096 + n)] ∧
      t.chip.ledger tskCreated = s.chip.ledger tskCreated + 1 ∧ t.chip.ledger tskLive = s.chip.ledger tskLive + 1 ∧
      t.chip.waits (srcTask n) (0x8000 + firstState o) ∧
      (s.chip.slotsUsed < 256 →
        t.chip.ctx n = { s.chip.newCtx n o with resident := true, pend := some (firstState o) }) := by
  have hled := Chip.ledger_of_led (s.chip.cmdBegun_led h (.taskCreate o))
  have hslots : (s.chip.cmdBegun h (.taskCreate o)).slotsUsed = s.chip.slotsUsed := by
    unfold Chip.slotsUsed
    rw [s.chip.cmdBegun_liveCtxs]
  have hjudged : ¬ (o.linkHandle.toNat ≠ noTask ∧ (s.chip.findTask o.linkHandle.toNat).isNone = true) := by
    rintro ⟨hne, hnone⟩
    rw [Option.isNone_iff_eq_none.1 hnone] at hlink
    exact Bool.false_ne_true (hlink.resolve_left hne)
  obtain ⟨d, hcreate, hcmd, hcreated, hlive, hwaits, hctx⟩ := Chip.createTask_spec
    (c := s.chip.cmdBegun h (.taskCreate o)) (o := o) (by rw [s.chip.cmdBegun_imageLoaded]; exact himage)
    (by rw [s.chip.cmdBegun_findTask]; exact hjudged)
    (by rw [s.chip.cmdBegun_image]; exact hsites) ((s.chip.cmdBegun_freeCtx h _).trans hfree)
  have hgen : (s.chip.cmdBegun h (.taskCreate o)).newGen n = s.chip.newGen n := by
    unfold Chip.newGen
    rw [s.chip.cmdBegun_sched]
  rw [hgen] at hcreate
  rw [hled] at hcreated hlive
  rw [hslots, s.chip.cmdBegun_newCtx] at hctx
  have hdled := Chip.ledger_of_led (d.cmdFinish_led 0 [BitVec.ofNat 32 (s.chip.newGen n * 4096 + n)] 0)
  exact ⟨_, exec_taskCreate s h o 0 _ d hc hcreate,
    d.cmdFinish_ended h _ 0 _ 0 ((Chip.active_of_cmd hcmd).trans (s.chip.cmdBegun_active h _ hc)),
    (hdled _).trans hcreated, (hdled _).trans hlive, Chip.cmdFinish_keeps d _ _ _ hwaits, fun hslot =>
      (Chip.ctx_of_ctxs (congrArg Sched.ctxs (Chip.cmdFinish_sched _ _ _ _)) n).trans (hctx hslot)⟩

/-! ### The obligation -/

/-- Settles O26: the operands are judged in the order of R162, and the context that is made of them enters the table in its
first state (`Chip.createTask_spec`). -/
theorem taskCreation : Obligations.TaskCreation := by
  unfold Obligations.TaskCreation
  refine ⟨?creates, ?badOperand, ?badHandle, exec_taskCreate_noContext⟩
  case creates =>
    intro s h o n hc himage hlink hsites hfree gen met st
    obtain ⟨t, hrow, hended, hcreated, hlive, hwaits, hctx⟩ :=
      exec_taskCreate_creates s h o n hc himage hlink hsites hfree
    refine ⟨t, hrow, hended, hcreated, hlive, hwaits, fun hslot => ?_⟩
    rw [hctx hslot]
    exact ⟨rfl, rfl, rfl, rfl, rfl, rfl, rfl, rfl, rfl, rfl, rfl⟩
  case badOperand =>
    intro s h o ht hq hok hbad
    refine s.onCmd_badOperand h _ ht hq hok ?_ fun _ => rfl
    have hflags : 16 ≤ o.cflags.toNat ↔ o.cflags.toNat / 16 ≠ 0 := by omega
    rw [hflags] at hbad
    simpa [Cmd.badOperand, or_assoc] using hbad
  case badHandle =>
    intro s h o hc hbad
    refine exec_taskCreate_refused s h o 3 hc (by decide) ?_
    rcases hbad with himage | ⟨hne, hnone⟩
    · exact Chip.createTask_notLoaded _ o (by rw [s.chip.cmdBegun_imageLoaded]; exact himage)
    · exact Chip.createTask_noLink _ o hne ((s.chip.cmdBegun_findTask h _ _).trans hnone)

end Sys2Proof.Machine
end

section
/-! SUPPORT. Core load: what the end of a window shows of each core, and CORE_LOAD_WINDOW. -/

namespace Sys2Proof.Machine

/-! ### Steps that each change their own part -/

/-- A fold of steps of which each changes one part, and no other's, changes every part of its list once. -/
theorem foldl_each {σ β : Type} {f : σ → Nat → σ} {v : Nat → σ → β} {u : β → β}
    (hsame : ∀ c k, v k (f c k) = u (v k c)) (hother : ∀ c k m, m ≠ k → v m (f c k) = v m c) (ks : List Nat)
    (hks : ks.Nodup) (m : Nat) (c : σ) : v m (ks.foldl f c) = if m ∈ ks then u (v m c) else v m c := by
  induction ks generalizing c with
  | nil => simp
  | cons k ks ih =>
    obtain ⟨hk, hks⟩ := List.nodup_cons.1 hks
    rw [List.foldl_cons, ih hks]
    by_cases hm : m = k
    · subst hm
      rw [if_neg hk, if_pos List.mem_cons_self, hsame]
    · simp only [List.mem_cons, hm, false_or, hother c k m hm]

/-! ### A core (R183) -/

/-- What there is of core g: whether it is busy, its busy ns in the window, and its two registers. -/
def Chip.coreOf (g : Nat) (c : Chip) : Bool × Nat × Dword × Word :=
  (c.grpOwned g, tabGet 0 c.sched.busyNow g, c.ledger (0x00200200 + 8 * g), c.reg (0x00200280 + 4 * g))

/-- A core from FRC a to b, where one window ends in between. -/
def coreBooked (a b : Nat) (x : Bool × Nat × Dword × Word) : Bool × Nat × Dword × Word :=
  (x.1, if x.1 then b % 2 ^ 20 else 0, if x.1 then x.2.2.1 + BitVec.ofNat 64 (b - a) else x.2.2.1,
    BitVec.ofNat 32 ((x.2.1 + if x.1 then 2 ^ 20 - a % 2 ^ 20 else 0) / 16))

theorem Chip.grpOwned_coreBusy (c : Chip) (a b k g : Nat) : (c.coreBusy a b k).grpOwned g = c.grpOwned g := by
  obtain ⟨l, r, s, e⟩ := c.coreBusy_shape a b k
  have hctxs := c.ctxs_coreBusy a b k
  rw [e] at hctxs ⊢
  unfold Chip.grpOwned
  simp only at hctxs
  simp only [hctxs]

/-- The device in which core k has so many busy ns in the window. -/
def Chip.busyFor (c : Chip) (k ns : Nat) : Chip :=
  { c with sched := { c.sched with busyNow := tabSet c.sched.busyNow k ns } }

theorem Chip.coreBusy_busy (c : Chip) {a b k : Nat} (hb : c.grpOwned k = true) (hw : windowsIn a b = 1) :
    c.coreBusy a b k = ((c.ledAdd (0x00200200 + 8 * k) (b - a)).setReg (0x00200280 + 4 * k)
      (BitVec.ofNat 32 ((tabGet 0 c.sched.busyNow k + (2 ^ 20 - a % 2 ^ 20)) / 16))).busyFor k (b % 2 ^ 20) := by
  unfold Chip.coreBusy
  simp only [hb, hw, if_true, Nat.one_ne_zero, if_false]
  rfl

theorem Chip.coreBusy_idle (c : Chip) {a b k : Nat} (hb : c.grpOwned k = false) (hw : windowsIn a b = 1) :
    c.coreBusy a b k =
      (c.setReg (0x00200280 + 4 * k) (BitVec.ofNat 32 (tabGet 0 c.sched.busyNow k / 16))).busyFor k 0 := by
  unfold Chip.coreBusy
  simp only [hb, hw, if_true, Nat.one_ne_zero, if_false, Bool.false_eq_true]
  rfl

theorem Chip.coreOf_coreBusy_same (c : Chip) {a b : Nat} (k : Nat) (hw : windowsIn a b = 1) :
    Chip.coreOf k (c.coreBusy a b k) = coreBooked a b (Chip.coreOf k c) := by
  have howned := c.grpOwned_coreBusy a b k k
  unfold Chip.coreOf coreBooked
  rw [howned]
  cases hb : c.grpOwned k with
  | true =>
    rw [c.coreBusy_busy hb hw]
    refine Prod.ext rfl (Prod.ext (tabGet_tabSet_same _ _ _ _) (Prod.ext ?_ (Chip.reg_setReg_same _ _ _)))
    exact (Chip.ledger_ledAdd _ _ _ _).trans (if_pos rfl)
  | false =>
    rw [c.coreBusy_idle hb hw]
    exact Prod.ext rfl (Prod.ext (tabGet_tabSet_same _ _ _ _) (Prod.ext rfl (Chip.reg_setReg_same _ _ _)))

theorem Chip.coreOf_coreBusy_other (c : Chip) {a b : Nat} (k m : Nat) (hw : windowsIn a b = 1) (hm : m ≠ k) :
    Chip.coreOf m (c.coreBusy a b k) = Chip.coreOf m c := by
  have howned := c.grpOwned_coreBusy a b k m
  have hled : 0x00200200 + 8 * m ≠ 0x00200200 + 8 * k := by omega
  have hreg : 0x00200280 + 4 * m ≠ 0x00200280 + 4 * k := by omega
  unfold Chip.coreOf
  rw [howned]
  cases hb : c.grpOwned k with
  | true =>
    rw [c.coreBusy_busy hb hw]
    refine Prod.ext rfl (Prod.ext (tabGet_tabSet_other _ _ _ hm) (Prod.ext ?_ (Chip.reg_setReg_other _ _ hreg)))
    exact (Chip.ledger_ledAdd _ _ _ _).trans (if_neg hled)
  | false =>
    rw [c.coreBusy_idle hb hw]
    exact Prod.ext rfl (Prod.ext (tabGet_tabSet_other _ _ _ hm) (Prod.ext rfl (Chip.reg_setReg_other _ _ hreg)))

/-- Time over the end of one window books every core. -/
theorem Chip.coreOf_advanceTo (c : Chip) (t : Nat) (hc : c.clocked = true) (hw : windowsIn c.frc (t / 16) = 1)
    (ht : c.tm ≤ t) (g : Grp) :
    Chip.coreOf g (c.advanceTo t) = coreBooked c.frc (t / 16) (Chip.coreOf g c) := by
  have hne : c.frc ≠ t / 16 := fun he => by
    rw [he] at hw
    simp [windowsIn] at hw
  have hlt : c.tm ≠ t := fun he => hne (by rw [← he]; rfl)
  have hcounted : c.advanceTo t =
      (((List.range 12).foldl (fun (d : Chip) k => d.coreBusy c.frc (t / 16) k) { c with tm := t }).count 316
        (t / 16 - c.frc)).count 315 (5 * (t / 16) / 4 - 5 * c.frc / 4) := by
    have hfrc : ({ c with tm := t } : Chip).frc = t / 16 := rfl
    unfold Chip.advanceTo Chip.advance
    simp only [Nat.add_sub_of_le ht, hfrc]
    rw [if_neg (by rw [hc]; simp; omega), if_neg hne]
  have hcount : ∀ (d : Chip) (code n : Nat), Chip.coreOf g (d.count code n) = Chip.coreOf g d := fun d code n => by
    unfold Chip.coreOf Chip.grpOwned
    rw [d.reg_count, d.ledger_count, d.count_sched, d.count_groups]
  rw [hcounted, hcount, hcount,
    foldl_each (v := Chip.coreOf) (fun d k => d.coreOf_coreBusy_same k hw) (fun d k m => d.coreOf_coreBusy_other k m hw) _
      List.nodup_range, if_pos (List.mem_range.2 g.isLt)]
  rfl

/-- CORE_LOAD_WINDOW reaches the end of the window, and shows each core's share of it. -/
theorem coreLoadWindow_spec (c : Chip) (hc : c.clocked = true) :
    let d := c.advanceTo (16 * ((c.frc / 2 ^ 20 + 1) * 2 ^ 20))
    d.frc = (c.frc / 2 ^ 20 + 1) * 2 ^ 20 ∧ ∀ g : Grp,
      let part := if c.grpOwned g then 2 ^ 20 - c.frc % 2 ^ 20 else 0
      d.reg (0x00200280 + 4 * g) = BitVec.ofNat 32 ((tabGet 0 c.sched.busyNow g + part) / 16) ∧
      d.ledger (0x00200200 + 8 * g) = c.ledger (0x00200200 + 8 * g) + BitVec.ofNat 64 part := by
  have hto : 16 * ((c.frc / 2 ^ 20 + 1) * 2 ^ 20) / 16 = (c.frc / 2 ^ 20 + 1) * 2 ^ 20 :=
    Nat.mul_div_cancel_left _ (by decide)
  have hfrc : c.frc < (c.frc / 2 ^ 20 + 1) * 2 ^ 20 := by omega
  have htm : c.tm ≤ 16 * ((c.frc / 2 ^ 20 + 1) * 2 ^ 20) := by
    have : c.frc = c.tm / 16 := rfl
    omega
  have hpart : (c.frc / 2 ^ 20 + 1) * 2 ^ 20 - c.frc = 2 ^ 20 - c.frc % 2 ^ 20 := by omega
  refine ⟨?_, fun g => ?_⟩
  · exact (congrArg (· / 16) (c.tm_advanceTo _ hc htm)).trans hto
  · have hcore := c.coreOf_advanceTo _ hc (by rw [hto]; unfold windowsIn; omega) htm g
    rw [hto] at hcore
    unfold Chip.coreOf coreBooked at hcore
    simp only [Prod.mk.injEq, hpart] at hcore
    obtain ⟨-, -, hled, hreg⟩ := hcore
    refine ⟨hreg, hled.trans ?_⟩
    split
    · rfl
    · simp

end Sys2Proof.Machine
end

section
/-! SUPPORT. Delay lists: what a tick boundary does to the list clocks and to the contexts that are due. -/

namespace Sys2Proof.Machine

/-! ### Tables and sorted lists -/

/-- An entry under another index stays listed. -/
theorem mem_tabSet_of_ne {α : Type} {t : Table α} {i : Nat} {v : α} {x : Nat × α} (h : x ∈ t) (hi : x.1 ≠ i) :
    x ∈ tabSet t i v := by
  induction t with
  | nil => exact absurd h List.not_mem_nil
  | cons e t ih =>
    unfold tabSet
    rcases List.mem_cons.1 h with rfl | h
    · rw [if_neg fun he => hi he.symm]
      split
      · exact List.mem_cons_of_mem _ List.mem_cons_self
      · exact List.mem_cons_self
    · split
      · exact List.mem_cons_of_mem _ h
      · split
        · exact List.mem_cons_of_mem _ (List.mem_cons_of_mem _ h)
        · exact List.mem_cons_of_mem _ (ih h)

theorem mem_sortBy_ins {α : Type} (key : α → List Nat) (a x : α) (l : List α) :
    x ∈ sortBy.ins key a l ↔ x = a ∨ x ∈ l := by
  induction l with
  | nil => simp [sortBy.ins]
  | cons b l ih =>
    unfold sortBy.ins
    split
    · rw [List.mem_cons, ih, List.mem_cons]
      tauto
    · simp

/-- A sorted list has the elements of the list. -/
theorem mem_sortBy {α : Type} (key : α → List Nat) (x : α) (l : List α) : x ∈ sortBy key l ↔ x ∈ l := by
  induction l with
  | nil => rfl
  | cons a l ih =>
    rw [List.mem_cons, ← ih]
    exact mem_sortBy_ins key a x _

/-! ### Time leaves the scheduler's clocks alone (R170, R183) -/

theorem Chip.coreBusy_beside (c : Chip) (a b g : Nat) :
    (c.coreBusy a b g).sched.tickNext = c.sched.tickNext ∧
      ∀ x, x < 0x00200280 → (c.coreBusy a b g).reg x = c.reg x := by
  have hreg : ∀ (d : Chip) (w : Word) (x : Nat), x < 0x00200280 → (d.setReg (0x00200280 + 4 * g) w).reg x = d.reg x :=
    fun d w x hx => d.reg_setReg_other w (by omega)
  have hled : ∀ d, (if c.grpOwned g then c.ledAdd (0x00200200 + 8 * g) (b - a) else c) = d →
      d.sched.tickNext = c.sched.tickNext ∧ d.regs = c.regs := by
    rintro d rfl
    split <;> exact ⟨rfl, rfl⟩
  unfold Chip.coreBusy
  simp only
  generalize hd : (if c.grpOwned g then c.ledAdd (0x00200200 + 8 * g) (b - a) else c) = d
  obtain ⟨htick, hregs⟩ := hled d hd
  split
  · split
    · exact ⟨htick, fun x _ => Chip.reg_of_regs hregs x⟩
    · exact ⟨htick, fun x _ => Chip.reg_of_regs hregs x⟩
  · exact ⟨htick, fun x hx => (hreg d _ x hx).trans (Chip.reg_of_regs hregs x)⟩

theorem Chip.foldl_coreBusy_beside (gs : List Nat) (a b : Nat) (c : Chip) :
    (gs.foldl (fun c g => c.coreBusy a b g) c).sched.tickNext = c.sched.tickNext ∧
      ∀ x, x < 0x00200280 → (gs.foldl (fun c g => c.coreBusy a b g) c).reg x = c.reg x := by
  induction gs generalizing c with
  | nil => exact ⟨rfl, fun _ _ => rfl⟩
  | cons g gs ih =>
    obtain ⟨htick, hreg⟩ := ih (c.coreBusy a b g)
    obtain ⟨htick', hreg'⟩ := c.coreBusy_beside a b g
    exact ⟨htick.trans htick', fun x hx => (hreg x hx).trans (hreg' x hx)⟩

/-- Time changes no register of the scheduler below the core loads, and not the next tick. -/
theorem Chip.advanceTo_beside (c : Chip) (t : Nat) :
    (c.advanceTo t).sched.tickNext = c.sched.tickNext ∧ ∀ x, x < 0x00200280 → (c.advanceTo t).reg x = c.reg x := by
  unfold Chip.advanceTo Chip.advance
  simp only
  split
  · exact ⟨rfl, fun _ _ => rfl⟩
  · split
    · exact ⟨rfl, fun _ _ => rfl⟩
    · rw [Chip.count_sched, Chip.count_sched]
      simp only [Chip.reg_count]
      exact Chip.foldl_coreBusy_beside (List.range 12) _ _ _

/-! ### List clocks (R170) -/

/-- Every list clock is one more. -/
def Chip.clocksUp (c : Chip) : Chip :=
  (List.range 4).foldl (fun c l => c.setReg64 (listClock l) (c.reg64 (listClock l) + 1)) c

theorem Chip.clocksUp_shape (c : Chip) : ∃ rs, c.clocksUp = { c with regs := rs } := by
  unfold Chip.clocksUp
  generalize List.range 4 = ls
  induction ls generalizing c with
  | nil => exact ⟨_, rfl⟩
  | cons l ls ih => exact ih _

theorem Chip.clocksUp_clock (c : Chip) (l : Fin 4) :
    c.clocksUp.reg64 (listClock l) = (c.reg64 (listClock l) + 1) % 2 ^ 64 := by
  have hfold := foldl_each (f := fun (c : Chip) l => c.setReg64 (listClock l) (c.reg64 (listClock l) + 1))
    (v := fun l c => c.reg64 (listClock l)) (u := fun x => (x + 1) % 2 ^ 64) (fun c l => c.reg64_setReg64 _ _)
    (fun c k m hm => c.reg64_setReg64_other _ (by unfold listClock; omega)) (List.range 4) List.nodup_range l c
  rw [if_pos (List.mem_range.2 l.isLt)] at hfold
  exact hfold

theorem Chip.clocksUp_other (c : Chip) {a : Nat} (ha : a < 0x00200010) : c.clocksUp.reg a = c.reg a := by
  unfold Chip.clocksUp
  generalize List.range 4 = ls
  induction ls generalizing c with
  | nil => rfl
  | cons l ls ih =>
    exact (ih _).trans (c.reg_setReg64_other _ (by unfold listClock; omega) (by unfold listClock; omega))

/-! ### Readyings (R171, R180) -/

/-- Nothing that a tick boundary counts by differs: the next tick, and every register but TSK_CNT_RDY_CANCEL. -/
def Chip.tickKept (c d : Chip) : Prop :=
  d.sched.tickNext = c.sched.tickNext ∧ ∀ a, a ≠ 0x00200080 → d.reg a = c.reg a

namespace Chip.tickKept

theorem refl (c : Chip) : c.tickKept c := ⟨rfl, fun _ _ => rfl⟩

theorem trans {c d e : Chip} (h : c.tickKept d) (h' : d.tickKept e) : c.tickKept e := by
  obtain ⟨htick, hreg⟩ := h
  obtain ⟨htick', hreg'⟩ := h'
  exact ⟨htick'.trans htick, fun a ha => (hreg' a ha).trans (hreg a ha)⟩

theorem foldl {α : Type} {f : Chip → α → Chip} (hf : ∀ (c : Chip) (x : α), c.tickKept (f c x)) (xs : List α) (c : Chip) :
    c.tickKept (xs.foldl f c) := by
  induction xs generalizing c with
  | nil => exact refl c
  | cons x xs ih => exact (hf c x).trans (ih _)

theorem readyCtx (c : Chip) (n st : Nat) : c.tickKept (c.readyCtx n st) := by
  unfold Chip.readyCtx
  simp only
  split
  · refine ⟨?_, fun a _ => Chip.reg_raise _ _ _ _ _ _ a⟩
    unfold Chip.raiseState
    rw [Chip.raise_sched]
    rfl
  · split
    · exact refl c
    · exact ⟨rfl, fun a ha => Chip.reg_cntUp_other _ 1 ha⟩

theorem clock {c d : Chip} (h : c.tickKept d) (l : Fin 4) : d.reg64 (listClock l) = c.reg64 (listClock l) := by
  obtain ⟨-, hreg⟩ := h
  exact Chip.reg64_of_reg (hreg _ (by unfold listClock; omega)) (hreg _ (by unfold listClock; omega))

end Chip.tickKept

/-- Context n is x, which is in its list, or its readying waits. -/
def Chip.readying (c : Chip) (n : Nat) (x : Ctx) : Prop :=
  c.waits (srcTask n) 0x8003 ∨ (n, x) ∈ c.sched.ctxs ∧ c.ctx n = x

/-- What waits keeps waiting through steps of which each lets it wait. -/
theorem waits_foldl {α : Type} {f : Chip → α → Chip} {src typ : Nat}
    (hf : ∀ (c : Chip) (x : α), c.waits src typ → (f c x).waits src typ) (xs : List α) {c : Chip}
    (h : c.waits src typ) : (xs.foldl f c).waits src typ := by
  induction xs generalizing c with
  | nil => exact h
  | cons x xs ih => exact ih (hf c x h)

theorem Chip.waits_readyCtx (c : Chip) (m : Nat) {src typ : Nat} (h : c.waits src typ) :
    (c.readyCtx m 3).waits src typ := by
  unfold Chip.readyCtx
  simp only
  split
  · exact Chip.raise_keeps _ _ _ _ _ _ (waits_congr (c := c) rfl h)
  · split
    · exact h
    · exact waits_congr (c := c) rfl h

/-- A readying that no cancel consumes is raised. -/
theorem Chip.readyCtx_raises (c : Chip) (n : Nat) (h : (c.ctx n).cancelDue = false) :
    (c.readyCtx n 3).waits (srcTask n) 0x8003 := by
  unfold Chip.readyCtx
  simp only [h, Bool.not_false, if_true]
  exact c.waits_raiseState n 3

theorem Chip.ctxs_readyCtx (c : Chip) (m : Nat) :
    (c.readyCtx m 3).sched.ctxs = c.sched.ctxs ∨ ∃ y, (c.readyCtx m 3).sched.ctxs = tabSet c.sched.ctxs m y := by
  unfold Chip.readyCtx
  simp only
  split
  · refine .inr ⟨{ c.ctx m with pend := some 3 }, ?_⟩
    unfold Chip.raiseState
    rw [Chip.raise_sched]
    rfl
  · split
    · exact .inl rfl
    · exact .inr ⟨_, rfl⟩

/-- A context that is due stays in its list while others are made READY. -/
theorem Chip.readying.step {c : Chip} {n : Nat} {x : Ctx} (hx : x.cancelDue = false) (h : c.readying n x) (m : Nat) :
    (c.readyCtx m 3).readying n x := by
  rcases h with hwaits | ⟨hmem, hctx⟩
  · exact .inl (c.waits_readyCtx m hwaits)
  · by_cases hm : m = n
    · subst hm
      exact .inl (c.readyCtx_raises m (by rw [hctx]; exact hx))
    · refine .inr ?_
      unfold Chip.ctx at *
      rcases c.ctxs_readyCtx m with he | ⟨y, he⟩
      · rw [he]
        exact ⟨hmem, hctx⟩
      · rw [he]
        exact ⟨mem_tabSet_of_ne hmem (Ne.symm hm), (tabGet_tabSet_other _ _ _ (Ne.symm hm)).trans hctx⟩

theorem Chip.readying.foldl {n : Nat} {x : Ctx} (hx : x.cancelDue = false) (es : List (Nat × Ctx)) {c : Chip}
    (h : c.readying n x) :
    (es.foldl (fun c e => c.readyCtx e.1 3) c).readying n x := by
  induction es generalizing c with
  | nil => exact h
  | cons e es ih => exact ih (h.step hx e.1)

/-- Of the contexts of a list that are made READY, each waits for it. -/
theorem Chip.readying.reached {n : Nat} {x : Ctx} (hx : x.cancelDue = false) (es : List (Nat × Ctx))
    (he : (n, x) ∈ es) {c : Chip} (h : c.readying n x) :
    (es.foldl (fun c e => c.readyCtx e.1 3) c).waits (srcTask n) 0x8003 := by
  induction es generalizing c with
  | nil => exact absurd he List.not_mem_nil
  | cons e es ih =>
    rcases List.mem_cons.1 he with rfl | he
    · refine waits_foldl (fun (c : Chip) (e : Nat × Ctx) => c.waits_readyCtx e.1) es ?_
      rcases h with hwaits | ⟨-, hctx⟩
      · exact c.waits_readyCtx n hwaits
      · exact c.readyCtx_raises n (by rw [hctx]; exact hx)
    · exact ih he (h.step hx e.1)

/-! ### Releases of the lists (R171) -/

/-- The contexts of list l that are due. -/
def Chip.dueOn (c : Chip) (l : Nat) : List (Nat × Ctx) :=
  c.liveCtxs.filter (fun e =>
    e.2.st == 2 && e.2.dlist == l && e.2.pend.isNone && decide (e.2.expiry ≤ c.reg64 (listClock l)))

/-- A list that is not held releases its contexts that are due, in its order. -/
def Chip.releaseList (c : Chip) (l : Nat) : Chip :=
  if bitOf (c.reg 0x00200008).toNat l then c
  else (sortBy (fun e : Nat × Ctx => [e.2.expiry, e.2.createSeq]) (c.dueOn l)).foldl (fun c e => c.readyCtx e.1 3) c

/-- The device as a tick boundary has come, before it releases anything. -/
def Chip.tickCome (c : Chip) : Chip :=
  let d := c.advanceTo (16 * c.sched.tickNext)
  ({ d with sched := { d.sched with tickNext := d.sched.tickNext + (d.reg 0x00200000).toNat } } : Chip).clocksUp

theorem tickBoundary_eq (c : Chip) : tickBoundary c = (List.range 4).foldl Chip.releaseList c.tickCome := rfl

theorem Chip.tickCome_spec (c : Chip) :
    c.tickCome.sched.tickNext = c.sched.tickNext + (c.reg 0x00200000).toNat ∧
      c.tickCome.sched.ctxs = c.sched.ctxs ∧ c.tickCome.reg 0x00200008 = c.reg 0x00200008 ∧
      ∀ l : Fin 4, c.tickCome.reg64 (listClock l) = (c.reg64 (listClock l) + 1) % 2 ^ 64 := by
  obtain ⟨htick, hreg⟩ := c.advanceTo_beside (16 * c.sched.tickNext)
  have hctxs : (c.advanceTo (16 * c.sched.tickNext)).sched.ctxs = c.sched.ctxs := c.ctxs_advance _
  unfold Chip.tickCome
  simp only
  generalize c.advanceTo (16 * c.sched.tickNext) = d at *
  obtain ⟨rs, hup⟩ :=
    ({ d with sched := { d.sched with tickNext := d.sched.tickNext + (d.reg 0x00200000).toNat } } : Chip).clocksUp_shape
  refine ⟨?_, ?_, (Chip.clocksUp_other _ (by decide)).trans (hreg _ (by decide)), fun l => ?_⟩
  · rw [hup, ← htick, ← hreg _ (by decide)]
  · rw [hup]
    exact hctxs
  · rw [Chip.clocksUp_clock, ← Chip.reg64_of_reg (hreg (listClock l) (by unfold listClock; omega))
      (hreg (listClock l + 4) (by unfold listClock; omega))]
    rfl

theorem Chip.tickKept.releaseList (c : Chip) (l : Nat) : c.tickKept (c.releaseList l) := by
  unfold Chip.releaseList
  split
  · exact refl c
  · exact foldl (fun (c : Chip) (e : Nat × Ctx) => readyCtx c e.1 3) _ c

theorem Chip.waits_releaseList (c : Chip) (l : Nat) {src typ : Nat} (h : c.waits src typ) :
    (c.releaseList l).waits src typ := by
  unfold Chip.releaseList
  split
  · exact h
  · exact waits_foldl (fun (c : Chip) (e : Nat × Ctx) => c.waits_readyCtx e.1) _ h

theorem Chip.readying.releaseList {c : Chip} {n : Nat} {x : Ctx} (hx : x.cancelDue = false) (h : c.readying n x)
    (l : Nat) : (c.releaseList l).readying n x := by
  unfold Chip.releaseList
  split
  · exact h
  · exact h.foldl hx _

/-- A list that runs makes READY its context that is due. -/
theorem Chip.readying.released {c : Chip} {n : Nat} {x : Ctx} (hx : x.cancelDue = false) (h : c.readying n x) {l : Nat}
    (hlive : x.live = true) (hst : x.st = 2) (hl : x.dlist = l) (hp : x.pend = none)
    (hrun : bitOf (c.reg 0x00200008).toNat l = false) (hdue : x.expiry ≤ c.reg64 (listClock l)) :
    (c.releaseList l).waits (srcTask n) 0x8003 := by
  unfold Chip.releaseList
  rw [if_neg (by rw [hrun]; decide)]
  rcases h with hwaits | ⟨hmem, hctx⟩
  · exact waits_foldl (fun (c : Chip) (e : Nat × Ctx) => c.waits_readyCtx e.1) _ hwaits
  · refine Chip.readying.reached hx _ ((mem_sortBy _ _ _).2 ?_) (.inr ⟨hmem, hctx⟩)
    refine List.mem_filter.2 ⟨List.mem_filter.2 ⟨hmem, hlive⟩, ?_⟩
    simp [hst, hl, hp, hdue]

/-- Of the lists that a boundary serves, each that runs makes READY its context that is due. -/
theorem Chip.readying.served {n : Nat} {x : Ctx} {l : Fin 4} (hx : x.cancelDue = false) (hlive : x.live = true)
    (hst : x.st = 2) (hl : x.dlist = l) (hp : x.pend = none) (ls : List Nat) (hin : l.val ∈ ls) {c : Chip}
    (h : c.readying n x) (hrun : bitOf (c.reg 0x00200008).toNat l = false)
    (hdue : x.expiry ≤ c.reg64 (listClock l)) :
    (ls.foldl Chip.releaseList c).waits (srcTask n) 0x8003 := by
  induction ls generalizing c with
  | nil => exact absurd hin List.not_mem_nil
  | cons k ls ih =>
    rw [List.foldl_cons]
    obtain ⟨-, hreg⟩ := Chip.tickKept.releaseList c k
    rcases List.mem_cons.1 hin with rfl | hin
    · exact waits_foldl (fun c k => c.waits_releaseList k) ls (h.released hx hlive hst hl hp hrun hdue)
    · exact ih hin (h.releaseList hx k) (by rw [hreg _ (by decide)]; exact hrun)
        (by rw [(Chip.tickKept.releaseList c k).clock]; exact hdue)

/-- TICK_BOUNDARY. -/
theorem tickBoundary_spec (c : Chip) :
    (tickBoundary c).sched.tickNext = c.sched.tickNext + (c.reg 0x00200000).toNat ∧
      (∀ l : Fin 4, (tickBoundary c).reg64 (listClock l) = (c.reg64 (listClock l) + 1) % 2 ^ 64) ∧
      ∀ (n : Nat) (l : Fin 4) (x : Ctx), (n, x) ∈ c.sched.ctxs → c.ctx n = x → x.live = true → x.st = 2 → x.dlist = l →
        x.pend = none → x.cancelDue = false → bitOf (c.reg 0x00200008).toNat l = false →
        x.expiry ≤ (c.reg64 (listClock l) + 1) % 2 ^ 64 → (tickBoundary c).waits (srcTask n) 0x8003 := by
  obtain ⟨htick, hctxs, hhold, hclock⟩ := c.tickCome_spec
  have hkept := Chip.tickKept.foldl Chip.tickKept.releaseList (List.range 4) c.tickCome
  rw [← tickBoundary_eq] at hkept
  obtain ⟨hnext, -⟩ := id hkept
  refine ⟨hnext.trans htick, fun l => (hkept.clock l).trans (hclock l), ?_⟩
  intro n l x hmem hctx hlive hst hl hp hx hrun hdue
  rw [tickBoundary_eq]
  refine Chip.readying.served (l := l) hx hlive hst hl hp (List.range 4) (List.mem_range.2 l.isLt)
    (.inr ⟨by rw [hctxs]; exact hmem, (Chip.ctx_of_ctxs hctxs n).trans hctx⟩) ?_ ?_
  · rw [hhold]
    exact hrun
  · rw [hclock]
    exact hdue

end Sys2Proof.Machine
end

section
/-! SUPPORT. Scheduler time: ADMIT_TIMEOUT, the write of TSK_AGE_LIMIT, and the obligation of the scheduler's time. -/

namespace Sys2Proof.Machine

/-! ### ADMIT_TIMEOUT (R166, R180) -/

theorem admissionPass_notDue (c : Chip) (h : c.sched.passDue = false) : admissionPass c = c := by
  rw [admissionPass_eq, if_pos (.inl (by rw [h]; rfl))]

/-- Without a pass that is due, the time-out of a context that waits for admission is raised as its end. -/
theorem admitTimeout_ends (c : Chip) (n : Nat) (h : c.sched.passDue = false)
    (hst : (c.ctx n).st = 3 ∨ (c.ctx n).st = 4) (hp : (c.ctx n).pend = none ∨ (c.ctx n).pend = some 4)
    (ht : (c.ctx n).admitTimeout ≠ 0) (hc : (c.ctx n).cancelDue = false) :
    admitTimeout n c =
      (c.advanceTo (16 * ((c.ctx n).readyFrc + 1000 * (c.ctx n).admitTimeout))).raiseEnd n 10 0x0104 := by
  unfold admitTimeout
  simp only [admissionPass_notDue c h]
  rw [if_neg (by simp [hst, hp, ht, hc])]

/-- A context that does not wait for admission has no time-out. -/
theorem admitTimeout_admitted (c : Chip) (n : Nat)
    (h : ¬ ((admissionPass c).ctx n).st ∈ [3, 4] ∨ ((admissionPass c).ctx n).pend = some 5) :
    admitTimeout n c = admissionPass c := by
  unfold admitTimeout
  simp only
  refine if_pos ?_
  rcases h with hst | hp
  · exact .inl (by simpa using hst)
  · exact .inr (.inl (by simp [hp]))

theorem Chip.ctx_raiseEnd_other (c : Chip) {n m : Nat} (st status : Nat) (h : m ≠ n) :
    (c.raiseEnd n st status).ctx m = c.ctx m := by
  unfold Chip.raiseEnd Chip.raiseState Chip.updCtx
  rw [Chip.ctx_raise, Chip.ctx_setCtx_other _ _ h, Chip.ctx_setCtx_other _ _ h]

/-! ### TSK_AGE_LIMIT (R172, R187) -/

/-- The row of TSK_AGE_LIMIT. -/
def ageLimitRow : RegRow := { base := 0x00200004, rw := ones 32, reset := 1000000 }

theorem ageLimitRow_merge (old v : Word) : ageLimitRow.merge 0 old v = v := by
  have hrw : wordOf ageLimitRow.rw 0 = BitVec.allOnes 32 := by decide
  have hclr : wordOf ageLimitRow.clr 0 = 0#32 := by decide
  unfold RegRow.merge
  simp only [hrw, hclr, BitVec.not_allOnes, BitVec.and_zero, BitVec.zero_or, BitVec.and_allOnes, BitVec.not_zero]

/-- A write of TSK_AGE_LIMIT brings a pass. -/
theorem Chip.writeWord_ageLimit (c : Chip) (v : Word) :
    c.writeWord ageLimitRow 0 0x00200004 v =
      (0, { c.setReg 0x00200004 v with sched := { c.sched with passDue := true } }) := by
  have hplain : c.plain ageLimitRow 0 0x00200004 v = (0, c.setReg 0x00200004 v) := by
    unfold Chip.plain
    rw [if_neg (by decide), ageLimitRow_merge]
  have htsk : c.tskWrite ageLimitRow 0 0x00200004 v =
      (0, { c.setReg 0x00200004 v with sched := { c.sched with passDue := true } }) := by
    unfold Chip.tskWrite
    rw [if_neg (by decide), if_pos rfl, hplain]
    rfl
  exact htsk

theorem exec_tskAgeLimitWrite (s : State) (q : Port) (tag : Byte) (v : Word) (h : s.chip.writable q tag) :
    ∃ t, exec (.tskAgeLimitWrite q tag v) s = .next t ∧ t.chip.completed q tag 0 ∧ t.chip.reg 0x00200004 = v ∧
      t.chip.sched.passDue = true ∧ t.chip.sched.ctxs = s.chip.sched.ctxs := by
  obtain ⟨htakes, -⟩ := id h
  have hrow := State.onReg_word s q tag 0x00200004 v ageLimitRow [] 0 0 _ h (by decide) (by decide)
    ((s.chip.findReg_plain (.inl (by decide))).trans (by decide)) rfl
    (Chip.writeWord_ageLimit (s.chip.tagged q tag) v) (by decide)
  refine ⟨_, hrow, Chip.write_completed s.chip _ 0 htakes rfl, ?_, ?_, ?_⟩
  · rw [Chip.reg_reply_done]
    exact Chip.reg_setReg_same _ _ _
  · rw [Chip.reply_sched]
  · rw [Chip.reply_sched]
    rfl

/-! ### The obligation -/

/-- Settles O40: a tick boundary (`tickBoundary_spec`), a time-out with and without a pass that is due, the end of a window
(`coreLoadWindow_spec`), and the write of TSK_AGE_LIMIT. -/
theorem schedulerTime : Obligations.SchedulerTime := by
  unfold Obligations.SchedulerTime
  refine ⟨?tick, ?timeout, ?admitted, ?fits, ?window, exec_tskAgeLimitWrite⟩
  case tick =>
    intro s
    exact ⟨_, State.onChip_of_eq s rfl, tickBoundary_spec s.chip⟩
  case timeout =>
    intro s n hpass hst hp ht hc
    have hrow := admitTimeout_ends s.chip n hpass hst hp ht hc
    have hctx := s.chip.ctx_advanceTo (16 * ((s.chip.ctx n).readyFrc + 1000 * (s.chip.ctx n).admitTimeout))
    generalize s.chip.advanceTo (16 * ((s.chip.ctx n).readyFrc + 1000 * (s.chip.ctx n).admitTimeout)) = d at *
    obtain ⟨hwaits, hdue⟩ := d.raiseEnd_spec n 10 0x0104
    obtain ⟨hended, -⟩ := d.raiseEnd_kept n 10 0x0104
    rw [hctx] at hended
    refine ⟨_, State.onChip_of_eq s hrow, hwaits, hdue, ?_, ?_, ?_, fun m hm => ?_⟩
    · rw [hended]
    · rw [hended]
    · rw [hended]
    · exact (d.ctx_raiseEnd_other 10 0x0104 hm).trans (hctx m)
  case admitted =>
    intro s n hpass hst
    have hid := admissionPass_notDue s.chip hpass
    refine State.onChip_same ((admitTimeout_admitted s.chip n (.inl ?_)).trans hid)
    rw [hid]
    simp only [List.mem_cons, List.not_mem_nil, or_false]
    omega
  case fits =>
    intro s n x hdue hm hc ht hn hf
    have hpass := admissionPass_fits s.chip n x hdue hm hc ht hn hf
    obtain ⟨-, hheld, -, hpend, -⟩ := s.chip.passBegun.admitTask_spec n (by rw [s.chip.dev_passBegun]; exact hm)
    rw [← hpass] at hheld hpend
    exact ⟨_, State.onChip_of_eq s (admitTimeout_admitted s.chip n (.inr hpend)), hheld, hpend⟩
  case window =>
    intro s hc
    exact ⟨_, State.onChip_of_eq (f := fun c => c.advanceTo (16 * ((c.frc / 2 ^ 20 + 1) * 2 ^ 20))) s rfl,
      coreLoadWindow_spec s.chip hc⟩

end Sys2Proof.Machine
end
